-- ==== Sys2Proof/Syntax.lean ====
section
/-! DEFINITION. The commands of the JM-640: one constructor of `Instr` per row of the table of operations and events,
and the operands they carry. A command is a register access, an operation of an engine, or an event the device meets;
what a physical world outside the model decides (a bit flip, a sensor's reading, the outcome of an analogue
training) is an operand of the event that reports it. -/

namespace Sys2Proof

/-- Who makes an access (R402, R488, R525): an application core, a firmware processor (number as in R491, 0 being
the security core), the management controller, or the PCIe host. -/
inductive Agent where
  | app (core : Fin 16)
  | fw (component : Fin 11)
  | mgmt
  | pcie
deriving DecidableEq, Repr

/-- Access sizes of R468 and R246. -/
inductive Size where
  | b1 | b2 | b4 | b8 | line
deriving DecidableEq, Repr

/-- A read, or a write of the bytes given. -/
inductive Access where
  | read (size : Size)
  | write (size : Size) (data : Bytes)
deriving DecidableEq, Repr

/-- What the error codes find in the line an access touches (R240 to R242, R254, R453): how many words are corrected by SEC-DED,
the index of the last word corrected, how many are rebuilt by the cross-word code, the index of the first word beyond correction,
and whether the tag is beyond correction. -/
structure Ecc where
  ce : Nat := 0
  ceAt : Fin 8 := 0
  wlc : Nat := 0
  ue : Option (Fin 8) := none
  tagUe : Bool := false
deriving DecidableEq, Repr

/-- Fields of a Brash vector instruction (R175). -/
structure VecArgs where
  fmt : BitVec 4
  sat : Bool
  vd : BitVec 5
  va : BitVec 5
  vb : BitVec 5
  aux : BitVec 4
deriving DecidableEq, Repr

/-- Fields of a Brash memory instruction (R185). -/
structure VMemArgs where
  fmt : BitVec 4
  sat : Bool
  vd : BitVec 5
  xb : BitVec 4
  off : BitVec 13
deriving DecidableEq, Repr

/-- Fields of a scalar instruction of the issue core (R190); `imm20` holds IMM20, whose low 12 bits are IMM12. -/
structure ScalarArgs where
  xd : BitVec 4
  xa : BitVec 4
  xb : BitVec 4
  imm20 : BitVec 20
deriving DecidableEq, Repr

/-- Fields of a branch of the issue core (R190). -/
structure BranchArgs where
  xa : BitVec 4
  xb : BitVec 4
  off : BitVec 16
deriving DecidableEq, Repr

/-- One data slot of a Spar instruction (R210): X uses P0 to P3, Y uses P4 to P7. -/
structure SparSlot where
  en : Bool := false
  st : Bool := false
  p : BitVec 2 := 0
  ms : Bool := false
  t : BitVec 3 := 0
deriving DecidableEq, Repr

/-- Fields of an M-class Spar instruction (R210). -/
structure SparM where
  sat : Bool := false
  rnd : Bool := false
  acc : Bool := false
  ta : BitVec 3 := 0
  tb : BitVec 3 := 0
  frac : Bool := false
  x : SparSlot := {}
  y : SparSlot := {}
deriving DecidableEq, Repr

/-- Fields of an A-class Spar instruction (R210), register and immediate forms. -/
structure SparA where
  sat : Bool := false
  rnd : Bool := false
  acc : Bool := false
  rd : BitVec 3 := 0
  ra : BitVec 3 := 0
  rb : BitVec 3 := 0
  imm : BitVec 16 := 0
deriving DecidableEq, Repr

/-- The ports of the scratchpad (R236). -/
inductive SpPort where
  | gaff | brash | external
deriving DecidableEq, Repr

/-- A request at a scratchpad port: a line read, or a write of bytes at an offset in the line, with a new tag when the writer gives one. -/
inductive SpOp where
  | read
  | write (off : BitVec 6) (data : Bytes) (tag : Option Tag)
deriving DecidableEq, Repr

/-- A remote window: window `k` of floe `n` (R256), or DRAM window `w` (R434). -/
inductive WinRef where
  | floe (n : Fin 64) (k : Fin 8)
  | dram (w : Fin 16)
deriving DecidableEq, Repr

/-- One 64-byte line and its tag, as a Shroud link frame carries it (R428). -/
structure TaggedLine where
  data : Bytes
  tag : Tag
deriving DecidableEq, Repr

/-- A line that a peer answered to a halyard, with the scale line that rides beside it (R249, R282). -/
structure PeerLine where
  line : TaggedLine
  scale : Bytes := []
  scalePoison : Bool := false
deriving DecidableEq, Repr

/-- A remote access at the device it reaches (R44): the requester's rank position, its tenant, the aperture offset of the first
line, the lines written (none for a read of `n` lines), and what the codes find in the first line. -/
structure RemoteAccess where
  src : Fin 16
  tenant : Fin 8
  offset : BitVec 36
  n : Nat
  lines : Option (List TaggedLine)
  ecc : Ecc := {}
deriving DecidableEq, Repr

/-- A frame as a fronthaul port receives it (R419): bytes from the destination address up to, but not including, the FCS, and what the
medium did to it. -/
structure RxFrame where
  data : Bytes
  fcsOk : Bool := true
  fecOk : Bool := true
deriving DecidableEq, Repr

/-- A Shroud link frame (R428). -/
structure ShrFrame where
  ctr : BitVec 64
  type : BitVec 4
  key : Bool
  seq : BitVec 16
  ack : BitVec 16
  dst : Fin 16
  src : Fin 16
  /-- Payload as it stands on the wire, encrypted. -/
  payload : Bytes
  gcmTag : BitVec 128
deriving DecidableEq, Repr

/-- A timing unit with an owner (R402). -/
inductive TimingUnit where
  | gen (g : Fin 8)
  | cap (c : Fin 2)
deriving DecidableEq, Repr

/-- What a peer sends in the exchange of R535. -/
structure PeerHello where
  chains : Bytes
  devKeyHash : BitVec 384
  pos : Fin 16
  pubKey : Bytes
  signature : Bytes
  sharedSecret : BitVec 384
deriving DecidableEq, Repr

/-- The transport by which an SPDM or MCTP message arrives (R520). -/
inductive Transport where
  | doe | mctp
deriving DecidableEq, Repr

/-- A host memory request at the PCIe endpoint (R436, R438): which BAR, the offset, the access, whether the T bit is set and which IDE stream
carries it (0 is the link stream, 1 to 4 the selective streams), whether its integrity check passes, and whether it is one of the
events that R438 lists (a configuration change or a function-level reset). -/
structure PcieReq where
  bar2 : Bool
  offset : BitVec 35
  acc : Access
  tBit : Bool
  stream : Option (Fin 5)
  integrityOk : Bool := true
  lockEvent : Bool := false
  ecc : Ecc := {}
deriving DecidableEq, Repr

/-- The readings of one CMIS poll of a module (R439, R447). -/
structure ModReading where
  ok : Bool
  temp : BitVec 16
  vcc : BitVec 16
  bias : List (BitVec 16)
  txPower : List (BitVec 16)
  rxPower : List (BitVec 16)
  txOn : Bool
  ready : Bool
  alarm : Bool
deriving DecidableEq, Repr

/-- A module's identity as read at insertion (R440, R447). -/
structure ModIdent where
  vendor : Bytes
  oui : BitVec 24
  part : Bytes
  serial : Bytes
  date : Bytes
  cmisOk : Bool
deriving DecidableEq, Repr

/-- A log record as the intake receives it (R548). -/
structure LogIn where
  source : BitVec 16
  kind : BitVec 8
  severity : Fin 4
  data : BitVec 64
deriving DecidableEq, Repr

/-- What a PLDM request asks for (R550). -/
inductive PldmReq where
  | readSensor (index : BitVec 7)
  | readPower
  | readStatePoint
  | readStatePin (pin : Fin 8)
  | setCap (watts : BitVec 9)
  | setOpMax (point : BitVec 3)
  | setEventReceiver (eid : BitVec 8)
deriving DecidableEq, Repr

/-- MCTP control requests of R550. -/
inductive MctpReq where
  | discover
  | setEid (eid : BitVec 8)
  | getEid
deriving DecidableEq, Repr

/-- Blocks that report READY on their own (R581). -/
inductive ReadyGroup where
  | device | timing | security | dataPath | dram | pcie | management
  | emulated (i : Fin 3)
deriving DecidableEq, Repr

/-- Causes of FLOE_FATAL other than a handshake (R558). -/
inductive FatalCause where
  | router | supply
deriving DecidableEq, Repr

/-- A parity error in a weight register met while a pass computes (R131): vector, row and column. -/
structure ParErr where
  vec : Nat
  row : Fin 128
  col : Fin 128
deriving DecidableEq, Repr

/-- The commands. The docstring of each names the row's rule. -/
inductive Instr where
  /-- R13, R468, R470. -/
  | registerWrite (a : Agent) (addr : BitVec 40) (size : Size) (v : BitVec 64)
  /-- R13, R77. -/
  | rcCounterRead (a : Agent) (addr : BitVec 40)
  /-- R41, R42. -/
  | memoryAccess (a : Agent) (addr : BitVec 40) (acc : Access) (ecc : Ecc)
  /-- R32, R557. -/
  | faultRecordForward (q : Fin 10)
  /-- R139. The word goes to every member of its wing. -/
  | mmul (rx : Fin 64) (w : BitVec 512)
  /-- R122. -/
  | cmmul (rx : Fin 64) (w : BitVec 512)
  /-- R139. -/
  | bmmul (rx : Fin 64) (w : BitVec 512)
  /-- R119. -/
  | tmmul (rx : Fin 64) (w : BitVec 512)
  /-- R157. -/
  | attn (rx : Fin 64) (w : BitVec 512)
  /-- R159. -/
  | conv1d (rx : Fin 64) (w : BitVec 512)
  /-- R160. -/
  | gather (rx : Fin 64) (w : BitVec 512)
  /-- R152. -/
  | combine (rx : Fin 64) (w : BitVec 512)
  /-- R100. -/
  | quant (rx : Fin 64) (w : BitVec 512)
  /-- R101. -/
  | dequant (rx : Fin 64) (w : BitVec 512)
  /-- R161. -/
  | adaptStep (rx : Fin 64) (w : BitVec 512)
  /-- R136. -/
  | gaffIssue (a : Agent) (f : Fin 64) (v : Word)
  /-- R135. -/
  | latchedMacroStart (f : Fin 64)
  /-- R137. -/
  | wingSignalTimeout (f : Fin 64)
  /-- R145. -/
  | zeroDimComplete (f : Fin 64)
  /-- R115; `found`: what the codes find in the weight lines read, by window offset. -/
  | tileLoadComplete (f : Fin 64) (found : List (BitVec 24 × Ecc))
  /-- R126, R131. -/
  | passEnd (f : Fin 64) (par : List ParErr) (found : List (BitVec 24 × Ecc))
  /-- R127. -/
  | readoutComplete (f : Fin 64) (found : List (BitVec 24 × Ecc))
  /-- R150. `f` is the member that receives the partial; `sent`: what the codes find at the member that sends it. -/
  | mergeRoundComplete (f : Fin 64) (found sent : List (BitVec 24 × Ecc))
  /-- R136; `cycles` are the cycles the share took since its issue. -/
  | shareComplete (f : Fin 64) (cycles : BitVec 32)
  /-- R156. -/
  | wcOverrun (f : Fin 64)
  /-- R197. -/
  | gaffBrashAcquire (f : Fin 64)
  /-- R89. -/
  | cbDeferredLoadApply (f : Fin 64) (slot : Fin 8)
  /-- R176. -/
  | vmov (f : Fin 64) (o : VecArgs)
  /-- R176. -/
  | vand (f : Fin 64) (o : VecArgs)
  /-- R176. -/
  | vor (f : Fin 64) (o : VecArgs)
  /-- R176. -/
  | vxor (f : Fin 64) (o : VecArgs)
  /-- R176. -/
  | vsel (f : Fin 64) (o : VecArgs)
  /-- R176. -/
  | vbcs (f : Fin 64) (o : VecArgs)
  /-- R176. -/
  | vbcx (f : Fin 64) (o : VecArgs)
  /-- R176. -/
  | vsld (f : Fin 64) (o : VecArgs)
  /-- R176. -/
  | vslu (f : Fin 64) (o : VecArgs)
  /-- R177. -/
  | vadd (f : Fin 64) (o : VecArgs)
  /-- R177. -/
  | vsub (f : Fin 64) (o : VecArgs)
  /-- R177. -/
  | vmin (f : Fin 64) (o : VecArgs)
  /-- R177. -/
  | vmax (f : Fin 64) (o : VecArgs)
  /-- R177. -/
  | vabs (f : Fin 64) (o : VecArgs)
  /-- R177. -/
  | vneg (f : Fin 64) (o : VecArgs)
  /-- R180. -/
  | vcmp (f : Fin 64) (o : VecArgs)
  /-- R177. -/
  | vmul (f : Fin 64) (o : VecArgs)
  /-- R176. -/
  | vfma (f : Fin 64) (o : VecArgs)
  /-- R179. -/
  | vcmul (f : Fin 64) (o : VecArgs)
  /-- R179. -/
  | vcmulj (f : Fin 64) (o : VecArgs)
  /-- R178. -/
  | vexp (f : Fin 64) (o : VecArgs)
  /-- R178. -/
  | vrcp (f : Fin 64) (o : VecArgs)
  /-- R178. -/
  | vrsq (f : Fin 64) (o : VecArgs)
  /-- R181. -/
  | vcvt (f : Fin 64) (o : VecArgs)
  /-- R182. -/
  | vcbx (f : Fin 64) (o : VecArgs)
  /-- R183. -/
  | vcbq (f : Fin 64) (o : VecArgs)
  /-- R184. -/
  | vrsum (f : Fin 64) (o : VecArgs)
  /-- R184. -/
  | vrmax (f : Fin 64) (o : VecArgs)
  /-- R184. -/
  | vrmin (f : Fin 64) (o : VecArgs)
  /-- R184. -/
  | vramax (f : Fin 64) (o : VecArgs)
  /-- R184. -/
  | vrcnt (f : Fin 64) (o : VecArgs)
  /-- R184. -/
  | vrany (f : Fin 64) (o : VecArgs)
  /-- R184. -/
  | vrall (f : Fin 64) (o : VecArgs)
  /-- R186. -/
  | vld (f : Fin 64) (o : VMemArgs)
  /-- R186. -/
  | vst (f : Fin 64) (o : VMemArgs)
  /-- R186. -/
  | vldn (f : Fin 64) (o : VMemArgs)
  /-- R186. -/
  | vstn (f : Fin 64) (o : VMemArgs)
  /-- R187. -/
  | vgath (f : Fin 64) (o : VMemArgs)
  /-- R187. -/
  | vscat (f : Fin 64) (o : VMemArgs)
  /-- R191. -/
  | scalarAdd (f : Fin 64) (o : ScalarArgs)
  /-- R191. -/
  | scalarSub (f : Fin 64) (o : ScalarArgs)
  /-- R191. -/
  | scalarAnd (f : Fin 64) (o : ScalarArgs)
  /-- R191. -/
  | scalarOr (f : Fin 64) (o : ScalarArgs)
  /-- R191. -/
  | scalarXor (f : Fin 64) (o : ScalarArgs)
  /-- R191. -/
  | sll (f : Fin 64) (o : ScalarArgs)
  /-- R191. -/
  | srl (f : Fin 64) (o : ScalarArgs)
  /-- R191. -/
  | sra (f : Fin 64) (o : ScalarArgs)
  /-- R191. -/
  | slt (f : Fin 64) (o : ScalarArgs)
  /-- R191. -/
  | sltu (f : Fin 64) (o : ScalarArgs)
  /-- R191. -/
  | scalarMul (f : Fin 64) (o : ScalarArgs)
  /-- R191. -/
  | scalarAddi (f : Fin 64) (o : ScalarArgs)
  /-- R191. -/
  | andi (f : Fin 64) (o : ScalarArgs)
  /-- R191. -/
  | ori (f : Fin 64) (o : ScalarArgs)
  /-- R191. -/
  | lui (f : Fin 64) (o : ScalarArgs)
  /-- R191. -/
  | lw (f : Fin 64) (o : ScalarArgs)
  /-- R191. -/
  | sw (f : Fin 64) (o : ScalarArgs)
  /-- R171. -/
  | setvl (f : Fin 64) (o : ScalarArgs)
  /-- R174. -/
  | mvs (f : Fin 64) (o : ScalarArgs)
  /-- R191. -/
  | beq (f : Fin 64) (o : BranchArgs)
  /-- R191. -/
  | bne (f : Fin 64) (o : BranchArgs)
  /-- R191. -/
  | blt (f : Fin 64) (o : BranchArgs)
  /-- R191. -/
  | bge (f : Fin 64) (o : BranchArgs)
  /-- R191. -/
  | bltu (f : Fin 64) (o : BranchArgs)
  /-- R191. -/
  | bgeu (f : Fin 64) (o : BranchArgs)
  /-- R191. -/
  | j (f : Fin 64) (o : BranchArgs)
  /-- R191. -/
  | bsz (f : Fin 64) (o : BranchArgs)
  /-- R191. -/
  | bsnz (f : Fin 64) (o : BranchArgs)
  /-- R191. -/
  | bslt (f : Fin 64) (o : BranchArgs)
  /-- R191. -/
  | bsge (f : Fin 64) (o : BranchArgs)
  /-- R195. -/
  | kend (f : Fin 64)
  /-- R195. -/
  | illegalInstruction (f : Fin 64) (w : Word)
  /-- R194. -/
  | floeKstart (a : Agent) (f : Fin 64) (v : Word)
  /-- R197. -/
  | kernelPreloadStart (f : Fin 64)
  /-- R194. -/
  | kernelPreloadDone (f : Fin 64)
  /-- R40. -/
  | nativeOverrun (f : Fin 64)
  /-- R211. -/
  | pmov (f : Fin 64) (o : SparM)
  /-- R212. -/
  | mpy (f : Fin 64) (o : SparM)
  /-- R212. -/
  | mac (f : Fin 64) (o : SparM)
  /-- R212. -/
  | msu (f : Fin 64) (o : SparM)
  /-- R213. -/
  | sparAdd (f : Fin 64) (o : SparA)
  /-- R213. -/
  | sparSub (f : Fin 64) (o : SparA)
  /-- R211. -/
  | sparAnd (f : Fin 64) (o : SparA)
  /-- R211. -/
  | sparOr (f : Fin 64) (o : SparA)
  /-- R211. -/
  | sparXor (f : Fin 64) (o : SparA)
  /-- R211. -/
  | sparMin (f : Fin 64) (o : SparA)
  /-- R211. -/
  | sparMax (f : Fin 64) (o : SparA)
  /-- R213. -/
  | sparAbs (f : Fin 64) (o : SparA)
  /-- R213. -/
  | sparNeg (f : Fin 64) (o : SparA)
  /-- R213. -/
  | sparAddi (f : Fin 64) (o : SparA)
  /-- R211. -/
  | ldi (f : Fin 64) (o : SparA)
  /-- R211. -/
  | ldp (f : Fin 64) (o : SparA)
  /-- R211. -/
  | ldm (f : Fin 64) (o : SparA)
  /-- R211. -/
  | ldb (f : Fin 64) (o : SparA)
  /-- R211. -/
  | ldl (f : Fin 64) (o : SparA)
  /-- R211. -/
  | movp (f : Fin 64) (o : SparA)
  /-- R211. -/
  | movt (f : Fin 64) (o : SparA)
  /-- R214. -/
  | movh (f : Fin 64) (o : SparA)
  /-- R211. -/
  | movl (f : Fin 64) (o : SparA)
  /-- R211. -/
  | mova (f : Fin 64) (o : SparA)
  /-- R211. -/
  | clr (f : Fin 64) (o : SparA)
  /-- R212. -/
  | adda (f : Fin 64) (o : SparA)
  /-- R212. -/
  | suba (f : Fin 64) (o : SparA)
  /-- R216. -/
  | ash (f : Fin 64) (o : SparA)
  /-- R215. -/
  | sparExp (f : Fin 64) (o : SparA)
  /-- R215. -/
  | norm (f : Fin 64) (o : SparA)
  /-- R211. -/
  | movs (f : Fin 64) (o : SparA)
  /-- R211. -/
  | sparB (f : Fin 64) (target : BitVec 14)
  /-- R211. -/
  | bz (f : Fin 64) (target : BitVec 14)
  /-- R211. -/
  | bnz (f : Fin 64) (target : BitVec 14)
  /-- R211. -/
  | bn (f : Fin 64) (target : BitVec 14)
  /-- R211. -/
  | bnn (f : Fin 64) (target : BitVec 14)
  /-- R211. -/
  | bv (f : Fin 64) (target : BitVec 14)
  /-- R221; `lenM1` is LEN − 1. -/
  | rep (f : Fin 64) (lenM1 : BitVec 8) (count : BitVec 13)
  /-- R221. -/
  | rept (f : Fin 64) (lenM1 : BitVec 8) (t : BitVec 3)
  /-- R211. -/
  | setie (f : Fin 64) (ie : Bool) (mask : BitVec 3)
  /-- R224. -/
  | reti (f : Fin 64)
  /-- R228. -/
  | sparEnd (f : Fin 64)
  /-- R211. -/
  | nop (f : Fin 64)
  /-- R227. -/
  | sparKstart (a : Agent) (f : Fin 64) (v : Word)
  /-- R227, R209. -/
  | sparPreloadDone (f : Fin 64) (imemUe : Bool)
  /-- R228. -/
  | sparKernelEnd (f : Fin 64)
  /-- R228. -/
  | sparOverrun (f : Fin 64)
  /-- R222. -/
  | sparMbox (a : Agent) (f : Fin 64) (v : Word)
  /-- R222. -/
  | tick (f : Fin 64)
  /-- R224. -/
  | sparIrqAccept (f : Fin 64)
  /-- R237. -/
  | scratchpadAccess (f : Fin 64) (port : SpPort) (line : BitVec 16) (op : SpOp) (ecc : Ecc)
  /-- R243. -/
  | patrolScrubTurn (f : Fin 64) (ecc : Ecc)
  /-- R247. -/
  | floeMemInitDone (f : Fin 64)
  /-- R246. -/
  | windowAccess (a : Agent) (f : Fin 64) (off : BitVec 24) (acc : Access) (ecc : Ecc)
  /-- R248. -/
  | scrubRequest (a : Agent) (f : Fin 64)
  /-- R248. -/
  | scrubStart (f : Fin 64)
  /-- R248. -/
  | scrubEnd (f : Fin 64)
  /-- R252. -/
  | firnRead (tenant : Option (Fin 8)) (addr : BitVec 35) (pin wline : Bool) (ecc : Ecc)
  /-- R251. -/
  | firnWrite (addr : BitVec 35) (data : Bytes) (wline : Bool)
  /-- R255. -/
  | firnInvalidate (a : Agent) (sl : Fin 16) (tenant : Fin 8)
  /-- R255. -/
  | firnUnpin (a : Agent) (sl : Fin 16) (tenant : Fin 8)
  /-- R255. -/
  | firnInvalidateUnpin (a : Agent) (sl : Fin 16) (tenant : Fin 8)
  /-- R255. -/
  | firnWalkEnd (sl : Fin 16)
  /-- R256. -/
  | remoteFloeAccess (link : Fin 8) (r : RemoteAccess)
  /-- R256. -/
  | fwinCtrl (a : Agent) (w : WinRef) (v : Word)
  /-- R257. -/
  | windowCloseComplete (w : WinRef)
  /-- R276. -/
  | halArmGo (a : Agent) (h : Fin 128)
  /-- R279. -/
  | halCancel (a : Agent) (h : Fin 128)
  /-- R279. -/
  | halCancelAll (a : Agent) (h : Fin 128)
  /-- R277, R278. -/
  | descActivate (h : Fin 128)
  /-- R273; `peer` is what a peer answered where the source is remote, none where it refused. -/
  | halLineDeliver (h : Fin 128) (ecc : Ecc) (peer : Option PeerLine)
  /-- R281. -/
  | halTransferComplete (h : Fin 128) (cycles : BitVec 32)
  /-- R266. -/
  | halZeroRowComplete (h : Fin 128)
  /-- R279. -/
  | cancelEnd (h : Fin 128) (cycles : BitVec 32)
  /-- R419. -/
  | fronthaulFrameReceive (p : Fin 16) (fr : RxFrame)
  /-- R297. -/
  | partnerRetire (p : Fin 256)
  /-- R301. -/
  | slotOpen (c : Fin 64)
  /-- R303. -/
  | slotClose (c : Fin 64)
  /-- R305. -/
  | allocPush (a : Agent) (v : Word)
  /-- R312. -/
  | balAcPop (a : Agent) (v : Word)
  /-- R313. -/
  | adpStart (a : Agent) (v : Word)
  /-- R314. -/
  | adpSampleEmit
  /-- R319. -/
  | replaySlot (c : Fin 64)
  /-- R335. -/
  | seracInputLine (e : Fin 8) (data : Bytes) (tag : Tag)
  /-- R335, R339. -/
  | seracJobStart (e : Fin 8)
  /-- R329. -/
  | ldpc (e : Fin 8) (memUe : Bool)
  /-- R334. -/
  | polar (e : Fin 8) (memUe : Bool)
  /-- R332. -/
  | tbCheck (e : Fin 8) (memUe : Bool)
  /-- R328. -/
  | wsetLoad (e : Fin 8) (memUe : Bool)
  /-- R337. -/
  | seracJobEnd (e : Fin 8) (cycles : BitVec 32)
  /-- R335. -/
  | seracRecordRead (e : Fin 8)
  /-- R328. -/
  | serWsetClr (a : Agent) (e : Fin 8) (v : Word)
  /-- R350. -/
  | tableCommit (a : Agent) (v : Word)
  /-- R352. -/
  | tableVerifyEnd
  /-- R350. -/
  | tableActivate
  /-- R344. -/
  | periodBoundary
  /-- R345. -/
  | stepRealign
  /-- R353; `i` is the entry's index in the active table. -/
  | issueMacro (i : Fin 16384)
  /-- R353. -/
  | issueNkern (i : Fin 16384)
  /-- R353. -/
  | issueSkern (i : Fin 16384)
  /-- R353. -/
  | issueBal (i : Fin 16384)
  /-- R353. -/
  | issueHal (i : Fin 16384)
  /-- R358. -/
  | mstAdpSwap (a : Agent) (v : Word)
  /-- R360. -/
  | mstBeTail (a : Agent) (p : Fin 8) (v : Word)
  /-- R360; `size` selects MST_BE_SIZE over MST_BE_BASE. -/
  | mstBeRingCfg (a : Agent) (p : Fin 8) (size : Bool) (v : Word)
  /-- R360. -/
  | flush (a : Agent) (p : Fin 8)
  /-- R361. -/
  | beEvaluate
  /-- R362; slot index of the admitted request, and whether its work was stopped. -/
  | beRequestEnd (p : Fin 8) (slot : BitVec 16) (stopped : Bool)
  /-- R362. -/
  | beHalTimeout (p : Fin 8) (slot : BitVec 16)
  /-- R363. -/
  | form (a : Agent) (p : Fin 8)
  /-- R363. -/
  | drain (a : Agent) (p : Fin 8)
  /-- R363. -/
  | kill (a : Agent) (p : Fin 8)
  /-- R363. -/
  | partitionDrained (p : Fin 8)
  /-- R363. -/
  | partitionClearStart (p : Fin 8)
  /-- R363. -/
  | partitionFree (p : Fin 8)
  /-- R381. -/
  | composeDigest (h : Fin 128)
  /-- R391; `which` 0 base low, 1 base high, 2 size. -/
  | detRingCfg (a : Agent) (t : Fin 8) (which : Fin 3) (v : Word)
  /-- R394. -/
  | tbIncFrac (a : Agent) (tb : Fin 4) (v : Word)
  /-- R394. -/
  | tbIncNs (a : Agent) (tb : Fin 4) (v : Word)
  /-- R398. -/
  | tbAdj (a : Agent) (tb : Fin 4) (v : Word)
  /-- R393. -/
  | slewComplete (tb : Fin 4)
  /-- R401. -/
  | tbStepRequest (a : Agent) (tb : Fin 4) (v : Word)
  /-- R401. -/
  | tbStepApply (tb : Fin 4)
  /-- R395. -/
  | tbRdNs (a : Agent) (tb : Fin 4)
  /-- R399. -/
  | masterLost
  /-- R396. -/
  | synceLost
  /-- R396. -/
  | synceRelock
  /-- R413. -/
  | tsClkCtrl (a : Agent) (v : Word)
  /-- R402. -/
  | claim (a : Agent) (u : TimingUnit)
  /-- R402. -/
  | release (a : Agent) (u : TimingUnit)
  /-- R403. -/
  | arm (a : Agent) (g : Fin 8)
  /-- R405. -/
  | disarm (a : Agent) (g : Fin 8)
  /-- R403. -/
  | pgFire (g : Fin 8)
  /-- R408. -/
  | snapshotComplete
  /-- R404. -/
  | pinPulseEnd (g : Fin 8)
  /-- R407. -/
  | captureEdge (c : Fin 2) (falling : Bool)
  /-- R407. -/
  | pop (a : Agent) (c : Fin 2)
  /-- R418. -/
  | fhCtrl (a : Agent) (p : Fin 16) (v : Word)
  /-- R420. -/
  | fhTxrWr (a : Agent) (p : Fin 16) (v : Word)
  /-- R420. -/
  | fhFrameTransmit (p : Fin 16)
  /-- R420. -/
  | fhRxrRd (a : Agent) (p : Fin 16) (v : Word)
  /-- R421. -/
  | fhTxtsPop (a : Agent) (p : Fin 16) (v : Word)
  /-- R426; ports 0 to 15, then links 0 to 7 at 16 to 23. -/
  | holdIdleFrame (i : Fin 24)
  /-- R432. -/
  | shroudTrainingDone (l : Fin 8)
  /-- R535. -/
  | shroudAuth (l : Fin 8) (peer : PeerHello)
  /-- R428; sends the oldest frame that waits on the link. -/
  | shroudFrameSend (l : Fin 8)
  /-- R429. -/
  | shroudFrameReceive (l : Fin 8) (fr : ShrFrame)
  /-- R431. -/
  | shroudRetryTimeout (l : Fin 8) (seq : BitVec 16)
  /-- R430. -/
  | shroudOldKeyExpire (l : Fin 8)
  /-- R427. -/
  | shroudLaneFail (l : Fin 8) (lane : BitVec 2)
  /-- R427. -/
  | shroudRemapDone (l : Fin 8)
  /-- R432. -/
  | shroudLinkDown (l : Fin 8)
  /-- R433. -/
  | shroudRemoteAccess (addr : BitVec 40) (tenant : Fin 8) (n : Nat) (lines : Option (List TaggedLine))
  /-- R433. -/
  | shrRank (a : Agent) (v : Word)
  /-- R438. -/
  | pcieRequest (r : PcieReq)
  /-- R438. -/
  | stopInterface
  /-- R440. -/
  | moduleInsert (m : Fin 16) (ident : ModIdent)
  /-- R440. -/
  | moduleRemove (m : Fin 16)
  /-- R439. -/
  | modulePoll (m : Fin 16) (r : ModReading)
  /-- R440. -/
  | lifeTableSave
  /-- R441; the mean largest lane bias over the last 168 hours and over the 168 hours before. -/
  | eolUpdate (m : Fin 16) (now prev : BitVec 16)
  /-- R442. -/
  | modPathDlyPs (a : Agent) (m : Fin 16) (v : Word)
  /-- R453. -/
  | dramRead (addr : BitVec 35) (wline : Bool) (ecc : Ecc)
  /-- R456. -/
  | dramWrite (addr : BitVec 35) (data : Bytes) (wline : Bool)
  /-- R459; what the codes find in each line of this frame's patrol turn. -/
  | dramPatrolRead (ch : Fin 64) (found : List Ecc)
  /-- R460. -/
  | drcRemapCmd (a : Agent) (ch : Fin 64) (v : Word)
  /-- R460. -/
  | remapStart (ch : Fin 64)
  /-- R460. -/
  | remapSwitch (ch : Fin 64)
  /-- R458. -/
  | drcIw (a : Agent) (ch : Fin 64) (v : Word)
  /-- R475; `g` is the page number of R479. -/
  | srst (a : Agent) (g : BitVec 16)
  /-- R475. -/
  | pageCtrlEn (a : Agent) (g : BitVec 16) (en : Bool)
  /-- R475. -/
  | shutdownComplete (g : BitVec 16)
  /-- R466. -/
  | irqForce (a : Agent) (g : BitVec 16) (v : Word)
  /-- R471. -/
  | indDataRead (a : Agent) (g : BitVec 16)
  /-- R471. -/
  | indDataWrite (a : Agent) (g : BitVec 16) (v : Word)
  /-- R472. -/
  | indTimeout (g : BitVec 16)
  /-- R479. -/
  | interruptDeliver (v : Fin 64)
  /-- R479. -/
  | iaggEoi (a : Agent) (v : Word)
  /-- R483. -/
  | cfgSweepStart
  /-- R484. -/
  | cfgSweepEnd
  /-- R483. -/
  | crcCommit (a : Agent) (v : Word)
  /-- R483. -/
  | cfgCrcRef (a : Agent) (v : Word)
  /-- R498. -/
  | load (a : Agent)
  /-- R505. -/
  | update (a : Agent)
  /-- R498. -/
  | fwLoadDone
  /-- R492. -/
  | fwldTopo (a : Agent) (v : Word)
  /-- R493. -/
  | fwWatchdogExpire (k : Fin 11)
  /-- R494. -/
  | componentProgressMiss (k : Fin 11) (domainFault : Bool)
  /-- R494. -/
  | complexWatchdogExpire
  /-- R495. -/
  | fwRestartDone (k : Fin 11)
  /-- R495. -/
  | checkpoint (k : Fin 11)
  /-- R501. -/
  | emuAccess (a : Agent) (i : Fin 3) (off : BitVec 12) (acc : Access)
  /-- R501. -/
  | emuTimeout (i : Fin 3)
  /-- R506. -/
  | handoffStart
  /-- R506. -/
  | handoffDone
  /-- R507. -/
  | updateRollback
  /-- R508. -/
  | fwctlHeartbeat (a : Agent) (v : Word)
  /-- R508. -/
  | leaseExpire
  /-- R508. -/
  | detach (a : Agent) (seq : BitVec 8)
  /-- R509. -/
  | resume (a : Agent) (seq : BitVec 8)
  /-- R504. -/
  | acquire (a : Agent) (page : BitVec 16)
  /-- R504. -/
  | indLockRelease (a : Agent)
  /-- R504. -/
  | indLockTimeout
  /-- R510. -/
  | stepReq (a : Agent)
  /-- R520. -/
  | getVersion (tr : Transport)
  /-- R520. -/
  | getCapabilities (tr : Transport)
  /-- R520. -/
  | negotiateAlgorithms (tr : Transport)
  /-- R520. -/
  | getDigests (tr : Transport)
  /-- R520. -/
  | getCertificate (tr : Transport) (slot : BitVec 8) (offset len : BitVec 16)
  /-- R522. -/
  | challenge (tr : Transport) (request : Bytes)
  /-- R524. -/
  | getMeasurements (tr : Transport) (signed : Bool) (request : Bytes)
  /-- R520. -/
  | keyExchange (tr : Transport) (request : Bytes)
  /-- R521. -/
  | finish (session : Fin 4)
  /-- R520. -/
  | endSession (session : Fin 4)
  /-- R522. -/
  | cosign (tr : Transport)
  /-- R522. -/
  | cosignSignDone (tr : Transport)
  /-- R522. -/
  | respondIfReady (tr : Transport)
  /-- R521. -/
  | tenantAttach (session : Fin 4) (tenant : Fin 8)
  /-- R527. -/
  | secConfReq (a : Agent)
  /-- R528. -/
  | secDbgCtrl (a : Agent) (v : Word)
  /-- R529. -/
  | granuleRelease (a : Agent) (g : Fin 512)
  /-- R529. -/
  | granuleZeroDone (g : Fin 512)
  /-- R534. -/
  | keyRequest (a : Agent)
  /-- R534. -/
  | keyRequestDone
  /-- R530; the exact mean of each sensor over the window, in sensor units as a ratio. -/
  | telemetryWindow (means : List (Nat × Int × Nat))
  /-- R539. -/
  | mgmtStart (imageOk : Bool)
  /-- R541. -/
  | sensorSample (index : BitVec 7) (v : BitVec 16)
  /-- R543; the result for each pin that was tested. -/
  | loadDetectTest (pins : List (Fin 8 × Fin 5))
  /-- R545. -/
  | opEvaluate
  /-- R546. -/
  | fwpmApply
  /-- R546. -/
  | applyLate
  /-- R547. -/
  | snapTriggerCheck
  /-- R548. -/
  | logIntake (r : LogIn)
  /-- R549; the number of failed program or erase attempts. -/
  | logFlashWrite (failures : Fin 3)
  /-- R549. -/
  | mgmtLogRd (a : Agent) (v : Word)
  /-- R550. -/
  | mctpControl (r : MctpReq)
  /-- R550. -/
  | pldmMessage (r : PldmReq)
  /-- R550. -/
  | spdmRelay (request : Bytes)
  /-- R550. -/
  | logReadRequest (seq : Word)
  /-- R551. -/
  | pldmFirmwareUpdate (image : Bytes) (version : Word)
  /-- R551. -/
  | activateFirmware
  /-- R551. -/
  | mgmtUpdateRollback
  /-- R558. -/
  | handshakeTimeout (f : Fin 64)
  /-- R558. -/
  | floeFatal (f : Fin 64) (cause : FatalCause)
  /-- R560. -/
  | fence (a : Agent) (c : Fin 8) (j : Fin 8)
  /-- R561. -/
  | spareMapDone (c : Fin 8)
  /-- R562. -/
  | restore (a : Agent) (c : Fin 8)
  /-- R561. -/
  | restoreComplete (c : Fin 8)
  /-- R566. -/
  | seracEngineFence (e : Fin 8)
  /-- R575. -/
  | porstNAssert
  /-- R581; the straps sampled. -/
  | porstNRelease (fwtop : Bool) (bootsrc : BitVec 2)
  /-- R576. -/
  | sysrstNAssert
  /-- R581. -/
  | sysrstNRelease
  /-- R589. -/
  | warm (a : Agent) (v : Word)
  /-- R540. -/
  | mgmtRstNAssert
  /-- R578. -/
  | mgmtRstNRelease (addr : BitVec 3)
  /-- R443. -/
  | pciePerstN (asserted : Bool)
  /-- R581. -/
  | blockReady (g : ReadyGroup)
  /-- R573. -/
  | brownout
  /-- R573. -/
  | brownoutRestart (fwtop : Bool) (bootsrc : BitVec 2)
  /-- R573. -/
  | seqErr
  /-- R582. -/
  | thermtrip
  /-- R580. -/
  | sysBootCmd (a : Agent) (v : Word)
  /-- R580; the loader image read and the outcome of the medium's read. -/
  | bootFetchDone (image : Bytes) (readOk : Bool)
  /-- R589. -/
  | sysAppStart (a : Agent) (v : Word)
  /-- R418. -/
  | fhLinkUp (p : Fin 16)
  /-- R444. -/
  | fhLinkDown (p : Fin 16)
  /-- R446. -/
  | pcieLinkUp (gen : BitVec 3) (width : BitVec 5)
  /-- R446. -/
  | pcieLinkDown
  /-- R438. -/
  | tdispLockInterface
  /-- R438. -/
  | tdispStartInterface
  /-- R437; stream 0 is the link stream. -/
  | ideKmKeyProgramming (stream : Fin 5)
  /-- R432. -/
  | shrCtrl (a : Agent) (l : Fin 8) (v : Word)
  /-- R430. -/
  | shroudKeyInstall (l : Fin 8)
  /-- R454. -/
  | dramFrameStart (ch : Fin 64)
  /-- R581. -/
  | timingPllLocked
  /-- R572. -/
  | mainRailsUp
  /-- R572. -/
  | mainRailsDown
  /-- R573. -/
  | standbyPowerLoss
deriving DecidableEq, Repr

end Sys2Proof
end

