-- ==== Sys2Proof/Config.lean ====
section
/-! DEFINITION. What the specification leaves open: constants without a body, so that nothing can be proved of their
values. Each has a row in notes/assumptions. -/

namespace Sys2Proof.Config

/-- Result code of a transcendental operation whose correct rounding the model's interval does not settle (R178): operation, format
code, source code. It is a guard that the interval of `Approx.lean` makes unused in practice. -/
opaque roundGuard : Nat → Nat → Nat → Nat

/-- Code that MOVS returns for the cause of a Spar interrupt, by source: 0 TICK, 1 HAL, 2 MBOX (R224 records the source and gives no code). -/
opaque sparCause : Nat → BitVec 16

/-- PHY training result of a DRAM channel at an offset in its 256 words (R463: read-only, contents not given). -/
opaque phyTraining : Nat → Nat → BitVec 32

/-- Exponent that the AGC takes from a loop level that is negative, infinite or a NaN (R306: `floor_log2` of a nonzero FP32 value). -/
opaque agcExponent : Nat → Int

/-- Columns of the nonzero entries of a row of a base graph, ascending: graph 0 or 1, row (TS 38.212 tables 5.3.2-2 and 5.3.2-3, which R325 names
and does not reproduce). -/
opaque ldpcCols : Nat → Nat → List Nat

/-- Shift V of an edge: graph, set index of the lifting size, edge number (the same tables). -/
opaque ldpcShift : Nat → Nat → Nat → Nat

/-- Polar reliability sequence: the index at a place in ascending reliability, for 1,024 places (TS 38.212 table 5.3.1.2-1, which R333 names). -/
opaque polarSeq : Nat → Nat

/-- MOD_FIBRE_DM where the length of R442 exceeds 32 bits: the exact length. -/
opaque fibreLong : Nat → BitVec 32

/-- Request word of a Shroud frame (R428 names its fields and gives no layout): aperture offset, line count, transfer identifier, and the
TENANT of the access that R256 compares. -/
opaque requestWord : Nat → Nat → Nat → Nat → BitVec 128

/-- The fields of a request word, in the same order. -/
opaque requestFields : BitVec 128 → Nat × Nat × Nat × Nat

/-! ### Cryptography and secrets

The specification names these algorithms by their standards and reproduces none of them; keys, signatures and random values are the device's
own. -/

/-- AES-256-GCM: key, IV, authenticated data, plaintext; the ciphertext and the tag. -/
opaque gcmSeal : Nat → Nat → Bytes → Bytes → Bytes × BitVec 128

/-- AES-256-GCM: key, IV, authenticated data, ciphertext, tag; the plaintext where the tag verifies. -/
opaque gcmOpen : Nat → Nat → Bytes → Bytes → BitVec 128 → Option Bytes

/-- RFC 3394 unwrap: key, wrapped block; none where its integrity check fails. -/
opaque keyUnwrap : Bytes → Bytes → Option Bytes

/-- HKDF-SHA-384: secret, salt, label, output length. -/
opaque hkdf : Bytes → Bytes → Bytes → Nat → Bytes

/-- RSA-3072 RSASSA-PSS verification: public key, message, signature. -/
opaque rsaOk : Bytes → Bytes → Bytes → Bool

/-- SLH-DSA-SHA2-192s verification: public key, message, signature. -/
opaque slhOk : Bytes → Bytes → Bytes → Bool

/-- The device's RSA signature of a message; the number makes each signature fresh. -/
opaque rsaSign : Bytes → Nat → Bytes

/-- The device's SLH-DSA signature of a message. -/
opaque slhSign : Bytes → Nat → Bytes

/-- Whether the public keys of a chain verify up to the Balmihel root, and are those of a key hash (R535). -/
opaque chainOk : Bytes → BitVec 384 → Bool

/-- RSA and SLH-DSA public keys of the leaf certificates of a peer's chains. -/
opaque chainKeys : Bytes → Bytes × Bytes

/-- The Balmihel manufacturing keys in the boot ROM (R518). -/
opaque mfgRsa : Bytes
opaque mfgSlh : Bytes

/-- The configuration record in the on-package flash (R518); none where it is missing. -/
opaque record : Option Bytes

/-- Whether the PUF reconstructs and the unwrapped key matches its certificate (R516, R517). -/
opaque identityOk : Bool

/-- SHA-384 of the device's two public keys (R518). -/
opaque devKeyHash : Bytes

/-- The device's RSA and SLH-DSA certificate chains (R516). -/
opaque rsaChain : Bytes
opaque slhChain : Bytes

/-- Random bytes of the security core, fresh each time: number, length. -/
opaque random : Nat → Nat → Bytes

/-- Export master secret of an SPDM session, by its number (R534). -/
opaque exportSecret : Nat → Bytes

/-- An SPDM, MCTP or PLDM response on the wire: response code, and the fields it carries (DSP0274, DSP0236, DSP0240, DSP0248). -/
opaque encodeMessage : Nat → Bytes → Bytes

/-- Ephemeral public key on secp384r1 by number (R520, R535). -/
opaque ephemeralKey : Nat → Bytes

/-- Boot ROM and security segment (R524, measurement 1). -/
opaque bootRom : Bytes

/-- Version that a management image holds (R551). -/
opaque mgmtImageVersion : Nat

/-- The repair map of a record: the floes that it fences, and the row repairs as channel, bank, row, spare (R461, R518). -/
opaque repairMap : Bytes → List Nat × List (Nat × Nat × Nat × Nat)

/-- The transcript hash that SPDM defines of the messages exchanged on a connection (R522; DSP0274). -/
opaque transcriptHash : Bytes → Bytes

/-- The transcript hash of the exchange of R535 over what the lower and the higher position sent. -/
opaque linkTranscript : Bytes → Bytes → Bytes

/-- A measurement block's raw bytes: index, length, the values it holds (R524 names the values and gives no layout). -/
opaque rawBlock : Nat → Nat → List Nat → Bytes

/-- Bytes of a line that a processor's store narrower than a line sends to a remote aperture and does not write (R428 carries whole lines, and no
rule states them). -/
opaque remoteFill : Nat → Nat → BitVec 8

/-- DETAIL of a fault record whose flag has neither an error address nor a cause (R557): page, register, bit, and a number that makes each fresh. -/
opaque faultDetail : Nat → Nat → Nat → Nat → BitVec 32

/-! ### Firmware and management -/

/-- Offset of time base 0 from its master that the servo has measured, in nanoseconds (R510 names no algorithm). -/
opaque servoOffset : Nat → BitVec 32

/-- DATA of a log record by KIND and what it reports (R548: kind-specific). -/
opaque logData : Nat → List Nat → BitVec 64

/-- SEVERITY of a record to which the rules give none, by KIND and what it reports. -/
opaque logSeverity : Nat → List Nat → Fin 4

/-- KIND of a record of the controller for which R548 lists none: 0 a pin result, 1 a thermal trip. -/
opaque ownKind : Nat → BitVec 8

/-- Nominal voltage in millivolts at which R530 turns the current of a rail of two supplies into power: 2 SerDes, 4 always-on, 5 I/O. -/
opaque railMv : Nat → Nat

end Sys2Proof.Config
end

