-- ==== Sys2Proof/Machine/State.lean ====
section
/-! DEFINITION. State as plain data. -/

namespace Sys2Proof.Machine

/-! ### Numbers -/

/-- The ten storage formats (R51). -/
inductive Fmt where
  | fp32 | fp16 | bf16 | e4m3 | e5m2 | int8 | int4 | cb8 | cb4 | q15
deriving DecidableEq, Repr

/-- Parameters of a float format (R52): significand width with the hidden bit, exponent bits, bias, whether it has an infinity, and the
exponent of the largest finite value. -/
structure FloatParam where
  prec : Nat
  expBits : Nat
  bias : Int
  hasInf : Bool
  emax : Int
deriving DecidableEq, Repr

/-- Scale kinds (R80). -/
inductive ScaleKind where
  | none | e8m0 | bf16
deriving DecidableEq, Repr

/-- An exact value: NaN, an infinity, or `(−1)^neg × m × 2^e`. -/
inductive Val where
  | nan
  | inf (neg : Bool)
  | fin (neg : Bool) (m : Nat) (e : Int)
deriving DecidableEq, Repr

/-- An exact quotient: NaN, an infinity, or `(−1)^neg × (n / d) × 2^e` with `d` positive. -/
inductive Quot where
  | nan
  | inf (neg : Bool)
  | rat (neg : Bool) (n d : Nat) (e : Int)
deriving DecidableEq, Repr

/-- What one write of a stored format gives (R61, R62, R98, R105). -/
structure Wr where
  bits : Nat := 0
  outSat : Bool := false
  outOvf : Bool := false
  invalid : Bool := false
  clamped : Bool := false
deriving DecidableEq, Repr

/-! ### Registers -/

/-- A field of a register page: the offset of its register and its bits (R12). -/
structure Fld where
  off : Nat
  hi : Nat
  lo : Nat
deriving DecidableEq, Repr

/-- Access codes (R13). -/
inductive Acc where
  | ro | rw | w1c | w1s | wo | rc
deriving DecidableEq, Repr

/-- A row of a register table: first offset, number of instances and their stride, bits, access, reset value. -/
structure FieldRow where
  off : Nat
  n : Nat
  stride : Nat
  hi : Nat
  lo : Nat
  acc : Acc
  reset : Nat
deriving DecidableEq, Repr

/-- Block types (R467), the emulated and management pages told apart. -/
inductive PageType where
  | sys | sysFab | iagg | cfgi | det | floe | gaff | brash | spar | rime | fmem | fwin | cc | hal | mst0 | mst1 | mst2
  | mor0 | mor1 | serac | firn | drc | tb | ts | pg | cap | snap | fh | shr | pcie | modl | fwld | fwctl | fwpm | sec
  | mgmt | mpwr
deriving DecidableEq, Repr

/-- A fault record as it stands in a queue (R557). -/
structure FaultRec where
  source : Nat
  offset : Nat
  bit : Nat
  cls : Nat
  lost : Nat := 0
  tag : Tag := 0
  id : Nat := 0
  detail : Nat := 0
  time : Nat := 0
deriving DecidableEq, Repr

/-! ### Work -/

/-- What a digest record takes from the issue of an END entry (R383): partition, its generation, MST_TBL_ID. -/
structure EndInfo where
  part : Nat
  gen : Nat
  tbl : Nat
deriving DecidableEq, Repr

/-- A reservation or a region of a request (R348, R359): first line's address, ACC, lines. -/
structure MstRes where
  base : Nat
  acc : Nat
  lines : Nat
deriving DecidableEq, Repr

/-- What an issue carries (R353 to R356, R362): the scoreboard entry it reports to, the partition of a best-effort request, the cells that a
refusal marks, the failed-cell list, the lines that reach it as poison, and the identifier for its fault records. -/
structure WorkCtx where
  work : Option Nat := none
  be : Option (Nat × Nat) := none
  cells : List Nat := []
  failed : List Nat := []
  late : List Nat := []
  reqId : Nat := 0
  endOf : Option EndInfo := none
deriving DecidableEq, Repr

/-- An entry on the readiness scoreboard (R354): its interval, whether its unit has reported completion, its reservations, and the lines it
has committed. A skipped entry stands there as one that never completes. -/
structure Work where
  res : List MstRes := []
  start : Nat
  fin : Nat
  done : Bool := false
  lines : List Nat := []
deriving DecidableEq, Repr

/-! ### A floe -/

/-- A Rime cell's weight register (R113). -/
structure Cell where
  mag : Nat := 0
  neg : Bool := false
  poison : Bool := false
deriving DecidableEq, Repr

/-- The weight registers of one tile, row r and column c at 128 r + c, and its segment exponents, column c and segment g at 4 c + g (R113). -/
structure Tile where
  cells : Tab Cell := []
  exps : Tab Int := []
deriving DecidableEq, Repr

/-- The Rime array: active and shadow weight registers and the product registers (R113). -/
structure RimeSt where
  active : Tile := {}
  shadow : Tile := {}
  prod : Tab Nat := []
deriving DecidableEq, Repr

/-- A codebook as delivered (R85, R270). -/
structure CbLoad where
  codes : List (BitVec 16)
  id : BitVec 16
  poison : Bool
deriving DecidableEq, Repr

/-- A codebook slot: its entries, whether a poisoned line was loaded, and a load that waits (R86, R89, R117). -/
structure CbSlot where
  codes : List (BitVec 16) := []
  poison : Bool := false
  wait : Option CbLoad := none
deriving DecidableEq, Repr

/-- An output region in the accumulator memory (R123, R148): the visit that made it, its base, its first output row and its rows, the merge
round it stands at (R150), and the tag of each row's input. -/
structure Region where
  visit : Nat
  base : Nat
  row0 : Nat
  rows : Nat
  round : Nat := 0
  tags : List Tag
deriving DecidableEq, Repr

/-- Where a share stands. -/
inductive GaffPhase where
  /-- A software issue waits for its wing (R137). -/
  | signal
  /-- A member waits for the members whose latch still holds the word. -/
  | peers
  /-- Zero dimension or empty share (R145, R147). -/
  | zero
  /-- Tiles are walked, or regions merged and read out. -/
  | work
  /-- ATTN or ADAPT_STEP waits for Brash (R197). -/
  | brash
  /-- ADAPT_STEP holds Brash and waits for the other members. -/
  | held
  /-- The share's work is done. -/
  | done
deriving DecidableEq, Repr

/-- A macro-instruction in execution on a floe: its word, the word that fixes its geometry (the deferring one for COMBINE and QUANT of a
region, R152), its place in the walk of R148, and the lines written while its next tile loads (R244). -/
structure GaffExec where
  run : Option Nat
  word : BitVec 512
  badWord : Bool := false
  geo : BitVec 512
  phase : GaffPhase
  visit : Nat := 0
  pass : Nat := 0
  loaded : Bool := false
  hits : List Nat := []
  passOn : Bool := false
  gate : Bool := true
  regions : List Region := []
  written : Nat := 0
  poisoned : List Nat := []
  held : Tab (Int × Bool) := []
deriving DecidableEq, Repr

/-- A macro-instruction word, decoded (R138). -/
structure Macro where
  opc : Nat
  sat : Bool
  split : Bool
  conj : Bool
  cplx : Bool
  deferRo : Bool
  mW : Nat
  aW : Nat
  ebase : Int
  wing : Nat
  lead : Nat
  sb : Nat
  sm : Nat
  sn : Nat
  sk : Nat
  dimM : Nat
  dimN : Nat
  dimK : Nat
  batch : Nat
  tv : Nat
  aux0 : Nat
  aux1 : Nat
  d : List Nat
  wcDecl : Nat
  id : Nat
  rsvd : Bool
deriving DecidableEq, Repr

/-- A tensor descriptor (R140). -/
structure TDesc where
  base : Nat
  pitch : Nat
  fmt : Nat
  kind : Nat
  group : Nat
  cplx : Bool
  loc : Nat
  strict : Bool
  qmode : Nat
  smapEn : Bool
  rsSingle : Bool
  scaleBase : Nat
  auxBase : Nat
  amaxAddr : Nat
  smapBase : Nat
  stream : Nat
  digest : Bool
deriving DecidableEq, Repr

/-- A member's share (R147): first index and extent along each dimension, and its coordinate along K. -/
structure Share where
  b0 : Nat
  bn : Nat
  m0 : Nat
  mn : Nat
  n0 : Nat
  nn : Nat
  k0 : Nat
  kn : Nat
  rm : Nat
  rn : Nat
  rk : Nat
deriving DecidableEq, Repr

/-- What a member's checks find (R142). -/
structure Verdict where
  opcIll : Bool := false
  wingBad : Bool := false
  fmtIll : Bool := false
  cbMissing : Bool := false
  cause : Nat := 0
  wcEx : Bool := false
  idle : Bool := false
  wc : Nat := 0
deriving DecidableEq, Repr

/-- A block-float element on its way into the array (R63): sign, magnitude, exponent and poison. -/
structure Op where
  neg : Bool := false
  mag : Nat := 0
  exp : Int := 0
  poison : Bool := false
deriving DecidableEq, Repr

/-- A sum of entered products: value, side bit, products clamped, nonzero products that rounded to 0 (R68, R124). -/
structure Sum where
  v : Int := 0
  poison : Bool := false
  clamps : Nat := 0
  zeros : Nat := 0
deriving DecidableEq, Repr

/-- The issue latch (R135). -/
structure GaffLatch where
  run : Option Nat
  word : BitVec 512
  badWord : Bool := false
deriving DecidableEq, Repr

/-- A deferred region (R152); a member whose share was empty holds none. -/
structure Deferred where
  word : BitVec 512
  region : Option Region
deriving DecidableEq, Repr

/-- Kinds of summary register (R169). -/
inductive SmKind where
  | f | i | q
deriving DecidableEq, Repr

structure Summary where
  val : Word := 0
  poison : Bool := false
  kind : SmKind := .f
deriving DecidableEq, Repr

/-- Where a native kernel stands (R194, R197). -/
inductive KPhase where
  | idle | waitBrash | preload | running
deriving DecidableEq, Repr

/-- The issue core and Brash of a floe: registers (R167 to R171, R190), the running kernel's header (R193) and the issue times of R173. Times
are cycles counted from the issue of ENTRY, which is 1. -/
structure CoreSt where
  v : Tab (BitVec 4096) := []
  vPoison : Tab Bool := []
  sm : Tab Summary := []
  vl : Nat := 512
  x : Tab Word := []
  latch : Bool := false
  fetch : Tab Word := []
  phase : KPhase := .idle
  gaffHolds : Bool := false
  hdr : Nat := 0
  codeLen : Nat := 0
  entry : Nat := 0
  decl : Nat := 0
  tagT : Nat := 0
  inTag : Nat := 0
  out0 : Nat × Nat := (0, 0)
  out1 : Nat × Nat := (0, 0)
  ctx : WorkCtx := {}
  pc : Nat := 0
  lastPc : Nat := 0
  oobRec : Bool := false
  next : Nat := 1
  last : Nat := 0
  vReady : Tab Nat := []
  smReady : Tab Nat := []
  xReady : Tab Nat := []
  aluFree : Nat := 0
  transFree : Nat := 0
  memFree : Nat := 0
deriving DecidableEq, Repr

/-- Where a Spar kernel stands (R227, R228). -/
inductive SPhase where
  | idle | preload | running
deriving DecidableEq, Repr

/-- A write that the next instruction does not see (R219). -/
inductive SparLate where
  | t (i : Nat) (v : Nat)
  | p (i : Nat) (v : Nat)
  | m (i : Nat) (v : Nat)
  | b (i : Nat) (v : Nat)
  | l (i : Nat) (v : Nat)
deriving DecidableEq, Repr

/-- What takes place after two delay slots (R219, R224, R228). -/
inductive SparTurn where
  | jump (target : Nat)
  | reti
  | stop
deriving DecidableEq, Repr

/-- The Spar DSP of a floe: registers (R204), late writes, delay slots, repeat block, interrupts (R222 to R225) and the header of the
running kernel (R226). `cyc` is the counter at the next issue. -/
structure SparSt where
  t : Tab Nat := []
  a0 : BitVec 40 := 0
  a1 : BitVec 40 := 0
  p : Tab Nat := []
  m : Tab Nat := []
  b : Tab Nat := []
  l : Tab Nat := []
  z : Bool := false
  n : Bool := false
  v : Bool := false
  ie : Bool := false
  en : BitVec 3 := 0
  pend : BitVec 3 := 0
  pc : Nat := 0
  lastPc : Nat := 0
  late : List SparLate := []
  turn : Option (Nat × SparTurn) := none
  rep : Option (Nat × Nat × Nat) := none
  inHandler : Bool := false
  ret : Nat := 0
  retZ : Bool := false
  retN : Bool := false
  retV : Bool := false
  cause : Nat := 0
  mbox : BitVec 16 := 0
  hold : Tab Nat := []
  latch : Bool := false
  phase : SPhase := .idle
  hdr : Nat := 0
  entry : Nat := 0
  codeBase : Nat := 0
  codeLen : Nat := 0
  decl : Nat := 0
  holdDecl : Nat := 0
  holdRec : Bool := false
  tagT : Nat := 0
  inTag : Nat := 0
  out0 : Nat × Nat := (0, 0)
  out1 : Nat × Nat := (0, 0)
  vec : Nat := 0
  tickPeriod : Nat := 0
  ctx : WorkCtx := {}
  cyc : Nat := 1
  oobRec : Bool := false
deriving DecidableEq, Repr

/-- A floe's units and its scrub and patrol state (R20, R243, R248). -/
structure FloeSt where
  exec : Option GaffExec := none
  glatch : Option GaffLatch := none
  deferred : Option Deferred := none
  rime : RimeSt := {}
  cbs : Tab CbSlot := []
  core : CoreSt := {}
  spar : SparSt := {}
  patrol : Nat := 0
  parTimes : List Nat := []
  ueTimes : List Nat := []
deriving DecidableEq, Repr

/-- A macro-instruction in flight over its wing: members, those that have started and those that have not completed, and what the members
combine (R104 to R106, R136). -/
structure Run where
  word : BitVec 512
  sw : Bool
  ctx : WorkCtx := {}
  members : List Nat
  started : List Nat
  left : List Nat
  readers : List Nat := []
  amax : Val := .fin false 0 0
  hist : Val := .fin false 0 0
  clamps : Nat := 0
  poisonIn : Bool := false
deriving DecidableEq, Repr

/-- A slot of a scale side store (R141, R269). -/
structure SideSlot where
  data : BitVec 64 := 0
  poison : Bool := false
deriving DecidableEq, Repr

/-! ### Halyards -/

/-- A descriptor in force (R264) with what its issue carries. -/
structure HalDesc where
  word : BitVec 512
  ctx : WorkCtx := {}
deriving DecidableEq, Repr

/-- A result whose digest record waits for the composer (R381): output tag, result part, XFER_ID, the END entry's facts, time of
completion. -/
structure Compose where
  tag : Tag
  rx : Bytes
  xfer : Nat
  info : EndInfo
  time : Nat
deriving DecidableEq, Repr

/-- A halyard (R263): active and shadow descriptors, the tenant and whether the active one has passed its checks (R278), the next line in
visit order, data lines committed, the cancel (R279), the record tags (R274), whether a mismatch was recorded (R275), what the digest lane
absorbed (R287), whether the Serac record that a transfer reads has been freed (R335), a codebook being loaded (R270), and a result that
waits for the composer. -/
structure HalSt where
  tenant : Nat := 0
  active : Option HalDesc := none
  shadow : Option HalDesc := none
  checked : Bool := false
  row : Nat := 0
  line : Nat := 0
  done : Nat := 0
  cancelling : Bool := false
  srcTag : Option Tag := none
  firstTag : Option Tag := none
  recPoison : Bool := false
  mismatch : Bool := false
  absorbed : Bytes := []
  dgPoison : Bool := false
  freed : Bool := false
  cb : Bytes := []
  cbPoison : Bool := false
  compose : Option Compose := none
deriving DecidableEq, Repr

/-! ### Clusters -/

/-- Where a spare substitution stands (R561). -/
inductive SubstPhase where
  | idle | fenced | mapped | restoring
deriving DecidableEq, Repr

/-- A cluster's control: the substitution in progress and when its record was posted, the restore image bases, and the substitution record
(R568). -/
structure ClusterSt where
  phase : SubstPhase := .idle
  posted : Nat := 0
  bases : Tab Word := []
  record : Tab Word := []
deriving DecidableEq, Repr

/-! ### Masthead -/

/-- An entry of a table (R347). -/
structure MstEntry where
  start : Nat
  wc : Nat
  kind : Nat
  target : Nat
  part : Nat
  lag : Bool
  fin : Bool
  adpRel : Bool
  cells : Nat
  wave : Nat
  pay : Nat
  resFirst : Nat
  resN : Nat
deriving DecidableEq, Repr

/-- A table (R346): period, generations, identifier, entries, payloads, reservations and wave records. -/
structure MstTable where
  period : Nat
  gens : List Nat
  id : Nat
  entries : List MstEntry
  pays : List (BitVec 512)
  res : List MstRes
  waves : List (List (Option Nat))
deriving DecidableEq, Repr

/-- A best-effort request as the Masthead read it (R359). -/
structure BeReq where
  kind : Nat
  target : Nat
  irq : Bool
  wc : Nat
  reqId : Nat
  regs : List MstRes
  pay : BitVec 512
  bad : Bool
deriving DecidableEq, Repr

/-- An admitted request that has not ended (R362): its slot and the request. -/
structure BeRun where
  slot : Nat
  req : BeReq
deriving DecidableEq, Repr

/-- Where a partition's drain stands (R363): DRAIN waits for the boundary, the one period of LAG entries runs, or it is over. -/
inductive DrainPhase where
  | none | wait | lag | past
deriving DecidableEq, Repr

/-- The Masthead outside its registers: issued entries (R354), cells marked failed (R355, R356), tables, the table under verification with the
first cause that its image shows (R350, R352), the period in progress, EN in force, the entries issued in the period, the end of the
last HAL entry of each halyard (R349), the adapter words, SEL in force and in the period before, and pending
swaps (R358), rings (R359 to R362) and partitions being drained or cleared (R363). -/
structure MstSt where
  works : Tab (Option Work) := []
  nextWork : Nat := 0
  marks : List Nat := []
  active : Option MstTable := none
  staged : Option MstTable := none
  check : Option (MstTable × Nat × Nat) := none
  periodStart : Nat := 0
  en : Bool := false
  issued : List Nat := []
  stepped : Bool := false
  halEnd : Tab Nat := []
  adps : Tab Word := []
  sel : Tab Bool := []
  selPrev : Tab Bool := []
  swap : Tab Bool := []
  heads : Tab (Option BeReq) := []
  runs : Tab (List BeRun) := []
  lastAdmit : Nat := 7
  drain : Tab DrainPhase := []
  scrub : Tab (Option (List Nat)) := []
deriving DecidableEq, Repr

/-! ### Timing -/

/-- A STEP that waits for its tick (R401): whether it is an offset, and STEP_SEC, STEP_NS and STEP_FRAC as they stood at the write. -/
structure TbStep where
  offset : Bool
  sec : Nat
  ns : Nat
  frac : Nat
deriving DecidableEq, Repr

/-- A time base (R392 to R401): value, committed fraction of the increment, remaining slew in 2⁻³² ns, and a pending STEP. -/
structure TimeBase where
  sec : Nat := 0
  ns : Nat := 0
  frac : Nat := 0
  incFrac : Nat := 0x9999999A
  slew : Int := 0
  step : Option TbStep := none
deriving DecidableEq, Repr

/-- What a pulse generator took at its last ARM (R403 to R405): the next fire time, its configuration, and a pulse in progress with its
pin and polarity. -/
structure PgSt where
  next : Nat := 0
  tb : Nat := 0
  periodic : Bool := false
  func : Nat := 0
  pin : Nat := 0
  low : Bool := false
  start : Nat := 0
  period : Nat := 0
  pulse : Option (Nat × Bool) := none
deriving DecidableEq, Repr

/-- An entry of a capture FIFO (R407). -/
structure CapEntry where
  sec : Nat
  ns : Nat
  frac : Nat
  falling : Bool
deriving DecidableEq, Repr

/-! ### Links -/

/-- A fronthaul port (R421, R424): its MACsec words by indirect address and its transmit-timestamp FIFO of TS_ID, SEC and NS. -/
structure FhSt where
  macsec : Tab Word := []
  txts : List (Nat × Nat × Nat) := []
deriving DecidableEq, Repr

/-- A frame that waits to be sent or acknowledged on a Shroud link (R428): type, destination and source positions, payload in clear, and the
write lines it carries. -/
structure ShrMsg where
  kind : Nat
  dst : Nat
  src : Nat
  body : Bytes
  lines : Nat := 0
deriving DecidableEq, Repr

/-- A remote read that is outstanding on a link: its transfer identifier, lines, agent code (4 for a halyard) and address. -/
structure ShrRead where
  id : Nat
  n : Nat
  agent : Nat
  addr : Nat
deriving DecidableEq, Repr

/-- A Shroud link (R427 to R432, R535): key words by indirect address, which slots hold keys (0 and 1 transmit, 2 and 3 receive), CTR of each
transmit slot, last accepted CTR of each receive slot, the last SEQ sent, highest SEQ received in order, frames that wait, frames sent and not
acknowledged with their SEQ and the times they were sent, reads outstanding, times of tag failures, the receive slot that a switch leaves
behind and the one in use, failed lanes, the link secret and the issue numbers of the newest keys of each direction, and whether the link
holds (R426). -/
structure ShrSt where
  keys : Tab Word := []
  held : Tab Bool := []
  ctrTx : Tab Nat := []
  ctrRx : Tab (Option Nat) := []
  nextSeq : Nat := 0
  lastSeq : Nat := 0
  wait : List ShrMsg := []
  unacked : List (Nat × ShrMsg × Nat) := []
  reads : List ShrRead := []
  fails : List Nat := []
  oldRx : Option Nat := none
  rxSlot : Nat := 0
  lanes : List Nat := []
  secret : Bytes := []
  txIssue : Nat := 0
  rxIssue : Nat := 0
  hold : Bool := false
deriving DecidableEq, Repr

/-- The PCIe endpoint (R436 to R438): partitions formed while the interface was locked and not FREE since, a STOP_INTERFACE that waits for them,
and MSI-X entries held while the link is down. -/
structure PciSt where
  formed : List Nat := []
  stopping : Bool := false
  held : List Nat := []
deriving DecidableEq, Repr

/-- A seated module (R439, R447). -/
structure ModSt where
  ident : Option ModIdent := none
  bias : List (BitVec 16) := []
  tx : List (BitVec 16) := []
  rx : List (BitVec 16) := []
deriving DecidableEq, Repr

/-- An entry of the life table (R440, R441): identity, tenths of a second with the transmitters on, sum and number of largest biases of the
first 24 hours, and when it was last seen. -/
structure LifeEntry where
  oui : Nat
  part : Bytes
  serial : Bytes
  tenths : Nat := 0
  biasSum : Nat := 0
  biasN : Nat := 0
  seen : Nat := 0
deriving DecidableEq, Repr

/-! ### Interrupts, indirect access and configuration integrity -/

/-- An access to IND_ADDR or IND_DATA that waits (R471): its agent, the offset, the word of a write, and the indirect address of an access that
is in progress. -/
structure IndAcc where
  agent : Agent
  off : Nat
  v : Option Word
  addr : Option Nat := none
deriving DecidableEq, Repr

/-- Interrupt aggregation (R479): the route table and the vectors that are disarmed. -/
structure IaggSt where
  routes : Tab Nat := []
  disarmed : Tab Bool := []
deriving DecidableEq, Repr

/-- A sweep in progress (R482 to R484): its value, the check of each page, and whether it may be compared or captured. -/
structure SweepSt where
  crc : Word
  pages : List (Nat × Word)
  compare : Bool
  capture : Bool
deriving DecidableEq, Repr

/-- Configuration integrity: the sweep in progress, the per-page checks of the reference, and whether a mismatch has been recorded since the
last match, commit or reference write. -/
structure CfgiSt where
  sweep : Option SweepSt := none
  pages : List (Nat × Word) := []
  drifted : Bool := false
deriving DecidableEq, Repr

/-! ### Firmware -/

/-- Health of a firmware component (R511). -/
structure Health where
  state : Nat := 0
  restarts : List Nat := []
  cause : Nat := 0
deriving DecidableEq, Repr

/-- Firmware (R491 to R510): the running image, an image under verification or staged with the cause that its checks gave, whether an update
is under verification, whether the topology is fixed, the health table, the posted writes of each emulated page and the accesses that
wait at its trap unit (offset, and the word of a write), the timing queue of each port, when the lease was last renewed, the table that was
active before parking, a held RESUME, a DETACH that waits, and the step that parking has reached. -/
structure FwSt where
  image : Bytes := []
  next : Bytes := []
  nextCause : Nat := 0
  updating : Bool := false
  topoLocked : Bool := false
  health : Tab Health := []
  queue : Tab (List (Nat × Word)) := []
  trapped : Tab (List (Nat × Option Word)) := []
  timing : Tab (List (Bytes × Nat)) := []
  lease : Nat := 0
  saved : Option MstTable := none
  resumeHeld : Bool := false
  detachHeld : Bool := false
  parkStep : Nat := 0
deriving DecidableEq, Repr

/-! ### Security -/

/-- An SPDM session (R520, R521): its number, transport, tenant, whether its FINISH has completed, and the order of that or of its TENANT_ATTACH. -/
structure SpdmSession where
  id : Nat
  doe : Bool
  tenant : Option Nat := none
  finished : Bool := false
  order : Nat := 0
deriving DecidableEq, Repr

/-- An SPDM connection (R520, R522): how far it is negotiated, its transcript, the transcript hash of the signed response just given, and a
COSIGN being signed and whether it is ready. -/
structure SpdmConn where
  stage : Nat := 0
  transcript : Bytes := []
  signed : Option Bytes := none
  cosign : Option Bytes := none
  ready : Bool := false
deriving DecidableEq, Repr

/-- The security core (R516, R520 to R537): whether identity and record have been derived and checked since PORST_N, allow-list and PSK words by indirect address, sessions, the number of the next attachment, and the
connections over DOE and MCTP; the tenant of the requester and the address of the
key request in progress; the telemetry of the last window (R530). -/
structure SecSt where
  derived : Bool := false
  words : Tab Word := []
  sessions : Tab (Option SpdmSession) := []
  order : Nat := 0
  doe : SpdmConn := {}
  mctp : SpdmConn := {}
  kreq : Option (Option Nat × Nat) := none
  coarse : Tab (Option Word) := []
deriving DecidableEq, Repr

/-! ### Management -/

/-- A log record (R548). -/
structure LogRec where
  seq : Nat
  time : Nat
  uptime : Nat
  source : Nat
  kind : Nat
  severity : Nat
  data : Nat
deriving DecidableEq, Repr

/-- A sector of the log (R548): its erase count and its records. -/
structure LogSector where
  erases : Nat := 0
  recs : List LogRec := []
deriving DecidableEq, Repr

/-- The management controller (R539 to R551): readings and thresholds, the thresholds now crossed, records in RAM, the sectors of the log with the one in use last, the next SEQ,
the tick at which the controller started, evaluations in a row above the cap at point 5 and whether the episode is reported, when the point last went
down, EID, event receiver, the version of each bank, whether the controller runs, whether the inactive bank holds a verified image, and
whether that image is being started. -/
structure MgmtSt where
  up : Bool := false
  staged : Bool := false
  activating : Bool := false
  sensors : Tab (Option (BitVec 16)) := []
  thresholds : Tab Word := []
  crossed : Tab Bool := []
  buffer : List LogRec := []
  flash : List LogSector := List.replicate 16 {}
  seq : Nat := 0
  started : Nat := 0
  overCap : Nat := 0
  unmet : Bool := false
  lastDown : Nat := 0
  eid : Nat := 0
  receiver : Nat := 0
  banks : Tab (Option Nat) := []
  life : List LifeEntry := []
  lifeFlash : List LifeEntry := []
deriving DecidableEq, Repr

/-- Reset pins, the brownout and the thermal trip (R573, R575, R582), whether the main rails are off (R572), the loader in the application complex's L3 and whether its source could be read, and the application cores
released (R580). -/
structure PwrSt where
  porst : Bool := false
  sysrst : Bool := false
  mgmtRst : Bool := false
  perst : Bool := false
  brownout : Bool := false
  trip : Bool := false
  stopped : Bool := false
  railsDown : Bool := false
  loader : Bytes := []
  loaderOk : Bool := true
  cores : Nat := 0
deriving DecidableEq, Repr

/-! ### Firn and DRAM -/

/-- A line held in a way of a Firn set (R250, R252): the way, L[28:17], the tenant it is held under, whether it is pinned, whether it
is a weight line (R241), and POISON on this copy (R254). The set lists its lines most recently used first. -/
structure FirnWay where
  way : Nat
  tag : Nat
  tenant : Nat
  pinned : Bool := false
  weight : Bool := false
  poison : Bool := false
deriving DecidableEq, Repr

/-- A DRAM channel controller: the remap table by indirect address (R463), the row tracker, the queue of triggers and the remap in
progress with its spare (R460), the next patrol line (R459), a STEP that waits for the next frame (R458), and the next row of the refresh
(R454). Rows are numbered bank × 16384 + row. -/
structure DrcSt where
  remap : Tab Nat := []
  tracker : List (Nat × Nat) := []
  queue : List Nat := []
  busy : Option (Nat × Nat) := none
  patrol : Nat := 0
  stepNext : Option Nat := none
  refresh : Nat := 0
deriving DecidableEq, Repr

/-- Owner entry of a DRAM granule (R529). -/
structure Granule where
  tenant : Nat := 0
  owned : Bool := false
  zeroing : Bool := false
deriving DecidableEq, Repr

/-! ### Moraine -/

/-- A received PRB, compressed: method, width and bytes (R300, R302). -/
structure MorPrb where
  meth : Nat
  width : Nat
  data : Bytes
deriving DecidableEq, Repr

/-- An open slot of a cell entry (R302): its number n, the cell and stream entries it was opened under (R299), and the first copy of each PRB
received, at (stream × 14 + symbol) × 512 + PRB. -/
structure MorSlot where
  cell : Nat
  n : Nat
  words : List Word
  streams : List (Nat × List Word)
  prbs : Tab (Option MorPrb) := []
deriving DecidableEq, Repr

/-- A tensor on a Moraine queue (R308, R310): the entry it came from, its closing time and CELL, its lines and those already read. -/
structure MorTensor where
  cell : Nat
  close : Nat
  index : Nat
  lines : List TaggedLine
  read : List Nat := []
deriving DecidableEq, Repr

/-- A partner (R297). -/
structure MorPartner where
  mac : Nat
  port : Nat
  last : Nat
deriving DecidableEq, Repr

/-- A stream's running state: AGC_L_INIT in force and the loop level (R306), the partner it is bound to (R298), its last ecpriSeqid. -/
structure MorStream where
  init : Nat := 0
  level : Nat := 0
  bound : Option Nat := none
  seq : Option Nat := none
deriving DecidableEq, Repr

/-- A job of the balancer (R312). -/
structure MorJob where
  close : Nat
  cell : Nat
  stream : Nat
  n : Nat
deriving DecidableEq, Repr

/-- A sample of the adaptation buffer (R313): its information lines, format, NUM_PRB and SAT per stream, and its lines. -/
structure AdpSample where
  info : Nat
  rows : List (Nat × Nat × Bool)
  lines : List TaggedLine
deriving DecidableEq, Repr

/-- A running epoch (R313, R314): number, seed, samples, and the next position. -/
structure AdpRun where
  epoch : Nat
  seed : Nat
  n : Nat
  q : Nat := 0
deriving DecidableEq, Repr

/-- Moraine outside its registers (R295 to R319): the entry tables in force and the writes that wait for a boundary (cell, address,
word), partners, streams, open slots, the start last met (ns / 2) and the slot last closed of each cell, allocations by cell and SLOT, queues, jobs, the
adaptation halves and epoch, the IDs of each CELL's four latest tensors by SLOT (R379), the recorder's next SEQ and whether it has stopped, and each replaying cell's next line and SEQ. -/
structure MorSt where
  cells : Tab Word := []
  streams : Tab Word := []
  wait : List (Nat × Nat × Word) := []
  partners : Tab (Option MorPartner) := []
  run : Tab MorStream := []
  slots : List MorSlot := []
  opened : Tab (Option Nat) := []
  closed : Tab (Option Nat) := []
  allocs : Tab (Option (Nat × Nat)) := []
  stage : Word := 0
  queues : Tab (List MorTensor) := []
  sparJobs : List MorJob := []
  acJobs : List MorJob := []
  instant : Nat × Nat := (0, 0)
  fill : List AdpSample := []
  keep : List AdpSample := []
  epoch : Option AdpRun := none
  recSeq : Nat := 0
  recStopped : Bool := false
  replay : Tab (Option (Nat × Option Nat)) := []
  ids : Tab (List (Nat × Bytes)) := []
deriving DecidableEq, Repr

/-! ### Serac -/

/-- A job's lines as counted into an input buffer, and whether two transfers interleaved in it (R335). -/
structure SerJob where
  lines : List TaggedLine
  mixed : Bool := false
deriving DecidableEq, Repr

/-- A result record (R337): its lines and the next one to read. -/
structure SerRec where
  lines : List TaggedLine
  next : Nat := 0
deriving DecidableEq, Repr

/-- The running job: its refusal cause and, once decoded, its record. -/
structure SerRun where
  job : SerJob
  cause : Nat
  rec? : Option SerRec := none
deriving DecidableEq, Repr

/-- A weight set (R327, R328): graph it serves, owner, active bank, LOADED, and the bytes of its banks; a byte beyond a bank's list is 0x0F. -/
structure SerSet where
  graph : Nat := 0
  owner : Option Nat := none
  active : Bool := false
  loaded : Bool := false
  bank0 : Bytes := []
  bank1 : Bytes := []
deriving DecidableEq, Repr

/-- A Serac engine (R323, R335): the job being filled and the halyard that fills it, complete jobs, the running job, the output queue, weight
sets, the sets that return to the default at the next job boundary, and the times of recent memory errors (R566). -/
structure SerSt where
  fill : Option SerJob := none
  src : Option Nat := none
  jobs : List SerJob := []
  run : Option SerRun := none
  out : List SerRec := []
  sets : Tab SerSet := []
  clr : Nat := 0
  ueTimes : List Nat := []
deriving DecidableEq, Repr

/-- What leaves the device: an Ethernet frame, a Shroud link frame, an interrupt at its destination (R479), an SPDM, MCTP or PLDM message. -/
inductive Out where
  | frame (port : Nat) (data : Bytes)
  | shroud (link : Nat) (fr : ShrFrame)
  | interrupt (dest : Nat) (vector : Nat)
  | message (data : Bytes)
deriving DecidableEq, Repr

/-- Faults of the model: the specification gives every command an effect, so no step stops, and no constructor is needed. -/
inductive Fault where
deriving DecidableEq, Repr

/-- Refusals of the model. -/
inductive Refusal where
  /-- Raised by an arm of `exec` that has no meaning yet; safe. -/
  | notModelled (mnemonic : String)
deriving DecidableEq, Repr

/-- The machine. -/
structure State where
  pending : List Instr := []
  regs : Tab Word := []
  live : Tab Nat := []
  mem : Tab Byte := []
  tags : Tab Tag := []
  side : Tab SideSlot := []
  accSide : Tab Bool := []
  dramPoison : Tab Bool := []
  floes : Tab FloeSt := []
  runs : Tab (Option Run) := []
  nextRun : Nat := 0
  faultQ : Tab (List FaultRec) := []
  faultLost : Tab Nat := []
  mst : MstSt := {}
  det : Tab Word := []
  lastCopy : Tab Bool := []
  hals : Tab HalSt := []
  clusters : Tab ClusterSt := []
  tb : Tab TimeBase := []
  tbHeld : Tab (Nat × Nat) := []
  pgs : Tab PgSt := []
  caps : Tab (List CapEntry) := []
  ticks : Nat := 0
  capLast : Tab Nat := []
  snap : Tab Word := []
  fhs : Tab FhSt := []
  shrs : Tab ShrSt := []
  nextXfer : Nat := 0
  pci : PciSt := {}
  mods : Tab ModSt := []
  inds : Tab (List IndAcc) := []
  iagg : IaggSt := {}
  cfgi : CfgiSt := {}
  fw : FwSt := {}
  sec : SecSt := {}
  mgmt : MgmtSt := {}
  pwr : PwrSt := {}
  fresh : Nat := 0
  firn : Tab (List FirnWay) := []
  firnOp : Tab (Option (Nat × Nat)) := []
  drcs : Tab DrcSt := []
  grans : Tab Granule := []
  winPend : Tab Bool := []
  mor : MorSt := {}
  sers : Tab SerSt := []
  rsp : Option Bytes := none
  rspPoison : Bool := false
  out : List Out := []
deriving DecidableEq, Repr

/-- The machine at the release of PORST_N. -/
def State.reset : State := {}

end Sys2Proof.Machine
end

