-- ==== Sys2Proof/Machine/Num.lean ====
section
/-! DEFINITION. Numbers: the ten storage formats (R51 to R62), exact values and their one rounding (R49, R57, R60),
the block-float operand (R63 to R66), the exact accumulator (R67 to R74), the integer rescale (R93, R94) and the selection of
scales and codes (R96 to R99, R105). -/

namespace Sys2Proof.Machine

/-! ### Exact values -/

/-- The product `m × 2^e` aligned to a smaller exponent. -/
def shiftUp (m : Nat) (e e' : Int) : Nat := m <<< (e - e').toNat

/-- Sign and magnitude of an integer times a power of two. -/
def Val.ofInt (i e : Int) : Val := .fin (decide (i < 0)) i.natAbs e

/-- A finite value as a signed integer at exponent `e'` not above its own. -/
def signedAt (neg : Bool) (m : Nat) (e e' : Int) : Int :=
  if neg then -(shiftUp m e e' : Int) else (shiftUp m e e' : Int)

/-- Sum of two values (R57, R59): an exact zero is +0 unless both operands are −0. -/
def Val.add (a b : Val) : Val :=
  match a, b with
  | .nan, _ => .nan
  | _, .nan => .nan
  | .inf s, .inf t => if s = t then .inf s else .nan
  | .inf s, .fin _ _ _ => .inf s
  | .fin _ _ _, .inf t => .inf t
  | .fin s m e, .fin t n f =>
    if m = 0 ∧ n = 0 then .fin (s && t) 0 0
    else Val.ofInt (signedAt s m e (min e f) + signedAt t n f (min e f)) (min e f)

/-- Negation. -/
def Val.neg : Val → Val
  | .nan => .nan
  | .inf s => .inf (!s)
  | .fin s m e => .fin (!s) m e

/-- Product (R57). -/
def Val.mul (a b : Val) : Val :=
  match a, b with
  | .nan, _ => .nan
  | _, .nan => .nan
  | .inf s, .inf t => .inf (s != t)
  | .inf s, .fin t n _ => if n = 0 then .nan else .inf (s != t)
  | .fin s m _, .inf t => if m = 0 then .nan else .inf (s != t)
  | .fin s m e, .fin t n f => .fin (s != t) (m * n) (e + f)

/-- Absolute value. -/
def Val.abs : Val → Val
  | .nan => .nan
  | .inf _ => .inf false
  | .fin _ m e => .fin false m e

def Val.isNan : Val → Bool
  | .nan => true
  | _ => false

def Val.isFinite : Val → Bool
  | .fin _ _ _ => true
  | _ => false

/-- A finite value other than zero. -/
def Val.isFinNz : Val → Bool
  | .fin _ m _ => decide (m ≠ 0)
  | _ => false

/-- Sign bit. -/
def Val.sign : Val → Bool
  | .nan => false
  | .inf s => s
  | .fin s _ _ => s

/-- `a < b` for values that are numbers, both zeros being equal; false when either is NaN. -/
def Val.lt (a b : Val) : Bool :=
  match a, b with
  | .nan, _ => false
  | _, .nan => false
  | .inf s, .inf t => s && !t
  | .inf s, .fin _ _ _ => s
  | .fin _ _ _, .inf t => !t
  | .fin s m e, .fin t n f => decide (signedAt s m e (min e f) < signedAt t n f (min e f))

/-- Numerical equality. -/
def Val.eqv (a b : Val) : Bool :=
  match a, b with
  | .nan, _ => false
  | _, .nan => false
  | .inf s, .inf t => s == t
  | .fin s m e, .fin t n f => decide (signedAt s m e (min e f) = signedAt t n f (min e f))
  | _, _ => false

/-- The larger of two magnitudes, for amax (R99, R103). -/
def Val.maxAbs (a b : Val) : Val := if a.abs.lt b.abs then b.abs else a.abs

/-! ### Decoding stored codes -/

/-- Value of a float code (R52, R53). -/
def decodeFloat (p : FloatParam) (code : Nat) : Val :=
  let fr := p.prec - 1
  let f := code % 2 ^ fr
  let ex := (code / 2 ^ fr) % 2 ^ p.expBits
  let s := decide ((code / 2 ^ (fr + p.expBits)) % 2 = 1)
  let top := 2 ^ p.expBits - 1
  if p.hasInf then
    if ex = top then (if f = 0 then .inf s else .nan)
    else if ex = 0 then .fin s f (1 - p.bias - fr)
    else .fin s (2 ^ fr + f) ((ex : Int) - p.bias - fr)
  else
    if ex = top ∧ f = 2 ^ fr - 1 then .nan
    else if ex = 0 then .fin s f (1 - p.bias - fr)
    else .fin s (2 ^ fr + f) ((ex : Int) - p.bias - fr)

/-- The float formats' parameters (R52). -/
def Fmt.float : Fmt → Option FloatParam
  | .fp32 => some ⟨24, 8, 127, true, 127⟩
  | .fp16 => some ⟨11, 5, 15, true, 15⟩
  | .bf16 => some ⟨8, 8, 127, true, 127⟩
  | .e4m3 => some ⟨4, 4, 7, false, 8⟩
  | .e5m2 => some ⟨3, 5, 15, true, 15⟩
  | _ => none

/-- Format code (R51); 10 to 15 are unassigned. -/
def Fmt.ofCode (c : Nat) : Option Fmt :=
  [Fmt.fp32, .fp16, .bf16, .e4m3, .e5m2, .int8, .int4, .cb8, .cb4, .q15][c]?

def Fmt.code : Fmt → Nat
  | .fp32 => 0 | .fp16 => 1 | .bf16 => 2 | .e4m3 => 3 | .e5m2 => 4
  | .int8 => 5 | .int4 => 6 | .cb8 => 7 | .cb4 => 8 | .q15 => 9

/-- Bits per element (R51). -/
def Fmt.bits : Fmt → Nat
  | .fp32 => 32 | .fp16 => 16 | .bf16 => 16 | .e4m3 => 8 | .e5m2 => 8
  | .int8 => 8 | .int4 => 4 | .cb8 => 8 | .cb4 => 4 | .q15 => 16

/-- Value of a stored code without scale (R51); `cb` gives the codebook's entry for the index formats (R85). -/
def decodeVal (f : Fmt) (cb : Nat → Val) (code : Nat) : Val :=
  match f with
  | .int8 => Val.ofInt (sInt 8 code) 0
  | .int4 => Val.ofInt (sInt 4 code) 0
  | .q15 => Val.ofInt (sInt 16 code) (-15)
  | .cb8 => cb (code % 256)
  | .cb4 => cb (code % 16)
  | .fp32 => decodeFloat ⟨24, 8, 127, true, 127⟩ (code % 2 ^ 32)
  | .fp16 => decodeFloat ⟨11, 5, 15, true, 15⟩ (code % 2 ^ 16)
  | .bf16 => decodeFloat ⟨8, 8, 127, true, 127⟩ (code % 2 ^ 16)
  | .e4m3 => decodeFloat ⟨4, 4, 7, false, 8⟩ (code % 2 ^ 8)
  | .e5m2 => decodeFloat ⟨3, 5, 15, true, 15⟩ (code % 2 ^ 8)

/-- No codebook. -/
def noCb : Nat → Val := fun _ => .fin false 0 0

/-! ### Writing a stored format -/

/-- `floor (log2 (n / d))` for positive `n` and `d`. -/
def floorLog2 (n d : Nat) : Int :=
  let k : Int := (Nat.log2 n : Int) - Nat.log2 d
  if shiftUp n 0 (min 0 k) ≥ shiftUp d k (min 0 k) then k else k - 1

/-- Canonical NaN (R52, R59). -/
def FloatParam.nanCode (p : FloatParam) : Nat :=
  if p.hasInf then (2 ^ p.expBits - 1) * 2 ^ (p.prec - 1) + 2 ^ (p.prec - 2)
  else 2 ^ (p.expBits + p.prec - 1) - 1

/-- Largest finite code, without sign. -/
def FloatParam.maxCode (p : FloatParam) : Nat :=
  if p.hasInf then (2 ^ p.expBits - 1) * 2 ^ (p.prec - 1) - 1
  else 2 ^ (p.expBits + p.prec - 1) - 2

def FloatParam.signed (p : FloatParam) (neg : Bool) (code : Nat) : Nat :=
  if neg then 2 ^ (p.expBits + p.prec - 1) + code else code

/-- Infinity of the sign given (R53); only the formats that have one. -/
def FloatParam.infCode (p : FloatParam) (neg : Bool) : Nat :=
  p.signed neg ((2 ^ p.expBits - 1) * 2 ^ (p.prec - 1))

/-- What an overflow writes (R61). -/
def FloatParam.overflow (p : FloatParam) (neg sat : Bool) : Wr :=
  if sat then { bits := p.signed neg p.maxCode, outSat := true }
  else if p.hasInf then { bits := p.infCode neg, outOvf := true }
  else { bits := p.nanCode, outOvf := true }

/-- One rounding of `(−1)^neg × (n / d) × 2^e` into a float format (R49, R60, R61, R74). -/
def encodeFloat (p : FloatParam) (sat neg : Bool) (n d : Nat) (e : Int) : Wr :=
  if n = 0 then { bits := p.signed neg 0 }
  else
    let emin : Int := 1 - p.bias
    let ex := max (floorLog2 n d + e) emin
    let q := ex - ((p.prec : Int) - 1)
    let sig0 := rneDiv (shiftUp n e (min e q)) (shiftUp d q (min e q))
    let carry := decide (sig0 = 2 ^ p.prec)
    let sig := if carry then sig0 / 2 else sig0
    let ex := if carry then ex + 1 else ex
    if sig = 0 then { bits := p.signed neg 0 }
    else
      let maxSig := if p.hasInf then 2 ^ p.prec - 1 else 2 ^ p.prec - 2
      if ex > p.emax ∨ (ex = p.emax ∧ sig > maxSig) then p.overflow neg sat
      else if sig < 2 ^ (p.prec - 1) then { bits := p.signed neg sig }
      else { bits := p.signed neg ((ex + p.bias).toNat * 2 ^ (p.prec - 1) + (sig - 2 ^ (p.prec - 1))) }

/-- An exactly rounded integer into a two's-complement format of `w` bits (R61). -/
def writeInt (w : Nat) (sat : Bool) (r : Int) : Wr :=
  let hi : Int := 2 ^ (w - 1) - 1
  let lo : Int := -(2 ^ (w - 1))
  if r > hi then
    if sat then { bits := lowBits w hi, outSat := true } else { bits := lowBits w r, outOvf := true }
  else if r < lo then
    if sat then { bits := lowBits w lo, outSat := true } else { bits := lowBits w r, outOvf := true }
  else { bits := lowBits w r }

/-- Width of an integer destination and the exponent of its unit: Q15 counts in 2⁻¹⁵ (R51). -/
def Fmt.int : Fmt → Option (Nat × Int)
  | .int8 => some (8, 0)
  | .int4 => some (4, 0)
  | .q15 => some (16, -15)
  | _ => none

/-- `(−1)^neg × (n / d) × 2^e` rounded to an integer (R49). -/
def roundInt (neg : Bool) (n d : Nat) (e : Int) : Int :=
  let r := rneDiv (shiftUp n e (min e 0)) (shiftUp d 0 (min e 0))
  if neg then -(r : Int) else (r : Int)

/-- Convert an exact ratio into a stored format (R57, R60 to R62). The index formats are QUANT's (R98). -/
def writeQuot (f : Fmt) (sat : Bool) (v : Quot) : Wr :=
  match f.float with
  | some p =>
    match v with
    | .nan => { bits := p.nanCode }
    | .inf s => if p.hasInf then { bits := p.infCode s } else p.overflow s sat
    | .rat s n d e => encodeFloat p sat s n d e
  | none =>
    match f.int with
    | some (w, u) =>
      match v with
      | .nan => { bits := 0, invalid := true }
      | .inf s => { bits := lowBits w (if s then -(2 ^ (w - 1)) else 2 ^ (w - 1) - 1), outSat := true }
      | .rat s n d e => writeInt w sat (roundInt s n d (e - u))
    | none => {}

/-- A value as a ratio. -/
def Val.quot : Val → Quot
  | .nan => .nan
  | .inf s => .inf s
  | .fin s m e => .rat s m 1 e

/-- Convert a value (R57). -/
def writeVal (f : Fmt) (sat : Bool) (v : Val) : Wr := writeQuot f sat v.quot

/-- The exact quotient of two values. A division by zero gives infinity, and 0 ÷ 0 and ∞ ÷ ∞ give NaN, as in IEEE 754 (R57). -/
def Val.div (a b : Val) : Quot :=
  match a, b with
  | .nan, _ => .nan
  | _, .nan => .nan
  | .inf _, .inf _ => .nan
  | .inf s, .fin t _ _ => .inf (s != t)
  | .fin s _ _, .inf t => .rat (s != t) 0 1 0
  | .fin s m e, .fin t n f =>
    if n = 0 then (if m = 0 then .nan else .inf (s != t)) else .rat (s != t) m n (e - f)

/-- The smallest FP32 code not less than a nonnegative value, +∞ above the largest finite one (R104). -/
def fp32Ceil (v : Val) : Nat :=
  match v with
  | .nan => 0x7FC00000
  | .inf _ => 0x7F800000
  | .fin _ m e =>
    if m = 0 then 0
    else
      let ex := max (floorLog2 m 1 + e) (-126)
      let q := ex - 23
      let sig0 := ceilDiv (shiftUp m e (min e q)) (shiftUp 1 q (min e q))
      let ex := if sig0 = 2 ^ 24 then ex + 1 else ex
      let sig := if sig0 = 2 ^ 24 then 2 ^ 23 else sig0
      if ex > 127 then 0x7F800000
      else if sig < 2 ^ 23 then sig
      else (ex + 127).toNat * 2 ^ 23 + (sig - 2 ^ 23)

/-! ### Block-float operands -/

/-- Largest `floor (log2 |v|)` over the finite nonzero values. -/
def groupTop : List Val → Option Int
  | [] => none
  | v :: vs =>
    let r := groupTop vs
    match v with
    | .fin _ m e =>
      if m = 0 then r
      else
        let t := floorLog2 m 1 + e
        match r with
        | none => some t
        | some x => some (max t x)
    | _ => r

/-- `|v| / 2^e` rounded (R64); 0 for a non-finite value (R66). -/
def magAt (e : Int) : Val → Nat
  | .fin _ m f => rneDiv (shiftUp m f (min e f)) (shiftUp 1 e (min e f))
  | _ => 0

/-- Normalise a group to `b` magnitude bits (R64): sign and magnitude of each element and the common exponent. -/
def toBlockFloat (vs : List Val) (b : Nat) : List (Bool × Nat) × Int :=
  match groupTop vs with
  | none => (vs.map fun v => (v.sign, 0), -512)
  | some top =>
    let e := top - ((b : Int) - 1)
    let e := if vs.any (fun v => magAt e v = 2 ^ b) then e + 1 else e
    (vs.map fun v => (v.sign, magAt e v), e)

/-! ### The exact accumulator -/

/-- `MAXV` (R67). -/
def maxv : Nat := 2 ^ 79 - 1

/-- One real product entering an accumulator (R68): the new sum, whether it was clamped, and whether it rounded to 0. -/
def enter (acc : Int) (neg : Bool) (ew : Int) (uw : Nat) (ea : Int) (ua : Nat) (ebase : Int) : Int × Bool × Bool :=
  let u := uw * ua
  if u = 0 then (acc, false, false)
  else
    let d := ew + ea - ebase
    if d ≥ 0 then
      let big := decide (d ≥ 80 ∨ u <<< d.toNat > maxv)
      let v : Nat := if big then maxv else u <<< d.toNat
      (if neg then acc - v else acc + v, big, false)
    else
      let v : Nat := rneShr u (-d).toNat
      (if neg then acc - v else acc + v, false, decide (v = 0))

/-- The saturated window value (R71) and whether it was clamped. -/
def window (acc : Int) : Int × Bool :=
  if acc > maxv then (maxv, true)
  else if acc < -(maxv : Int) then (-(maxv : Int), true)
  else (acc, false)

/-- Readout of a window value into a float format (R74). -/
def readoutFloat (p : FloatParam) (sat : Bool) (acc ebase : Int) : Wr :=
  encodeFloat p sat (decide (acc < 0)) acc.natAbs 1 ebase

/-- The integer rescale (R94), and whether SHIFT was above 95. -/
def rescaleInt (w : Nat) (sat : Bool) (acc : Int) (mult shift : Nat) : Wr × Bool :=
  let bad := decide (shift > 95)
  let sh := if bad then 95 else shift
  let q : Nat := rneShr (acc.natAbs * mult) sh
  (writeInt w sat (if acc < 0 then -(q : Int) else (q : Int)), bad)

/-! ### Scales and codes -/

/-- Value of a scale code (R81). -/
def scaleVal (k : ScaleKind) (code : Nat) : Val :=
  match k with
  | .none => .fin false 1 0
  | .e8m0 => if code % 256 = 255 then .nan else .fin false 1 ((code % 256 : Nat) - 127)
  | .bf16 => decodeVal .bf16 noCb code

/-- Bytes of one scale (R80). -/
def ScaleKind.bytes : ScaleKind → Nat
  | .none => 0
  | .e8m0 => 1
  | .bf16 => 2

def ScaleKind.ofCode : Nat → Option ScaleKind
  | 0 => some .none
  | 1 => some .e8m0
  | 2 => some .bf16
  | _ => none

/-- Group size of a GROUP code (R78); code 3 is refused at issue. -/
def groupSize (code : Nat) : Nat := if code = 0 then 32 else if code = 1 then 64 else 128

/-- Codebook values as a list, from its FP16 codes. -/
def cbVals (codes : List Nat) : List Val := codes.map (decodeVal .fp16 noCb)

/-- `Qmax` of a format (R96); the codebook counts for the index formats. -/
def qmax (f : Fmt) (cb : List Val) : Val :=
  match f with
  | .int8 => .fin false 127 0
  | .int4 => .fin false 7 0
  | .e4m3 => .fin false 448 0
  | .e5m2 => .fin false 57344 0
  | .cb8 | .cb4 => (cb.filter Val.isFinite).foldl Val.maxAbs (.fin false 0 0)
  | _ => .fin false 1 0

/-- Scale selection (R97): the code of the smallest candidate `S` with `amax ≤ Qmax × S`. -/
def selectScale (k : ScaleKind) (amax qm : Val) : Nat :=
  match k with
  | .none => 0
  | .e8m0 =>
    match amax, qm with
    | .fin _ m e, .fin _ n f =>
      if m = 0 then 0
      else if n = 0 then 254
      else
        let p := floorLog2 m n + (e - f)
        let exact := (Val.fin false m e).eqv (.fin false n (f + p))
        let s := if exact then p else p + 1
        if s < -127 then 0 else if s > 127 then 254 else (s + 127).toNat
    | _, _ => 254
  | .bf16 =>
    match amax, qm with
    | .fin _ m e, .fin _ n f =>
      if m = 0 then 0x0080
      else if n = 0 then 0x7F7F
      else
        let p := floorLog2 m n + (e - f)
        if p < -126 then 0x0080
        else
          let q := p - 7
          let sig0 := ceilDiv (shiftUp m (e - f) (min (e - f) q)) (shiftUp n q (min (e - f) q))
          let p := if sig0 = 256 then p + 1 else p
          let sig := if sig0 = 256 then 128 else sig0
          if p > 127 then 0x7F7F else (p + 127).toNat * 128 + (sig - 128)
    | _, _ => 0x7F7F

/-- `|q − v|` scaled by the quotient's denominator and a power of two, for comparing distances (R98). -/
def quotDist (s : Bool) (n d : Nat) (e : Int) (v : Val) : Option Nat :=
  match v with
  | .fin t m f =>
    let b := min e (-64)
    let x := signedAt s n e b
    let y := signedAt t (d * m) f b
    some (x - y).natAbs
  | _ => none

/-- Index of the finite entry nearest to a ratio, ties to the lower index (R98). -/
def nearestEntry (cb : List Val) (s : Bool) (n d : Nat) (e : Int) : Option (Nat × Nat) :=
  (cb.zipIdx).foldl (fun best (v, i) =>
    match quotDist s n d e v with
    | none => best
    | some x =>
      match best with
      | none => some (i, x)
      | some (j, y) => if x < y then some (i, x) else some (j, y)) none

/-- Index of the smallest (or largest) finite entry, ties to the lower index (R98). -/
def extremeEntry (cb : List Val) (low : Bool) : Option Nat :=
  ((cb.zipIdx).foldl (fun (best : Option (Val × Nat)) (v, i) =>
    if !v.isFinite then best
    else
      match best with
      | none => some (v, i)
      | some (w, j) => if (if low then v.lt w else w.lt v) then some (v, i) else some (w, j)) none).map (·.2)

/-- `q > v` for a ratio and a finite value. -/
def quotGt (s : Bool) (n d : Nat) (e : Int) (v : Val) : Bool :=
  match v with
  | .fin t m f =>
    let b := min e f
    decide (signedAt s n e b > signedAt t (d * m) f b)
  | _ => false

def quotLt (s : Bool) (n d : Nat) (e : Int) (v : Val) : Bool :=
  match v with
  | .fin t m f =>
    let b := min e f
    decide (signedAt s n e b < signedAt t (d * m) f b)
  | _ => false

/-- Code one element in an index format (R98): the code, whether it was clamped, and whether INVALID is set. -/
def codeCb (cb : List Val) (q : Quot) : Nat × Bool × Bool :=
  if !(cb.any Val.isFinite) then (0, false, true)
  else
    let zi := ((nearestEntry cb false 0 1 0).map (·.1)).getD 0
    match q with
    | .nan => (zi, false, true)
    | .inf s => ((extremeEntry cb s).getD 0, true, false)
    | .rat s n d e =>
      let lo := (extremeEntry cb true).getD 0
      let hi := (extremeEntry cb false).getD 0
      if quotGt s n d e (cb.getD hi .nan) then (hi, true, false)
      else if quotLt s n d e (cb.getD lo .nan) then (lo, true, false)
      else (((nearestEntry cb s n d e).map (·.1)).getD 0, false, false)

/-- Code one element under the scale given (R98, R105). In DELAYED mode a code outside its format is clamped whatever SAT,
and reported as `clamped`, not as an out-of-range write. -/
def quantElem (f : Fmt) (cb : List Val) (delayed sat : Bool) (v scale : Val) : Wr :=
  let q := v.div scale
  match f with
  | .cb8 | .cb4 =>
    let (c, cl, inv) := codeCb cb q
    { bits := c, outSat := cl && !delayed, clamped := cl && delayed, invalid := inv }
  | _ =>
    let w := writeQuot f (sat || delayed) q
    let w := if q = .nan then { w with invalid := true } else w
    if delayed then { w with outSat := false, outOvf := false, clamped := w.outSat || w.outOvf } else w

end Sys2Proof.Machine
end

