-- ==== Sys2Proof/Machine/RegTable.lean ====
section
/-! DEFINITION. The register tables of the specification: one name per field, and for each page type the rows of its
table (offset, bits, access, reset value), read off the tables of R76, R110, R111, R133, R165, R200, R201, R233, R258 to
R260, R291, R321, R322, R342, R367 to R369, R390, R412 to R416, R444 to R447, R463, R466, R480, R486, R488, R512, R513,
R537, R552 to R554, R568 and R589. Reserved bits have no row: they read 0 and keep nothing (R15). -/

namespace Sys2Proof.Machine

/-! Fields of the common header (R466). -/

def F.PAGE_ID_TYPE : Fld := ⟨0x000, 7, 0⟩
def F.PAGE_ID_W : Fld := ⟨0x000, 11, 8⟩
def F.PAGE_ID_INSTANCE : Fld := ⟨0x000, 19, 12⟩
def F.PAGE_VER_MINOR : Fld := ⟨0x004, 7, 0⟩
def F.PAGE_VER_MAJOR : Fld := ⟨0x004, 15, 8⟩
def F.PAGE_CTRL_EN : Fld := ⟨0x008, 0, 0⟩
def F.PAGE_CTRL_SRST : Fld := ⟨0x008, 1, 1⟩
def F.PAGE_STAT_READY : Fld := ⟨0x00C, 0, 0⟩
def F.PAGE_STAT_BUSY : Fld := ⟨0x00C, 1, 1⟩
def F.PAGE_STAT_FAULT : Fld := ⟨0x00C, 2, 2⟩
def F.PAGE_STAT_SHUTTING : Fld := ⟨0x00C, 3, 3⟩
def F.PAGE_STAT_PENDING_EN : Fld := ⟨0x00C, 4, 4⟩
def F.PAGE_STAT_SRST_PEND : Fld := ⟨0x00C, 5, 5⟩
def F.IRQ_STAT : Fld := ⟨0x010, 31, 0⟩
def F.IRQ_MASK : Fld := ⟨0x014, 31, 0⟩
def F.IRQ_FORCE : Fld := ⟨0x018, 31, 0⟩
def F.CFG_CLASS : Fld := ⟨0x01C, 9, 0⟩
def F.IND_ADDR_ADDR : Fld := ⟨0x020, 30, 0⟩
def F.IND_ADDR_AUTOINC : Fld := ⟨0x020, 31, 31⟩
def F.IND_DATA : Fld := ⟨0x024, 31, 0⟩
def F.IND_STAT_BUSY : Fld := ⟨0x028, 0, 0⟩
def F.IND_STAT_IND_ERR : Fld := ⟨0x028, 1, 1⟩

/-! Fields of page type sys (R589). -/

def F.SYS_PART_PART : Fld := ⟨0x040, 15, 0⟩
def F.SYS_PART_STEPPING : Fld := ⟨0x040, 23, 16⟩
def F.SYS_STRAP_FWTOP : Fld := ⟨0x044, 0, 0⟩
def F.SYS_STRAP_BOOTSRC : Fld := ⟨0x044, 2, 1⟩
def F.SYS_STRAP_MGMT_ADDR : Fld := ⟨0x044, 5, 3⟩
def F.SYS_RESET_CAUSE_POR : Fld := ⟨0x048, 0, 0⟩
def F.SYS_RESET_CAUSE_SYSRST_PIN : Fld := ⟨0x048, 1, 1⟩
def F.SYS_RESET_CAUSE_WARM_CMD : Fld := ⟨0x048, 2, 2⟩
def F.SYS_RESET_CAUSE_THERMTRIP : Fld := ⟨0x048, 3, 3⟩
def F.SYS_RESET_CAUSE_BROWNOUT : Fld := ⟨0x048, 4, 4⟩
def F.SYS_RESET_CAUSE_SEQ_ERR : Fld := ⟨0x048, 5, 5⟩
def F.SYS_RST_CMD_WARM : Fld := ⟨0x04C, 0, 0⟩
def F.SYS_RST_CMD_KEY : Fld := ⟨0x04C, 31, 16⟩
def F.SYS_BOOT_STAT_STATE : Fld := ⟨0x050, 2, 0⟩
def F.SYS_BOOT_STAT_CAUSE : Fld := ⟨0x050, 5, 3⟩
def F.SYS_BOOT_CMD : Fld := ⟨0x054, 0, 0⟩
def F.SYS_BOOT_SRC_LO : Fld := ⟨0x058, 31, 6⟩
def F.SYS_BOOT_SRC_HI : Fld := ⟨0x05C, 7, 0⟩
def F.SYS_BOOT_LEN : Fld := ⟨0x060, 23, 0⟩
def F.SYS_ERR_STAT_LOADER_BAD : Fld := ⟨0x064, 0, 0⟩
def F.SYS_ERR_STAT_BOOT_BUSY : Fld := ⟨0x064, 1, 1⟩
def F.SYS_ERR_STAT_CMD_KEY_BAD : Fld := ⟨0x064, 2, 2⟩
def F.SYS_APP_START : Fld := ⟨0x068, 15, 1⟩

/-! Fields of page type sysFab (R488). -/

def F.SYS_FAB_ERR_STAT_UNMAPPED : Fld := ⟨0x040, 0, 0⟩
def F.SYS_FAB_ERR_STAT_SIZE_BAD : Fld := ⟨0x040, 1, 1⟩
def F.SYS_FAB_ERR_ADDR : Fld := ⟨0x044, 31, 0⟩
def F.SYS_FAB_ERR_ADDR_HI_ADDR : Fld := ⟨0x048, 7, 0⟩
def F.SYS_FAB_ERR_ADDR_HI_AGENT : Fld := ⟨0x048, 10, 8⟩
def F.SYS_FAB_ERR_ADDR_HI_WRITE : Fld := ⟨0x048, 11, 11⟩
def F.SYS_FAB_UNMAP_CNT : Fld := ⟨0x04C, 31, 0⟩
def F.SYS_FAB_SIZE_CNT : Fld := ⟨0x050, 31, 0⟩

/-! Fields of page type iagg (R480). -/

def F.IAGG_PEND_LO : Fld := ⟨0x040, 31, 0⟩
def F.IAGG_PEND_HI : Fld := ⟨0x044, 31, 0⟩
def F.IAGG_EN_LO : Fld := ⟨0x048, 31, 0⟩
def F.IAGG_EN_HI : Fld := ⟨0x04C, 31, 0⟩
def F.IAGG_DEST (k : Nat) : Fld := ⟨0x050 + 4 * k, 31, 0⟩
def F.IAGG_EOI_VECTOR : Fld := ⟨0x060, 5, 0⟩
def F.IAGG_EOI_GO : Fld := ⟨0x060, 31, 31⟩
def F.IAGG_SENT_CNT : Fld := ⟨0x064, 31, 0⟩

/-! Fields of page type cfgi (R486). -/

def F.CFG_CTRL_SWEEP_EN : Fld := ⟨0x040, 0, 0⟩
def F.CFG_CTRL_FREEZE_EN : Fld := ⟨0x040, 1, 1⟩
def F.CFG_CTRL_HOLD : Fld := ⟨0x040, 2, 2⟩
def F.CFG_STAT_REF_VALID : Fld := ⟨0x044, 0, 0⟩
def F.CFG_STAT_COMMIT_PEND : Fld := ⟨0x044, 1, 1⟩
def F.CFG_STAT_SWEEPING : Fld := ⟨0x044, 2, 2⟩
def F.CFG_STAT_FROZEN : Fld := ⟨0x044, 3, 3⟩
def F.CFG_ERR_STAT : Fld := ⟨0x048, 0, 0⟩
def F.CRC_COMMIT : Fld := ⟨0x04C, 0, 0⟩
def F.CFG_CRC_REF : Fld := ⟨0x050, 31, 0⟩
def F.CFG_CRC_LAST : Fld := ⟨0x054, 31, 0⟩
def F.CFG_SWEEP_CNT : Fld := ⟨0x058, 31, 0⟩
def F.CFG_DRIFT_CNT : Fld := ⟨0x05C, 31, 0⟩
def F.CFG_DRIFT_PAGE_PAGE : Fld := ⟨0x060, 15, 0⟩
def F.CFG_DRIFT_PAGE_VALID : Fld := ⟨0x060, 31, 31⟩

/-! Fields of page type det (R390). -/

def F.DET_CTRL : Fld := ⟨0x040, 0, 0⟩
def F.DET_STAT : Fld := ⟨0x044, 0, 0⟩
def F.DET_ERR_STAT_RING_FULL : Fld := ⟨0x048, 0, 0⟩
def F.DET_ERR_STAT_ID_MISS : Fld := ⟨0x048, 1, 1⟩
def F.DET_ERR_STAT_REPLAY_CLASH : Fld := ⟨0x048, 2, 2⟩
def F.DET_REC_CNT : Fld := ⟨0x04C, 31, 0⟩
def F.DET_DROP_CNT : Fld := ⟨0x050, 31, 0⟩
def F.DET_IDMISS_CNT : Fld := ⟨0x054, 31, 0⟩
def F.DET_RING_BASE_LO (k : Nat) : Fld := ⟨0x080 + 16 * k, 31, 7⟩
def F.DET_RING_BASE_HI (k : Nat) : Fld := ⟨0x084 + 16 * k, 7, 0⟩
def F.DET_RING_SIZE_SIZE (k : Nat) : Fld := ⟨0x088 + 16 * k, 15, 0⟩
def F.DET_RING_SIZE_WR (k : Nat) : Fld := ⟨0x088 + 16 * k, 31, 16⟩
def F.DET_RING_RD (k : Nat) : Fld := ⟨0x08C + 16 * k, 15, 0⟩

/-! Fields of page type floe (R201). -/

def F.FLOE_ID_LOGICAL : Fld := ⟨0x040, 5, 0⟩
def F.FLOE_ID_CLUSTER : Fld := ⟨0x040, 8, 6⟩
def F.FLOE_KSTART_OFFSET : Fld := ⟨0x044, 21, 0⟩
def F.FLOE_KSTART_GO : Fld := ⟨0x044, 31, 31⟩
def F.FLOE_KSTAT_BUSY : Fld := ⟨0x048, 0, 0⟩
def F.FLOE_KSTAT_PRELOAD : Fld := ⟨0x048, 1, 1⟩
def F.FLOE_KSTAT_WAIT_BRASH : Fld := ⟨0x048, 2, 2⟩
def F.FLOE_KSTAT_POISON_LATCH : Fld := ⟨0x048, 3, 3⟩
def F.FLOE_KSTAT_PC : Fld := ⟨0x048, 15, 6⟩
def F.FLOE_ERR_STAT_NATIVE_OVERRUN : Fld := ⟨0x04C, 0, 0⟩
def F.FLOE_ERR_STAT_NATIVE_ILLEGAL : Fld := ⟨0x04C, 1, 1⟩
def F.FLOE_ERR_STAT_NATIVE_OOB : Fld := ⟨0x04C, 2, 2⟩
def F.FLOE_ERR_STAT_KSTART_OVERRUN : Fld := ⟨0x04C, 3, 3⟩
def F.FLOE_ERR_STAT_KSTART_DENIED : Fld := ⟨0x04C, 4, 4⟩
def F.FLOE_ERR_STAT_SUMM_POISON : Fld := ⟨0x04C, 5, 5⟩
def F.FLOE_ERR_STAT_BRASH_WAIT : Fld := ⟨0x04C, 6, 6⟩
def F.FLOE_KHDR : Fld := ⟨0x050, 21, 0⟩
def F.FLOE_KDECL : Fld := ⟨0x054, 31, 0⟩
def F.FLOE_KCYC : Fld := ⟨0x058, 31, 0⟩
def F.FLOE_KDONE_CNT : Fld := ⟨0x05C, 31, 0⟩
def F.FLOE_KFAULT_CNT : Fld := ⟨0x060, 31, 0⟩
def F.FLOE_OOB_CNT : Fld := ⟨0x064, 31, 0⟩
def F.FLOE_KBUSY_CYC_LO : Fld := ⟨0x070, 31, 0⟩
def F.FLOE_KBUSY_CYC_HI : Fld := ⟨0x074, 31, 0⟩
def F.FLOE_SBR_LO : Fld := ⟨0x078, 31, 0⟩
def F.FLOE_SBR_HI : Fld := ⟨0x07C, 31, 0⟩

/-! Fields of page type gaff (R110, R165). -/

def F.GAFF_QNT_STAT_SCALE_STALE : Fld := ⟨0x300, 0, 0⟩
def F.GAFF_QNT_STAT_UNDERUSE : Fld := ⟨0x300, 1, 1⟩
def F.GAFF_QNT_STAT_ZERO_RANGE : Fld := ⟨0x300, 2, 2⟩
def F.GAFF_QNT_STAT_STALE_FAULT : Fld := ⟨0x300, 3, 3⟩
def F.GAFF_QNT_STAT_CB_MISSING : Fld := ⟨0x300, 4, 4⟩
def F.GAFF_QNT_STAT_FMT_ILLEGAL : Fld := ⟨0x300, 5, 5⟩
def F.GAFF_QNT_STAT_RESCALE_BAD : Fld := ⟨0x300, 6, 6⟩
def F.GAFF_QNT_STAT_INVALID : Fld := ⟨0x300, 7, 7⟩
def F.GAFF_QNT_SAT_CNT : Fld := ⟨0x304, 31, 0⟩
def F.GAFF_QNT_STALE_CNT : Fld := ⟨0x308, 31, 0⟩
def F.GAFF_QNT_UNDER_CNT : Fld := ⟨0x30C, 31, 0⟩
def F.GAFF_QNT_ZR_CNT : Fld := ⟨0x310, 31, 0⟩
def F.GAFF_QNT_CTRL : Fld := ⟨0x314, 0, 0⟩
def F.GAFF_ISSUE_OFFSET : Fld := ⟨0x040, 21, 0⟩
def F.GAFF_ISSUE_GO : Fld := ⟨0x040, 31, 31⟩
def F.GAFF_STAT_BUSY : Fld := ⟨0x044, 0, 0⟩
def F.GAFF_STAT_LATCHED : Fld := ⟨0x044, 1, 1⟩
def F.GAFF_STAT_MERGING : Fld := ⟨0x044, 2, 2⟩
def F.GAFF_STAT_DEFERRED : Fld := ⟨0x044, 3, 3⟩
def F.GAFF_STAT_OPC : Fld := ⟨0x044, 9, 4⟩
def F.GAFF_STAT_MEMBER : Fld := ⟨0x044, 13, 10⟩
def F.GAFF_ERR_STAT_OPC_ILLEGAL : Fld := ⟨0x048, 0, 0⟩
def F.GAFF_ERR_STAT_WING_BAD : Fld := ⟨0x048, 1, 1⟩
def F.GAFF_ERR_STAT_SHAPE_EXCEEDS : Fld := ⟨0x048, 2, 2⟩
def F.GAFF_ERR_STAT_WC_EXCEEDS : Fld := ⟨0x048, 3, 3⟩
def F.GAFF_ERR_STAT_WC_OVERRUN : Fld := ⟨0x048, 4, 4⟩
def F.GAFF_ERR_STAT_ISSUE_OVERRUN : Fld := ⟨0x048, 5, 5⟩
def F.GAFF_ERR_STAT_ISSUE_DENIED : Fld := ⟨0x048, 6, 6⟩
def F.GAFF_ERR_STAT_PEER_FAULT : Fld := ⟨0x048, 7, 7⟩
def F.GAFF_ERR_STAT_DEFER_LOST : Fld := ⟨0x048, 8, 8⟩
def F.GAFF_ERR_STAT_GATHER_OOB : Fld := ⟨0x048, 9, 9⟩
def F.GAFF_ERR_STAT_ATTN_EMPTY : Fld := ⟨0x048, 10, 10⟩
def F.GAFF_ERR_STAT_ADAPT_SKIPPED : Fld := ⟨0x048, 11, 11⟩
def F.GAFF_SHAPE_CAUSE : Fld := ⟨0x04C, 3, 0⟩
def F.GAFF_FAULT_ID : Fld := ⟨0x050, 31, 0⟩
def F.GAFF_WC_CYC : Fld := ⟨0x054, 31, 0⟩
def F.GAFF_ALLOC_LO : Fld := ⟨0x058, 21, 0⟩
def F.GAFF_ALLOC_HI : Fld := ⟨0x05C, 22, 0⟩
def F.GAFF_DONE_CNT : Fld := ⟨0x060, 31, 0⟩
def F.GAFF_ZERO_CNT : Fld := ⟨0x064, 31, 0⟩
def F.GAFF_FAULT_CNT : Fld := ⟨0x068, 31, 0⟩
def F.GAFF_MASK_CNT : Fld := ⟨0x06C, 31, 0⟩
def F.GAFF_OOB_CNT : Fld := ⟨0x070, 31, 0⟩
def F.GAFF_SKIP_CNT : Fld := ⟨0x074, 31, 0⟩
def F.GAFF_BUSY_CYC_LO : Fld := ⟨0x080, 31, 0⟩
def F.GAFF_BUSY_CYC_HI : Fld := ⟨0x084, 31, 0⟩

/-! Fields of page type brash (R200). -/

def F.BRASH_STAT_BUSY : Fld := ⟨0x040, 0, 0⟩
def F.BRASH_STAT_OWNER : Fld := ⟨0x040, 2, 1⟩
def F.BRASH_STAT_VL : Fld := ⟨0x040, 12, 3⟩
def F.BRASH_NUM_STAT_INVALID : Fld := ⟨0x044, 0, 0⟩
def F.BRASH_NUM_STAT_DIVZERO : Fld := ⟨0x044, 1, 1⟩
def F.BRASH_NUM_STAT_OUT_SAT : Fld := ⟨0x044, 2, 2⟩
def F.BRASH_NUM_STAT_OUT_OVF : Fld := ⟨0x044, 3, 3⟩
def F.BRASH_NUM_STAT_SCAT_DUP : Fld := ⟨0x044, 4, 4⟩
def F.BRASH_INVALID_CNT : Fld := ⟨0x048, 31, 0⟩
def F.BRASH_OVF_CNT : Fld := ⟨0x04C, 31, 0⟩
def F.BRASH_DIVZERO_CNT : Fld := ⟨0x050, 31, 0⟩
def F.BRASH_BUSY_CYC_LO : Fld := ⟨0x060, 31, 0⟩
def F.BRASH_BUSY_CYC_HI : Fld := ⟨0x064, 31, 0⟩
def F.BRASH_VINSN_LO : Fld := ⟨0x068, 31, 0⟩
def F.BRASH_VINSN_HI : Fld := ⟨0x06C, 31, 0⟩

/-! Fields of page type spar (R233). -/

def F.SPAR_KSTART_OFFSET : Fld := ⟨0x040, 14, 0⟩
def F.SPAR_KSTART_GO : Fld := ⟨0x040, 31, 31⟩
def F.SPAR_STAT_BUSY : Fld := ⟨0x044, 0, 0⟩
def F.SPAR_STAT_PRELOAD : Fld := ⟨0x044, 1, 1⟩
def F.SPAR_STAT_IN_HANDLER : Fld := ⟨0x044, 2, 2⟩
def F.SPAR_STAT_IN_REP : Fld := ⟨0x044, 3, 3⟩
def F.SPAR_STAT_POISON_LATCH : Fld := ⟨0x044, 4, 4⟩
def F.SPAR_STAT_PC : Fld := ⟨0x044, 29, 16⟩
def F.SPAR_ERR_STAT_SPAR_OVERRUN : Fld := ⟨0x048, 0, 0⟩
def F.SPAR_ERR_STAT_SPAR_ILLEGAL : Fld := ⟨0x048, 1, 1⟩
def F.SPAR_ERR_STAT_SPAR_OOB : Fld := ⟨0x048, 2, 2⟩
def F.SPAR_ERR_STAT_KSTART_OVERRUN : Fld := ⟨0x048, 3, 3⟩
def F.SPAR_ERR_STAT_KSTART_DENIED : Fld := ⟨0x048, 4, 4⟩
def F.SPAR_ERR_STAT_HOLDOFF_OVER : Fld := ⟨0x048, 5, 5⟩
def F.SPAR_ERR_STAT_IMEM_UE : Fld := ⟨0x048, 6, 6⟩
def F.SPAR_ERR_STAT_IRQ_LOST : Fld := ⟨0x048, 7, 7⟩
def F.SPAR_NUM_STAT_ACC_OVF : Fld := ⟨0x04C, 0, 0⟩
def F.SPAR_NUM_STAT_OUT_SAT : Fld := ⟨0x04C, 1, 1⟩
def F.SPAR_NUM_STAT_OUT_OVF : Fld := ⟨0x04C, 2, 2⟩
def F.SPAR_MBOX : Fld := ⟨0x050, 15, 0⟩
def F.SPAR_KHDR : Fld := ⟨0x054, 14, 0⟩
def F.SPAR_KDECL : Fld := ⟨0x058, 31, 0⟩
def F.SPAR_KCYC : Fld := ⟨0x05C, 31, 0⟩
def F.SPAR_HOLDOFF_MAX : Fld := ⟨0x060, 31, 0⟩
def F.SPAR_HOLDOFF_DECL : Fld := ⟨0x064, 31, 0⟩
def F.SPAR_KDONE_CNT : Fld := ⟨0x068, 31, 0⟩
def F.SPAR_KFAULT_CNT : Fld := ⟨0x06C, 31, 0⟩
def F.SPAR_ACC_OVF_CNT : Fld := ⟨0x070, 31, 0⟩
def F.SPAR_OUT_OVF_CNT : Fld := ⟨0x074, 31, 0⟩
def F.SPAR_IRQ_CNT : Fld := ⟨0x078, 31, 0⟩
def F.SPAR_IRQ_LOST_CNT : Fld := ⟨0x07C, 31, 0⟩
def F.SPAR_IRQ_DROP_CNT : Fld := ⟨0x080, 31, 0⟩
def F.SPAR_OOB_CNT : Fld := ⟨0x084, 31, 0⟩
def F.SPAR_BUSY_CYC_LO : Fld := ⟨0x088, 31, 0⟩
def F.SPAR_BUSY_CYC_HI : Fld := ⟨0x08C, 31, 0⟩

/-! Fields of page type rime (R76, R111, R133). -/

def F.RIME_NUM_STAT_ACC_OVF : Fld := ⟨0x0C0, 0, 0⟩
def F.RIME_NUM_STAT_PROD_CLAMP : Fld := ⟨0x0C0, 1, 1⟩
def F.RIME_NUM_STAT_NONFINITE_IN : Fld := ⟨0x0C0, 2, 2⟩
def F.RIME_NUM_STAT_OUT_SAT : Fld := ⟨0x0C0, 3, 3⟩
def F.RIME_NUM_STAT_OUT_OVF : Fld := ⟨0x0C0, 4, 4⟩
def F.RIME_ACC_OVF_CNT : Fld := ⟨0x0C4, 31, 0⟩
def F.RIME_PROD_CLAMP_CNT : Fld := ⟨0x0C8, 31, 0⟩
def F.RIME_ENTRY_ZERO_CNT : Fld := ⟨0x0CC, 31, 0⟩
def F.RIME_NONFINITE_CNT : Fld := ⟨0x0D0, 31, 0⟩
def F.RIME_OUT_OVF_CNT : Fld := ⟨0x0D4, 31, 0⟩
def F.RIME_CB_SLOT_VALID (k : Nat) : Fld := ⟨0x100 + 4 * k, 0, 0⟩
def F.RIME_CB_SLOT_SIZE (k : Nat) : Fld := ⟨0x100 + 4 * k, 1, 1⟩
def F.RIME_CB_SLOT_LOADING (k : Nat) : Fld := ⟨0x100 + 4 * k, 2, 2⟩
def F.RIME_CB_SLOT_DEFERRED (k : Nat) : Fld := ⟨0x100 + 4 * k, 3, 3⟩
def F.RIME_CB_SLOT_CB_ID (k : Nat) : Fld := ⟨0x100 + 4 * k, 31, 16⟩
def F.RIME_CB_STAT_CB_OVERRUN : Fld := ⟨0x120, 0, 0⟩
def F.RIME_CB_STAT_CB_NONFINITE : Fld := ⟨0x120, 1, 1⟩
def F.RIME_CB_DEFER_CNT : Fld := ⟨0x124, 31, 0⟩
def F.RIME_CTRL : Fld := ⟨0x040, 0, 0⟩
def F.RIME_STAT_BUSY : Fld := ⟨0x044, 0, 0⟩
def F.RIME_STAT_TRANSPOSED : Fld := ⟨0x044, 1, 1⟩
def F.RIME_STAT_COMPLEX : Fld := ⟨0x044, 2, 2⟩
def F.RIME_STAT_M : Fld := ⟨0x044, 6, 3⟩
def F.RIME_STAT_A : Fld := ⟨0x044, 10, 7⟩
def F.RIME_STAT_SHADOW_LOADED : Fld := ⟨0x044, 11, 11⟩
def F.RIME_STAT_CONJ : Fld := ⟨0x044, 12, 12⟩
def F.RIME_STAT_SPLIT : Fld := ⟨0x044, 13, 13⟩
def F.RIME_STAT_READOUT_BANK : Fld := ⟨0x044, 14, 14⟩
def F.RIME_ERR_STAT_CELL_PAR : Fld := ⟨0x048, 0, 0⟩
def F.RIME_ERR_STAT_POISON_IN : Fld := ⟨0x048, 1, 1⟩
def F.RIME_CELL_PAR_CNT : Fld := ⟨0x04C, 31, 0⟩
def F.RIME_POISON_CNT : Fld := ⟨0x050, 31, 0⟩
def F.RIME_TILE_CNT : Fld := ⟨0x054, 31, 0⟩
def F.RIME_BUSY_CYC_LO : Fld := ⟨0x060, 31, 0⟩
def F.RIME_BUSY_CYC_HI : Fld := ⟨0x064, 31, 0⟩
def F.RIME_STALL_CYC_LO : Fld := ⟨0x068, 31, 0⟩
def F.RIME_STALL_CYC_HI : Fld := ⟨0x06C, 31, 0⟩
def F.RIME_CELLPROD_LO : Fld := ⟨0x070, 31, 0⟩
def F.RIME_CELLPROD_HI : Fld := ⟨0x074, 31, 0⟩
def F.RIME_GATED_LO : Fld := ⟨0x078, 31, 0⟩
def F.RIME_GATED_HI : Fld := ⟨0x07C, 31, 0⟩
def F.RIME_READOUT_LO : Fld := ⟨0x080, 31, 0⟩
def F.RIME_READOUT_HI : Fld := ⟨0x084, 31, 0⟩

/-! Fields of page type fmem (R258). -/

def F.FMEM_CTRL_HOST_RD : Fld := ⟨0x040, 0, 0⟩
def F.FMEM_CTRL_HOST_WR : Fld := ⟨0x040, 1, 1⟩
def F.FMEM_CTRL_PATROL_EN : Fld := ⟨0x040, 2, 2⟩
def F.FMEM_STAT_INIT_DONE : Fld := ⟨0x044, 0, 0⟩
def F.FMEM_STAT_SCRUBBING : Fld := ⟨0x044, 1, 1⟩
def F.FMEM_STAT_SCRUB_PENDING : Fld := ⟨0x044, 2, 2⟩
def F.FMEM_ERR_STAT_SP_UE : Fld := ⟨0x048, 0, 0⟩
def F.FMEM_ERR_STAT_WB_UE : Fld := ⟨0x048, 1, 1⟩
def F.FMEM_ERR_STAT_ACC_UE : Fld := ⟨0x048, 2, 2⟩
def F.FMEM_ERR_STAT_SPM_UE : Fld := ⟨0x048, 3, 3⟩
def F.FMEM_ERR_STAT_TAG_UE : Fld := ⟨0x048, 4, 4⟩
def F.FMEM_ERR_STAT_WIN_DENIED : Fld := ⟨0x048, 5, 5⟩
def F.FMEM_ERR_STAT_WB_COLLIDE : Fld := ⟨0x048, 6, 6⟩
def F.FMEM_ERR_STAT_CE_SEEN : Fld := ⟨0x048, 7, 7⟩
def F.FMEM_CE_CNT : Fld := ⟨0x04C, 31, 0⟩
def F.FMEM_UE_CNT : Fld := ⟨0x050, 31, 0⟩
def F.FMEM_WLC_CNT : Fld := ⟨0x054, 31, 0⟩
def F.FMEM_ERR_ADDR : Fld := ⟨0x058, 23, 0⟩
def F.FMEM_WIN_DENY_CNT : Fld := ⟨0x05C, 31, 0⟩
def F.FMEM_PATROL_CNT : Fld := ⟨0x060, 31, 0⟩
def F.FMEM_WB_COLL_CNT : Fld := ⟨0x064, 31, 0⟩

/-! Fields of page type fwin (R259). -/

def F.FWIN_BASE (k : Nat) : Fld := ⟨0x040 + 16 * k, 23, 6⟩
def F.FWIN_SIZE (k : Nat) : Fld := ⟨0x044 + 16 * k, 4, 0⟩
def F.FWIN_PEERS (k : Nat) : Fld := ⟨0x048 + 16 * k, 15, 0⟩
def F.FWIN_CTRL_EN (k : Nat) : Fld := ⟨0x04C + 16 * k, 0, 0⟩
def F.FWIN_CTRL_RD (k : Nat) : Fld := ⟨0x04C + 16 * k, 1, 1⟩
def F.FWIN_CTRL_WR (k : Nat) : Fld := ⟨0x04C + 16 * k, 2, 2⟩
def F.FWIN_CTRL_TENANT (k : Nat) : Fld := ⟨0x04C + 16 * k, 5, 3⟩
def F.FWIN_CTRL_CLOSING (k : Nat) : Fld := ⟨0x04C + 16 * k, 6, 6⟩
def F.FWIN_CTRL_WIN_CFG_BAD (k : Nat) : Fld := ⟨0x04C + 16 * k, 7, 7⟩
def F.FWIN_DENY_CNT : Fld := ⟨0x0C0, 31, 0⟩
def F.FWIN_RD_CNT : Fld := ⟨0x0C4, 31, 0⟩
def F.FWIN_WR_CNT : Fld := ⟨0x0C8, 31, 0⟩

/-! Fields of page type cc (R568). -/

def F.CC_CTRL_AUTO_FENCE : Fld := ⟨0x040, 0, 0⟩
def F.CC_CTRL_FENCE_PAR_N : Fld := ⟨0x040, 3, 1⟩
def F.CC_CTRL_FENCE_UE_N : Fld := ⟨0x040, 6, 4⟩
def F.CC_CMD_FLOE : Fld := ⟨0x044, 2, 0⟩
def F.CC_CMD_RESTORE : Fld := ⟨0x044, 30, 30⟩
def F.CC_CMD_FENCE : Fld := ⟨0x044, 31, 31⟩
def F.CC_STAT_SPARE_AVAIL : Fld := ⟨0x048, 0, 0⟩
def F.CC_STAT_SUBST : Fld := ⟨0x048, 1, 1⟩
def F.CC_STAT_SUBST_FLOE : Fld := ⟨0x048, 4, 2⟩
def F.CC_STAT_LOST : Fld := ⟨0x048, 12, 5⟩
def F.CC_STAT_FACTORY_FENCE : Fld := ⟨0x048, 13, 13⟩
def F.CC_ERR_STAT_FENCED : Fld := ⟨0x04C, 0, 0⟩
def F.CC_ERR_STAT_SUBST_DONE : Fld := ⟨0x04C, 1, 1⟩
def F.CC_ERR_STAT_SUBST_FAIL : Fld := ⟨0x04C, 2, 2⟩
def F.CC_ERR_STAT_FLOE_LOST : Fld := ⟨0x04C, 3, 3⟩
def F.CC_ERR_STAT_FENCE_DENIED : Fld := ⟨0x04C, 4, 4⟩
def F.CC_ERR_STAT_FLOE_FATAL : Fld := ⟨0x04C, 5, 5⟩
def F.CC_FENCE_CNT : Fld := ⟨0x050, 31, 0⟩
def F.CC_SUBST_CNT : Fld := ⟨0x054, 31, 0⟩
def F.CC_LAST_SUBST_US : Fld := ⟨0x058, 15, 0⟩

/-! Fields of page type hal (R291). -/

def F.HAL_ARM_GO : Fld := ⟨0x040, 0, 0⟩
def F.HAL_ARM_CANCEL : Fld := ⟨0x040, 1, 1⟩
def F.HAL_ARM_CANCEL_ALL : Fld := ⟨0x040, 2, 2⟩
def F.HAL_STAT_ACTIVE : Fld := ⟨0x044, 0, 0⟩
def F.HAL_STAT_SHADOW_FULL : Fld := ⟨0x044, 1, 1⟩
def F.HAL_STAT_CANCELLING : Fld := ⟨0x044, 2, 2⟩
def F.HAL_STAT_CHANNEL : Fld := ⟨0x044, 3, 3⟩
def F.HAL_ERR_STAT_OVERRUN : Fld := ⟨0x048, 0, 0⟩
def F.HAL_ERR_STAT_CANCELLED : Fld := ⟨0x048, 1, 1⟩
def F.HAL_ERR_STAT_DESC_BAD : Fld := ⟨0x048, 2, 2⟩
def F.HAL_ERR_STAT_IDX_OOB : Fld := ⟨0x048, 3, 3⟩
def F.HAL_ERR_STAT_LINE_POISON : Fld := ⟨0x048, 4, 4⟩
def F.HAL_ERR_STAT_TENANT_MISMATCH : Fld := ⟨0x048, 5, 5⟩
def F.HAL_ERR_STAT_ARM_DENIED : Fld := ⟨0x048, 6, 6⟩
def F.HAL_ERR_STAT_LINE_UNMAPPED : Fld := ⟨0x048, 7, 7⟩
def F.HAL_BAD_CAUSE : Fld := ⟨0x04C, 3, 0⟩
def F.HAL_TENANT_TENANT : Fld := ⟨0x050, 2, 0⟩
def F.HAL_TENANT_PART : Fld := ⟨0x050, 3, 3⟩
def F.HAL_XFER_ID : Fld := ⟨0x054, 23, 0⟩
def F.HAL_LINES_DONE : Fld := ⟨0x058, 31, 0⟩
def F.HAL_DONE_CNT : Fld := ⟨0x05C, 31, 0⟩
def F.HAL_ZERO_CNT : Fld := ⟨0x060, 31, 0⟩
def F.HAL_CANCEL_CNT : Fld := ⟨0x064, 31, 0⟩
def F.HAL_OVERRUN_CNT : Fld := ⟨0x068, 31, 0⟩
def F.HAL_BAD_CNT : Fld := ⟨0x06C, 31, 0⟩
def F.HAL_OOB_CNT : Fld := ⟨0x070, 31, 0⟩
def F.TENANT_MISMATCH_CNT : Fld := ⟨0x074, 31, 0⟩
def F.HAL_POISON_CNT : Fld := ⟨0x078, 31, 0⟩
def F.HAL_DESC_STAGE (k : Nat) : Fld := ⟨0x080 + 4 * k, 31, 0⟩
def F.HAL_DGST (k : Nat) : Fld := ⟨0x0C0 + 4 * k, 31, 0⟩
def F.HAL_LINES_LO : Fld := ⟨0x0E0, 31, 0⟩
def F.HAL_LINES_HI : Fld := ⟨0x0E4, 31, 0⟩
def F.HAL_BUSY_CYC_LO : Fld := ⟨0x0E8, 31, 0⟩
def F.HAL_BUSY_CYC_HI : Fld := ⟨0x0EC, 31, 0⟩

/-! Fields of page type mst0 (R367). -/

def F.MST_CTRL : Fld := ⟨0x040, 0, 0⟩
def F.MST_STAT_ACTIVE : Fld := ⟨0x044, 0, 0⟩
def F.MST_STAT_VERIFYING : Fld := ⟨0x044, 1, 1⟩
def F.MST_STAT_STAGED : Fld := ⟨0x044, 2, 2⟩
def F.MST_STAT_STEP_GAP : Fld := ⟨0x044, 3, 3⟩
def F.MST_ERR_STAT_COMMIT_BAD : Fld := ⟨0x048, 0, 0⟩
def F.MST_ERR_STAT_DATA_LATE : Fld := ⟨0x048, 1, 1⟩
def F.MST_ERR_STAT_STEP_REALIGN : Fld := ⟨0x048, 2, 2⟩
def F.MST_ERR_STAT_ASSIGN_CONFLICT : Fld := ⟨0x048, 3, 3⟩
def F.MST_ERR_STAT_BE_NOFIT : Fld := ⟨0x048, 4, 4⟩
def F.MST_ERR_STAT_BE_STOPPED : Fld := ⟨0x048, 5, 5⟩
def F.MST_ERR_STAT_BE_TAIL_BAD : Fld := ⟨0x048, 6, 6⟩
def F.MST_TBL_BASE_LO : Fld := ⟨0x04C, 31, 6⟩
def F.MST_TBL_BASE_HI : Fld := ⟨0x050, 7, 0⟩
def F.MST_TBL_COMMIT : Fld := ⟨0x054, 0, 0⟩
def F.MST_BAD_CAUSE_CAUSE : Fld := ⟨0x058, 3, 0⟩
def F.MST_BAD_CAUSE_INDEX : Fld := ⟨0x058, 19, 4⟩
def F.MST_PERIOD : Fld := ⟨0x05C, 21, 0⟩
def F.MST_TBL_ID : Fld := ⟨0x060, 31, 0⟩
def F.MST_LATE_CNT : Fld := ⟨0x064, 31, 0⟩
def F.MST_SKIP_CNT : Fld := ⟨0x068, 31, 0⟩
def F.MST_COMMIT_CNT : Fld := ⟨0x06C, 31, 0⟩
def F.MST_GRP_FAIL_CNT : Fld := ⟨0x070, 31, 0⟩
def F.MST_ADP_SWAP_CELL : Fld := ⟨0x074, 9, 0⟩
def F.MST_ADP_SWAP_GO : Fld := ⟨0x074, 31, 31⟩
def F.MST_ISSUE_LO : Fld := ⟨0x078, 31, 0⟩
def F.MST_ISSUE_HI : Fld := ⟨0x07C, 31, 0⟩

/-! Fields of page type mst1 (R368). -/

def F.MST_PART_FLOE_LO (k : Nat) : Fld := ⟨0x040 + 32 * k, 31, 0⟩
def F.MST_PART_FLOE_HI (k : Nat) : Fld := ⟨0x044 + 32 * k, 31, 0⟩
def F.MST_PART_HAL (k i : Nat) : Fld := ⟨0x048 + 32 * k + 4 * i, 31, 0⟩
def F.MST_PART_CFG_TENANT (k : Nat) : Fld := ⟨0x058 + 32 * k, 2, 0⟩
def F.MST_PART_CFG_SERAC (k : Nat) : Fld := ⟨0x058 + 32 * k, 10, 3⟩
def F.MST_PART_CMD_CMD (k : Nat) : Fld := ⟨0x05C + 32 * k, 1, 0⟩
def F.MST_PART_CMD_STATE (k : Nat) : Fld := ⟨0x05C + 32 * k, 6, 4⟩
def F.MST_PART_CMD_GEN (k : Nat) : Fld := ⟨0x05C + 32 * k, 23, 8⟩

/-! Fields of page type mst2 (R369). -/

def F.MST_BE_BASE (k : Nat) : Fld := ⟨0x040 + 16 * k, 31, 0⟩
def F.MST_BE_SIZE (k : Nat) : Fld := ⟨0x044 + 16 * k, 15, 0⟩
def F.MST_BE_TAIL (k : Nat) : Fld := ⟨0x048 + 16 * k, 15, 0⟩
def F.MST_BE_HEAD_HEAD (k : Nat) : Fld := ⟨0x04C + 16 * k, 15, 0⟩
def F.MST_BE_HEAD_WAITING (k : Nat) : Fld := ⟨0x04C + 16 * k, 30, 30⟩
def F.MST_BE_HEAD_FLUSH (k : Nat) : Fld := ⟨0x04C + 16 * k, 31, 31⟩
def F.MST_BE_ADMIT_CNT : Fld := ⟨0x0C0, 31, 0⟩
def F.MST_BE_NOFIT_CNT : Fld := ⟨0x0C4, 31, 0⟩
def F.MST_BE_STOP_CNT : Fld := ⟨0x0C8, 31, 0⟩

/-! Fields of page type mor0 (R321). -/

def F.MOR_CTRL_EN : Fld := ⟨0x040, 0, 0⟩
def F.MOR_CTRL_LEARN_EN : Fld := ⟨0x040, 1, 1⟩
def F.MOR_STAT_OPEN_SLOTS : Fld := ⟨0x044, 7, 0⟩
def F.MOR_STAT_PARTNERS : Fld := ⟨0x044, 16, 8⟩
def F.MOR_ERR_STAT_PARTNER_NEW : Fld := ⟨0x048, 0, 0⟩
def F.MOR_ERR_STAT_PARTNER_GONE : Fld := ⟨0x048, 1, 1⟩
def F.MOR_ERR_STAT_PARTNER_FULL : Fld := ⟨0x048, 2, 2⟩
def F.MOR_ERR_STAT_SRC_CONFLICT : Fld := ⟨0x048, 3, 3⟩
def F.MOR_ERR_STAT_STREAM_CFG_BAD : Fld := ⟨0x048, 4, 4⟩
def F.MOR_ERR_STAT_BUF_FULL : Fld := ⟨0x048, 5, 5⟩
def F.MOR_ERR_STAT_ALLOC_LATE : Fld := ⟨0x048, 6, 6⟩
def F.MOR_ERR_STAT_STEP_CLOSE : Fld := ⟨0x048, 7, 7⟩
def F.MOR_ERR_STAT_OUT_SAT : Fld := ⟨0x048, 8, 8⟩
def F.MOR_ERR_STAT_OUT_OVF : Fld := ⟨0x048, 9, 9⟩
def F.MOR_PARTNER_AGE : Fld := ⟨0x04C, 15, 0⟩
def F.MOR_BUF_BASE : Fld := ⟨0x050, 19, 0⟩
def F.MOR_BUF_SIZE : Fld := ⟨0x054, 13, 0⟩
def F.MOR_ALLOC_PUSH0_SLOT : Fld := ⟨0x058, 15, 0⟩
def F.MOR_ALLOC_PUSH0_CELL_IX : Fld := ⟨0x058, 21, 16⟩
def F.MOR_ALLOC_PUSH1_ALLOC_MASK : Fld := ⟨0x05C, 13, 0⟩
def F.MOR_ALLOC_PUSH1_FIRST_DMRS : Fld := ⟨0x05C, 17, 14⟩
def F.MOR_ALLOC_PUSH1_GO : Fld := ⟨0x05C, 31, 31⟩
def F.BAL_SPAR_SLOTS : Fld := ⟨0x060, 7, 0⟩
def F.BAL_AC_DEPTH_DEPTH : Fld := ⟨0x064, 9, 0⟩
def F.BAL_AC_DEPTH_OCC : Fld := ⟨0x064, 25, 16⟩
def F.BAL_AC_POP : Fld := ⟨0x068, 9, 0⟩
def F.MOR_LATE_CNT : Fld := ⟨0x06C, 31, 0⟩
def F.MOR_EARLY_CNT : Fld := ⟨0x070, 31, 0⟩
def F.MOR_UNKNOWN_CNT : Fld := ⟨0x074, 31, 0⟩
def F.MOR_FMT_CNT : Fld := ⟨0x078, 31, 0⟩
def F.MOR_DUP_CNT : Fld := ⟨0x07C, 31, 0⟩
def F.MOR_SEQ_GAP_CNT : Fld := ⟨0x080, 31, 0⟩
def F.MOR_PLACEHOLDER_CNT : Fld := ⟨0x084, 31, 0⟩
def F.MOR_CONFLICT_CNT : Fld := ⟨0x088, 31, 0⟩
def F.MOR_OUT_OVF_CNT : Fld := ⟨0x08C, 31, 0⟩

/-! Fields of page type mor1 (R322). -/

def F.REC_CTRL_REC_EN : Fld := ⟨0x040, 0, 0⟩
def F.REC_CTRL_WRAP : Fld := ⟨0x040, 1, 1⟩
def F.REC_BASE : Fld := ⟨0x044, 19, 0⟩
def F.REC_SIZE : Fld := ⟨0x048, 13, 0⟩
def F.REC_WPTR : Fld := ⟨0x04C, 27, 0⟩
def F.RPL_PTR : Fld := ⟨0x050, 27, 0⟩
def F.RPL_END : Fld := ⟨0x054, 27, 0⟩
def F.REC_STAT_REC_FULL : Fld := ⟨0x058, 0, 0⟩
def F.REC_STAT_REPLAY_DONE : Fld := ⟨0x058, 1, 1⟩
def F.REC_STAT_REPLAY_BAD : Fld := ⟨0x058, 2, 2⟩
def F.REC_STAT_ADP_BUSY : Fld := ⟨0x058, 3, 3⟩
def F.REC_STAT_ADP_RUNNING : Fld := ⟨0x058, 4, 4⟩
def F.ADP_BASE : Fld := ⟨0x05C, 19, 0⟩
def F.ADP_CAP : Fld := ⟨0x060, 16, 0⟩
def F.ADP_SLOT_LINES_LINES : Fld := ⟨0x064, 19, 0⟩
def F.ADP_SLOT_LINES_QUEUE : Fld := ⟨0x064, 27, 20⟩
def F.ADP_AUG_BASE : Fld := ⟨0x068, 31, 0⟩
def F.ADP_EPOCH : Fld := ⟨0x06C, 31, 0⟩
def F.ADP_SEED : Fld := ⟨0x070, 31, 0⟩
def F.ADP_START : Fld := ⟨0x074, 0, 0⟩
def F.ADP_DROP_CNT : Fld := ⟨0x078, 31, 0⟩
def F.BAL_DROP_CNT : Fld := ⟨0x07C, 31, 0⟩

/-! Fields of page type serac (R342). -/

def F.SER_CTRL : Fld := ⟨0x040, 0, 0⟩
def F.SER_STAT_BUSY : Fld := ⟨0x044, 0, 0⟩
def F.SER_STAT_IN_JOBS : Fld := ⟨0x044, 2, 1⟩
def F.SER_STAT_OUT_RECS : Fld := ⟨0x044, 5, 3⟩
def F.SER_ERR_STAT_JOB_BAD : Fld := ⟨0x048, 0, 0⟩
def F.SER_ERR_STAT_IN_OVERRUN : Fld := ⟨0x048, 1, 1⟩
def F.SER_ERR_STAT_OUT_OVERRUN : Fld := ⟨0x048, 2, 2⟩
def F.SER_ERR_STAT_IN_POISON : Fld := ⟨0x048, 3, 3⟩
def F.SER_ERR_STAT_MEM_UE : Fld := ⟨0x048, 4, 4⟩
def F.SER_BAD_CAUSE : Fld := ⟨0x04C, 3, 0⟩
def F.SER_JOB_ID : Fld := ⟨0x050, 31, 0⟩
def F.SER_JOB_CNT : Fld := ⟨0x054, 31, 0⟩
def F.SER_CB_CNT : Fld := ⟨0x058, 31, 0⟩
def F.SER_CB_FAIL_CNT : Fld := ⟨0x05C, 31, 0⟩
def F.SER_TB_FAIL_CNT : Fld := ⟨0x060, 31, 0⟩
def F.SER_EARLY_CNT : Fld := ⟨0x064, 31, 0⟩
def F.SER_DISCARD_CNT : Fld := ⟨0x068, 31, 0⟩
def F.SER_WSET_LOAD_CNT : Fld := ⟨0x06C, 31, 0⟩
def F.SER_ITER_LO : Fld := ⟨0x070, 31, 0⟩
def F.SER_ITER_HI : Fld := ⟨0x074, 31, 0⟩
def F.SER_BUSY_CYC_LO : Fld := ⟨0x078, 31, 0⟩
def F.SER_BUSY_CYC_HI : Fld := ⟨0x07C, 31, 0⟩
def F.SER_WSET_CLR : Fld := ⟨0x080, 15, 0⟩

/-! Fields of page type firn (R260). -/

def F.FIRN_CTRL : Fld := ⟨0x040, 0, 0⟩
def F.FIRN_OP_KIND : Fld := ⟨0x044, 1, 0⟩
def F.FIRN_OP_TENANT : Fld := ⟨0x044, 4, 2⟩
def F.FIRN_OP_GO : Fld := ⟨0x044, 31, 31⟩
def F.FIRN_STAT : Fld := ⟨0x048, 0, 0⟩
def F.FIRN_ERR_STAT_UE : Fld := ⟨0x04C, 0, 0⟩
def F.FIRN_ERR_STAT_PIN_FULL : Fld := ⟨0x04C, 1, 1⟩
def F.FIRN_ERR_STAT_OP_OVERRUN : Fld := ⟨0x04C, 2, 2⟩
def F.FIRN_WAYS_CACHE_MASK (k : Nat) : Fld := ⟨0x060 + 4 * k, 11, 0⟩
def F.FIRN_WAYS_PIN_MASK (k : Nat) : Fld := ⟨0x060 + 4 * k, 27, 16⟩
def F.FIRN_CE_CNT : Fld := ⟨0x080, 31, 0⟩
def F.FIRN_UE_CNT : Fld := ⟨0x084, 31, 0⟩
def F.FIRN_REFETCH_CNT : Fld := ⟨0x088, 31, 0⟩
def F.FIRN_PINFULL_CNT : Fld := ⟨0x08C, 31, 0⟩
def F.FIRN_HIT_LO : Fld := ⟨0x090, 31, 0⟩
def F.FIRN_HIT_HI : Fld := ⟨0x094, 31, 0⟩
def F.FIRN_MISS_LO : Fld := ⟨0x098, 31, 0⟩
def F.FIRN_MISS_HI : Fld := ⟨0x09C, 31, 0⟩

/-! Fields of page type drc (R463). -/

def F.DRC_CTRL_PATROL_EN : Fld := ⟨0x040, 0, 0⟩
def F.DRC_CTRL_PATROL_RATE : Fld := ⟨0x040, 3, 1⟩
def F.DRC_CTRL_AUTO_REMAP : Fld := ⟨0x040, 4, 4⟩
def F.DRC_IW : Fld := ⟨0x044, 3, 0⟩
def F.DRC_STAT_REMAPPING : Fld := ⟨0x048, 0, 0⟩
def F.DRC_STAT_REMAP_Q : Fld := ⟨0x048, 3, 1⟩
def F.DRC_STAT_SPARES_MIN : Fld := ⟨0x048, 9, 4⟩
def F.DRC_ERR_STAT_UE : Fld := ⟨0x04C, 0, 0⟩
def F.DRC_ERR_STAT_CE_SEEN : Fld := ⟨0x04C, 1, 1⟩
def F.DRC_ERR_STAT_POISON_RD : Fld := ⟨0x04C, 2, 2⟩
def F.DRC_ERR_STAT_REMAP_DONE : Fld := ⟨0x04C, 3, 3⟩
def F.DRC_ERR_STAT_SPARE_EMPTY : Fld := ⟨0x04C, 4, 4⟩
def F.DRC_ERR_STAT_REMAP_LOST : Fld := ⟨0x04C, 5, 5⟩
def F.DRC_ERR_STAT_REMAP_BUSY : Fld := ⟨0x04C, 6, 6⟩
def F.DRC_ERR_STAT_IW_BUSY : Fld := ⟨0x04C, 7, 7⟩
def F.DRC_REMAP_CMD_ROW : Fld := ⟨0x050, 13, 0⟩
def F.DRC_REMAP_CMD_BANK : Fld := ⟨0x050, 17, 14⟩
def F.DRC_REMAP_CMD_GO : Fld := ⟨0x050, 31, 31⟩
def F.DRC_CE_CNT : Fld := ⟨0x054, 31, 0⟩
def F.DRC_UE_CNT : Fld := ⟨0x058, 31, 0⟩
def F.DRC_POISON_RD_CNT : Fld := ⟨0x05C, 31, 0⟩
def F.DRC_REMAP_CNT : Fld := ⟨0x060, 31, 0⟩
def F.DRC_PATROL_CNT : Fld := ⟨0x064, 31, 0⟩
def F.DRC_ERR_ADDR : Fld := ⟨0x068, 28, 0⟩
def F.DRC_CE_ADDR : Fld := ⟨0x06C, 28, 0⟩
def F.DRC_RD_LINES_LO : Fld := ⟨0x070, 31, 0⟩
def F.DRC_RD_LINES_HI : Fld := ⟨0x074, 31, 0⟩
def F.DRC_WR_LINES_LO : Fld := ⟨0x078, 31, 0⟩
def F.DRC_WR_LINES_HI : Fld := ⟨0x07C, 31, 0⟩
def F.DRC_IW_LINES_LO : Fld := ⟨0x080, 31, 0⟩
def F.DRC_IW_LINES_HI : Fld := ⟨0x084, 31, 0⟩

/-! Fields of page type tb (R412). -/

def F.TB_INC_FRAC : Fld := ⟨0x040, 31, 0⟩
def F.TB_INC_NS : Fld := ⟨0x044, 7, 0⟩
def F.TB_ADJ : Fld := ⟨0x048, 31, 0⟩
def F.TB_JUMP_THR : Fld := ⟨0x04C, 29, 0⟩
def F.TB_STEP_SEC_LO : Fld := ⟨0x050, 31, 0⟩
def F.TB_STEP_SEC_HI : Fld := ⟨0x054, 15, 0⟩
def F.TB_STEP_NS : Fld := ⟨0x058, 29, 0⟩
def F.TB_STEP_FRAC : Fld := ⟨0x05C, 31, 0⟩
def F.TB_STEP_CMD_GO : Fld := ⟨0x060, 0, 0⟩
def F.TB_STEP_CMD_MODE : Fld := ⟨0x060, 1, 1⟩
def F.TB_STAT_HOLDOVER : Fld := ⟨0x064, 0, 0⟩
def F.TB_STAT_SLEWING : Fld := ⟨0x064, 1, 1⟩
def F.TB_STAT_STEP_PEND : Fld := ⟨0x064, 2, 2⟩
def F.TB_ERR_STAT_JUMP_REFUSED : Fld := ⟨0x068, 0, 0⟩
def F.TB_ERR_STAT_MASTER_CHANGED : Fld := ⟨0x068, 1, 1⟩
def F.TB_ERR_STAT_MASTER_LOST : Fld := ⟨0x068, 2, 2⟩
def F.TB_ERR_STAT_INC_BAD : Fld := ⟨0x068, 3, 3⟩
def F.TB_ERR_STAT_STEP_BAD : Fld := ⟨0x068, 4, 4⟩
def F.TB_ERR_STAT_STEPPED : Fld := ⟨0x068, 5, 5⟩
def F.TB_ERR_STAT_WR_IGNORED : Fld := ⟨0x068, 6, 6⟩
def F.TB_RD_NS : Fld := ⟨0x06C, 29, 0⟩
def F.TB_RD_SEC_LO : Fld := ⟨0x070, 31, 0⟩
def F.TB_RD_SEC_HI : Fld := ⟨0x074, 15, 0⟩
def F.TB_RD_FRAC : Fld := ⟨0x078, 31, 0⟩
def F.TB_REFUSE_CNT : Fld := ⟨0x07C, 31, 0⟩
def F.TB_STEP_CNT : Fld := ⟨0x080, 31, 0⟩
def F.TB_IGNORED_CNT : Fld := ⟨0x084, 31, 0⟩

/-! Fields of page type ts (R413). -/

def F.TS_CLK_CTRL : Fld := ⟨0x040, 4, 0⟩
def F.TS_CLK_STAT_LOCKED : Fld := ⟨0x044, 0, 0⟩
def F.TS_CLK_STAT_CLK_HOLDOVER : Fld := ⟨0x044, 1, 1⟩
def F.TS_PTP_CTRL_TRACK_EN : Fld := ⟨0x048, 0, 0⟩
def F.TS_PTP_CTRL_PORT : Fld := ⟨0x048, 4, 1⟩
def F.TS_PTP_CTRL_DOMAIN : Fld := ⟨0x048, 12, 5⟩
def F.TS_PTP_CTRL_TIMEOUT_MS : Fld := ⟨0x048, 31, 16⟩
def F.TS_MASTER_LO : Fld := ⟨0x04C, 31, 0⟩
def F.TS_MASTER_HI : Fld := ⟨0x050, 31, 0⟩
def F.TS_MASTER_PORT_PORTNUM : Fld := ⟨0x054, 15, 0⟩
def F.TS_MASTER_PORT_VALID : Fld := ⟨0x054, 16, 16⟩
def F.TS_ERR_STAT_SYNCE_LOST : Fld := ⟨0x058, 0, 0⟩
def F.TS_ERR_STAT_SRC_BAD : Fld := ⟨0x058, 1, 1⟩
def F.TS_SYNC_CNT : Fld := ⟨0x05C, 31, 0⟩

/-! Fields of page type pg (R414). -/

def F.PG_OWN_OWNER (k : Nat) : Fld := ⟨0x040 + 32 * k, 2, 0⟩
def F.PG_OWN_RELEASE (k : Nat) : Fld := ⟨0x040 + 32 * k, 30, 30⟩
def F.PG_OWN_CLAIM (k : Nat) : Fld := ⟨0x040 + 32 * k, 31, 31⟩
def F.PG_CFG_TB (k : Nat) : Fld := ⟨0x044 + 32 * k, 1, 0⟩
def F.PG_CFG_PERIODIC (k : Nat) : Fld := ⟨0x044 + 32 * k, 2, 2⟩
def F.PG_CFG_FUNC (k : Nat) : Fld := ⟨0x044 + 32 * k, 4, 3⟩
def F.PG_CFG_PIN (k : Nat) : Fld := ⟨0x044 + 32 * k, 7, 5⟩
def F.PG_CFG_POL (k : Nat) : Fld := ⟨0x044 + 32 * k, 8, 8⟩
def F.PG_START_SEC_LO (k : Nat) : Fld := ⟨0x048 + 32 * k, 31, 0⟩
def F.PG_START_SEC_HI (k : Nat) : Fld := ⟨0x04C + 32 * k, 15, 0⟩
def F.PG_START_NS (k : Nat) : Fld := ⟨0x050 + 32 * k, 29, 0⟩
def F.PG_PERIOD (k : Nat) : Fld := ⟨0x054 + 32 * k, 31, 0⟩
def F.PG_WIDTH (k : Nat) : Fld := ⟨0x058 + 32 * k, 29, 0⟩
def F.PG_CMD_ARM (k : Nat) : Fld := ⟨0x05C + 32 * k, 0, 0⟩
def F.PG_CMD_DISARM (k : Nat) : Fld := ⟨0x05C + 32 * k, 1, 1⟩
def F.PG_CMD_ARMED (k : Nat) : Fld := ⟨0x05C + 32 * k, 8, 8⟩
def F.PG_CMD_PIN_ACTIVE (k : Nat) : Fld := ⟨0x05C + 32 * k, 9, 9⟩
def F.PG_CMD_CONFLICT (k : Nat) : Fld := ⟨0x05C + 32 * k, 10, 10⟩
def F.PG_CMD_MISSED (k : Nat) : Fld := ⟨0x05C + 32 * k, 11, 11⟩
def F.PG_CMD_CFG_BAD (k : Nat) : Fld := ⟨0x05C + 32 * k, 12, 12⟩
def F.PG_FIRE_CNT (k : Nat) : Fld := ⟨0x140 + 4 * k, 31, 0⟩

/-! Fields of page type cap (R415). -/

def F.CAP_CFG_TB (k : Nat) : Fld := ⟨0x044 + 32 * k, 1, 0⟩
def F.CAP_CFG_EDGE (k : Nat) : Fld := ⟨0x044 + 32 * k, 3, 2⟩
def F.CAP_SEC_LO (k : Nat) : Fld := ⟨0x048 + 32 * k, 31, 0⟩
def F.CAP_SEC_HI_SEC (k : Nat) : Fld := ⟨0x04C + 32 * k, 15, 0⟩
def F.CAP_SEC_HI_FALLING (k : Nat) : Fld := ⟨0x04C + 32 * k, 30, 30⟩
def F.CAP_SEC_HI_VALID (k : Nat) : Fld := ⟨0x04C + 32 * k, 31, 31⟩
def F.CAP_NS (k : Nat) : Fld := ⟨0x050 + 32 * k, 29, 0⟩
def F.CAP_FRAC (k : Nat) : Fld := ⟨0x054 + 32 * k, 31, 0⟩
def F.CAP_CMD (k : Nat) : Fld := ⟨0x058 + 32 * k, 0, 0⟩
def F.CAP_STAT_LEVEL (k : Nat) : Fld := ⟨0x05C + 32 * k, 4, 0⟩
def F.CAP_STAT_OVF (k : Nat) : Fld := ⟨0x05C + 32 * k, 8, 8⟩
def F.CAP_STAT_GLITCH (k : Nat) : Fld := ⟨0x05C + 32 * k, 9, 9⟩
def F.CAP_STAT_CONFLICT (k : Nat) : Fld := ⟨0x05C + 32 * k, 10, 10⟩
def F.CAP_CNT (k : Nat) : Fld := ⟨0x080 + 4 * k, 31, 0⟩
def F.CAP_OWN_OWNER (k : Nat) : Fld := ⟨0x040 + 32 * k, 2, 0⟩
def F.CAP_OWN_RELEASE (k : Nat) : Fld := ⟨0x040 + 32 * k, 30, 30⟩
def F.CAP_OWN_CLAIM (k : Nat) : Fld := ⟨0x040 + 32 * k, 31, 31⟩

/-! Fields of page type snap (R416). -/

def F.SNAP_STAT_SEQ : Fld := ⟨0x040, 30, 0⟩
def F.SNAP_STAT_BUSY : Fld := ⟨0x040, 31, 31⟩
def F.SNAP_SRC_GEN : Fld := ⟨0x044, 2, 0⟩
def F.SNAP_SRC_VALID : Fld := ⟨0x044, 3, 3⟩

/-! Fields of page type fh (R444). -/

def F.FH_CTRL_EN : Fld := ⟨0x040, 0, 0⟩
def F.FH_CTRL_QUAD_MODE : Fld := ⟨0x040, 2, 1⟩
def F.FH_CTRL_MACSEC_MODE : Fld := ⟨0x040, 4, 3⟩
def F.FH_CTRL_TENANT : Fld := ⟨0x040, 7, 5⟩
def F.FH_CTRL_ANLT : Fld := ⟨0x040, 8, 8⟩
def F.FH_STAT_PRESENT : Fld := ⟨0x044, 0, 0⟩
def F.FH_STAT_LINK_UP : Fld := ⟨0x044, 1, 1⟩
def F.FH_STAT_SPEED : Fld := ⟨0x044, 3, 2⟩
def F.FH_STAT_HOLD : Fld := ⟨0x044, 4, 4⟩
def F.FH_ERR_STAT_LINK_DOWN : Fld := ⟨0x048, 0, 0⟩
def F.FH_ERR_STAT_MODE_BUSY : Fld := ⟨0x048, 1, 1⟩
def F.FH_ERR_STAT_MODE_BAD : Fld := ⟨0x048, 2, 2⟩
def F.FH_ERR_STAT_SQ_RX_FULL : Fld := ⟨0x048, 3, 3⟩
def F.FH_ERR_STAT_TS_OVF : Fld := ⟨0x048, 4, 4⟩
def F.FH_ERR_STAT_PN_NEAR : Fld := ⟨0x048, 5, 5⟩
def F.FH_ERR_STAT_KEY_DENIED : Fld := ⟨0x048, 6, 6⟩
def F.FH_TS_RX_CORR : Fld := ⟨0x04C, 15, 0⟩
def F.FH_TS_TX_CORR : Fld := ⟨0x050, 15, 0⟩
def F.FH_RXR_BASE : Fld := ⟨0x054, 31, 0⟩
def F.FH_RXR_SIZE_SIZE : Fld := ⟨0x058, 15, 0⟩
def F.FH_RXR_SIZE_WR : Fld := ⟨0x058, 31, 16⟩
def F.FH_RXR_RD : Fld := ⟨0x05C, 15, 0⟩
def F.FH_TXR_BASE : Fld := ⟨0x060, 31, 0⟩
def F.FH_TXR_SIZE_SIZE : Fld := ⟨0x064, 15, 0⟩
def F.FH_TXR_SIZE_RD : Fld := ⟨0x064, 31, 16⟩
def F.FH_TXR_WR : Fld := ⟨0x068, 15, 0⟩
def F.FH_TXTS_HDR_TS_ID : Fld := ⟨0x06C, 15, 0⟩
def F.FH_TXTS_HDR_VALID : Fld := ⟨0x06C, 31, 31⟩
def F.FH_TXTS_SEC_LO : Fld := ⟨0x070, 31, 0⟩
def F.FH_TXTS_SEC_HI : Fld := ⟨0x074, 15, 0⟩
def F.FH_TXTS_NS : Fld := ⟨0x078, 29, 0⟩
def F.FH_TXTS_POP : Fld := ⟨0x07C, 0, 0⟩
def F.FH_RX_FRAMES_LO : Fld := ⟨0x080, 31, 0⟩
def F.FH_RX_FRAMES_HI : Fld := ⟨0x084, 31, 0⟩
def F.FH_TX_FRAMES_LO : Fld := ⟨0x088, 31, 0⟩
def F.FH_TX_FRAMES_HI : Fld := ⟨0x08C, 31, 0⟩
def F.FH_RX_DROP_CNT : Fld := ⟨0x090, 31, 0⟩
def F.FH_FEC_UNCORR_CNT : Fld := ⟨0x094, 31, 0⟩
def F.FH_MACSEC_FAIL_CNT : Fld := ⟨0x098, 31, 0⟩
def F.FH_MACSEC_UNPROT_CNT : Fld := ⟨0x09C, 31, 0⟩
def F.FH_MACSEC_LATE_CNT : Fld := ⟨0x0A0, 31, 0⟩
def F.FH_SQ_DROP_CNT : Fld := ⟨0x0A4, 31, 0⟩
def F.FH_MAC_LO : Fld := ⟨0x0A8, 31, 0⟩
def F.FH_MAC_HI : Fld := ⟨0x0AC, 15, 0⟩

/-! Fields of page type shr (R445). -/

def F.SHR_CTRL_EN : Fld := ⟨0x040, 0, 0⟩
def F.SHR_CTRL_SPARE_EN : Fld := ⟨0x040, 1, 1⟩
def F.SHR_STAT_STATE : Fld := ⟨0x044, 2, 0⟩
def F.SHR_STAT_PEER_POS : Fld := ⟨0x044, 6, 3⟩
def F.SHR_STAT_PEER_VALID : Fld := ⟨0x044, 7, 7⟩
def F.SHR_STAT_SPARE_FOR : Fld := ⟨0x044, 9, 8⟩
def F.SHR_STAT_SPARE_USED : Fld := ⟨0x044, 10, 10⟩
def F.SHR_STAT_KEY_SLOT : Fld := ⟨0x044, 11, 11⟩
def F.SHR_ERR_STAT_LINK_DOWN : Fld := ⟨0x048, 0, 0⟩
def F.SHR_ERR_STAT_LANE_FAIL : Fld := ⟨0x048, 1, 1⟩
def F.SHR_ERR_STAT_AUTH_FAIL : Fld := ⟨0x048, 2, 2⟩
def F.SHR_ERR_STAT_REKEY_DUE : Fld := ⟨0x048, 3, 3⟩
def F.SHR_ERR_STAT_KEY_EXHAUSTED : Fld := ⟨0x048, 4, 4⟩
def F.SHR_ERR_STAT_WIN_CLOSED : Fld := ⟨0x048, 5, 5⟩
def F.SHR_ERR_STAT_ROUTE_BAD : Fld := ⟨0x048, 6, 6⟩
def F.SHR_ERR_STAT_RANK_BUSY : Fld := ⟨0x048, 7, 7⟩
def F.SHR_REKEY : Fld := ⟨0x04C, 5, 0⟩
def F.SHR_CTR_TX_LO : Fld := ⟨0x050, 31, 0⟩
def F.SHR_CTR_TX_HI : Fld := ⟨0x054, 31, 0⟩
def F.SHR_RETRY_CNT : Fld := ⟨0x058, 31, 0⟩
def F.SHR_AUTH_FAIL_CNT : Fld := ⟨0x05C, 31, 0⟩
def F.SHR_REPLAY_CNT : Fld := ⟨0x060, 31, 0⟩
def F.SHR_WIN_DENY_CNT : Fld := ⟨0x064, 31, 0⟩
def F.SHR_LOST_CNT : Fld := ⟨0x068, 31, 0⟩
def F.SHR_FRAMES_TX_LO : Fld := ⟨0x06C, 31, 0⟩
def F.SHR_FRAMES_TX_HI : Fld := ⟨0x070, 31, 0⟩
def F.SHR_FRAMES_RX_LO : Fld := ⟨0x074, 31, 0⟩
def F.SHR_FRAMES_RX_HI : Fld := ⟨0x078, 31, 0⟩
def F.SHR_RANK : Fld := ⟨0x0A0, 3, 0⟩
def F.SHR_ROUTE_LO : Fld := ⟨0x0A4, 31, 0⟩
def F.SHR_ROUTE_HI : Fld := ⟨0x0A8, 31, 0⟩
def F.SHR_WIN_BASE (k : Nat) : Fld := ⟨0x080 + 16 * k, 22, 0⟩
def F.SHR_WIN_SIZE (k : Nat) : Fld := ⟨0x084 + 16 * k, 5, 0⟩
def F.SHR_WIN_PEERS (k : Nat) : Fld := ⟨0x088 + 16 * k, 15, 0⟩
def F.SHR_WIN_CTRL_EN (k : Nat) : Fld := ⟨0x08C + 16 * k, 0, 0⟩
def F.SHR_WIN_CTRL_RD (k : Nat) : Fld := ⟨0x08C + 16 * k, 1, 1⟩
def F.SHR_WIN_CTRL_WR (k : Nat) : Fld := ⟨0x08C + 16 * k, 2, 2⟩
def F.SHR_WIN_CTRL_TENANT (k : Nat) : Fld := ⟨0x08C + 16 * k, 5, 3⟩
def F.SHR_WIN_CTRL_CLOSING (k : Nat) : Fld := ⟨0x08C + 16 * k, 6, 6⟩
def F.SHR_WIN_CTRL_WIN_CFG_BAD (k : Nat) : Fld := ⟨0x08C + 16 * k, 7, 7⟩

/-! Fields of page type pcie (R446). -/

def F.PCI_STAT_GEN : Fld := ⟨0x040, 2, 0⟩
def F.PCI_STAT_WIDTH : Fld := ⟨0x040, 7, 3⟩
def F.PCI_STAT_LINK_UP : Fld := ⟨0x040, 8, 8⟩
def F.PCI_STAT_TDISP : Fld := ⟨0x040, 10, 9⟩
def F.PCI_STAT_LINK_IDE : Fld := ⟨0x040, 11, 11⟩
def F.PCI_STAT_SEL_IDE : Fld := ⟨0x040, 15, 12⟩
def F.PCI_ERR_STAT_LINK_DOWN : Fld := ⟨0x044, 0, 0⟩
def F.PCI_ERR_STAT_TDISP_ERROR : Fld := ⟨0x044, 1, 1⟩
def F.PCI_ERR_STAT_IDE_FAIL : Fld := ⟨0x044, 2, 2⟩
def F.PCI_ERR_STAT_NON_IDE_DENIED : Fld := ⟨0x044, 3, 3⟩
def F.PCI_NONIDE_CNT : Fld := ⟨0x048, 31, 0⟩
def F.PCI_IDE_FAIL_CNT : Fld := ⟨0x04C, 31, 0⟩
def F.PCI_UR_CNT : Fld := ⟨0x050, 31, 0⟩
def F.PCI_RX_TLP_LO : Fld := ⟨0x054, 31, 0⟩
def F.PCI_RX_TLP_HI : Fld := ⟨0x058, 31, 0⟩

/-! Fields of page type modl (R447). -/

def F.MOD_CFG_EN : Fld := ⟨0x040, 0, 0⟩
def F.MOD_CFG_BIND_KIND : Fld := ⟨0x040, 2, 1⟩
def F.MOD_CFG_BIND : Fld := ⟨0x040, 6, 3⟩
def F.MOD_CFG_LPMODE : Fld := ⟨0x040, 7, 7⟩
def F.MOD_CFG_RESET : Fld := ⟨0x040, 8, 8⟩
def F.MOD_STAT_PRESENT : Fld := ⟨0x044, 0, 0⟩
def F.MOD_STAT_READY : Fld := ⟨0x044, 1, 1⟩
def F.MOD_STAT_TX_ON : Fld := ⟨0x044, 2, 2⟩
def F.MOD_ERR_STAT_INSERTED : Fld := ⟨0x048, 0, 0⟩
def F.MOD_ERR_STAT_REMOVED : Fld := ⟨0x048, 1, 1⟩
def F.MOD_ERR_STAT_IO_FAIL : Fld := ⟨0x048, 2, 2⟩
def F.MOD_ERR_STAT_ALARM : Fld := ⟨0x048, 3, 3⟩
def F.MOD_ERR_STAT_EOL_WARN : Fld := ⟨0x048, 4, 4⟩
def F.MOD_ERR_STAT_FIBRE_NEG : Fld := ⟨0x048, 5, 5⟩
def F.MOD_ERR_STAT_LIFE_FULL : Fld := ⟨0x048, 6, 6⟩
def F.MOD_ERR_STAT_CMIS_UNSUP : Fld := ⟨0x048, 7, 7⟩
def F.MOD_TEMP : Fld := ⟨0x04C, 15, 0⟩
def F.MOD_VCC : Fld := ⟨0x050, 15, 0⟩
def F.MOD_BIAS_MAX : Fld := ⟨0x054, 15, 0⟩
def F.MOD_LIFE_HOURS : Fld := ⟨0x058, 31, 0⟩
def F.MOD_EOL_HOURS : Fld := ⟨0x05C, 31, 0⟩
def F.MOD_RATED_HOURS : Fld := ⟨0x060, 31, 0⟩
def F.MOD_EOL_CFG_BIAS_EOL_PCT : Fld := ⟨0x064, 7, 0⟩
def F.MOD_EOL_CFG_EOL_WARN_KH : Fld := ⟨0x064, 23, 16⟩
def F.MOD_PATH_DLY_PS : Fld := ⟨0x068, 31, 0⟩
def F.MOD_FIXED_PS : Fld := ⟨0x06C, 31, 0⟩
def F.MOD_FIBRE_PS_M : Fld := ⟨0x070, 15, 0⟩
def F.MOD_FIBRE_DM : Fld := ⟨0x074, 31, 0⟩
def F.MOD_IO_FAIL_CNT : Fld := ⟨0x078, 31, 0⟩

/-! Fields of page type fwld (R512). -/

def F.FWLD_CMD_LOAD : Fld := ⟨0x040, 0, 0⟩
def F.FWLD_CMD_UPDATE : Fld := ⟨0x040, 1, 1⟩
def F.FWLD_SRC_LO : Fld := ⟨0x044, 31, 6⟩
def F.FWLD_SRC_HI : Fld := ⟨0x048, 7, 0⟩
def F.FWLD_LEN : Fld := ⟨0x04C, 24, 0⟩
def F.FWLD_TOPO : Fld := ⟨0x050, 0, 0⟩
def F.FWLD_STAT_STATE : Fld := ⟨0x054, 2, 0⟩
def F.FWLD_STAT_CAUSE : Fld := ⟨0x054, 6, 3⟩
def F.FWLD_ERR_STAT_LOAD_BAD : Fld := ⟨0x058, 0, 0⟩
def F.FWLD_ERR_STAT_LOAD_BUSY : Fld := ⟨0x058, 1, 1⟩
def F.FWLD_ERR_STAT_TOPO_LOCKED : Fld := ⟨0x058, 2, 2⟩
def F.FWLD_ERR_STAT_UPD_BAD : Fld := ⟨0x058, 3, 3⟩
def F.FWLD_ERR_STAT_UPD_ROLLBACK : Fld := ⟨0x058, 4, 4⟩
def F.FWLD_ERR_STAT_WDT_RESTART : Fld := ⟨0x058, 5, 5⟩
def F.FW_VER : Fld := ⟨0x05C, 31, 0⟩
def F.FW_IFACE_VER : Fld := ⟨0x060, 15, 0⟩
def F.FW_MIN_VER : Fld := ⟨0x064, 31, 0⟩
def F.FWLD_WDT : Fld := ⟨0x068, 9, 0⟩
def F.FW_RESTART_CNT : Fld := ⟨0x06C, 31, 0⟩
def F.FW_UPD_CNT : Fld := ⟨0x070, 31, 0⟩

/-! Fields of page type fwctl (R513). -/

def F.FWCTL_HEARTBEAT : Fld := ⟨0x040, 31, 0⟩
def F.FWCTL_LEASE : Fld := ⟨0x044, 15, 0⟩
def F.FWCTL_CMD_CMD : Fld := ⟨0x048, 1, 0⟩
def F.FWCTL_CMD_SEQ : Fld := ⟨0x048, 15, 8⟩
def F.FWCTL_CMD_GO : Fld := ⟨0x048, 31, 31⟩
def F.FWCTL_STAT_STATE : Fld := ⟨0x04C, 1, 0⟩
def F.FWCTL_STAT_LAST_SEQ : Fld := ⟨0x04C, 15, 8⟩
def F.FWCTL_ERR_STAT_LEASE_EXPIRED : Fld := ⟨0x050, 0, 0⟩
def F.FWCTL_ERR_STAT_CMD_BAD : Fld := ⟨0x050, 1, 1⟩
def F.FWCTL_ERR_STAT_IND_LOCK_TIMEOUT : Fld := ⟨0x050, 2, 2⟩
def F.FWCTL_IND_LOCK_PAGE : Fld := ⟨0x054, 15, 0⟩
def F.FWCTL_IND_LOCK_HELD : Fld := ⟨0x054, 29, 29⟩
def F.FWCTL_IND_LOCK_RELEASE : Fld := ⟨0x054, 30, 30⟩
def F.FWCTL_IND_LOCK_ACQUIRE : Fld := ⟨0x054, 31, 31⟩
def F.FWCTL_PTP_SERVO_EN : Fld := ⟨0x058, 0, 0⟩
def F.FWCTL_PTP_STEP_REQ : Fld := ⟨0x058, 1, 1⟩
def F.FWCTL_PTP_OFS : Fld := ⟨0x05C, 31, 0⟩
def F.FWCTL_TQ_DROP_CNT : Fld := ⟨0x060, 31, 0⟩
def F.FWCTL_LEASE_CNT : Fld := ⟨0x064, 31, 0⟩
def F.FWCTL_PARK_CNT : Fld := ⟨0x068, 31, 0⟩

/-! Fields of page type fwpm (R554). -/

def F.FWPM_STAT_APPLIED : Fld := ⟨0x040, 2, 0⟩
def F.FWPM_STAT_PENDING : Fld := ⟨0x040, 3, 3⟩
def F.FWPM_ERR_STAT : Fld := ⟨0x044, 0, 0⟩
def F.FWPM_APPLY_CNT : Fld := ⟨0x048, 31, 0⟩

/-! Fields of page type sec (R537). -/

def F.SEC_ID_STAT_ID_VALID : Fld := ⟨0x040, 0, 0⟩
def F.SEC_ID_STAT_RECORD_VALID : Fld := ⟨0x040, 1, 1⟩
def F.SEC_ID_STAT_RECORD_VER : Fld := ⟨0x040, 31, 16⟩
def F.SEC_RECORD_INFO_GRADE : Fld := ⟨0x044, 0, 0⟩
def F.SEC_RECORD_INFO_STEPPING : Fld := ⟨0x044, 15, 8⟩
def F.SEC_CONF_STAT_CONF_ACTIVE : Fld := ⟨0x048, 0, 0⟩
def F.SEC_CONF_STAT_DEBUG_LOCKED : Fld := ⟨0x048, 1, 1⟩
def F.SEC_CONF_STAT_CONF_TENANTS : Fld := ⟨0x048, 15, 8⟩
def F.SEC_CONF_REQ : Fld := ⟨0x04C, 0, 0⟩
def F.SEC_DBG_CTRL_DBG_EN : Fld := ⟨0x050, 0, 0⟩
def F.SEC_DBG_CTRL_TRACE_EN : Fld := ⟨0x050, 1, 1⟩
def F.SEC_DBG_CTRL_STEP_EN : Fld := ⟨0x050, 2, 2⟩
def F.SEC_HOST_TENANT_TENANT : Fld := ⟨0x054, 2, 0⟩
def F.SEC_HOST_TENANT_BOUND : Fld := ⟨0x054, 3, 3⟩
def F.SEC_CTRL_ALLOW_EN : Fld := ⟨0x058, 0, 0⟩
def F.SEC_CTRL_PSK_EN : Fld := ⟨0x058, 1, 1⟩
def F.SEC_CORE_TENANT_TENANT (k : Nat) : Fld := ⟨0x060 + 4 * k, 2, 0⟩
def F.SEC_CORE_TENANT_BOUND (k : Nat) : Fld := ⟨0x060 + 4 * k, 3, 3⟩
def F.SEC_KREQ_LO : Fld := ⟨0x0A0, 31, 6⟩
def F.SEC_KREQ_HI : Fld := ⟨0x0A4, 7, 0⟩
def F.SEC_KREQ_CMD_GO : Fld := ⟨0x0A8, 0, 0⟩
def F.SEC_KREQ_CMD_KREQ_BUSY : Fld := ⟨0x0A8, 1, 1⟩
def F.SEC_ERR_STAT_RECORD_BAD : Fld := ⟨0x0AC, 0, 0⟩
def F.SEC_ERR_STAT_ID_FAIL : Fld := ⟨0x0AC, 1, 1⟩
def F.SEC_ERR_STAT_CONF_DENIED : Fld := ⟨0x0AC, 2, 2⟩
def F.SEC_ERR_STAT_DBG_DENIED : Fld := ⟨0x0AC, 3, 3⟩
def F.SEC_ERR_STAT_KREQ_BAD : Fld := ⟨0x0AC, 4, 4⟩
def F.SEC_ERR_STAT_PEER_REJECT : Fld := ⟨0x0AC, 5, 5⟩
def F.SEC_ERR_STAT_DRAM_DENIED : Fld := ⟨0x0AC, 6, 6⟩
def F.SEC_ATT_CNT : Fld := ⟨0x0B0, 31, 0⟩
def F.SEC_KEY_CNT : Fld := ⟨0x0B4, 31, 0⟩
def F.SEC_PEER_REJECT_CNT : Fld := ⟨0x0B8, 31, 0⟩
def F.SEC_DRAM_DENY_CNT : Fld := ⟨0x0BC, 31, 0⟩

/-! Fields of page type mgmt (R552). -/

def F.MGMT_CTRL_SNAP_EN : Fld := ⟨0x040, 0, 0⟩
def F.MGMT_CTRL_SNAP_GEN : Fld := ⟨0x040, 3, 1⟩
def F.MGMT_CTRL_LOADDET_EN : Fld := ⟨0x040, 4, 4⟩
def F.MGMT_SNAP_PERIOD : Fld := ⟨0x044, 31, 0⟩
def F.MGMT_STAT_MAIN_UP : Fld := ⟨0x048, 0, 0⟩
def F.MGMT_STAT_LOG_BUSY : Fld := ⟨0x048, 1, 1⟩
def F.MGMT_STAT_BANK : Fld := ⟨0x048, 2, 2⟩
def F.MGMT_ERR_STAT_SNAP_CONFLICT : Fld := ⟨0x04C, 0, 0⟩
def F.MGMT_ERR_STAT_THRESH : Fld := ⟨0x04C, 1, 1⟩
def F.MGMT_ERR_STAT_LOG_DROP : Fld := ⟨0x04C, 2, 2⟩
def F.MGMT_ERR_STAT_FLASH_FAIL : Fld := ⟨0x04C, 3, 3⟩
def F.MGMT_ERR_STAT_UPD_BAD : Fld := ⟨0x04C, 4, 4⟩
def F.MGMT_ERR_STAT_UPD_ROLLBACK : Fld := ⟨0x04C, 5, 5⟩
def F.MGMT_ERR_STAT_PIN_FAULT : Fld := ⟨0x04C, 6, 6⟩
def F.MGMT_VER : Fld := ⟨0x050, 31, 0⟩
def F.MGMT_LOG_SEQ : Fld := ⟨0x054, 31, 0⟩
def F.MGMT_LOG_DROP_CNT : Fld := ⟨0x058, 31, 0⟩
def F.MGMT_PIN_LOAD : Fld := ⟨0x05C, 23, 0⟩
def F.MGMT_T_HOT_TEMP : Fld := ⟨0x060, 15, 0⟩
def F.MGMT_T_HOT_SENSOR : Fld := ⟨0x060, 21, 16⟩
def F.MGMT_LOG_LEVEL : Fld := ⟨0x064, 1, 0⟩
def F.MGMT_LOG_RD : Fld := ⟨0x068, 31, 0⟩

/-! Fields of page type mpwr (R553). -/

def F.MPWR_CAP : Fld := ⟨0x040, 8, 0⟩
def F.MPWR_OP_MAX : Fld := ⟨0x044, 2, 0⟩
def F.MPWR_STAT_POINT : Fld := ⟨0x048, 2, 0⟩
def F.MPWR_STAT_REASON : Fld := ⟨0x048, 5, 3⟩
def F.MPWR_STAT_SPRINT_INHIBIT : Fld := ⟨0x048, 6, 6⟩
def F.MPWR_PKG_PWR : Fld := ⟨0x04C, 15, 0⟩
def F.MPWR_PLDM_CAP : Fld := ⟨0x050, 8, 0⟩
def F.MPWR_ERR_STAT_CAP_UNMET : Fld := ⟨0x054, 0, 0⟩
def F.MPWR_ERR_STAT_THERM_LIMIT : Fld := ⟨0x054, 1, 1⟩
def F.MPWR_ERR_STAT_OP_CHANGED : Fld := ⟨0x054, 2, 2⟩
def F.MPWR_OP_CHG_CNT : Fld := ⟨0x058, 31, 0⟩
def F.MPWR_CAP_UNMET_CNT : Fld := ⟨0x05C, 31, 0⟩

/-- Rows of the header. -/
def rows_hdr : List FieldRow :=
  [.mk 0 1 0 7 0 .ro 0, .mk 0 1 0 11 8 .ro 0, .mk 0 1 0 19 12 .ro 0, .mk 4 1 0 7 0 .ro 0, .mk 4 1 0 15 8 .ro 1,
   .mk 8 1 0 0 0 .rw 1, .mk 8 1 0 1 1 .wo 0, .mk 12 1 0 0 0 .ro 0, .mk 12 1 0 1 1 .ro 0, .mk 12 1 0 2 2 .ro 0,
   .mk 12 1 0 3 3 .ro 0, .mk 12 1 0 4 4 .ro 0, .mk 12 1 0 5 5 .ro 0, .mk 16 1 0 31 0 .w1c 0,
   .mk 20 1 0 31 0 .rw 0xFFFFFFFF, .mk 24 1 0 31 0 .wo 0, .mk 28 1 0 9 0 .ro 0, .mk 32 1 0 30 0 .rw 0,
   .mk 32 1 0 31 31 .rw 0, .mk 36 1 0 31 0 .rw 0, .mk 40 1 0 0 0 .ro 0, .mk 40 1 0 1 1 .w1c 0]

/-- Rows of sys. -/
def rows_sys : List FieldRow :=
  [.mk 64 1 0 15 0 .ro 0x640, .mk 64 1 0 23 16 .ro 0xB0, .mk 68 1 0 0 0 .ro 0, .mk 68 1 0 2 1 .ro 0,
   .mk 68 1 0 5 3 .ro 0, .mk 72 1 0 0 0 .w1c 1, .mk 72 1 0 1 1 .w1c 0, .mk 72 1 0 2 2 .w1c 0, .mk 72 1 0 3 3 .w1c 0,
   .mk 72 1 0 4 4 .w1c 0, .mk 72 1 0 5 5 .w1c 0, .mk 76 1 0 0 0 .wo 0, .mk 76 1 0 31 16 .wo 0, .mk 80 1 0 2 0 .ro 0,
   .mk 80 1 0 5 3 .ro 0, .mk 84 1 0 0 0 .wo 0, .mk 88 1 0 31 6 .rw 0, .mk 92 1 0 7 0 .rw 0, .mk 96 1 0 23 0 .rw 0,
   .mk 100 1 0 0 0 .w1c 0, .mk 100 1 0 1 1 .w1c 0, .mk 100 1 0 2 2 .w1c 0, .mk 104 1 0 15 1 .w1s 0]

/-- Rows of sysFab. -/
def rows_sysFab : List FieldRow :=
  [.mk 64 1 0 0 0 .w1c 0, .mk 64 1 0 1 1 .w1c 0, .mk 68 1 0 31 0 .ro 0, .mk 72 1 0 7 0 .ro 0, .mk 72 1 0 10 8 .ro 0,
   .mk 72 1 0 11 11 .ro 0, .mk 76 1 0 31 0 .rc 0, .mk 80 1 0 31 0 .rc 0]

/-- Rows of iagg. -/
def rows_iagg : List FieldRow :=
  [.mk 64 1 0 31 0 .ro 0, .mk 68 1 0 31 0 .ro 0, .mk 72 1 0 31 0 .rw 0, .mk 76 1 0 31 0 .rw 0,
   .mk 80 4 4 31 0 .rw 0, .mk 96 1 0 5 0 .wo 0, .mk 96 1 0 31 31 .wo 0, .mk 100 1 0 31 0 .rc 0]

/-- Rows of cfgi. -/
def rows_cfgi : List FieldRow :=
  [.mk 64 1 0 0 0 .rw 1, .mk 64 1 0 1 1 .rw 0, .mk 64 1 0 2 2 .rw 0, .mk 68 1 0 0 0 .ro 0, .mk 68 1 0 1 1 .ro 0,
   .mk 68 1 0 2 2 .ro 0, .mk 68 1 0 3 3 .w1c 0, .mk 72 1 0 0 0 .w1c 0, .mk 76 1 0 0 0 .wo 0, .mk 80 1 0 31 0 .rw 0,
   .mk 84 1 0 31 0 .ro 0, .mk 88 1 0 31 0 .rc 0, .mk 92 1 0 31 0 .rc 0, .mk 96 1 0 15 0 .ro 0,
   .mk 96 1 0 31 31 .ro 0]

/-- Rows of det. -/
def rows_det : List FieldRow :=
  [.mk 64 1 0 0 0 .rw 0, .mk 68 1 0 0 0 .ro 0, .mk 72 1 0 0 0 .w1c 0, .mk 72 1 0 1 1 .w1c 0, .mk 72 1 0 2 2 .w1c 0,
   .mk 76 1 0 31 0 .rc 0, .mk 80 1 0 31 0 .rc 0, .mk 84 1 0 31 0 .rc 0, .mk 128 8 16 31 7 .rw 0,
   .mk 132 8 16 7 0 .rw 0, .mk 136 8 16 15 0 .rw 0, .mk 136 8 16 31 16 .ro 0, .mk 140 8 16 15 0 .rw 0]

/-- Rows of floe. -/
def rows_floe : List FieldRow :=
  [.mk 64 1 0 5 0 .ro 0, .mk 64 1 0 8 6 .ro 0, .mk 68 1 0 21 0 .wo 0, .mk 68 1 0 31 31 .wo 0, .mk 72 1 0 0 0 .ro 0,
   .mk 72 1 0 1 1 .ro 0, .mk 72 1 0 2 2 .ro 0, .mk 72 1 0 3 3 .ro 0, .mk 72 1 0 15 6 .ro 0, .mk 76 1 0 0 0 .w1c 0,
   .mk 76 1 0 1 1 .w1c 0, .mk 76 1 0 2 2 .w1c 0, .mk 76 1 0 3 3 .w1c 0, .mk 76 1 0 4 4 .w1c 0,
   .mk 76 1 0 5 5 .w1c 0, .mk 76 1 0 6 6 .w1c 0, .mk 80 1 0 21 0 .ro 0, .mk 84 1 0 31 0 .ro 0,
   .mk 88 1 0 31 0 .ro 0, .mk 92 1 0 31 0 .rc 0, .mk 96 1 0 31 0 .rc 0, .mk 100 1 0 31 0 .rc 0,
   .mk 112 1 0 31 0 .ro 0, .mk 116 1 0 31 0 .ro 0, .mk 120 1 0 31 0 .ro 0, .mk 124 1 0 31 0 .ro 0]

/-- Rows of gaff. -/
def rows_gaff : List FieldRow :=
  [.mk 768 1 0 0 0 .w1c 0, .mk 768 1 0 1 1 .w1c 0, .mk 768 1 0 2 2 .w1c 0, .mk 768 1 0 3 3 .w1c 0,
   .mk 768 1 0 4 4 .w1c 0, .mk 768 1 0 5 5 .w1c 0, .mk 768 1 0 6 6 .w1c 0, .mk 768 1 0 7 7 .w1c 0,
   .mk 772 1 0 31 0 .rc 0, .mk 776 1 0 31 0 .rc 0, .mk 780 1 0 31 0 .rc 0, .mk 784 1 0 31 0 .rc 0,
   .mk 788 1 0 0 0 .rw 0, .mk 64 1 0 21 0 .wo 0, .mk 64 1 0 31 31 .wo 0, .mk 68 1 0 0 0 .ro 0, .mk 68 1 0 1 1 .ro 0,
   .mk 68 1 0 2 2 .ro 0, .mk 68 1 0 3 3 .ro 0, .mk 68 1 0 9 4 .ro 0, .mk 68 1 0 13 10 .ro 0, .mk 72 1 0 0 0 .w1c 0,
   .mk 72 1 0 1 1 .w1c 0, .mk 72 1 0 2 2 .w1c 0, .mk 72 1 0 3 3 .w1c 0, .mk 72 1 0 4 4 .w1c 0,
   .mk 72 1 0 5 5 .w1c 0, .mk 72 1 0 6 6 .w1c 0, .mk 72 1 0 7 7 .w1c 0, .mk 72 1 0 8 8 .w1c 0,
   .mk 72 1 0 9 9 .w1c 0, .mk 72 1 0 10 10 .w1c 0, .mk 72 1 0 11 11 .w1c 0, .mk 76 1 0 3 0 .ro 0,
   .mk 80 1 0 31 0 .ro 0, .mk 84 1 0 31 0 .ro 0, .mk 88 1 0 21 0 .rw 0, .mk 92 1 0 22 0 .rw 0x400000,
   .mk 96 1 0 31 0 .rc 0, .mk 100 1 0 31 0 .rc 0]
  ++ [.mk 104 1 0 31 0 .rc 0, .mk 108 1 0 31 0 .rc 0, .mk 112 1 0 31 0 .rc 0, .mk 116 1 0 31 0 .rc 0,
   .mk 128 1 0 31 0 .ro 0, .mk 132 1 0 31 0 .ro 0]

/-- Rows of brash. -/
def rows_brash : List FieldRow :=
  [.mk 64 1 0 0 0 .ro 0, .mk 64 1 0 2 1 .ro 0, .mk 64 1 0 12 3 .ro 0x200, .mk 68 1 0 0 0 .w1c 0,
   .mk 68 1 0 1 1 .w1c 0, .mk 68 1 0 2 2 .w1c 0, .mk 68 1 0 3 3 .w1c 0, .mk 68 1 0 4 4 .w1c 0,
   .mk 72 1 0 31 0 .rc 0, .mk 76 1 0 31 0 .rc 0, .mk 80 1 0 31 0 .rc 0, .mk 96 1 0 31 0 .ro 0,
   .mk 100 1 0 31 0 .ro 0, .mk 104 1 0 31 0 .ro 0, .mk 108 1 0 31 0 .ro 0]

/-- Rows of spar. -/
def rows_spar : List FieldRow :=
  [.mk 64 1 0 14 0 .wo 0, .mk 64 1 0 31 31 .wo 0, .mk 68 1 0 0 0 .ro 0, .mk 68 1 0 1 1 .ro 0, .mk 68 1 0 2 2 .ro 0,
   .mk 68 1 0 3 3 .ro 0, .mk 68 1 0 4 4 .ro 0, .mk 68 1 0 29 16 .ro 0, .mk 72 1 0 0 0 .w1c 0, .mk 72 1 0 1 1 .w1c 0,
   .mk 72 1 0 2 2 .w1c 0, .mk 72 1 0 3 3 .w1c 0, .mk 72 1 0 4 4 .w1c 0, .mk 72 1 0 5 5 .w1c 0,
   .mk 72 1 0 6 6 .w1c 0, .mk 72 1 0 7 7 .w1c 0, .mk 76 1 0 0 0 .w1c 0, .mk 76 1 0 1 1 .w1c 0,
   .mk 76 1 0 2 2 .w1c 0, .mk 80 1 0 15 0 .wo 0, .mk 84 1 0 14 0 .ro 0, .mk 88 1 0 31 0 .ro 0,
   .mk 92 1 0 31 0 .ro 0, .mk 96 1 0 31 0 .ro 0, .mk 100 1 0 31 0 .ro 0, .mk 104 1 0 31 0 .rc 0,
   .mk 108 1 0 31 0 .rc 0, .mk 112 1 0 31 0 .rc 0, .mk 116 1 0 31 0 .rc 0, .mk 120 1 0 31 0 .rc 0,
   .mk 124 1 0 31 0 .rc 0, .mk 128 1 0 31 0 .rc 0, .mk 132 1 0 31 0 .rc 0, .mk 136 1 0 31 0 .ro 0,
   .mk 140 1 0 31 0 .ro 0]

/-- Rows of rime. -/
def rows_rime : List FieldRow :=
  [.mk 192 1 0 0 0 .w1c 0, .mk 192 1 0 1 1 .w1c 0, .mk 192 1 0 2 2 .w1c 0, .mk 192 1 0 3 3 .w1c 0,
   .mk 192 1 0 4 4 .w1c 0, .mk 196 1 0 31 0 .rc 0, .mk 200 1 0 31 0 .rc 0, .mk 204 1 0 31 0 .rc 0,
   .mk 208 1 0 31 0 .rc 0, .mk 212 1 0 31 0 .rc 0, .mk 256 8 4 0 0 .ro 0, .mk 256 8 4 1 1 .ro 0,
   .mk 256 8 4 2 2 .ro 0, .mk 256 8 4 3 3 .ro 0, .mk 256 8 4 31 16 .ro 0, .mk 288 1 0 0 0 .w1c 0,
   .mk 288 1 0 1 1 .w1c 0, .mk 292 1 0 31 0 .rc 0, .mk 64 1 0 0 0 .rw 1, .mk 68 1 0 0 0 .ro 0, .mk 68 1 0 1 1 .ro 0,
   .mk 68 1 0 2 2 .ro 0, .mk 68 1 0 6 3 .ro 0, .mk 68 1 0 10 7 .ro 0, .mk 68 1 0 11 11 .ro 0,
   .mk 68 1 0 12 12 .ro 0, .mk 68 1 0 13 13 .ro 0, .mk 68 1 0 14 14 .ro 0, .mk 72 1 0 0 0 .w1c 0,
   .mk 72 1 0 1 1 .w1c 0, .mk 76 1 0 31 0 .rc 0, .mk 80 1 0 31 0 .rc 0, .mk 84 1 0 31 0 .rc 0,
   .mk 96 1 0 31 0 .ro 0, .mk 100 1 0 31 0 .ro 0, .mk 104 1 0 31 0 .ro 0, .mk 108 1 0 31 0 .ro 0,
   .mk 112 1 0 31 0 .ro 0, .mk 116 1 0 31 0 .ro 0, .mk 120 1 0 31 0 .ro 0]
  ++ [.mk 124 1 0 31 0 .ro 0, .mk 128 1 0 31 0 .ro 0, .mk 132 1 0 31 0 .ro 0]

/-- Rows of fmem. -/
def rows_fmem : List FieldRow :=
  [.mk 64 1 0 0 0 .rw 1, .mk 64 1 0 1 1 .rw 1, .mk 64 1 0 2 2 .rw 1, .mk 68 1 0 0 0 .ro 0, .mk 68 1 0 1 1 .ro 0,
   .mk 68 1 0 2 2 .w1s 0, .mk 72 1 0 0 0 .w1c 0, .mk 72 1 0 1 1 .w1c 0, .mk 72 1 0 2 2 .w1c 0,
   .mk 72 1 0 3 3 .w1c 0, .mk 72 1 0 4 4 .w1c 0, .mk 72 1 0 5 5 .w1c 0, .mk 72 1 0 6 6 .w1c 0,
   .mk 72 1 0 7 7 .w1c 0, .mk 76 1 0 31 0 .rc 0, .mk 80 1 0 31 0 .rc 0, .mk 84 1 0 31 0 .rc 0,
   .mk 88 1 0 23 0 .ro 0, .mk 92 1 0 31 0 .rc 0, .mk 96 1 0 31 0 .rc 0, .mk 100 1 0 31 0 .rc 0]

/-- Rows of fwin. -/
def rows_fwin : List FieldRow :=
  [.mk 64 8 16 23 6 .rw 0, .mk 68 8 16 4 0 .rw 0, .mk 72 8 16 15 0 .rw 0, .mk 76 8 16 0 0 .rw 0,
   .mk 76 8 16 1 1 .rw 0, .mk 76 8 16 2 2 .rw 0, .mk 76 8 16 5 3 .rw 0, .mk 76 8 16 6 6 .ro 0,
   .mk 76 8 16 7 7 .w1c 0, .mk 192 1 0 31 0 .rc 0, .mk 196 1 0 31 0 .rc 0, .mk 200 1 0 31 0 .rc 0]

/-- Rows of cc. -/
def rows_cc : List FieldRow :=
  [.mk 64 1 0 0 0 .rw 1, .mk 64 1 0 3 1 .rw 3, .mk 64 1 0 6 4 .rw 2, .mk 68 1 0 2 0 .wo 0, .mk 68 1 0 30 30 .wo 0,
   .mk 68 1 0 31 31 .wo 0, .mk 72 1 0 0 0 .ro 0, .mk 72 1 0 1 1 .ro 0, .mk 72 1 0 4 2 .ro 0, .mk 72 1 0 12 5 .ro 0,
   .mk 72 1 0 13 13 .ro 0, .mk 76 1 0 0 0 .w1c 0, .mk 76 1 0 1 1 .w1c 0, .mk 76 1 0 2 2 .w1c 0,
   .mk 76 1 0 3 3 .w1c 0, .mk 76 1 0 4 4 .w1c 0, .mk 76 1 0 5 5 .w1c 0, .mk 80 1 0 31 0 .rc 0,
   .mk 84 1 0 31 0 .rc 0, .mk 88 1 0 15 0 .ro 0]

/-- Rows of hal. -/
def rows_hal : List FieldRow :=
  [.mk 64 1 0 0 0 .wo 0, .mk 64 1 0 1 1 .wo 0, .mk 64 1 0 2 2 .wo 0, .mk 68 1 0 0 0 .ro 0, .mk 68 1 0 1 1 .ro 0,
   .mk 68 1 0 2 2 .ro 0, .mk 68 1 0 3 3 .ro 0, .mk 72 1 0 0 0 .w1c 0, .mk 72 1 0 1 1 .w1c 0, .mk 72 1 0 2 2 .w1c 0,
   .mk 72 1 0 3 3 .w1c 0, .mk 72 1 0 4 4 .w1c 0, .mk 72 1 0 5 5 .w1c 0, .mk 72 1 0 6 6 .w1c 0,
   .mk 72 1 0 7 7 .w1c 0, .mk 76 1 0 3 0 .ro 0, .mk 80 1 0 2 0 .rw 0, .mk 80 1 0 3 3 .rw 0, .mk 84 1 0 23 0 .ro 0,
   .mk 88 1 0 31 0 .ro 0, .mk 92 1 0 31 0 .rc 0, .mk 96 1 0 31 0 .rc 0, .mk 100 1 0 31 0 .rc 0,
   .mk 104 1 0 31 0 .rc 0, .mk 108 1 0 31 0 .rc 0, .mk 112 1 0 31 0 .rc 0, .mk 116 1 0 31 0 .rc 0,
   .mk 120 1 0 31 0 .rc 0, .mk 128 16 4 31 0 .rw 0, .mk 192 8 4 31 0 .ro 0, .mk 224 1 0 31 0 .ro 0,
   .mk 228 1 0 31 0 .ro 0, .mk 232 1 0 31 0 .ro 0, .mk 236 1 0 31 0 .ro 0]

/-- Rows of mst0. -/
def rows_mst0 : List FieldRow :=
  [.mk 64 1 0 0 0 .rw 0, .mk 68 1 0 0 0 .ro 0, .mk 68 1 0 1 1 .ro 0, .mk 68 1 0 2 2 .ro 0, .mk 68 1 0 3 3 .ro 0,
   .mk 72 1 0 0 0 .w1c 0, .mk 72 1 0 1 1 .w1c 0, .mk 72 1 0 2 2 .w1c 0, .mk 72 1 0 3 3 .w1c 0,
   .mk 72 1 0 4 4 .w1c 0, .mk 72 1 0 5 5 .w1c 0, .mk 72 1 0 6 6 .w1c 0, .mk 76 1 0 31 6 .rw 0, .mk 80 1 0 7 0 .rw 0,
   .mk 84 1 0 0 0 .wo 0, .mk 88 1 0 3 0 .ro 0, .mk 88 1 0 19 4 .ro 0, .mk 92 1 0 21 0 .ro 0, .mk 96 1 0 31 0 .ro 0,
   .mk 100 1 0 31 0 .rc 0, .mk 104 1 0 31 0 .rc 0, .mk 108 1 0 31 0 .rc 0, .mk 112 1 0 31 0 .rc 0,
   .mk 116 1 0 9 0 .wo 0, .mk 116 1 0 31 31 .wo 0, .mk 120 1 0 31 0 .ro 0, .mk 124 1 0 31 0 .ro 0]

/-- Rows of mst1. -/
def rows_mst1 : List FieldRow :=
  [.mk 64 8 32 31 0 .rw 0, .mk 68 8 32 31 0 .rw 0, .mk 72 8 32 31 0 .rw 0, .mk 76 8 32 31 0 .rw 0,
   .mk 80 8 32 31 0 .rw 0, .mk 84 8 32 31 0 .rw 0, .mk 88 8 32 2 0 .rw 0, .mk 88 8 32 10 3 .rw 0,
   .mk 92 8 32 1 0 .wo 0, .mk 92 8 32 6 4 .ro 0, .mk 92 8 32 23 8 .ro 0]

/-- Rows of mst2. -/
def rows_mst2 : List FieldRow :=
  [.mk 64 8 16 31 0 .rw 0, .mk 68 8 16 15 0 .rw 0, .mk 72 8 16 15 0 .rw 0, .mk 76 8 16 15 0 .ro 0,
   .mk 76 8 16 30 30 .ro 0, .mk 76 8 16 31 31 .wo 0, .mk 192 1 0 31 0 .rc 0, .mk 196 1 0 31 0 .rc 0,
   .mk 200 1 0 31 0 .rc 0]

/-- Rows of mor0. -/
def rows_mor0 : List FieldRow :=
  [.mk 64 1 0 0 0 .rw 0, .mk 64 1 0 1 1 .rw 1, .mk 68 1 0 7 0 .ro 0, .mk 68 1 0 16 8 .ro 0, .mk 72 1 0 0 0 .w1c 0,
   .mk 72 1 0 1 1 .w1c 0, .mk 72 1 0 2 2 .w1c 0, .mk 72 1 0 3 3 .w1c 0, .mk 72 1 0 4 4 .w1c 0,
   .mk 72 1 0 5 5 .w1c 0, .mk 72 1 0 6 6 .w1c 0, .mk 72 1 0 7 7 .w1c 0, .mk 72 1 0 8 8 .w1c 0,
   .mk 72 1 0 9 9 .w1c 0, .mk 76 1 0 15 0 .rw 0x3E8, .mk 80 1 0 19 0 .rw 0, .mk 84 1 0 13 0 .rw 0,
   .mk 88 1 0 15 0 .wo 0, .mk 88 1 0 21 16 .wo 0, .mk 92 1 0 13 0 .wo 0, .mk 92 1 0 17 14 .wo 0,
   .mk 92 1 0 31 31 .wo 0, .mk 96 1 0 7 0 .rw 0, .mk 100 1 0 9 0 .rw 0x40, .mk 100 1 0 25 16 .ro 0,
   .mk 104 1 0 9 0 .wo 0, .mk 108 1 0 31 0 .rc 0, .mk 112 1 0 31 0 .rc 0, .mk 116 1 0 31 0 .rc 0,
   .mk 120 1 0 31 0 .rc 0, .mk 124 1 0 31 0 .rc 0, .mk 128 1 0 31 0 .rc 0, .mk 132 1 0 31 0 .rc 0,
   .mk 136 1 0 31 0 .rc 0, .mk 140 1 0 31 0 .rc 0]

/-- Rows of mor1. -/
def rows_mor1 : List FieldRow :=
  [.mk 64 1 0 0 0 .rw 0, .mk 64 1 0 1 1 .rw 1, .mk 68 1 0 19 0 .rw 0, .mk 72 1 0 13 0 .rw 0, .mk 76 1 0 27 0 .ro 0,
   .mk 80 1 0 27 0 .rw 0, .mk 84 1 0 27 0 .rw 0, .mk 88 1 0 0 0 .w1c 0, .mk 88 1 0 1 1 .w1c 0,
   .mk 88 1 0 2 2 .w1c 0, .mk 88 1 0 3 3 .w1c 0, .mk 88 1 0 4 4 .ro 0, .mk 92 1 0 19 0 .rw 0, .mk 96 1 0 16 0 .rw 0,
   .mk 100 1 0 19 0 .rw 0, .mk 100 1 0 27 20 .rw 0, .mk 104 1 0 31 0 .rw 0, .mk 108 1 0 31 0 .rw 0,
   .mk 112 1 0 31 0 .rw 0, .mk 116 1 0 0 0 .wo 0, .mk 120 1 0 31 0 .rc 0, .mk 124 1 0 31 0 .rc 0]

/-- Rows of serac. -/
def rows_serac : List FieldRow :=
  [.mk 64 1 0 0 0 .rw 1, .mk 68 1 0 0 0 .ro 0, .mk 68 1 0 2 1 .ro 0, .mk 68 1 0 5 3 .ro 0, .mk 72 1 0 0 0 .w1c 0,
   .mk 72 1 0 1 1 .w1c 0, .mk 72 1 0 2 2 .w1c 0, .mk 72 1 0 3 3 .w1c 0, .mk 72 1 0 4 4 .w1c 0, .mk 76 1 0 3 0 .ro 0,
   .mk 80 1 0 31 0 .ro 0, .mk 84 1 0 31 0 .rc 0, .mk 88 1 0 31 0 .rc 0, .mk 92 1 0 31 0 .rc 0,
   .mk 96 1 0 31 0 .rc 0, .mk 100 1 0 31 0 .rc 0, .mk 104 1 0 31 0 .rc 0, .mk 108 1 0 31 0 .rc 0,
   .mk 112 1 0 31 0 .ro 0, .mk 116 1 0 31 0 .ro 0, .mk 120 1 0 31 0 .ro 0, .mk 124 1 0 31 0 .ro 0,
   .mk 128 1 0 15 0 .wo 0]

/-- Rows of firn. -/
def rows_firn : List FieldRow :=
  [.mk 64 1 0 0 0 .rw 1, .mk 68 1 0 1 0 .wo 0, .mk 68 1 0 4 2 .wo 0, .mk 68 1 0 31 31 .wo 0, .mk 72 1 0 0 0 .ro 0,
   .mk 76 1 0 0 0 .w1c 0, .mk 76 1 0 1 1 .w1c 0, .mk 76 1 0 2 2 .w1c 0, .mk 96 8 4 11 0 .rw 0xFFF,
   .mk 96 8 4 27 16 .rw 0, .mk 128 1 0 31 0 .rc 0, .mk 132 1 0 31 0 .rc 0, .mk 136 1 0 31 0 .rc 0,
   .mk 140 1 0 31 0 .rc 0, .mk 144 1 0 31 0 .ro 0, .mk 148 1 0 31 0 .ro 0, .mk 152 1 0 31 0 .ro 0,
   .mk 156 1 0 31 0 .ro 0]

/-- Rows of drc. -/
def rows_drc : List FieldRow :=
  [.mk 64 1 0 0 0 .rw 1, .mk 64 1 0 3 1 .rw 4, .mk 64 1 0 4 4 .rw 1, .mk 68 1 0 3 0 .rw 6, .mk 72 1 0 0 0 .ro 0,
   .mk 72 1 0 3 1 .ro 0, .mk 72 1 0 9 4 .ro 0x20, .mk 76 1 0 0 0 .w1c 0, .mk 76 1 0 1 1 .w1c 0,
   .mk 76 1 0 2 2 .w1c 0, .mk 76 1 0 3 3 .w1c 0, .mk 76 1 0 4 4 .w1c 0, .mk 76 1 0 5 5 .w1c 0,
   .mk 76 1 0 6 6 .w1c 0, .mk 76 1 0 7 7 .w1c 0, .mk 80 1 0 13 0 .wo 0, .mk 80 1 0 17 14 .wo 0,
   .mk 80 1 0 31 31 .wo 0, .mk 84 1 0 31 0 .rc 0, .mk 88 1 0 31 0 .rc 0, .mk 92 1 0 31 0 .rc 0,
   .mk 96 1 0 31 0 .rc 0, .mk 100 1 0 31 0 .rc 0, .mk 104 1 0 28 0 .ro 0, .mk 108 1 0 28 0 .ro 0,
   .mk 112 1 0 31 0 .ro 0, .mk 116 1 0 31 0 .ro 0, .mk 120 1 0 31 0 .ro 0, .mk 124 1 0 31 0 .ro 0,
   .mk 128 1 0 31 0 .ro 0, .mk 132 1 0 31 0 .ro 0]

/-- Rows of tb. -/
def rows_tb : List FieldRow :=
  [.mk 64 1 0 31 0 .rw 0x9999999A, .mk 68 1 0 7 0 .rw 1, .mk 72 1 0 31 0 .wo 0, .mk 76 1 0 29 0 .rw 0x3E8,
   .mk 80 1 0 31 0 .rw 0, .mk 84 1 0 15 0 .rw 0, .mk 88 1 0 29 0 .rw 0, .mk 92 1 0 31 0 .rw 0, .mk 96 1 0 0 0 .wo 0,
   .mk 96 1 0 1 1 .wo 0, .mk 100 1 0 0 0 .ro 0, .mk 100 1 0 1 1 .ro 0, .mk 100 1 0 2 2 .ro 0,
   .mk 104 1 0 0 0 .w1c 0, .mk 104 1 0 1 1 .w1c 0, .mk 104 1 0 2 2 .w1c 0, .mk 104 1 0 3 3 .w1c 0,
   .mk 104 1 0 4 4 .w1c 0, .mk 104 1 0 5 5 .w1c 0, .mk 104 1 0 6 6 .w1c 0, .mk 108 1 0 29 0 .ro 0,
   .mk 112 1 0 31 0 .ro 0, .mk 116 1 0 15 0 .ro 0, .mk 120 1 0 31 0 .ro 0, .mk 124 1 0 31 0 .rc 0,
   .mk 128 1 0 31 0 .rc 0, .mk 132 1 0 31 0 .rc 0]

/-- Rows of ts. -/
def rows_ts : List FieldRow :=
  [.mk 64 1 0 4 0 .rw 0, .mk 68 1 0 0 0 .ro 0, .mk 68 1 0 1 1 .ro 0, .mk 72 1 0 0 0 .rw 0, .mk 72 1 0 4 1 .rw 0,
   .mk 72 1 0 12 5 .rw 0x18, .mk 72 1 0 31 16 .rw 0x3E8, .mk 76 1 0 31 0 .ro 0, .mk 80 1 0 31 0 .ro 0,
   .mk 84 1 0 15 0 .ro 0, .mk 84 1 0 16 16 .ro 0, .mk 88 1 0 0 0 .w1c 0, .mk 88 1 0 1 1 .w1c 0,
   .mk 92 1 0 31 0 .rc 0]

/-- Rows of pg. -/
def rows_pg : List FieldRow :=
  [.mk 64 8 32 2 0 .ro 0, .mk 64 8 32 30 30 .wo 0, .mk 64 8 32 31 31 .wo 0, .mk 68 8 32 1 0 .rw 0,
   .mk 68 8 32 2 2 .rw 0, .mk 68 8 32 4 3 .rw 0, .mk 68 8 32 7 5 .rw 0, .mk 68 8 32 8 8 .rw 0,
   .mk 72 8 32 31 0 .rw 0, .mk 76 8 32 15 0 .rw 0, .mk 80 8 32 29 0 .rw 0, .mk 84 8 32 31 0 .rw 0,
   .mk 88 8 32 29 0 .rw 0, .mk 92 8 32 0 0 .wo 0, .mk 92 8 32 1 1 .wo 0, .mk 92 8 32 8 8 .ro 0,
   .mk 92 8 32 9 9 .ro 0, .mk 92 8 32 10 10 .w1c 0, .mk 92 8 32 11 11 .w1c 0, .mk 92 8 32 12 12 .w1c 0,
   .mk 320 8 4 31 0 .rc 0]

/-- Rows of cap. -/
def rows_cap : List FieldRow :=
  [.mk 68 2 32 1 0 .rw 0, .mk 68 2 32 3 2 .rw 0, .mk 72 2 32 31 0 .ro 0, .mk 76 2 32 15 0 .ro 0,
   .mk 76 2 32 30 30 .ro 0, .mk 76 2 32 31 31 .ro 0, .mk 80 2 32 29 0 .ro 0, .mk 84 2 32 31 0 .ro 0,
   .mk 88 2 32 0 0 .wo 0, .mk 92 2 32 4 0 .ro 0, .mk 92 2 32 8 8 .w1c 0, .mk 92 2 32 9 9 .w1c 0,
   .mk 92 2 32 10 10 .w1c 0, .mk 128 2 4 31 0 .rc 0, .mk 64 2 32 2 0 .ro 0, .mk 64 2 32 30 30 .wo 0,
   .mk 64 2 32 31 31 .wo 0]

/-- Rows of snap. -/
def rows_snap : List FieldRow :=
  [.mk 64 1 0 30 0 .ro 0, .mk 64 1 0 31 31 .ro 0, .mk 68 1 0 2 0 .ro 0, .mk 68 1 0 3 3 .ro 0]

/-- Rows of fh. -/
def rows_fh : List FieldRow :=
  [.mk 64 1 0 0 0 .rw 0, .mk 64 1 0 2 1 .rw 0, .mk 64 1 0 4 3 .rw 0, .mk 64 1 0 7 5 .rw 0, .mk 64 1 0 8 8 .rw 0,
   .mk 68 1 0 0 0 .ro 1, .mk 68 1 0 1 1 .ro 0, .mk 68 1 0 3 2 .ro 0, .mk 68 1 0 4 4 .ro 0, .mk 72 1 0 0 0 .w1c 0,
   .mk 72 1 0 1 1 .w1c 0, .mk 72 1 0 2 2 .w1c 0, .mk 72 1 0 3 3 .w1c 0, .mk 72 1 0 4 4 .w1c 0,
   .mk 72 1 0 5 5 .w1c 0, .mk 72 1 0 6 6 .w1c 0, .mk 76 1 0 15 0 .rw 0, .mk 80 1 0 15 0 .rw 0,
   .mk 84 1 0 31 0 .rw 0, .mk 88 1 0 15 0 .rw 0, .mk 88 1 0 31 16 .ro 0, .mk 92 1 0 15 0 .rw 0,
   .mk 96 1 0 31 0 .rw 0, .mk 100 1 0 15 0 .rw 0, .mk 100 1 0 31 16 .ro 0, .mk 104 1 0 15 0 .rw 0,
   .mk 108 1 0 15 0 .ro 0, .mk 108 1 0 31 31 .ro 0, .mk 112 1 0 31 0 .ro 0, .mk 116 1 0 15 0 .ro 0,
   .mk 120 1 0 29 0 .ro 0, .mk 124 1 0 0 0 .wo 0, .mk 128 1 0 31 0 .ro 0, .mk 132 1 0 31 0 .ro 0,
   .mk 136 1 0 31 0 .ro 0, .mk 140 1 0 31 0 .ro 0, .mk 144 1 0 31 0 .rc 0, .mk 148 1 0 31 0 .rc 0,
   .mk 152 1 0 31 0 .rc 0, .mk 156 1 0 31 0 .rc 0]
  ++ [.mk 160 1 0 31 0 .rc 0, .mk 164 1 0 31 0 .rc 0, .mk 168 1 0 31 0 .rw 0, .mk 172 1 0 15 0 .rw 0]

/-- Rows of shr. -/
def rows_shr : List FieldRow :=
  [.mk 64 1 0 0 0 .rw 0, .mk 64 1 0 1 1 .rw 1, .mk 68 1 0 2 0 .ro 0, .mk 68 1 0 6 3 .ro 0, .mk 68 1 0 7 7 .ro 0,
   .mk 68 1 0 9 8 .ro 0, .mk 68 1 0 10 10 .ro 0, .mk 68 1 0 11 11 .ro 0, .mk 72 1 0 0 0 .w1c 0,
   .mk 72 1 0 1 1 .w1c 0, .mk 72 1 0 2 2 .w1c 0, .mk 72 1 0 3 3 .w1c 0, .mk 72 1 0 4 4 .w1c 0,
   .mk 72 1 0 5 5 .w1c 0, .mk 72 1 0 6 6 .w1c 0, .mk 72 1 0 7 7 .w1c 0, .mk 76 1 0 5 0 .rw 0x28,
   .mk 80 1 0 31 0 .ro 0, .mk 84 1 0 31 0 .ro 0, .mk 88 1 0 31 0 .rc 0, .mk 92 1 0 31 0 .rc 0,
   .mk 96 1 0 31 0 .rc 0, .mk 100 1 0 31 0 .rc 0, .mk 104 1 0 31 0 .rc 0, .mk 108 1 0 31 0 .ro 0,
   .mk 112 1 0 31 0 .ro 0, .mk 116 1 0 31 0 .ro 0, .mk 120 1 0 31 0 .ro 0, .mk 160 1 0 3 0 .rw 0,
   .mk 164 1 0 31 0 .rw 0xFFFFFFFF, .mk 168 1 0 31 0 .rw 0xFFFFFFFF, .mk 128 2 16 22 0 .rw 0,
   .mk 132 2 16 5 0 .rw 0, .mk 136 2 16 15 0 .rw 0, .mk 140 2 16 0 0 .rw 0, .mk 140 2 16 1 1 .rw 0,
   .mk 140 2 16 2 2 .rw 0, .mk 140 2 16 5 3 .rw 0, .mk 140 2 16 6 6 .ro 0, .mk 140 2 16 7 7 .w1c 0]

/-- Rows of pcie. -/
def rows_pcie : List FieldRow :=
  [.mk 64 1 0 2 0 .ro 0, .mk 64 1 0 7 3 .ro 0, .mk 64 1 0 8 8 .ro 0, .mk 64 1 0 10 9 .ro 0, .mk 64 1 0 11 11 .ro 0,
   .mk 64 1 0 15 12 .ro 0, .mk 68 1 0 0 0 .w1c 0, .mk 68 1 0 1 1 .w1c 0, .mk 68 1 0 2 2 .w1c 0,
   .mk 68 1 0 3 3 .w1c 0, .mk 72 1 0 31 0 .rc 0, .mk 76 1 0 31 0 .rc 0, .mk 80 1 0 31 0 .rc 0,
   .mk 84 1 0 31 0 .ro 0, .mk 88 1 0 31 0 .ro 0]

/-- Rows of modl. -/
def rows_modl : List FieldRow :=
  [.mk 64 1 0 0 0 .rw 0, .mk 64 1 0 2 1 .rw 0, .mk 64 1 0 6 3 .rw 0, .mk 64 1 0 7 7 .rw 1, .mk 64 1 0 8 8 .rw 0,
   .mk 68 1 0 0 0 .ro 0, .mk 68 1 0 1 1 .ro 0, .mk 68 1 0 2 2 .ro 0, .mk 72 1 0 0 0 .w1c 0, .mk 72 1 0 1 1 .w1c 0,
   .mk 72 1 0 2 2 .w1c 0, .mk 72 1 0 3 3 .w1c 0, .mk 72 1 0 4 4 .w1c 0, .mk 72 1 0 5 5 .w1c 0,
   .mk 72 1 0 6 6 .w1c 0, .mk 72 1 0 7 7 .w1c 0, .mk 76 1 0 15 0 .ro 0, .mk 80 1 0 15 0 .ro 0,
   .mk 84 1 0 15 0 .ro 0, .mk 88 1 0 31 0 .ro 0, .mk 92 1 0 31 0 .ro 0xFFFFFFFF, .mk 96 1 0 31 0 .rw 0x15630,
   .mk 100 1 0 7 0 .rw 0x96, .mk 100 1 0 23 16 .rw 2, .mk 104 1 0 31 0 .rw 0, .mk 108 1 0 31 0 .rw 0,
   .mk 112 1 0 15 0 .rw 0x1324, .mk 116 1 0 31 0 .ro 0, .mk 120 1 0 31 0 .rc 0]

/-- Rows of fwld. -/
def rows_fwld : List FieldRow :=
  [.mk 64 1 0 0 0 .wo 0, .mk 64 1 0 1 1 .wo 0, .mk 68 1 0 31 6 .rw 0, .mk 72 1 0 7 0 .rw 0, .mk 76 1 0 24 0 .rw 0,
   .mk 80 1 0 0 0 .rw 0, .mk 84 1 0 2 0 .ro 0, .mk 84 1 0 6 3 .ro 0, .mk 88 1 0 0 0 .w1c 0, .mk 88 1 0 1 1 .w1c 0,
   .mk 88 1 0 2 2 .w1c 0, .mk 88 1 0 3 3 .w1c 0, .mk 88 1 0 4 4 .w1c 0, .mk 88 1 0 5 5 .w1c 0,
   .mk 92 1 0 31 0 .ro 0, .mk 96 1 0 15 0 .ro 0, .mk 100 1 0 31 0 .ro 0, .mk 104 1 0 9 0 .rw 0xC8,
   .mk 108 1 0 31 0 .rc 0, .mk 112 1 0 31 0 .rc 0]

/-- Rows of fwctl. -/
def rows_fwctl : List FieldRow :=
  [.mk 64 1 0 31 0 .rw 0, .mk 68 1 0 15 0 .rw 0x3E8, .mk 72 1 0 1 0 .wo 0, .mk 72 1 0 15 8 .wo 0,
   .mk 72 1 0 31 31 .wo 0, .mk 76 1 0 1 0 .ro 0, .mk 76 1 0 15 8 .ro 0, .mk 80 1 0 0 0 .w1c 0,
   .mk 80 1 0 1 1 .w1c 0, .mk 80 1 0 2 2 .w1c 0, .mk 84 1 0 15 0 .rw 0, .mk 84 1 0 29 29 .ro 0,
   .mk 84 1 0 30 30 .wo 0, .mk 84 1 0 31 31 .wo 0, .mk 88 1 0 0 0 .rw 0, .mk 88 1 0 1 1 .wo 0,
   .mk 92 1 0 31 0 .ro 0, .mk 96 1 0 31 0 .rc 0, .mk 100 1 0 31 0 .rc 0, .mk 104 1 0 31 0 .rc 0]

/-- Rows of fwpm. -/
def rows_fwpm : List FieldRow :=
  [.mk 64 1 0 2 0 .ro 0, .mk 64 1 0 3 3 .ro 0, .mk 68 1 0 0 0 .w1c 0, .mk 72 1 0 31 0 .rc 0]

/-- Rows of sec. -/
def rows_sec : List FieldRow :=
  [.mk 64 1 0 0 0 .ro 0, .mk 64 1 0 1 1 .ro 0, .mk 64 1 0 31 16 .ro 0, .mk 68 1 0 0 0 .ro 0, .mk 68 1 0 15 8 .ro 0,
   .mk 72 1 0 0 0 .ro 0, .mk 72 1 0 1 1 .ro 0, .mk 72 1 0 15 8 .ro 0, .mk 76 1 0 0 0 .wo 0, .mk 80 1 0 0 0 .rw 0,
   .mk 80 1 0 1 1 .rw 0, .mk 80 1 0 2 2 .rw 0, .mk 84 1 0 2 0 .rw 0, .mk 84 1 0 3 3 .rw 0, .mk 88 1 0 0 0 .rw 0,
   .mk 88 1 0 1 1 .rw 0, .mk 96 16 4 2 0 .rw 0, .mk 96 16 4 3 3 .rw 0, .mk 160 1 0 31 6 .rw 0,
   .mk 164 1 0 7 0 .rw 0, .mk 168 1 0 0 0 .wo 0, .mk 168 1 0 1 1 .ro 0, .mk 172 1 0 0 0 .w1c 0,
   .mk 172 1 0 1 1 .w1c 0, .mk 172 1 0 2 2 .w1c 0, .mk 172 1 0 3 3 .w1c 0, .mk 172 1 0 4 4 .w1c 0,
   .mk 172 1 0 5 5 .w1c 0, .mk 172 1 0 6 6 .w1c 0, .mk 176 1 0 31 0 .rc 0, .mk 180 1 0 31 0 .rc 0,
   .mk 184 1 0 31 0 .rc 0, .mk 188 1 0 31 0 .rc 0]

/-- Rows of mgmt. -/
def rows_mgmt : List FieldRow :=
  [.mk 64 1 0 0 0 .rw 0, .mk 64 1 0 3 1 .rw 7, .mk 64 1 0 4 4 .rw 1, .mk 68 1 0 31 0 .rw 0xF4240,
   .mk 72 1 0 0 0 .ro 0, .mk 72 1 0 1 1 .ro 0, .mk 72 1 0 2 2 .ro 0, .mk 76 1 0 0 0 .w1c 0, .mk 76 1 0 1 1 .w1c 0,
   .mk 76 1 0 2 2 .w1c 0, .mk 76 1 0 3 3 .w1c 0, .mk 76 1 0 4 4 .w1c 0, .mk 76 1 0 5 5 .w1c 0,
   .mk 76 1 0 6 6 .w1c 0, .mk 80 1 0 31 0 .ro 0, .mk 84 1 0 31 0 .ro 0, .mk 88 1 0 31 0 .rc 0,
   .mk 92 1 0 23 0 .ro 0, .mk 96 1 0 15 0 .ro 0, .mk 96 1 0 21 16 .ro 0, .mk 100 1 0 1 0 .rw 0,
   .mk 104 1 0 31 0 .rw 0]

/-- Rows of mpwr. -/
def rows_mpwr : List FieldRow :=
  [.mk 64 1 0 8 0 .rw 0xF0, .mk 68 1 0 2 0 .rw 0, .mk 72 1 0 2 0 .ro 0, .mk 72 1 0 5 3 .ro 0, .mk 72 1 0 6 6 .ro 0,
   .mk 76 1 0 15 0 .ro 0, .mk 80 1 0 8 0 .ro 0, .mk 84 1 0 0 0 .w1c 0, .mk 84 1 0 1 1 .w1c 0, .mk 84 1 0 2 2 .w1c 0,
   .mk 88 1 0 31 0 .rc 0, .mk 92 1 0 31 0 .rc 0]

/-- The rows of a page type's own registers. -/
def blockRows : PageType → List FieldRow
  | .sys => rows_sys
  | .sysFab => rows_sysFab
  | .iagg => rows_iagg
  | .cfgi => rows_cfgi
  | .det => rows_det
  | .floe => rows_floe
  | .gaff => rows_gaff
  | .brash => rows_brash
  | .spar => rows_spar
  | .rime => rows_rime
  | .fmem => rows_fmem
  | .fwin => rows_fwin
  | .cc => rows_cc
  | .hal => rows_hal
  | .mst0 => rows_mst0
  | .mst1 => rows_mst1
  | .mst2 => rows_mst2
  | .mor0 => rows_mor0
  | .mor1 => rows_mor1
  | .serac => rows_serac
  | .firn => rows_firn
  | .drc => rows_drc
  | .tb => rows_tb
  | .ts => rows_ts
  | .pg => rows_pg
  | .cap => rows_cap
  | .snap => rows_snap
  | .fh => rows_fh
  | .shr => rows_shr
  | .pcie => rows_pcie
  | .modl => rows_modl
  | .fwld => rows_fwld
  | .fwctl => rows_fwctl
  | .fwpm => rows_fwpm
  | .sec => rows_sec
  | .mgmt => rows_mgmt
  | .mpwr => rows_mpwr

end Sys2Proof.Machine
end

