-- ==== Sys2Proof/Machine/Pages.lean ====
section
/-! DEFINITION. Pages and registers: the page numbers of R45 and R479, block types and decode widths (R467), the reset values, the
configuration class (R481), and the reads and writes of one field. -/

namespace Sys2Proof.Machine

/-! ### Page numbers (R45, R46, R479) -/

def pgSys : Nat := 0
def pgFab : Nat := 1
def pgIagg : Nat := 2
def pgCfgi : Nat := 3
def pgDet : Nat := 4
/-- Page of unit `u` of logical floe `n` (R46). -/
def pgFloe (n u : Nat) : Nat := 0x1000 + 16 * n + u
def pgCore (n : Nat) : Nat := pgFloe n 0
def pgGaff (n : Nat) : Nat := pgFloe n 1
def pgBrash (n : Nat) : Nat := pgFloe n 2
def pgSpar (n : Nat) : Nat := pgFloe n 3
def pgRime (n : Nat) : Nat := pgFloe n 4
def pgFmem (n : Nat) : Nat := pgFloe n 5
def pgFwin (n : Nat) : Nat := pgFloe n 6
def pgCc (c : Nat) : Nat := 0x2000 + c
def pgHal (h : Nat) : Nat := 0x3000 + h
def pgMst (i : Nat) : Nat := 0x4000 + i
def pgMor (i : Nat) : Nat := 0x5000 + i
def pgSer (e : Nat) : Nat := 0x6000 + e
def pgFirn (s : Nat) : Nat := 0x7000 + s
def pgDrc (n : Nat) : Nat := 0x8000 + n
def pgTb (i : Nat) : Nat := 0x9000 + i
def pgTs : Nat := 0x9004
def pgPg : Nat := 0x9005
def pgCap : Nat := 0x9006
def pgSnap : Nat := 0x9007
def pgFh (p : Nat) : Nat := 0xA000 + p
def pgShr (l : Nat) : Nat := 0xA010 + l
def pgPcie : Nat := 0xA018
def pgMod (m : Nat) : Nat := 0xA020 + m
def pgFwld : Nat := 0xB000
def pgFwctl : Nat := 0xB001
def pgFwpm : Nat := 0xB002
def pgSec : Nat := 0xC000
def pgMgmt : Nat := 0xD000
def pgMpwr : Nat := 0xD001

/-- Block type and instance of a page number; none where no page stands (R45). -/
def pageOf (g : Nat) : Option (PageType × Nat) :=
  let i := g % 0x1000
  match g / 0x1000 with
  | 0 => [PageType.sys, .sysFab, .iagg, .cfgi, .det][i]?.map fun t => (t, 0)
  | 1 =>
    if i < 1024 then
      [PageType.floe, .gaff, .brash, .spar, .rime, .fmem, .fwin][i % 16]?.map fun t => (t, i / 16)
    else none
  | 2 => if i < 8 then some (.cc, i) else none
  | 3 => if i < 128 then some (.hal, i) else none
  | 4 => [PageType.mst0, .mst1, .mst2][i]?.map fun t => (t, 0)
  | 5 => [PageType.mor0, .mor1][i]?.map fun t => (t, 0)
  | 6 => if i < 8 then some (.serac, i) else none
  | 7 => if i < 16 then some (.firn, i) else none
  | 8 => if i < 64 then some (.drc, i) else none
  | 9 => if i < 4 then some (.tb, i) else [PageType.ts, .pg, .cap, .snap][i - 4]?.map fun t => (t, 0)
  | 10 =>
    if i < 16 then some (.fh, i) else if i < 24 then some (.shr, i - 16) else if i = 24 then some (.pcie, 0)
    else if 32 ≤ i ∧ i < 48 then some (.modl, i - 32) else none
  | 11 => [PageType.fwld, .fwctl, .fwpm][i]?.map fun t => (t, i)
  | 12 => if i = 0 then some (.sec, 0) else none
  | 13 => [PageType.mgmt, .mpwr][i]?.map fun t => (t, i)
  | _ => none

/-- TYPE of PAGE_ID (R467, R503, R537, R552, R568, R589). -/
def PageType.code : PageType → Nat
  | .sys => 0x01 | .sysFab => 0x02 | .iagg => 0x03 | .cfgi => 0x04 | .det => 0x05
  | .floe => 0x10 | .gaff => 0x11 | .brash => 0x12 | .spar => 0x13 | .rime => 0x14 | .fmem => 0x15 | .fwin => 0x16
  | .cc => 0x18 | .hal => 0x20 | .mst0 => 0x21 | .mst1 => 0x22 | .mst2 => 0x23 | .mor0 => 0x24 | .mor1 => 0x25
  | .serac => 0x26 | .firn => 0x27 | .drc => 0x28 | .tb => 0x30 | .ts => 0x31 | .pg => 0x32 | .cap => 0x33
  | .snap => 0x34 | .fh => 0x38 | .shr => 0x39 | .pcie => 0x3A | .modl => 0x3B
  | .fwld => 0x40 | .fwctl => 0x40 | .fwpm => 0x40 | .sec => 0x48 | .mgmt => 0x50 | .mpwr => 0x50

/-- Decode width W of PAGE_ID (R467 and the chapters it names). -/
def PageType.width : PageType → Nat
  | .gaff => 8
  | .rime | .mst1 | .pg | .fwld | .fwctl | .fwpm => 7
  | .sys | .det | .spar | .fwin | .cc | .hal | .mst2 | .mor0 | .serac | .firn | .drc | .tb | .cap | .fh | .shr
  | .sec => 6
  | .sysFab | .iagg | .cfgi | .floe | .brash | .fmem | .mst0 | .mor1 | .ts | .snap | .pcie | .modl | .mgmt | .mpwr => 5

/-- Emulated pages (R503). -/
def PageType.emulated : PageType → Bool
  | .fwld | .fwctl | .fwpm => true
  | _ => false

/-- Pages on standby power (R487, R489, R552). -/
def PageType.standby : PageType → Bool
  | .cfgi | .mgmt | .mpwr | .modl => true
  | _ => false

/-- Whether a row defines the register at an offset. -/
def FieldRow.covers (r : FieldRow) (off : Nat) : Bool :=
  decide (r.off ≤ off) && decide (off < r.off + r.n * max r.stride 4) &&
    decide ((off - r.off) % max r.stride 4 = 0) && decide ((off - r.off) / max r.stride 4 < r.n)

/-- Registers that exist only in some instances: QUAD_MODE in ports 4q (R444) and the rank registers in link 0 (R445). -/
def rowPresent (t : PageType) (inst off lo : Nat) : Bool :=
  match t with
  | .shr => decide (inst = 0) || !decide (off = 0x0A0 ∨ off = 0x0A4 ∨ off = 0x0A8)
  | .fh => decide (inst % 4 = 0) || !decide (off = F.FH_CTRL_QUAD_MODE.off ∧ lo = F.FH_CTRL_QUAD_MODE.lo)
  | _ => true

/-- The rows of the register at an offset of a page. -/
def rowsAt (g off : Nat) : List FieldRow :=
  match pageOf g with
  | none => []
  | some (t, i) =>
    (if off < 0x040 then rows_hdr else blockRows t).filter fun r => r.covers off && rowPresent t i off r.lo

/-- Whether an offset of a page holds a register (R469). -/
def isDefined (g off : Nat) : Bool := !(rowsAt g off).isEmpty

/-- Offsets of the registers of class CFG besides PAGE_CTRL and IRQ_MASK (R481 and the chapters it names). -/
def cfgOffsets : PageType → List Nat
  | .rime => [0x040]
  | .gaff => [0x058, 0x05C]
  | .fmem => [0x040]
  | .fwin => (List.range 32).map fun i => 0x040 + 4 * i
  | .firn => 0x040 :: (List.range 8).map fun i => 0x060 + 4 * i
  | .hal => [0x050]
  | .mor0 => [0x04C, 0x050, 0x054, 0x060, 0x064, 0x068]
  | .mor1 => [0x044, 0x05C, 0x068, 0x07C]
  | .serac => [0x040]
  | .mst0 => [0x040, 0x04C, 0x050]
  | .mst1 => (List.range 64).map fun i => 0x040 + 4 * i
  | .mst2 => (List.range 32).map fun i => 0x040 + 4 * i
  | .det => 0x040 :: (List.range 8).flatMap fun t => [0x080 + 16 * t, 0x084 + 16 * t, 0x088 + 16 * t]
  | .tb => [0x04C]
  | .ts => [0x040, 0x048]
  | .pg => (List.range 8).flatMap fun g => [0x04, 0x08, 0x0C, 0x10, 0x14, 0x18].map fun o => 0x040 + 32 * g + o
  | .cap => [0x044, 0x064]
  | .fh => [0x040, 0x04C, 0x050, 0x054, 0x058, 0x060, 0x064, 0x0A8, 0x0AC]
  | .shr => [0x040, 0x04C] ++ ((List.range 8).map fun i => 0x080 + 4 * i) ++ [0x0A0, 0x0A4, 0x0A8]
  | .modl => [0x040, 0x064]
  | .drc => [0x040, 0x044]
  | .iagg => [0x048, 0x04C, 0x050, 0x054, 0x058, 0x05C]
  | .sec => [0x054, 0x058] ++ (List.range 16).map fun k => 0x060 + 4 * k
  | .mgmt => [0x040, 0x044, 0x064]
  | .mpwr => [0x040, 0x044]
  | .cc => [0x040]
  | _ => []

/-- Offsets of every CFG register of a page, ascending (R481, R482); none on an emulated page. -/
def cfgRegs (g : Nat) : List Nat :=
  match pageOf g with
  | none => []
  | some (t, _) => if t.emulated then [] else 0x008 :: 0x014 :: (cfgOffsets t).filter (isDefined g)

/-! ### Register words -/

/-- Where a word stands in the register file. -/
def regIdx (g off : Nat) : Nat := g * 1024 + off / 4

/-- Place a value in bits `[hi:lo]` of a word, the other bits kept. -/
def putBits (w : Word) (hi lo v : Nat) : Word :=
  let m := 2 ^ (hi + 1 - lo)
  BitVec.ofNat 32 (w.toNat - (bits w.toNat hi lo) * 2 ^ lo + (v % m) * 2 ^ lo)

/-- Reset value of a field: the Reset column, with the values that the column names by their source (R466, R467, R201, R291, R537). -/
def fieldReset (t : PageType) (inst : Nat) (g off : Nat) (r : FieldRow) : Nat :=
  if off = 0x000 then
    if r.lo = 0 then t.code else if r.lo = 8 then t.width else inst
  else if off = 0x01C then (cfgRegs g).length
  else
    match t with
    | .floe => if off = 0x040 then (if r.lo = 0 then inst else inst / 8) else r.reset
    | .hal => if off = 0x044 ∧ r.lo = 3 then (if inst < 64 then 1 else 0) else r.reset
    | .sec => if off = 0x044 ∧ r.lo = 8 then 0xB0 else r.reset
    | .cc => if off = 0x048 ∧ r.lo = 0 then 1 else r.reset
    | _ => r.reset

/-- Reset value of a register word (R12). -/
def regReset (idx : Nat) : Word :=
  let g := idx / 1024
  let off := idx % 1024 * 4
  match pageOf g with
  | none => 0
  | some (t, i) => (rowsAt g off).foldl (fun w r => putBits w r.hi r.lo (fieldReset t i g off r)) 0

/-- The stored word of a register. -/
def State.word (s : State) (g off : Nat) : Word := Tab.get regReset s.regs (regIdx g off)

def State.setWord (s : State) (g off : Nat) (w : Word) : State :=
  { s with regs := Tab.put regReset s.regs (regIdx g off) w }

/-- A field's stored value. -/
def State.rf (s : State) (g : Nat) (f : Fld) : Nat := bits (s.word g f.off).toNat f.hi f.lo

/-- A one-bit field. -/
def State.bit (s : State) (g : Nat) (f : Fld) : Bool := decide (s.rf g f = 1)

/-- Set a field by hardware. -/
def State.wf (s : State) (g : Nat) (f : Fld) (v : Nat) : State := s.setWord g f.off (putBits (s.word g f.off) f.hi f.lo v)

/-- The registers of a page take their reset values, but for those that `keep` names; its live counters return to 0 (R77, R134). -/
def State.resetPage (s : State) (g : Nat) (keep : Nat → Bool) : State :=
  { s with
    regs := s.regs.filter fun e => decide (e.1 / 1024 ≠ g) || keep (e.1 % 1024 * 4)
    live := s.live.filter fun e => decide (e.1 / 1024 ≠ g) }

/-- A field of a written word. -/
def Fld.of (f : Fld) (v : Word) : Nat := bits v.toNat f.hi f.lo

/-- Add to a 32-bit counter, which stops at its largest value (R77). -/
def State.bumpN (s : State) (g : Nat) (f : Fld) (n : Nat) : State :=
  s.wf g f (min (s.rf g f + n) (2 ^ (f.hi + 1 - f.lo) - 1))

def State.bump (s : State) (g : Nat) (f : Fld) : State := s.bumpN g f 1

/-- Add to a 64-bit counter, which wraps (R134); `f` is its low register. -/
def State.tally (s : State) (g : Nat) (f : Fld) (n : Nat) : State :=
  let k := regIdx g f.off
  { s with live := Tab.set s.live k 0 ((Tab.at s.live k 0 + n) % 2 ^ 64) }

/-! ### Events and fault records -/

/-- The IRQ_STAT bit that a W1C flag of the page sets (R478 and the chapters it names); Masthead pages set theirs by name,
and a flag of the common header has a bit only where bit 0 is for every flag. -/
def flagIrq (t : PageType) : Option Nat :=
  match t with
  | .mst0 | .mst1 | .mst2 | .hal => none
  | .pg => some 8
  | .cap => some 2
  | _ => some 0

/-- Set a bit of IRQ_STAT. -/
def State.irq (s : State) (g b : Nat) : State :=
  s.setWord g 0x010 (s.word g 0x010 ||| (1 : Word) <<< b)

/-- Hardware sets a flag (R478). -/
def State.raise (s : State) (g : Nat) (f : Fld) : State :=
  let s := s.wf g f 1
  match (pageOf g).bind fun p => flagIrq p.1 with
  | some b => if f.off < 0x040 ∧ b ≠ 0 then s else s.irq g b
  | none => s

/-- The queue of the component that owns a page (R557): clusters 0 to 7, scheduler 8, security 9. -/
def faultOwner (g : Nat) : Nat :=
  match pageOf g with
  | some (.cc, c) => c
  | some (.hal, _) | some (.mst0, _) | some (.mst1, _) | some (.mst2, _) | some (.mor0, _) | some (.mor1, _)
  | some (.serac, _) | some (.det, _) | some (.firn, _) | some (.drc, _) | some (.tb, _) | some (.ts, _)
  | some (.pg, _) | some (.cap, _) | some (.snap, _) | some (.sysFab, _) | some (.cfgi, _) | some (.iagg, _) => 8
  | some (.floe, n) | some (.gaff, n) | some (.brash, n) | some (.spar, n) | some (.rime, n) | some (.fmem, n)
  | some (.fwin, n) => n / 8
  | _ => 9

/-- Nanoseconds of a time base since its epoch (R392). -/
def State.tbNs (s : State) (i : Nat) : Nat :=
  let t := Tab.at s.tb i {}
  t.sec * 1000000000 + t.ns

/-- Post one fault record (R32, R557) and set IRQ_STAT bit 30 of the page (R478). Without an error address or a cause, DETAIL is free. -/
def State.post (s : State) (g : Nat) (f : Fld) (cls : Nat) (tag : Tag) (id : Nat) (detail : Option Nat := none) : State :=
  let d := detail.getD (Config.faultDetail g f.off f.lo s.fresh).toNat
  let s := if detail.isNone then { s with fresh := s.fresh + 1 } else s
  let q := faultOwner g
  let recs := Tab.at s.faultQ q []
  let lost := Tab.at s.faultLost q 0
  let s := s.irq g 30
  if recs.length ≥ 1024 then { s with faultLost := Tab.set s.faultLost q 0 (min (lost + 1) 0xFFFF) }
  else
    let r := FaultRec.mk g f.off f.lo cls lost tag (id % 2 ^ 32) (d % 2 ^ 32) (s.tbNs 0 % 2 ^ 64)
    { s with faultQ := Tab.set s.faultQ q [] (recs ++ [r]), faultLost := Tab.set s.faultLost q 0 0 }

/-- Set a flag that is a fault under R32, and post its record. -/
def State.fault (s : State) (g : Nat) (f : Fld) (cls : Nat) (tag : Tag := 0) (id : Nat := 0) (detail : Option Nat := none) : State :=
  (s.raise g f).post g f cls tag id detail

/-- Discarded work at a disabled block (R476). -/
def State.discardWork (s : State) (g id : Nat) : State := s.post g F.PAGE_CTRL_EN 6 0 id

/-! ### Readiness and enable -/

def State.ready (s : State) (g : Nat) : Bool := s.bit g F.PAGE_STAT_READY

def State.enabled (s : State) (g : Nat) : Bool := s.bit g F.PAGE_CTRL_EN

def State.shutting (s : State) (g : Nat) : Bool := s.bit g F.PAGE_STAT_SHUTTING

/-- Whether the block does work (R476): EN or SHUTTING is 1. -/
def State.works (s : State) (g : Nat) : Bool := s.enabled g || s.shutting g

end Sys2Proof.Machine
end

