-- ==== Sys2Proof/Machine/Ops.lean ====
section
/-! DEFINITION. Named operations over memory, tags and partitions: the address map (R41, R43), bytes and lines, the tag's fields (R33, R35),
uncorrectable words (R242), and who owns a unit. -/

namespace Sys2Proof.Machine

/-! ### The tag (R33) -/

def Tag.poison (t : Tag) : Bool := t.getLsbD 63
def Tag.digestEn (t : Tag) : Bool := t.getLsbD 62
def Tag.order (t : Tag) : Bool := t.getLsbD 61
def Tag.fmt (t : Tag) : Nat := bits t.toNat 60 57
def Tag.tenant (t : Tag) : Nat := bits t.toNat 56 54
def Tag.stream (t : Tag) : Nat := bits t.toNat 53 42
def Tag.cell (t : Tag) : Nat := bits t.toNat 41 32
def Tag.slot (t : Tag) : Nat := bits t.toNat 31 16
def Tag.sample (t : Tag) : Nat := bits t.toNat 15 0

/-- A tag from its fields. -/
def mkTag (poison digest order : Bool) (fmt tenant stream cell slot sample : Nat) : Tag :=
  BitVec.ofNat 64 (poison.toNat * 2 ^ 63 + digest.toNat * 2 ^ 62 + order.toNat * 2 ^ 61 + fmt % 16 * 2 ^ 57
    + tenant % 8 * 2 ^ 54 + stream % 4096 * 2 ^ 42 + cell % 1024 * 2 ^ 32 + slot % 65536 * 2 ^ 16 + sample % 65536)

/-- Set POISON; nothing clears it (R35). -/
def Tag.addPoison (t : Tag) (p : Bool) : Tag := if p then t ||| (1#64 <<< 63) else t

/-- The tag of new data (R35): STREAM, FMT and DIGEST_EN from the template, the sample fields from the input. -/
def newTag (stream fmt : Nat) (digest poison : Bool) (src : Tag) : Tag :=
  mkTag (poison || Tag.poison src) (digest && Tag.digestEn src) (Tag.order src) fmt (Tag.tenant src) stream (Tag.cell src)
    (Tag.slot src) (Tag.sample src)

/-- Signed difference of two slot numbers (R34). -/
def slotDiff (a b : Nat) : Int := sInt 16 (a + 65536 - b % 65536)

/-! ### Memory -/

/-- Base of a floe window (R41). -/
def floeBase (n : Nat) : Nat := 0x18_0000_0000 + n * 0x100_0000

/-- Offsets of the regions of a floe window (R43). -/
def offWb (half : Nat) : Nat := 0x40_0000 + half * 0x8_0000
def offAcc : Nat := 0x50_0000
def offImem : Nat := 0x58_0000
def offDmem : Nat := 0x59_0000

def dramSize : Nat := 2 ^ 35

def State.rdByte (s : State) (a : Nat) : Byte := Tab.at s.mem a 0

def State.wrByte (s : State) (a : Nat) (b : Byte) : State := { s with mem := Tab.set s.mem a 0 b }

def State.rdBytes (s : State) (a : Nat) : Nat → Bytes
  | 0 => []
  | n + 1 => s.rdByte a :: State.rdBytes s (a + 1) n

def State.wrBytes (s : State) (a : Nat) : Bytes → State
  | [] => s
  | b :: bs => State.wrBytes (s.wrByte a b) (a + 1) bs

/-- A little-endian number of `n` bytes (R9). -/
def State.rdLe (s : State) (a n : Nat) : Nat := leNat (s.rdBytes a n)

def State.wrLe (s : State) (a n v : Nat) : State := s.wrBytes a (leBytes n v)

/-- Bytes `[lo, hi)` become 0. -/
def State.zeroMem (s : State) (lo hi : Nat) : State := { s with mem := Tab.clear s.mem lo hi }

/-- The tag of the line that holds an address. -/
def State.tagAt (s : State) (a : Nat) : Tag := Tab.at s.tags (a / 64) 0

def State.setTag (s : State) (a : Nat) (t : Tag) : State := { s with tags := Tab.set s.tags (a / 64) 0 t }

def State.poisonAt (s : State) (a : Nat) : Bool := Tag.poison (s.tagAt a)

/-- Poison mark of a DRAM line (R456). -/
def State.dramPoisonAt (s : State) (a : Nat) : Bool := Tab.at s.dramPoison (a / 64) false

def State.setDramPoison (s : State) (a : Nat) (p : Bool) : State := { s with dramPoison := Tab.set s.dramPoison (a / 64) false p }

/-- Whether any line of `[a, a + n)` carries POISON. -/
def State.poisonIn (s : State) (a n : Nat) : Bool :=
  n ≠ 0 && (List.range ((a + n - 1) / 64 - a / 64 + 1)).any fun i => s.poisonAt ((a / 64 + i) * 64)

/-- Write a whole line and its tag; the new tag replaces the old one (R242). -/
def State.wrLine (s : State) (a : Nat) (bs : Bytes) (t : Tag) : State := (s.wrBytes a (bs.take 64)).setTag a t

/-! ### Floes, runs, codebooks -/

def State.floe (s : State) (n : Nat) : FloeSt := Tab.at s.floes n {}

def State.setFloe (s : State) (n : Nat) (x : FloeSt) : State := { s with floes := Tab.set s.floes n {} x }

def State.run (s : State) (r : Nat) : Option Run := Tab.at s.runs r none

def State.setRun (s : State) (r : Nat) (x : Option Run) : State := { s with runs := Tab.set s.runs r none x }

def FloeSt.cb (x : FloeSt) (j : Nat) : CbSlot := Tab.at x.cbs j {}

def FloeSt.setCb (x : FloeSt) (j : Nat) (c : CbSlot) : FloeSt := { x with cbs := Tab.set x.cbs j {} c }

/-- Signed value of an accumulator (R67). -/
def State.acc (s : State) (f i : Nat) : Int := sInt 96 (s.rdLe (floeBase f + offAcc + 12 * i) 12)

def State.setAcc (s : State) (f i : Nat) (v : Int) : State := s.wrLe (floeBase f + offAcc + 12 * i) 12 (lowBits 96 v)

/-- Poison side bit of an accumulator (R124). -/
def State.accPoison (s : State) (f i : Nat) : Bool := Tab.at s.accSide (f * 32768 + i) false

def State.setAccPoison (s : State) (f i : Nat) (p : Bool) : State :=
  { s with accSide := Tab.set s.accSide (f * 32768 + i) false p }

/-- A slot of the scale side store of a half (R141). -/
def sideKey (f half slot : Nat) : Nat := (f * 2 + half) * 8192 + slot

def State.sideSlot (s : State) (f half slot : Nat) : SideSlot := Tab.at s.side (sideKey f half slot) {}

def State.setSide (s : State) (f half slot : Nat) (x : SideSlot) : State :=
  { s with side := Tab.set s.side (sideKey f half slot) {} x }

/-! ### Partitions and owners (R363, R368) -/

/-- STATE of partition `p`: 0 FREE, 1 LIVE, 2 DRAINING, 3 DRAINED, 4 CLEARING. -/
def State.partState (s : State) (p : Nat) : Nat := s.rf (pgMst 1) (F.MST_PART_CMD_STATE p)

def State.partHasFloe (s : State) (p n : Nat) : Bool :=
  if n < 32 then (s.word (pgMst 1) (0x040 + 32 * p)).getLsbD n else (s.word (pgMst 1) (0x044 + 32 * p)).getLsbD (n - 32)

def State.partHasHal (s : State) (p h : Nat) : Bool :=
  (s.word (pgMst 1) (0x048 + 32 * p + 4 * (h / 32))).getLsbD (h % 32)

def State.partHasSer (s : State) (p e : Nat) : Bool := (s.word (pgMst 1) (0x058 + 32 * p)).getLsbD (3 + e)

def State.partTenant (s : State) (p : Nat) : Nat := s.rf (pgMst 1) (F.MST_PART_CFG_TENANT p)

/-- The partition that holds a floe, halyard or Serac engine: the lowest that is not FREE and has its bit set. -/
def State.floePart (s : State) (n : Nat) : Option Nat :=
  (List.range 8).find? fun p => decide (s.partState p ≠ 0) && s.partHasFloe p n

def State.halPart (s : State) (h : Nat) : Option Nat :=
  (List.range 8).find? fun p => decide (s.partState p ≠ 0) && s.partHasHal p h

def State.serPart (s : State) (e : Nat) : Option Nat :=
  (List.range 8).find? fun p => decide (s.partState p ≠ 0) && s.partHasSer p e

/-- The tenant that owns a floe, where one does. -/
def State.floeTenant (s : State) (n : Nat) : Option Nat := (s.floePart n).map s.partTenant

end Sys2Proof.Machine
end

