-- ==== Sys2Proof/Machine/Access.lean ====
section
/-! DEFINITION. Who may reach a register: unmapped accesses (R42), readiness (R474), the tenant an agent is bound to (R525), and confidential
mode (R527). -/

namespace Sys2Proof.Machine

/-- Physical address of a page offset (R45). -/
def regAddr (g off : Nat) : Nat := 0x10_0000_0000 + g * 0x1000 + off

/-- AGENT code of SYS_FAB_ERR_ADDR_HI (R488). -/
def agentCode : Agent → Nat
  | .app _ => 0
  | .fw _ => 1
  | .mgmt => 2
  | .pcie => 3

/-- The flag's address fields (R42, R468, R488): the last access that set a flag. -/
def State.fabAddr (s : State) (agent addr : Nat) (write : Bool) : State :=
  let s := s.wf pgFab F.SYS_FAB_ERR_ADDR (addr % 2 ^ 32)
  let s := s.wf pgFab F.SYS_FAB_ERR_ADDR_HI_ADDR (addr / 2 ^ 32)
  let s := s.wf pgFab F.SYS_FAB_ERR_ADDR_HI_AGENT agent
  s.wf pgFab F.SYS_FAB_ERR_ADDR_HI_WRITE write.toNat

/-- An access outside what is populated: flag, address, count and record (R42). -/
def State.unmapped (s : State) (agent addr : Nat) (write : Bool) : State :=
  let s := (s.fabAddr agent addr write).bump pgFab F.SYS_FAB_UNMAP_CNT
  s.fault pgFab F.SYS_FAB_ERR_STAT_UNMAPPED 6 0 0 (some addr)

/-- A write to a block register: discarded under R42 before the block reports READY (R474). -/
def State.onReady (s : State) (a : Agent) (g off : Nat) (k : State → State) : State :=
  if s.ready g then k s else s.unmapped (agentCode a) (regAddr g off) true

/-- Tenant of an agent (R525). -/
def State.agentTenant (s : State) (a : Agent) : Option Nat :=
  match a with
  | .app k => if s.bit pgSec (F.SEC_CORE_TENANT_BOUND k.val) then some (s.rf pgSec (F.SEC_CORE_TENANT_TENANT k.val)) else none
  | .pcie => if s.bit pgSec F.SEC_HOST_TENANT_BOUND then some (s.rf pgSec F.SEC_HOST_TENANT_TENANT) else none
  | .fw _ => none
  | .mgmt => none

def agentIsFw : Agent → Bool
  | .fw _ => true
  | _ => false

/-- Confidential mode is in force (R527). -/
def State.confidential (s : State) : Bool := s.bit pgSec F.SEC_CONF_STAT_CONF_ACTIVE

end Sys2Proof.Machine
end

