-- ==== Sys2Proof/Machine/Work.lean ====
section
/-! DEFINITION. What a unit reports to the Masthead: completion on the readiness scoreboard (R354) and cells failed by a refusal (R355). -/

namespace Sys2Proof.Machine

/-- The unit reports completion of issued work. -/
def State.workDone (s : State) (c : WorkCtx) : State :=
  match c.work with
  | none => s
  | some k =>
    match Tab.at s.mst.works k none with
    | none => s
    | some w => { s with mst := { s.mst with works := Tab.set s.mst.works k none (some { w with done := true }) } }

/-- Add cells to the marks of R355, each once. -/
def addMarks (marks cells : List Nat) : List Nat := marks ++ cells.filter fun c => !marks.contains c

/-- Cells are marked failed (R355). -/
def State.markFailed (s : State) (cells : List Nat) : State :=
  let s := if cells.isEmpty then s else s.bumpN (pgMst 0) F.MST_GRP_FAIL_CNT cells.length
  { s with mst := { s.mst with marks := addMarks s.mst.marks cells } }

/-- Issued work is refused: its cells fail (R355). -/
def State.workRefused (s : State) (c : WorkCtx) : State := s.markFailed c.cells

/-! ### Readiness (R354) -/

/-- Lines that two reservations share. -/
def sharedLines (a b : MstRes) : List Nat :=
  let lo := max (a.base / 64) (b.base / 64)
  let hi := min (a.base / 64 + a.lines) (b.base / 64 + b.lines)
  (List.range (hi - lo)).map fun i => lo + i

/-- Lines of a read range that an entry writes. -/
def Work.writes (w : Work) (r : MstRes) : List Nat := (w.res.filter fun x => decide (x.acc ≠ 1)).flatMap fun x => sharedLines x r

/-- The producer of a read range: the writer whose interval most recently precedes entry `k`. -/
def State.producer (s : State) (k : Nat) (me : Work) (r : MstRes) : Option (Nat × Work) :=
  s.mst.works.foldl (fun best e =>
    match e.2 with
    | none => best
    | some w =>
      if e.1 = k ∨ (w.writes r).isEmpty ∨ !(decide (w.start < me.start) || (w.start = me.start && e.1 < k)) then best
      else match best with
        | some b => if b.2.start < w.start ∨ (b.2.start = w.start ∧ b.1 < e.1) then some (e.1, w) else best
        | none => some (e.1, w)) none

/-- Producers of entry `k` that have not completed, with the shared lines that they have not committed. -/
def State.lateProducers (s : State) (k : Nat) (me : Work) : List (Nat × List Nat) :=
  (me.res.filter fun r => decide (r.acc ≠ 2)).filterMap fun r =>
    match s.producer k me r with
    | some (j, w) => if w.done then none else some (j, (w.writes r).filter fun l => !w.lines.contains l)
    | none => none

/-- The check at a reader's start: what is late reaches it as poison. -/
def State.readyCheck (s : State) (c : WorkCtx) (id : Nat) : State × WorkCtx :=
  match c.work with
  | none => (s, c)
  | some k =>
    match Tab.at s.mst.works k none with
    | none => (s, c)
    | some me =>
      match s.lateProducers k me with
      | [] => (s, c)
      | p :: ps =>
        let s := s.bumpN (pgMst 0) F.MST_LATE_CNT ((p :: ps).map (·.1)).dedup.length
        (s.fault (pgMst 0) F.MST_ERR_STAT_DATA_LATE 4 0 id, { c with late := (p :: ps).flatMap (·.2) })

end Sys2Proof.Machine
end

