-- ==== Sys2Proof/Machine/HalWord.lean ====
section
/-! DEFINITION. The halyard descriptor (R264, R265) and the places it names (R43, R262). -/

namespace Sys2Proof.Machine

/-- Bits `[hi:lo]` of 64-bit word `i` of a descriptor. -/
def descBits (w : BitVec 512) (i hi lo : Nat) : Nat := bits w.toNat (64 * i + hi) (64 * i + lo)

def dSrc (w : BitVec 512) : Nat := descBits w 0 39 0
def dSrcKind (w : BitVec 512) : Nat := descBits w 0 43 40
def dDstKind (w : BitVec 512) : Nat := descBits w 0 47 44
/-- Flag bit `b` of R265, 48 to 56. -/
def dFlag (w : BitVec 512) (b : Nat) : Bool := descBits w 0 b b = 1
def dIdxEn (w : BitVec 512) : Bool := dFlag w 48
def dIdxDst (w : BitVec 512) : Bool := dFlag w 49
def dWline (w : BitVec 512) : Bool := dFlag w 50
def dPin (w : BitVec 512) : Bool := dFlag w 51
def dSrcRec (w : BitVec 512) : Bool := dFlag w 52
def dDstRec (w : BitVec 512) : Bool := dFlag w 53
def dDgEn (w : BitVec 512) : Bool := dFlag w 54
def dDgAppend (w : BitVec 512) : Bool := dFlag w 55
def dIrq (w : BitVec 512) : Bool := dFlag w 56
def dDst (w : BitVec 512) : Nat := descBits w 1 39 0
def dRowLines (w : BitVec 512) : Nat := if descBits w 1 55 40 = 0 then 65536 else descBits w 1 55 40
def dMcast (w : BitVec 512) : Nat := descBits w 1 58 56
def dIdx (w : BitVec 512) : Nat := descBits w 2 39 0
def dCount (w : BitVec 512) : Nat := descBits w 3 31 0
def dIdxLimit (w : BitVec 512) : Nat := descBits w 3 63 32
def dSrcPitch (w : BitVec 512) : Nat := if descBits w 4 31 0 = 0 then dRowLines w else descBits w 4 31 0
def dDstPitch (w : BitVec 512) : Nat := if descBits w 4 63 32 = 0 then dRowLines w else descBits w 4 63 32
def dSclSrc (w : BitVec 512) : Nat := descBits w 5 39 0
def dSclKind (w : BitVec 512) : Nat := descBits w 5 41 40
def dCbId (w : BitVec 512) : Nat := descBits w 5 63 48
def dSclDst (w : BitVec 512) : Nat := descBits w 6 39 0
def dXferId (w : BitVec 512) : Nat := descBits w 6 63 40
def dTagT (w : BitVec 512) : Tag := BitVec.ofNat 64 (descBits w 7 63 0)

/-- Reserved bits of R264 and R265. -/
def dRsvd (w : BitVec 512) : Bool :=
  descBits w 0 63 57 ≠ 0 || descBits w 1 63 59 ≠ 0 || descBits w 2 63 40 ≠ 0 || descBits w 5 47 42 ≠ 0

/-- Places that an address may name (R41, R43). -/
inductive Place where
  | dram
  | sp (f : Nat)
  | half (f h : Nat)
  | accs (f : Nat)
  | imem (f : Nat)
  | dmem (f : Nat)
  | remote (p : Nat)
  | none
deriving DecidableEq, Repr

/-- Region of a floe-window offset (R43). -/
def regionOf (f off : Nat) : Place :=
  if off < 0x40_0000 then .sp f
  else if off < 0x48_0000 then .half f 0
  else if off < 0x50_0000 then .half f 1
  else if off < 0x56_0000 then .accs f
  else if off < 0x58_0000 then .none
  else if off < 0x59_0000 then .imem f
  else if off < 0x5A_0000 then .dmem f
  else .none

def placeOf (a : Nat) : Place :=
  if a < dramSize then .dram
  else if 0x18_0000_0000 ≤ a ∧ a < 0x18_4000_0000 then
    regionOf ((a - 0x18_0000_0000) / 0x100_0000) ((a - 0x18_0000_0000) % 0x100_0000)
  else if 0x20_0000_0000 ≤ a ∧ a < 0x24_0000_0000 then .remote ((a - 0x20_0000_0000) / 0x4000_0000)
  else if 0x80_0000_0000 ≤ a ∧ a < 0x100_0000_0000 then .remote (16 + (a - 0x80_0000_0000) / 0x8_0000_0000)
  else .none

/-- The floe of a place. -/
def Place.floe : Place → Option Nat
  | .sp f | .half f _ | .accs f | .imem f | .dmem f => some f
  | _ => Option.none

/-- Floe window that an address lies in. -/
def windowFloe (a : Nat) : Option Nat :=
  if 0x18_0000_0000 ≤ a ∧ a < 0x18_4000_0000 then some ((a - 0x18_0000_0000) / 0x100_0000) else none

/-- Whether a transfer reads or writes a floe (R290). -/
def descTouches (w : BitVec 512) (f : Nat) : Bool :=
  (decide (dSrcKind w = 0) && decide (windowFloe (dSrc w) = some f)) ||
  (decide (dDstKind w = 0) && (match windowFloe (dDst w) with
    | some g => decide (g ≤ f ∧ f < g + 2 ^ dMcast w)
    | none => false)) ||
  (decide (dDstKind w = 1) && decide (bits (dDst w) 5 0 = f)) ||
  (dIdxEn w && decide (windowFloe (dIdx w) = some f)) ||
  (decide (dSclKind w ≠ 0) && (decide (windowFloe (dSclSrc w) = some f) || decide (windowFloe (dSclDst w) = some f)))

def State.hal (s : State) (h : Nat) : HalSt := Tab.at s.hals h {}

def State.setHal (s : State) (h : Nat) (x : HalSt) : State := { s with hals := Tab.set s.hals h {} x }

/-- Bits ACTIVE, SHADOW_FULL and CANCELLING of HAL_STAT follow the halyard (R291). -/
def State.putHal (s : State) (h : Nat) (x : HalSt) : State :=
  let s := s.setHal h x
  let s := s.wf (pgHal h) F.HAL_STAT_ACTIVE (x.active.isSome && !x.cancelling).toNat
  let s := s.wf (pgHal h) F.HAL_STAT_SHADOW_FULL x.shadow.isSome.toNat
  s.wf (pgHal h) F.HAL_STAT_CANCELLING x.cancelling.toNat

/-- Whether the last write of the active transfer has committed (R279, R281). -/
def HalSt.finished (x : HalSt) (w : BitVec 512) : Bool :=
  x.checked && dCount w ≠ 0 && decide (dCount w ≤ x.row) && !dDstRec w && !dDgAppend w

/-- Accept a cancel (R279): no write commits after it, and a codebook slot it was loading is left with LOADING and VALID both 0. Without an
active transfer, while one is being cancelled, or once its last write has committed, it is ignored. -/
def State.cancelXfer (s : State) (h : Nat) : State :=
  let x := s.hal h
  match x.active with
  | none => s
  | some d =>
    if x.cancelling || x.finished d.word then s
    else
      let s := s.putHal h { x with cancelling := true }
      if dDstKind d.word = 1 ∧ x.checked then
        let g := pgRime (bits (dDst d.word) 5 0)
        let j := bits (dDst d.word) 8 6
        (s.wf g (F.RIME_CB_SLOT_LOADING j) 0).wf g (F.RIME_CB_SLOT_VALID j) 0
      else s

/-- Load a codebook into a slot that no executing macro-instruction names (R85, R86). -/
def State.fillCb (s : State) (f j : Nat) (l : CbLoad) : State :=
  let x := s.floe f
  let s := s.setFloe f (x.setCb j { codes := l.codes, poison := l.poison, wait := none })
  let s := s.wf (pgRime f) (F.RIME_CB_SLOT_LOADING j) 0
  let s := s.wf (pgRime f) (F.RIME_CB_SLOT_DEFERRED j) 0
  let s := s.wf (pgRime f) (F.RIME_CB_SLOT_VALID j) 1
  let s := s.wf (pgRime f) (F.RIME_CB_SLOT_SIZE j) (if l.codes.length = 256 then 1 else 0)
  let s := s.wf (pgRime f) (F.RIME_CB_SLOT_CB_ID j) l.id.toNat
  if l.codes.all fun c => (decodeVal .fp16 noCb c.toNat).isFinite then s else s.raise (pgRime f) F.RIME_CB_STAT_CB_NONFINITE

end Sys2Proof.Machine
end

