-- ==== Sys2Proof/Machine/Fence.lean ====
section
/-! DEFINITION. Fencing and spare substitution (R558 to R564, R568), and the uncorrectable errors that count towards a fence (R242). -/

namespace Sys2Proof.Machine

def State.cluster (s : State) (c : Nat) : ClusterSt := Tab.at s.clusters c {}

def State.setCluster (s : State) (c : Nat) (x : ClusterSt) : State := { s with clusters := Tab.set s.clusters c {} x }

/-- A logical floe that is fenced now: LOST, or waiting for its spare (R560, R563). -/
def State.floeFenced (s : State) (f : Nat) : Bool :=
  let g := pgCc (f / 8)
  (s.rf g F.CC_STAT_LOST).testBit (f % 8) || (s.bit g F.CC_STAT_SUBST && decide (s.rf g F.CC_STAT_SUBST_FLOE = f % 8))

/-- A logical floe whose physical floe is isolated and has no spare yet, so that nothing is left to fence (R564). -/
def State.floeIsolated (s : State) (f : Nat) : Bool :=
  let g := pgCc (f / 8)
  (s.rf g F.CC_STAT_LOST).testBit (f % 8) ||
    (s.bit g F.CC_STAT_SUBST && decide (s.rf g F.CC_STAT_SUBST_FLOE = f % 8) && decide ((s.cluster (f / 8)).phase = .fenced))

/-- The logical floe becomes LOST (R563). -/
def State.loseFloe (s : State) (f : Nat) : State :=
  let g := pgCc (f / 8)
  let s := s.wf g F.CC_STAT_LOST (s.rf g F.CC_STAT_LOST ||| 2 ^ (f % 8))
  s.fault g F.CC_ERR_STAT_FLOE_LOST 3

/-- The substitution record at a fence (R568), words 0x100 to 0x116. -/
def substRecord (s : State) (f cause fatal : Nat) : List Word :=
  let r := pgRime f
  let g := pgGaff f
  let b := pgBrash f
  let m := pgFmem f
  let w (p : Nat) (x : Fld) : Word := s.word p x.off
  let ns := s.tbNs 0
  [w r F.RIME_ACC_OVF_CNT, w r F.RIME_PROD_CLAMP_CNT, w r F.RIME_ENTRY_ZERO_CNT, w r F.RIME_NONFINITE_CNT, w r F.RIME_OUT_OVF_CNT,
   w g F.GAFF_QNT_SAT_CNT, w g F.GAFF_QNT_STALE_CNT, w g F.GAFF_QNT_UNDER_CNT, w g F.GAFF_QNT_ZR_CNT, w b F.BRASH_INVALID_CNT,
   w b F.BRASH_OVF_CNT, w b F.BRASH_DIVZERO_CNT, w m F.FMEM_CE_CNT, w m F.FMEM_UE_CNT, w r F.RIME_CELL_PAR_CNT,
   BitVec.ofNat 32 (f + cause * 64 + 2 ^ 31), BitVec.ofNat 32 ns, BitVec.ofNat 32 (ns / 2 ^ 32), w r F.RIME_NUM_STAT_ACC_OVF,
   w g F.GAFF_QNT_STAT_SCALE_STALE, w b F.BRASH_NUM_STAT_INVALID, BitVec.ofNat 32 fatal, 0]

/-- The seven pages of a logical floe. -/
def floePages (f : Nat) : List Nat := (List.range 7).map (pgFloe f)

/-- Macro-instructions go on without a member that was fenced; the other members' data is poisoned by what it does not deliver. -/
def State.leaveRuns (s : State) (f : Nat) : State :=
  let out (q : Run) : Option Run :=
    if q.left.contains f then
      let left := q.left.filter (· ≠ f)
      if left.isEmpty then none
      else some { q with left := left, started := if q.started.contains f then q.started else f :: q.started, poisonIn := true }
    else some q
  { s with runs := s.runs.filterMap fun e => match e.2 with
    | some q => (out q).map fun r => (e.1, some r)
    | none => none }

/-- The units of a floe start afresh with cleared memories (R164, R132, R247): what a spare brings. -/
def State.freshFloe (s : State) (f : Nat) : State :=
  let lo := floeBase f
  let s := s.zeroMem lo (lo + 0x100_0000)
  { s with
    tags := Tab.clear s.tags (lo / 64) ((lo + 0x100_0000) / 64)
    side := Tab.clear s.side (sideKey f 0 0) (sideKey f 2 0)
    accSide := Tab.clear s.accSide (f * 32768) ((f + 1) * 32768)
    floes := Tab.set s.floes f {} {} }

/-- A fence (R560, R561, R563, R564): `cause` as the substitution record holds it, `fatal` the FLOE_FATAL cause. -/
def State.fence (s : State) (f cause fatal : Nat) : State :=
  let c := f / 8
  let g := pgCc c
  let x := s.cluster c
  let rec? := (substRecord s f cause fatal).zipIdx.map fun e => (0x100 + e.2, e.1)
  let s := s.setCluster c { x with record := rec?.filter fun e => decide (e.2 ≠ 0) }
  let s := (List.range 128).foldl (fun s h =>
    match (s.hal h).active with
    | some d => if descTouches d.word f then s.cancelXfer h else s
    | none => s) s
  let s := (floePages f).foldl (fun s p => s.resetPage p fun off => (cfgRegs p).contains off) s
  let s := (s.leaveRuns f).freshFloe f
  let s := (s.raise g F.CC_ERR_STAT_FENCED).bump g F.CC_FENCE_CNT
  if s.bit g F.CC_STAT_SUBST then
    if s.rf g F.CC_STAT_SUBST_FLOE = f % 8 then
      ((s.wf g F.CC_STAT_SUBST 0).setCluster c { s.cluster c with phase := .idle }).loseFloe f
    else s.loseFloe f
  else if s.bit g F.CC_STAT_SPARE_AVAIL then
    let s := s.setCluster c { s.cluster c with phase := .fenced, posted := s.tbNs 0 }
    ((s.wf g F.CC_STAT_SPARE_AVAIL 0).wf g F.CC_STAT_SUBST 1).wf g F.CC_STAT_SUBST_FLOE (f % 8)
  else s.loseFloe f

/-- The automatic fence (R559): ignored for a floe already fenced. -/
def State.autoFence (s : State) (f cause fatal : Nat) : State :=
  if s.bit (pgCc (f / 8)) F.CC_CTRL_AUTO_FENCE && !s.floeIsolated f then s.fence f cause fatal else s

/-- Times of events within the last second, the new one first. -/
def recentTimes (now : Nat) (ts : List Nat) : List Nat := now :: ts.filter fun t => decide (now < t + 1000000000)

/-- A CELL_PAR is counted towards a fence (R559). -/
def State.countPar (s : State) (f : Nat) : State :=
  let ts := recentTimes (s.tbNs 0) (s.floe f).parTimes
  let s := s.setFloe f { s.floe f with parTimes := ts }
  if ts.length ≥ max 1 (s.rf (pgCc (f / 8)) F.CC_CTRL_FENCE_PAR_N) then s.autoFence f 1 0 else s

/-- An uncorrectable error is counted towards a fence (R559). -/
def State.countUe (s : State) (f : Nat) : State :=
  let ts := recentTimes (s.tbNs 0) (s.floe f).ueTimes
  let s := s.setFloe f { s.floe f with ueTimes := ts }
  if ts.length ≥ max 1 (s.rf (pgCc (f / 8)) F.CC_CTRL_FENCE_UE_N) then s.autoFence f 2 0 else s

/-! ### Uncorrectable words of the floe memories (R242) -/

/-- The FMEM flag of the memory that holds a window offset. -/
def ueFlag (off : Nat) : Fld :=
  if off < 0x40_0000 then F.FMEM_ERR_STAT_SP_UE
  else if off < 0x50_0000 then F.FMEM_ERR_STAT_WB_UE
  else if off < 0x58_0000 then F.FMEM_ERR_STAT_ACC_UE
  else F.FMEM_ERR_STAT_SPM_UE

/-- An uncorrectable word at a window offset: poison in the stored tag (in the side bits of its accumulator pair), flag, count, address and
one record. -/
def State.floeUe (s : State) (f off : Nat) : State :=
  let s :=
    if 0x50_0000 ≤ off ∧ off < 0x58_0000 then
      let i := (off - 0x50_0000) / 24 * 2
      (s.setAccPoison f i true).setAccPoison f (i + 1) true
    else if 0x58_0000 ≤ off ∧ off < 0x59_0000 then s
    else s.setTag (floeBase f + off) (Tag.addPoison (s.tagAt (floeBase f + off)) true)
  let s := (s.bump (pgFmem f) F.FMEM_UE_CNT).wf (pgFmem f) F.FMEM_ERR_ADDR off
  (s.fault (pgFmem f) (ueFlag off) 1 (s.tagAt (floeBase f + off)) 0 (some off)).countUe f

/-- An uncorrectable tag (R242). -/
def State.tagUe (s : State) (f off : Nat) : State :=
  let s := s.setTag (floeBase f + off) (Tag.addPoison (s.tagAt (floeBase f + off)) true)
  ((s.bump (pgFmem f) F.FMEM_UE_CNT).fault (pgFmem f) F.FMEM_ERR_STAT_TAG_UE 1 (s.tagAt (floeBase f + off)) 0 (some off)).countUe f

/-- Corrected words (R240, R241). -/
def State.floeCe (s : State) (f ce wlc : Nat) : State :=
  let s := if ce = 0 then s else (s.bumpN (pgFmem f) F.FMEM_CE_CNT ce).raise (pgFmem f) F.FMEM_ERR_STAT_CE_SEEN
  if wlc = 0 then s else s.bumpN (pgFmem f) F.FMEM_WLC_CNT wlc

/-- Places whose lines have tags (R33): scratchpad, weight halves and Spar data memory. -/
def taggedOff (off : Nat) : Bool := decide (off < 0x50_0000 ∨ (0x59_0000 ≤ off ∧ off < 0x5A_0000))

/-- What the codes of the floe memories do when words of a line are read (R240 to R242): corrections, the uncorrectable word, the tag. `off` is
the line's window offset. The cross-word code covers the weight halves. -/
def State.floeCodes (s : State) (f off : Nat) (ecc : Ecc) : State :=
  let weight := decide (0x40_0000 ≤ off ∧ off < 0x50_0000)
  let s := s.floeCe f ecc.ce (if weight then ecc.wlc else 0)
  let s := match ecc.ue with
    | some w => s.floeUe f (off / 64 * 64 + 8 * w.val)
    | none => s
  if ecc.tagUe ∧ taggedOff off then s.tagUe f (off / 64 * 64) else s

/-- A read at a window offset: what the codes do, the bytes as they stood, and the line's tag with POISON where the codes find it beyond
correction (R242). A fence that the error brings about (R559) comes after the read. -/
def State.floeRead (s : State) (f off n : Nat) (ecc : Ecc) : State × Bytes × Tag :=
  let a := floeBase f + off
  (s.floeCodes f off ecc, s.rdBytes a n, Tag.addPoison (s.tagAt a) (taggedOff off && (ecc.ue.isSome || ecc.tagUe)))

/-- What the codes find in the lines that an engine of the floe reads (R240 to R242): window offset and finding, for lines of the places it
reads. -/
def State.codesMet (s : State) (f : Nat) (here : Place → Bool) (found : List (BitVec 24 × Ecc)) : State :=
  found.foldl (fun s e => if here (regionOf f e.1.toNat) then s.floeCodes f e.1.toNat e.2 else s) s

/-- A weight half. -/
def Place.isHalf : Place → Bool
  | .half _ _ => true
  | _ => false

/-- The accumulator memory. -/
def Place.isAccs : Place → Bool
  | .accs _ => true
  | _ => false

/-- The scratchpad. -/
def Place.isSp : Place → Bool
  | .sp _ => true
  | _ => false

/-! ### Substitution -/

/-- FLOE_FATAL (R558): flag, record, and the automatic fence. -/
def State.fatal (s : State) (f kind : Nat) : State :=
  let s := s.fault (pgCc (f / 8)) F.CC_ERR_STAT_FLOE_FATAL 3
  s.autoFence f 3 kind

/-- The substitution ends well (R561). -/
def State.endSubst (s : State) (c : Nat) : State :=
  let g := pgCc c
  let f := 8 * c + s.rf g F.CC_STAT_SUBST_FLOE
  let us := (s.tbNs 0 - (s.cluster c).posted) / 1000
  let s := s.setCluster c { s.cluster c with phase := .idle }
  let s := (floePages f).foldl (fun s p => s.wf p F.PAGE_STAT_READY 1) s
  let s := s.wf (pgFmem f) F.FMEM_STAT_INIT_DONE 1
  let s := s.wf g F.CC_STAT_SUBST 0
  let s := (s.raise g F.CC_ERR_STAT_SUBST_DONE).bump g F.CC_SUBST_CNT
  s.wf g F.CC_LAST_SUBST_US (min us 0xFFFF)

/-- Base of a floe's restore image (R568). -/
def restoreBase (s : State) (f : Nat) : Nat :=
  let b := (s.cluster (f / 8)).bases
  bits (Tab.at b (2 * (f % 8)) 0).toNat 31 6 * 64 + bits (Tab.at b (2 * (f % 8) + 1) 0).toNat 7 0 * 2 ^ 32

/-- An extent of a restore image (R562). -/
structure Extent where
  src : Nat
  cbId : Nat
  dst : Nat
  kind : Nat
  lines : Nat
  rsvd : Nat
deriving DecidableEq, Repr

def readExtent (s : State) (a : Nat) : Extent :=
  { src := s.rdLe a 5, cbId := s.rdLe (a + 5) 2, rsvd := s.rdLe (a + 7) 1, dst := s.rdLe (a + 8) 3, kind := s.rdLe (a + 11) 1,
    lines := s.rdLe (a + 12) 4 }

/-- A DRAM span that can be read without poison. -/
def dramReads (s : State) (a lines : Nat) : Bool :=
  a % 64 = 0 && a + 64 * lines ≤ dramSize && (List.range lines).all fun i => !s.dramPoisonAt (a + 64 * i)

/-- The limits of R562 on one extent. -/
def extentOk (s : State) (e : Extent) : Bool :=
  e.rsvd = 0 && dramReads s e.src e.lines &&
    (match e.kind with
    | 0 => e.cbId = 0 && e.dst % 64 = 0 && (match regionOf 0 e.dst with
        | .sp _ => e.dst + 64 * e.lines ≤ 0x40_0000
        | .imem _ => e.dst + 64 * e.lines ≤ 0x59_0000
        | .dmem _ => e.dst + 64 * e.lines ≤ 0x5A_0000
        | _ => false)
    | 1 => e.dst ≤ 7 && (e.lines = 1 || e.lines = 8)
    | _ => false)

def cbOfBytes (bs : Bytes) : Nat → List (BitVec 16)
  | 0 => []
  | n + 1 => BitVec.ofNat 16 (leNat (bs.take 2)) :: cbOfBytes (bs.drop 2) n

/-- Copy one extent to a floe. -/
def State.copyExtent (s : State) (f : Nat) (t : Tag) (e : Extent) : State :=
  if e.kind = 1 then
    s.fillCb f e.dst { codes := cbOfBytes (s.rdBytes e.src (64 * e.lines)) (if e.lines = 8 then 256 else 16), id := BitVec.ofNat 16 e.cbId,
                       poison := false }
  else
    (List.range e.lines).foldl (fun s i => s.wrLine (floeBase f + e.dst + 64 * i) (s.rdBytes (e.src + 64 * i) 64)
      (match regionOf 0 e.dst with
      | .imem _ => 0
      | _ => t)) s

/-- Run a restore image onto the spare (R562); none when it breaks its limits. -/
def State.restoreImage (s : State) (f tenant : Nat) : Option State :=
  let b := restoreBase s f
  let n := s.rdLe b 2
  let exts := (List.range n).map fun e => readExtent s (b + 64 + 16 * e)
  let total := (exts.map (·.lines)).foldl (· + ·) 0
  let t := s.rdLe (b + 8) 8
  let tag : Tag := BitVec.ofNat 64 (t - bits t 56 54 * 2 ^ 54 + tenant % 8 * 2 ^ 54)
  let cbs : List Nat := (exts.filter fun e => decide (e.kind = 1)).map Extent.dst
  let ok : Bool := dramReads s b (1 + ceilDiv n 4) && decide (n ≤ 63) && decide (s.rdLe (b + 2) 2 = 0) &&
    (s.rdBytes (b + 16) 48).all (fun x => decide (x = 0)) && decide (s.rdLe (b + 4) 4 = total) && decide (total ≤ 67648) &&
    exts.all (extentOk s) && decide (cbs.length ≤ 8) && decide (cbs.dedup.length = cbs.length)
  if ok then
    some (exts.foldl (fun s e => s.copyExtent f tag e) s)
  else none

end Sys2Proof.Machine
end

