-- ==== Sys2Proof/Machine/Dram.lean ====
section
/-! DEFINITION. Stacked DRAM (R449 to R464): channel reads and writes, poison marks, the frame, the patrol scrub and row remapping. -/

namespace Sys2Proof.Machine

def State.drc (s : State) (n : Nat) : DrcSt := Tab.at s.drcs n {}

/-- Channel and channel offset of a DRAM address (R449). -/
def chanOf (a : Nat) : Nat := a / 0x2000_0000

def chanOff (a : Nat) : Nat := a % 0x2000_0000

/-- Row of a channel offset, as bank × 16384 + row (R450). -/
def rowOf (off : Nat) : Nat := bits off 14 11 * 16384 + bits off 28 15

/-- Whether spare `k` of bank `b` is taken (R463). -/
def DrcSt.taken (x : DrcSt) (b k : Nat) : Bool := (Tab.at x.remap (256 * b + k) 0).testBit 15

def DrcSt.freeSpares (x : DrcSt) (b : Nat) : Nat := ((List.range 32).filter fun k => !x.taken b k).length

/-- The lowest free spare row of a bank (R460). -/
def DrcSt.spareFor (x : DrcSt) (b : Nat) : Option Nat := (List.range 32).find? fun k => !x.taken b k

/-- DRC_STAT follows the controller (R463). -/
def State.setDrc (s : State) (n : Nat) (x : DrcSt) : State :=
  let s := { s with drcs := Tab.set s.drcs n {} x }
  let s := (s.wf (pgDrc n) F.DRC_STAT_REMAPPING x.busy.isSome.toNat).wf (pgDrc n) F.DRC_STAT_REMAP_Q x.queue.length
  s.wf (pgDrc n) F.DRC_STAT_SPARES_MIN ((List.range 16).foldl (fun m b => min m (x.freeSpares b)) 32)

/-! ### Remapping (R460) -/

/-- An automatic trigger waits in the queue, or is lost. -/
def State.remapTrigger (s : State) (n row : Nat) : State :=
  let x := s.drc n
  if x.queue.length ≥ 4 then s.fault (pgDrc n) F.DRC_ERR_STAT_REMAP_LOST 1
  else s.setDrc n { x with queue := x.queue ++ [row] }

/-- A remap of a row begins with the lowest free spare row of its bank. -/
def State.startRemap (s : State) (n row : Nat) : State :=
  let x := s.drc n
  match x.spareFor (row / 16384) with
  | none => s.fault (pgDrc n) F.DRC_ERR_STAT_SPARE_EMPTY 1
  | some k => s.setDrc n { x with busy := some (row, k) }

/-- Corrected errors of a row in the 16-row tracker, the rows most recently hit first; the eighth is a trigger. -/
def State.trackRow (s : State) (n row words : Nat) : State :=
  let x := s.drc n
  let c := ((x.tracker.find? fun e => decide (e.1 = row)).map (·.2)).getD 0
  let rest := (x.tracker.filter fun e => decide (e.1 ≠ row)).take 15
  let s := s.setDrc n { x with tracker := (row, c + words) :: rest }
  if c < 8 ∧ 8 ≤ c + words then s.remapTrigger n row else s

/-! ### Reads and writes (R453, R456) -/

/-- What the codes do on a read of a line that carries no poison mark: `rs` applies the cross-word code. -/
def State.drcCodes (s : State) (a : Nat) (rs : Bool) (ecc : Ecc) : State :=
  let n := chanOf a
  let g := pgDrc n
  let off := chanOff a / 64 * 64
  let fixed := ecc.ce + (if rs then ecc.wlc else 0)
  let s :=
    if fixed = 0 then s
    else
      let s := (s.bumpN g F.DRC_CE_CNT fixed).wf g F.DRC_CE_ADDR (off + 8 * ecc.ceAt.val)
      (s.raise g F.DRC_ERR_STAT_CE_SEEN).trackRow n (rowOf off) fixed
  match ecc.ue with
  | none => s
  | some w =>
    let s := s.setDramPoison a true
    let s := (s.bump g F.DRC_UE_CNT).wf g F.DRC_ERR_ADDR (off + 8 * w.val)
    let s := s.fault g F.DRC_ERR_STAT_UE 1 0 0 (some (off + 8 * w.val))
    if s.bit g F.DRC_CTRL_AUTO_REMAP then s.remapTrigger n (rowOf off) else s

/-- A channel read of one line: the counters, the poison mark, the codes. The line is delivered with POISON when its mark stands after it. -/
def State.drcRead (s : State) (a : Nat) (wline int : Bool) (ecc : Ecc) : State :=
  let g := pgDrc (chanOf a)
  let s := s.tally g F.DRC_RD_LINES_LO 1
  let s := if int then s.tally g F.DRC_IW_LINES_LO 1 else s
  if s.dramPoisonAt a then (s.bump g F.DRC_POISON_RD_CNT).raise g F.DRC_ERR_STAT_POISON_RD
  else s.drcCodes a wline ecc

/-- A channel write of bytes of one line: a whole line replaces the poison mark. -/
def State.drcWrite (s : State) (a : Nat) (bs : Bytes) (int : Bool) : State :=
  let g := pgDrc (chanOf a)
  let s := s.tally g F.DRC_WR_LINES_LO 1
  let s := if int then s.tally g F.DRC_IW_LINES_LO 1 else s
  let s := s.wrBytes a bs
  if a % 64 = 0 ∧ bs.length = 64 then s.setDramPoison a false else s

/-- A channel that is not ready serves nothing (R42, R462). -/
def State.chanReady (s : State) (a : Nat) : Bool := s.ready (pgDrc (chanOf a))

/-- An answer of `n` bytes of ones (R42). -/
def ones (n : Nat) : Bytes := List.replicate n 0xFF

def zeros (n : Nat) : Bytes := List.replicate n 0

def State.answer (s : State) (bs : Bytes) (poison : Bool) : State := { s with rsp := some bs, rspPoison := poison }

/-- Before READY, an access is handled as unmapped (R462); a channel's own read has no agent, and is booked as a halyard's. -/
def execDramRead (addr : BitVec 35) (wline : Bool) (ecc : Ecc) (s : State) : Host.Outcome State Fault Refusal :=
  let a := addr.toNat / 64 * 64
  .next (if s.chanReady a then
      let s := s.drcRead a wline false ecc
      s.answer (s.rdBytes a 64) (s.dramPoisonAt a)
    else (s.unmapped 4 a false).answer (ones 64) false)

/-- The bytes of a line that a write covers: what fits from the address to the line's end. -/
def inLine (a : Nat) (bs : Bytes) : Bytes := bs.take (64 - a % 64)

def execDramWrite (addr : BitVec 35) (data : Bytes) (_wline : Bool) (s : State) : Host.Outcome State Fault Refusal :=
  let a := addr.toNat
  .next (if s.chanReady a then s.drcWrite a (inLine a data) false else s.unmapped 4 a true)

/-! ### Frame and patrol (R454, R458, R459) -/

/-- One line of the patrol: SEC-DED only; a correctable word is written back. -/
def State.patrolLine (s : State) (n : Nat) (ecc : Ecc) : State :=
  let x := s.drc n
  let a := n * 0x2000_0000 + 64 * x.patrol
  let s := s.drcRead a false true { ecc with wlc := 0 }
  let x := s.drc n
  if x.patrol + 1 ≥ 8388608 then (s.setDrc n { x with patrol := 0, tracker := [] }).bump (pgDrc n) F.DRC_PATROL_CNT
  else s.setDrc n { x with patrol := x.patrol + 1 }

/-- The patrol's turn in a frame: PATROL_RATE lines; `found` gives what the codes find, nothing where it is short. -/
def State.patrolLines (s : State) (n : Nat) : Nat → List Ecc → State
  | 0, _ => s
  | k + 1, found => State.patrolLines (s.patrolLine n (found.headD {})) n k found.tail

def execDramPatrolRead (ch : Fin 64) (found : List Ecc) (s : State) : Host.Outcome State Fault Refusal :=
  let g := pgDrc ch
  .next (if s.ready g ∧ s.works g ∧ s.bit g F.DRC_CTRL_PATROL_EN then s.patrolLines ch (max 1 (s.rf g F.DRC_CTRL_PATROL_RATE)) found else s)

/-- A frame starts: two rows of every bank are refreshed, and a STEP that waits takes effect. -/
def execDramFrameStart (ch : Fin 64) (s : State) : Host.Outcome State Fault Refusal :=
  let x := s.drc ch
  let t := { x with refresh := (x.refresh + 2) % 16416, stepNext := none }
  .next (match x.stepNext with
    | some v => (s.setDrc ch t).wf (pgDrc ch) F.DRC_IW v
    | none => s.setDrc ch t)

/-! ### Commands of the DRC page -/

/-- A write of DRC_REMAP_CMD. -/
def State.wrRemapCmd (s : State) (n : Nat) (v : Word) : State :=
  if F.DRC_REMAP_CMD_GO.of v = 0 then s
  else if !s.works (pgDrc n) then s.discardWork (pgDrc n) 0
  else if (s.drc n).busy.isSome then s.raise (pgDrc n) F.DRC_ERR_STAT_REMAP_BUSY
  else s.startRemap n (F.DRC_REMAP_CMD_BANK.of v * 16384 + F.DRC_REMAP_CMD_ROW.of v)

def execDrcRemapCmd (a : Agent) (ch : Fin 64) (v : Word) (s : State) : Host.Outcome State Fault Refusal :=
  .next (s.onReady a (pgDrc ch) 0x050 fun s => s.wrRemapCmd ch v)

/-- The oldest trigger that waits starts, once no remap is in progress. -/
def execRemapStart (ch : Fin 64) (s : State) : Host.Outcome State Fault Refusal :=
  let x := s.drc ch
  .next (match x.queue, x.busy with
    | row :: q, none => (s.setDrc ch { x with queue := q }).startRemap ch row
    | _, _ => s)

/-- The switch: the spare takes the row, and the row's earlier spare stays taken. -/
def execRemapSwitch (ch : Fin 64) (s : State) : Host.Outcome State Fault Refusal :=
  let x := s.drc ch
  .next (match x.busy with
    | some (row, k) =>
      let s := s.setDrc ch { x with busy := none, remap := Tab.set x.remap (256 * (row / 16384) + k) 0 (row % 16384 + 2 ^ 15) }
      (s.bump (pgDrc ch) F.DRC_REMAP_CNT).raise (pgDrc ch) F.DRC_ERR_STAT_REMAP_DONE
    | none => s)

/-- A write of DRC_IW (R458): ignored while the Masthead has an active or staged table. -/
def State.wrIw (s : State) (n : Nat) (v : Word) : State :=
  if s.bit (pgMst 0) F.MST_STAT_ACTIVE || s.bit (pgMst 0) F.MST_STAT_STAGED then s.raise (pgDrc n) F.DRC_ERR_STAT_IW_BUSY
  else s.setDrc n { s.drc n with stepNext := some (F.DRC_IW.of v) }

def execDrcIw (a : Agent) (ch : Fin 64) (v : Word) (s : State) : Host.Outcome State Fault Refusal :=
  .next (s.onReady a (pgDrc ch) 0x044 fun s => s.wrIw ch v)

/-- Bytes of a row, the lines of R450. -/
def rowBase (n row : Nat) : Nat := n * 0x2000_0000 + row / 16384 * 2 ^ 11 + row % 16384 * 2 ^ 15

/-- An indirect read of the DRC page (R463): the remap table and the training results. -/
def drcIndRead (s : State) (n i : Nat) : Option Word :=
  if i < 0x1000 ∧ i % 256 < 32 then some (BitVec.ofNat 32 (Tab.at (s.drc n).remap i 0))
  else if 0x1_0000 ≤ i ∧ i < 0x1_0100 then some (Config.phyTraining n (i - 0x1_0000))
  else none

/-- An indirect write of the remap table: it assigns the row without copying, so that the row reads as the spare does, which nothing has
written since its lines were written as zeros (R461, R462). None where nothing can be written. -/
def State.drcIndWrite (s : State) (n i : Nat) (v : Word) : Option State :=
  if i < 0x1000 ∧ i % 256 < 32 then
    let x := s.drc n
    if x.taken (i / 256) (i % 256) ∨ x.busy.isSome then some s
    else
      let row := v.toNat % 16384
      let s := s.setDrc n { x with remap := Tab.set x.remap i 0 (row + 2 ^ 15 * bits v.toNat 15 15) }
      if v.getLsbD 15 then
        let lo := rowBase n (i / 256 * 16384 + row)
        some { s.zeroMem lo (lo + 2048) with dramPoison := Tab.clear s.dramPoison (lo / 64) (lo / 64 + 32) }
      else some s
  else none

end Sys2Proof.Machine
end

