-- ==== Sys2Proof/Machine/Firn.lean ====
section
/-! DEFINITION. The Firn cache (R250 to R255) and the granule rule of confidential mode (R529) on the way to DRAM. -/

namespace Sys2Proof.Machine

/-- Slice, set and tag of a DRAM address (R250). -/
def firnSlice (a : Nat) : Nat := bits a 9 6 ^^^ bits a 13 10 ^^^ bits a 17 14
def firnSet (a : Nat) : Nat := bits a 22 10
def firnTag (a : Nat) : Nat := bits a 34 23

/-- Where a set stands in the table of sets. -/
def firnKey (a : Nat) : Nat := firnSlice a * 8192 + firnSet a

def State.firnLines (s : State) (k : Nat) : List FirnWay := Tab.at s.firn k []
def State.setFirnLines (s : State) (k : Nat) (x : List FirnWay) : State := { s with firn := Tab.set s.firn k [] x }

def State.cacheMask (s : State) (sl t : Nat) : Nat := s.rf (pgFirn sl) (F.FIRN_WAYS_CACHE_MASK t)
def State.pinMask (s : State) (sl t : Nat) : Nat := s.rf (pgFirn sl) (F.FIRN_WAYS_PIN_MASK t)

/-- A way is a pin way when any tenant's PIN_MASK has its bit (R252). -/
def State.isPinWay (s : State) (sl w : Nat) : Bool := (List.range 8).any fun t => (s.pinMask sl t).testBit w

/-- The line that a way holds. -/
def wayLine (ls : List FirnWay) (w : Nat) : Option FirnWay := ls.find? fun e => decide (e.way = w)

/-- The least recently used of some ways: one that holds nothing first, else the one furthest back. -/
def lruWay (ls : List FirnWay) (ws : List Nat) : Option Nat :=
  match ws.find? fun w => (wayLine ls w).isNone with
  | some w => some w
  | none => ((ls.filter fun e => decide (e.way ∈ ws)).getLast?).map (·.way)

/-- Install a line in a way, in front. -/
def install (ls : List FirnWay) (e : FirnWay) : List FirnWay := e :: ls.filter fun x => decide (x.way ≠ e.way)

/-- The fill of a miss (R252). -/
def State.firnFill (s : State) (t a : Nat) (pin wline : Bool) : State :=
  let sl := firnSlice a
  let k := firnKey a
  let ls := s.firnLines k
  let line (w : Nat) : FirnWay :=
    { way := w, tag := firnTag a, tenant := t, pinned := pin, weight := wline, poison := s.dramPoisonAt a }
  if pin then
    match (List.range 12).find? fun w => (s.pinMask sl t).testBit w && !((wayLine ls w).map (·.pinned)).getD false with
    | some w => s.setFirnLines k (install ls (line w))
    | none => (s.raise (pgFirn sl) F.FIRN_ERR_STAT_PIN_FULL).bump (pgFirn sl) F.FIRN_PINFULL_CNT
  else
    match lruWay ls ((List.range 12).filter fun w => (s.cacheMask sl t).testBit w && !s.isPinWay sl w) with
    | some w => s.setFirnLines k (install ls (line w))
    | none => s

/-- A hit (R254): errors of the copy. The result says whether the line is delivered with POISON. -/
def State.firnHit (s : State) (a : Nat) (e : FirnWay) (ecc : Ecc) : State × Bool :=
  let sl := firnSlice a
  let k := firnKey a
  let g := pgFirn sl
  let s := s.tally g F.FIRN_HIT_LO 1
  let fixed := ecc.ce + (if e.pinned && e.weight then ecc.wlc else 0)
  let s := if fixed = 0 then s else s.bumpN g F.FIRN_CE_CNT fixed
  if ecc.ue.isSome ∧ !e.poison then
    if e.pinned then
      let s := s.setFirnLines k (install (s.firnLines k) { e with poison := true })
      ((s.bump g F.FIRN_UE_CNT).fault g F.FIRN_ERR_STAT_UE 1, true)
    else
      let s := s.setFirnLines k ((s.firnLines k).filter fun x => decide (x.way ≠ e.way))
      let s := (s.bump g F.FIRN_REFETCH_CNT).drcRead a e.weight true {}
      (s, s.dramPoisonAt a)
  else (s.setFirnLines k (install (s.firnLines k) e), e.poison)

/-- A read of one line through its slice (R251, R252); without a tenant it is served from DRAM. `int` marks an internal requester (R455). -/
def State.firnRead (s : State) (tenant : Option Nat) (a : Nat) (pin wline int : Bool) (ecc : Ecc) : State × Bool :=
  let g := pgFirn (firnSlice a)
  let direct : State × Bool := let s := s.drcRead a wline int ecc; (s, s.dramPoisonAt a)
  match tenant with
  | none => direct
  | some t =>
    if !s.bit g F.FIRN_CTRL then direct
    else
      match (s.firnLines (firnKey a)).find? fun e => decide (e.tag = firnTag a ∧ e.tenant = t) with
      | some e => s.firnHit a e ecc
      | none =>
        let s := (s.tally g F.FIRN_MISS_LO 1).drcRead a wline int ecc
        (s.firnFill t a pin wline, s.dramPoisonAt a)

/-- A write of bytes of one line through its slice (R251): DRAM and every copy take it. -/
def State.firnWrite (s : State) (a : Nat) (bs : Bytes) (wline int : Bool) : State :=
  let k := firnKey a
  let whole := a % 64 = 0 && bs.length = 64
  let ls := (s.firnLines k).map fun e =>
    if e.tag = firnTag a ∧ whole then { e with poison := false, weight := wline } else e
  (s.setFirnLines k ls).drcWrite a bs int

/-! ### Commands -/

/-- A read at a slice; a channel that is not ready answers ones (R462). -/
def execFirnRead (tenant : Option (Fin 8)) (addr : BitVec 35) (pin wline : Bool) (ecc : Ecc) (s : State) : Host.Outcome State Fault Refusal :=
  let a := addr.toNat / 64 * 64
  .next (if s.chanReady a then
      let r := s.firnRead (tenant.map (·.val)) a pin wline false ecc
      r.1.answer (r.1.rdBytes a 64) r.2
    else (s.unmapped 4 a false).answer (ones 64) false)

def execFirnWrite (addr : BitVec 35) (data : Bytes) (wline : Bool) (s : State) : Host.Outcome State Fault Refusal :=
  let a := addr.toNat
  .next (if s.chanReady a then s.firnWrite a (inLine a data) wline false else s.unmapped 4 a true)

/-- A walk starts (R255). -/
def State.firnStart (s : State) (sl kind tenant : Nat) : State :=
  let g := pgFirn sl
  if !s.works g then s.discardWork g 0
  else if s.bit g F.FIRN_STAT then s.raise g F.FIRN_ERR_STAT_OP_OVERRUN
  else { s.wf g F.FIRN_STAT 1 with firnOp := Tab.set s.firnOp sl none (some (kind, tenant)) }

/-- A write of FIRN_OP. -/
def State.wrFirnOp (s : State) (sl : Nat) (v : Word) : State :=
  if F.FIRN_OP_GO.of v = 0 then s else s.firnStart sl (F.FIRN_OP_KIND.of v) (F.FIRN_OP_TENANT.of v)

def execFirnInvalidate (a : Agent) (sl : Fin 16) (tenant : Fin 8) (s : State) : Host.Outcome State Fault Refusal :=
  .next (s.onReady a (pgFirn sl) 0x044 fun s => s.firnStart sl 1 tenant)

def execFirnUnpin (a : Agent) (sl : Fin 16) (tenant : Fin 8) (s : State) : Host.Outcome State Fault Refusal :=
  .next (s.onReady a (pgFirn sl) 0x044 fun s => s.firnStart sl 2 tenant)

def execFirnInvalidateUnpin (a : Agent) (sl : Fin 16) (tenant : Fin 8) (s : State) : Host.Outcome State Fault Refusal :=
  .next (s.onReady a (pgFirn sl) 0x044 fun s => s.firnStart sl 3 tenant)

/-- Whether a walk leaves a line held: kind bit 0 drops the tenant's cache-way lines, bit 1 its pinned lines. An unpinned line is no longer
held in its pin way. -/
def walkKeeps (kind tenant : Nat) (e : FirnWay) : Bool :=
  decide (e.tenant ≠ tenant) || (if e.pinned then !kind.testBit 1 else !kind.testBit 0)

/-- The walk over every set of the slice ends. -/
def State.firnWalked (s : State) (sl : Nat) : State :=
  match Tab.at s.firnOp sl none with
  | none => s
  | some (kind, tenant) =>
    let sets := s.firn.filterMap fun e =>
      if e.1 / 8192 = sl then
        let ls := e.2.filter (walkKeeps kind tenant)
        if ls = [] then none else some (e.1, ls)
      else some e
    { s.wf (pgFirn sl) F.FIRN_STAT 0 with firn := sets, firnOp := Tab.set s.firnOp sl none none }

def execFirnWalkEnd (sl : Fin 16) (s : State) : Host.Outcome State Fault Refusal := .next (s.firnWalked sl)

/-! ### Granules (R529) -/

def State.granule (s : State) (g : Nat) : Granule := Tab.at s.grans g {}

/-- Who reaches DRAM, for R529. -/
inductive DramReq where
  | agent (a : Agent)
  | halyard (tenant : Nat)
  | peer (tenant : Nat)
  | device

/-- Whether an access to DRAM is admitted. -/
def State.granOk (s : State) (r : DramReq) (a : Nat) : Bool :=
  let x := s.granule (a / 0x400_0000)
  if s.confidential && x.owned && (s.rf pgSec F.SEC_CONF_STAT_CONF_TENANTS).testBit x.tenant then
    match r with
    | .agent (.fw _) => true
    | .agent ag => decide (s.agentTenant ag = some x.tenant)
    | .halyard t => decide (t = x.tenant)
    | .peer t => decide (t = x.tenant)
    | .device => true
  else true

/-- A refusal (R529). -/
def State.granDeny (s : State) : State := (s.bump pgSec F.SEC_DRAM_DENY_CNT).raise pgSec F.SEC_ERR_STAT_DRAM_DENIED

end Sys2Proof.Machine
end

