-- ==== Sys2Proof/Machine/Approx.lean ====
section
/-! DEFINITION. The transcendental functions of Brash (R178): the exact function of the source, rounded once. The value is enclosed between
two ratios; where both round to one code, that code is the result. -/

namespace Sys2Proof.Machine

/-- Round a nonnegative value that lies between `lo / d × 2^e` and `hi / d × 2^e`; an enclosure too wide to settle the code gives the guard. -/
def writeBetween (f : Fmt) (sat : Bool) (lo hi d : Nat) (e : Int) (guard : Nat) : Wr :=
  let a := writeQuot f sat (.rat false lo d e)
  let b := writeQuot f sat (.rat false hi d e)
  if a = b then a else { bits := guard % 2 ^ f.bits }

/-- Fraction bits of the fixed-point exponential. -/
def expFrac : Nat := 320

/-- Taylor sum of `exp y`, with `y` and the terms in units of `2^-expFrac`: `n` terms are left, `k` is the next index. -/
def expTaylor : Nat → Nat → Int → Int → Int → Int
  | 0, _, _, _, sum => sum
  | n + 1, k, y, term, sum =>
    let t := term * y / 2 ^ expFrac / (k : Int)
    expTaylor n (k + 1) y t (sum + t)

def squareFix : Nat → Int → Int
  | 0, v => v
  | n + 1, v => squareFix n (v * v / 2 ^ expFrac)

/-- `exp` of `± m × 2^e` in units of `2^-expFrac`, within one part in `2^100` plus one unit, for a magnitude of at most 128 whose lowest bit is
not below `2^-200`. -/
def expFix (neg : Bool) (m : Nat) (e : Int) : Int :=
  let x : Int := (m <<< (e + 200).toNat : Nat) * 2 ^ (expFrac - 215)
  let x := if neg then -x else x
  squareFix 15 (expTaylor 40 1 x (2 ^ expFrac) (2 ^ expFrac))

/-- The exponential, rounded once into a format (R178). -/
def vexpWr (f : Fmt) (sat : Bool) (code : Nat) (v : Val) : Wr :=
  match v with
  | .nan => writeQuot f sat .nan
  | .inf false => writeQuot f sat (.rat false 1 1 100000)
  | .inf true => writeQuot f sat (.rat false 0 1 0)
  | .fin s m e =>
    if m = 0 then writeQuot f sat (.rat false 1 1 0)
    else if floorLog2 m 1 + e ≥ 7 then (if s then writeQuot f sat (.rat false 0 1 0) else writeQuot f sat (.rat false 1 1 100000))
    else
      let y := (expFix s m e).toNat
      let w := y >>> 100 + 1
      writeBetween f sat (y - w) (y + w) 1 (-(expFrac : Int)) (Config.roundGuard 0 f.code code)

/-- The reciprocal, rounded once (R178). -/
def vrcpWr (f : Fmt) (sat : Bool) (v : Val) : Wr :=
  match v with
  | .fin s m e => if m = 0 then writeQuot f sat (.rat s 1 1 100000) else writeQuot f sat (.rat s 1 m (-e))
  | .inf s => writeQuot f sat (.rat s 0 1 0)
  | .nan => writeQuot f sat .nan

/-- The reciprocal square root, rounded once (R178), and whether it sets INVALID. -/
def vrsqWr (f : Fmt) (sat : Bool) (code : Nat) (v : Val) : Wr :=
  match v with
  | .nan => writeQuot f sat .nan
  | .inf false => writeQuot f sat (.rat false 0 1 0)
  | .inf true => { writeQuot f sat .nan with invalid := true }
  | .fin s m e =>
    if m = 0 then writeQuot f sat (.rat s 1 1 100000)
    else if s then { writeQuot f sat .nan with invalid := true }
    else
      let odd := e % 2 = 1
      let m' := if odd then 2 * m else m
      let e' := if odd then e - 1 else e
      let r := Nat.sqrt (2 ^ 256 / m')
      writeBetween f sat r (r + 1) 1 (-128 - e' / 2) (Config.roundGuard 1 f.code code)

end Sys2Proof.Machine
end

