-- ==== Sys2Proof/Machine/GaffWord.lean ====
section
/-! DEFINITION. The Gaff sequencer's word: fields (R138), descriptors (R140), wings and shares (R146, R147), the walk (R148, R149), worst-case
cycles (R153 to R155) and the checks at issue (R142, R143). -/

namespace Sys2Proof.Machine

/-- Bits `[hi:lo]` of 64-bit word `i` of a macro-instruction. -/
def macroBits (w : BitVec 512) (i hi lo : Nat) : Nat := bits w.toNat (64 * i + hi) (64 * i + lo)

def macroOf (w : BitVec 512) : Macro where
  opc := macroBits w 0 5 0
  sat := macroBits w 0 6 6 = 1
  split := macroBits w 0 7 7 = 1
  conj := macroBits w 0 8 8 = 1 ∧ macroBits w 0 5 0 = 4
  cplx := macroBits w 0 5 0 = 2 ∨ (macroBits w 0 9 9 = 1 ∧ ¬macroBits w 0 5 0 ∈ [7, 9, 10])
  deferRo := macroBits w 0 10 10 = 1
  mW := macroBits w 0 15 12
  aW := macroBits w 0 19 16
  ebase := sInt 10 (macroBits w 0 29 20)
  wing := macroBits w 0 32 30
  lead := macroBits w 0 38 33
  sb := macroBits w 0 41 39
  sm := macroBits w 0 44 42
  sn := macroBits w 0 47 45
  sk := macroBits w 0 50 48
  dimM := macroBits w 1 19 0
  dimN := macroBits w 1 39 20
  dimK := macroBits w 1 59 40
  batch := macroBits w 2 15 0
  tv := macroBits w 2 24 16
  aux0 := macroBits w 2 47 32
  aux1 := macroBits w 2 63 48
  d := (List.range 8).map fun i => macroBits w (3 + i / 2) (32 * (i % 2) + 31) (32 * (i % 2))
  wcDecl := macroBits w 7 31 0
  id := macroBits w 7 63 32
  rsvd := macroBits w 0 11 11 ≠ 0 ∨ macroBits w 0 63 51 ≠ 0 ∨ macroBits w 1 63 60 ≠ 0 ∨ macroBits w 2 31 25 ≠ 0

/-- The word with its opcode set. -/
def withOpc (w : BitVec 512) (opc : Nat) : BitVec 512 := BitVec.ofNat 512 (w.toNat - w.toNat % 64 + opc)

def Macro.desc (m : Macro) (i : Nat) : Nat := m.d.getD i 0

/-- COMBINE, and QUANT of a deferred region (R152). -/
def Macro.fromRegion (m : Macro) : Bool := m.opc = 8 || (m.opc = 9 && m.desc 0 = 0xFFFF_FFFF)

/-- Opcodes that walk tiles through the array (R153). -/
def Macro.tiled (m : Macro) : Bool := m.opc ∈ [1, 2, 3, 4, 6]

def Macro.transposed (m : Macro) : Bool := m.opc = 4

/-- Row pitch W of a region (R123). -/
def Macro.regionPitch (m : Macro) : Nat := if m.opc = 4 ∧ m.cplx then 256 else 128

/-- The wing's floes (R146), where the fields name one. -/
def Macro.wingOk (m : Macro) : Bool := m.wing ≤ 4 && m.lead % 2 ^ m.wing = 0 && m.lead + 2 ^ m.wing ≤ 64

def Macro.members (m : Macro) : List Nat := (List.range (2 ^ m.wing)).map fun i => m.lead + i

/-- Divisions that R139 lists: batch, M, N, K. -/
def allowedDivs (opc : Nat) : Bool × Bool × Bool × Bool :=
  match opc with
  | 1 | 2 | 4 => (false, true, true, true)
  | 3 => (true, true, true, true)
  | 5 => (true, false, false, false)
  | 6 => (false, false, true, true)
  | 7 | 9 | 10 | 11 => (false, true, false, false)
  | _ => (true, true, true, true)

/-- The tensor descriptor at a scratchpad offset (R140). -/
def readDesc (s : State) (f off : Nat) : TDesc :=
  let b := floeBase f + off % 2 ^ 22 / 32 * 32
  let w := s.rdLe b 32
  let pitch := bits w 47 32
  { base := bits w 31 0, pitch := (if pitch = 0 then 65536 else pitch) * 64, fmt := bits w 51 48, kind := bits w 53 52,
    group := bits w 55 54, cplx := bits w 56 56 = 1, loc := bits w 58 57, strict := bits w 59 59 = 1,
    qmode := bits w 61 60, smapEn := bits w 62 62 = 1, rsSingle := bits w 63 63 = 1, scaleBase := bits w 95 64,
    auxBase := bits w 127 96, amaxAddr := bits w 191 128, smapBase := bits w 223 192, stream := bits w 235 224,
    digest := bits w 239 239 = 1 }

/-- Stored width of a format code (R51). -/
def fmtBits (c : Nat) : Nat := ((Fmt.ofCode c).map Fmt.bits).getD 8

/-- A share along one dimension (R147): `q` per member at coordinate `c`, clipped to the dimension. -/
def clipShare (q c dim : Nat) : Nat × Nat := (min (c * q) dim, min q (dim - c * q))

/-- Member `f`'s share (R146, R147). -/
def shareOf (m : Macro) (f : Nat) : Share :=
  let r := f - m.lead
  let rm := r % 2 ^ m.sm
  let rn := r / 2 ^ m.sm % 2 ^ m.sn
  let rk := r / 2 ^ (m.sm + m.sn) % 2 ^ m.sk
  let rb := r / 2 ^ (m.sm + m.sn + m.sk)
  let b := clipShare (ceilDiv m.batch (2 ^ m.sb)) rb m.batch
  let mm := clipShare (ceilDiv m.dimM (2 ^ m.sm)) rm m.dimM
  let n := clipShare (128 * ceilDiv (ceilDiv m.dimN 128) (2 ^ m.sn)) rn m.dimN
  let k := clipShare (128 * ceilDiv (ceilDiv m.dimK 128) (2 ^ m.sk)) rk m.dimK
  { b0 := b.1, bn := b.2, m0 := mm.1, mn := mm.2, n0 := n.1, nn := n.2, k0 := k.1, kn := k.2, rm := rm, rn := rn, rk := rk }

def Share.empty (h : Share) : Bool := h.bn = 0 || h.mn = 0 || h.nn = 0 || h.kn = 0

/-- A zero dimension (R145). -/
def Macro.zeroDim (m : Macro) : Bool := !m.fromRegion && (m.dimM = 0 || m.dimN = 0 || m.dimK = 0 || m.batch = 0)

/-! ### The walk -/

/-- One step of the curve of R148: `n` counts the steps left, `p` is the current scale. -/
def hilbertCell : Nat → Nat → Nat → Nat × Nat → Nat × Nat
  | 0, _, _, xy => xy
  | n + 1, p, t, (x, y) =>
    let rx := t / 2 % 2
    let ry := (t + rx) % 2
    let xy := if ry = 0 then (if rx = 1 then (p - 1 - y, p - 1 - x) else (y, x)) else (x, y)
    hilbertCell n (2 * p) (t / 4) (xy.1 + p * rx, xy.2 + p * ry)

/-- `log2` of the smallest power of two that is at least `n`. -/
def ceilLog2 (n : Nat) : Nat := if n ≤ 1 then 0 else Nat.log2 (n - 1) + 1

/-- Visit order of the output tiles of one item (R148). -/
def hilbertWalk (tm tn : Nat) : List (Nat × Nat) :=
  let l := ceilLog2 (max tm tn)
  ((List.range (4 ^ l)).map fun d => hilbertCell l 1 d (0, 0)).filter fun c => c.1 < tm && c.2 < tn

def Macro.tilesM (m : Macro) (h : Share) : Nat := ceilDiv h.mn m.tv
def tilesN (h : Share) : Nat := ceilDiv h.nn 128
def tilesK (h : Share) : Nat := ceilDiv h.kn 128

/-- Passes per visited tile (R121, R148). -/
def Macro.passesPerTile (m : Macro) (h : Share) : Nat := tilesK h * (if m.split then 2 else 1)

/-- Visits of a share: item, tile row, tile column (R148). -/
def Macro.visits (m : Macro) (h : Share) : List (Nat × Nat × Nat) :=
  (List.range h.bn).flatMap fun b => (hilbertWalk (m.tilesM h) (tilesN h)).map fun c => (b, c.1, c.2)

/-- Whether the share's weights stay in one half (R149); the items of BMMUL lie in it one after the other. -/
def Macro.resident (_ : Macro) (h : Share) (wBits : Nat) : Bool :=
  decide (h.bn * tilesK h * tilesN h * 2048 * wBits ≤ 524288)

/-- The half that visit `t` reads (R149): in switching mode it changes whenever the chunk does. -/
def Macro.halfAt (m : Macro) (h : Share) (wBits loc t : Nat) : Nat :=
  let half := loc - 1
  if m.resident h wBits then half
  else
    let vs := m.visits h
    let ch := ((List.range t).filter fun i => (vs[i]?.map fun v => (v.1, v.2.2)) ≠ (vs[i + 1]?.map fun v => (v.1, v.2.2))).length
    (half + ch) % 2

/-- Tile index within the half (R141, R149). -/
def Macro.tileIdx (m : Macro) (h : Share) (wBits item nt kt : Nat) : Nat :=
  if m.resident h wBits then (item * tilesN h + nt) * tilesK h + kt else kt

/-- Base accumulator of a visit's region (R148). -/
def Macro.regionBase (m : Macro) (t : Nat) : Nat := if m.tv * m.regionPitch ≤ 16384 then 16384 * (t % 2) else 0

/-- Vector period (R126). -/
def Macro.period (m : Macro) (actFmt : Nat) : Nat := max m.mW (ceilDiv (fmtBits actFmt) 16)

/-! ### Worst-case cycles (R153, R154, R162) -/

/-- `tail` of R153: merge rounds, then readout. -/
def tailCycles (n skLog2 : Nat) : Nat := skLog2 * (ceilDiv (3 * n) 4 + 32) + ceilDiv n 64 + 20

/-- The loop of R153 over the tiles that are left. -/
def shareLoop (kt per tail : Nat) (alt : Bool) : Nat → Nat → Nat → Nat → Nat → Nat → Nat
  | 0, _, _, _, roEnd, _ => roEnd
  | n + 1, i, f0, f1, roEnd, t =>
    let need := if alt then (if i % 2 = 0 then f0 else f1) else max f0 f1
    let t := max t need
    let fin := t + (kt - 1) * max per 64 + per
    let ro := max fin roEnd + tail
    let f0' := if !alt || i % 2 = 0 then ro else f0
    let f1' := if !alt || i % 2 = 1 then ro else f1
    shareLoop kt per tail alt n (i + 1) f0' f1' ro (fin + (64 - per))

/-- `share_cycles` of R153. -/
def shareCycles (tiles kt tv p n : Nat) (cplx : Bool) (tail : Nat) : Nat :=
  shareLoop kt ((if cplx then 2 else 1) * tv * p) tail (decide (n ≤ 16384)) tiles 0 0 0 0 64

/-- One product of ATTN or ADAPT_STEP: `share_cycles` with SK = 1 (R154). -/
def productCycles (m : Macro) (vecs red outs p : Nat) (split : Bool) : Nat :=
  let tv := max m.tv 1
  let n := tv * 128
  shareCycles (ceilDiv vecs tv * ceilDiv outs 128) (ceilDiv red 128 * (if split then 2 else 1)) tv p n false (tailCycles n 0)

/-- 600 or 12 cycles for the amax record of a DELAYED output (R154). -/
def delayedCycles (y : TDesc) : Nat := if y.qmode ≠ 2 then 0 else if y.amaxAddr < dramSize then 600 else 12

/-- Cost of one member's share (R153, R154, R162). -/
def memberCycles (s : State) (m : Macro) (f : Nat) (dfr : Option Deferred) : Nat :=
  let h := shareOf m f
  let y := readDesc s f (m.desc 2)
  if m.fromRegion then
    match dfr with
    | some d =>
      let g := macroOf d.word
      match d.region with
      | some _ => tailCycles (g.tv * g.regionPitch) g.sk + 10 + (if m.opc = 9 then delayedCycles y else 0)
      | none => 4
    | none => 4
  else if m.zeroDim || h.empty then 4
  else
    let x := readDesc s f (m.desc 0)
    if m.tiled then
      let n := m.tv * m.regionPitch
      shareCycles (h.bn * m.tilesM h * tilesN h) (m.passesPerTile h) m.tv (m.period x.fmt) n m.cplx
        (if m.deferRo then 8 else tailCycles n m.sk) + (if m.deferRo then 0 else delayedCycles y)
    else if m.opc = 5 then
      let le := m.aux0
      let p := max 8 (ceilDiv (fmtBits x.fmt) 16)
      h.bn * (24 + le * (ceilDiv m.dimK 128 + ceilDiv m.dimN 128) + productCycles m m.dimM m.dimK (32 * le) p false
        + m.dimM * (6 * ceilDiv (32 * le) 128 + 40) + productCycles m m.dimM (32 * le) m.dimN 8 false)
    else if m.opc = 7 then 12 + h.mn * (ceilDiv (ceilDiv (m.dimN * fmtBits x.fmt) 8) 256 + 1)
    else if m.opc = 9 ∨ m.opc = 10 then 16 + ceilDiv (h.mn * m.dimN) 128 + delayedCycles y
    else
      let r := m.aux0
      let skm := m.sm
      let prod (v red outs : Nat) (sk : Nat) : Nat :=
        let tv := max m.tv 1
        shareCycles (ceilDiv v tv * ceilDiv outs 128) (ceilDiv red 128 * 2) tv 8 (tv * 128) false (tailCycles (tv * 128) sk)
      let staged := 4 * (r * m.dimK + m.dimN * r + h.mn * r + h.mn * r)
      prod h.mn m.dimK r 0 + prod h.mn m.dimN r 0 + prod m.dimN h.mn r skm + prod m.dimK h.mn r skm
        + ceilDiv staged 256 + 8 * ceilDiv (r * (m.dimN + m.dimK)) 128 + 32

/-! ### Checks at issue -/

/-- WING_BAD (R146, R152). -/
def wingBad (m : Macro) (f : Nat) (dfr : Option Deferred) : Bool :=
  let a := allowedDivs m.opc
  !m.wingOk || decide (m.sb + m.sm + m.sn + m.sk ≠ m.wing) || decide (f < m.lead ∨ m.lead + 2 ^ m.wing ≤ f) ||
  (if m.fromRegion then
    match dfr with
    | some d =>
      let g := macroOf d.word
      decide (g.lead ≠ m.lead ∨ g.wing ≠ m.wing ∨ g.sb ≠ m.sb ∨ g.sm ≠ m.sm ∨ g.sn ≠ m.sn ∨ g.sk ≠ m.sk)
    | none => false
  else (decide (m.sb ≠ 0) && !a.1) || (decide (m.sm ≠ 0) && !a.2.1) || (decide (m.sn ≠ 0) && !a.2.2.1) ||
    (decide (m.sk ≠ 0) && !a.2.2.2))

/-- Roles of the descriptors an opcode lists (R139): activation, weight, output, other input. -/
inductive Role where
  | act | wgt | out | inp
deriving DecidableEq, Repr

def descRoles (m : Macro) : List (Nat × Role) :=
  match m.opc with
  | 1 | 2 | 3 | 4 | 6 => [(0, .act), (1, .wgt), (2, .out)]
  | 5 => [(0, .act), (1, .wgt), (2, .wgt), (3, .inp), (4, .inp), (5, .out), (6, .out), (7, .out)]
  | 7 => [(0, .inp), (1, .inp), (2, .out)]
  | 8 => [(2, .out)]
  | 9 => if m.fromRegion then [(2, .out)] else [(0, .inp), (2, .out)]
  | 10 => [(0, .inp), (2, .out)]
  | 11 => [(0, .act), (1, .act), (2, .inp), (3, .inp), (4, .inp), (6, .out), (7, .out)]
  | _ => []

/-- A tensor breaks R80: unassigned format, reserved kind or group, or a scale on a format that takes none. -/
def descIllegal (d : TDesc) : Bool :=
  d.fmt ≥ 10 || d.kind = 3 || d.group = 3 || (d.fmt ∈ [0, 1, 2, 9] && decide (d.kind ≠ 0))

/-- FMT_ILLEGAL (R138, R80, R88, R95, R100, R101). -/
def fmtIllegal (s : State) (m : Macro) (f : Nat) : Bool :=
  let ds := (descRoles m).map fun r => (r.1, r.2, readDesc s f (m.desc r.1))
  m.mW = 0 || m.mW > 8 || m.aW = 0 || m.aW > 12 || (m.split && decide (m.mW ≠ 8)) ||
  ds.any (fun d => descIllegal d.2.2 || (decide (d.2.1 = .out) && decide (d.2.2.qmode = 3)) ||
    (decide (d.2.1 = .act) && (d.2.2.fmt ∈ [7, 8] : Bool))) ||
  (decide (m.opc = 9) && !m.fromRegion && !((readDesc s f (m.desc 0)).fmt ∈ [0, 1, 2, 9] : Bool)) ||
  (decide (m.opc = 10) && (((readDesc s f (m.desc 0)).fmt ∈ [0, 1, 2, 9] : Bool) ||
    !((readDesc s f (m.desc 2)).fmt ∈ [0, 1, 2, 9] : Bool)))

/-- Slot that the slice map of a tensor names for a slice, and whether the map byte's line is poisoned (R87, R88, R140). -/
def sliceSlot (s : State) (f : Nat) (d : TDesc) (slice : Nat) : Nat × Bool :=
  let a := floeBase f + (d.auxBase + slice) % 2 ^ 22
  ((s.rdByte a).toNat, s.poisonAt a)

/-- Whether a slot holds a complete codebook of the format's size (R88). -/
def slotServes (s : State) (f slot fmt : Nat) : Bool :=
  slot ≤ 7 && s.bit (pgRime f) (F.RIME_CB_SLOT_VALID slot) &&
    decide (s.rf (pgRime f) (F.RIME_CB_SLOT_SIZE slot) = if fmt = 7 then 1 else 0)

/-- Columns of a codebook tensor in the share: the stored columns of a weight, the output's columns otherwise (R87, R593). -/
def cbColumns (m : Macro) (h : Share) (i : Nat) : Nat :=
  if i = 1 ∧ m.opc = 4 then h.kn
  else if m.opc = 5 then (if i = 1 then 32 * m.aux0 else m.dimN)
  else if m.opc = 9 ∨ m.opc = 10 then m.dimN
  else if m.opc = 4 ∧ m.cplx then 2 * h.nn else h.nn

/-- CB_MISSING (R88); an activation names no slot, since no codebook format is accepted for it. -/
def cbMissing (s : State) (m : Macro) (f : Nat) (h : Share) : Bool :=
  (descRoles m).any fun r =>
    let d := readDesc s f (m.desc r.1)
    decide (r.2 ≠ .act) && (d.fmt ∈ [7, 8] : Bool) &&
      (List.range (ceilDiv (cbColumns m h r.1) 128)).any fun i => !slotServes s f (sliceSlot s f d i).1 d.fmt

/-- Rows and real elements per row of a tensor of the share (R140, R147, R593). -/
def tensorDims (m : Macro) (h : Share) (i : Nat) : Nat × Nat :=
  let c := if m.cplx then 2 else 1
  match m.opc with
  | 4 => if i = 0 then (h.bn * h.mn, h.kn) else (h.bn * h.mn, c * h.nn)
  | 6 => if i = 0 then (m.dimM, c * (m.dimK / max m.aux0 1)) else (m.dimM, h.nn)
  | 5 =>
    match i with
    | 0 => (h.bn * m.dimM, m.dimK)
    | 3 => (h.bn * m.aux0, m.dimK)
    | 4 => (h.bn * m.aux0, m.dimN)
    | 6 => (2 * h.bn * m.aux0, max m.dimK m.dimN)
    | 7 => (h.bn * m.dimM, 32 * m.aux0)
    | _ => (h.bn * m.dimM, m.dimN)
  | 7 => if i = 0 then (m.dimK, m.dimN) else if i = 1 then (1, h.mn) else (h.mn, m.dimN)
  | 9 | 10 => (h.mn, m.dimN)
  | 11 =>
    match i with
    | 0 => (h.mn, m.dimK)
    | 1 => (h.mn, m.dimN)
    | 2 | 6 => (m.aux0, m.dimK)
    | 3 | 7 => (m.dimN, m.aux0)
    | _ => (1, m.aux0 * (m.dimK + m.dimN))
  | _ => if i = 0 then (h.bn * h.mn, c * h.kn) else (h.bn * h.mn, h.nn)

/-- Scratchpad spans that a tensor touches: first byte and length (R143 cause 3). -/
def tensorSpans (f : Nat) (d : TDesc) (rows reals : Nat) (isOut : Bool) : List (Nat × Nat) :=
  if rows = 0 ∨ reals = 0 then []
  else
    let rb := ceilDiv (ceilDiv (reals * fmtBits d.fmt) 8) 64 * 64
    let lines := (rows - 1) * (d.pitch / 64) + rb / 64
    let sb := if d.kind = 1 then 4 else 8
    let gsz := groupSize d.group * (if d.cplx then 2 else 1)
    let cols := if d.cplx then reals / 2 else reals
    [(d.base, (rows - 1) * d.pitch + rb)] ++ (if d.kind = 0 then [] else [(d.scaleBase, lines * sb)])
    ++ (if isOut && decide (d.qmode = 0) && (d.fmt ∈ [5, 6, 9] : Bool) then [(d.auxBase, if d.rsSingle then 8 else 8 * cols)] else [])
    ++ (if d.fmt = 7 ∨ d.fmt = 8 then [(d.auxBase, ceilDiv reals 128)] else [])
    ++ (if isOut && d.smapEn then [(d.smapBase, rows * 64 * ceilDiv (ceilDiv reals gsz) 64)] else [])
    ++ (if isOut && decide (d.qmode = 2) && decide (floeBase f ≤ d.amaxAddr ∧ d.amaxAddr < floeBase f + 0x40_0000)
        then [(d.amaxAddr - floeBase f, 128)] else [])

/-- Whether a span lies in the allocation (R143, R166). -/
def inAlloc (s : State) (f : Nat) (sp : Nat × Nat) : Bool :=
  let lo := s.rf (pgGaff f) F.GAFF_ALLOC_LO / 64 * 64
  let hi := s.rf (pgGaff f) F.GAFF_ALLOC_HI / 64 * 64
  sp.2 = 0 || (lo ≤ sp.1 && sp.1 + sp.2 ≤ hi)

/-- Bytes of the weight operand that must lie in its half (R141, R149). -/
def Macro.chunkBytes (m : Macro) (h : Share) (wBits : Nat) : Nat :=
  if m.resident h wBits then h.bn * tilesK h * tilesN h * 2048 * wBits else tilesK h * 2048 * wBits

/-- Share geometry of a weight operand: of the macro-instruction for D1, and of the two caches for ATTN (R157). -/
def wgtShare (m : Macro) (h : Share) (i : Nat) : Share :=
  if m.opc = 5 then
    if i = 1 then { h with mn := m.dimM, nn := 32 * m.aux0, kn := m.dimK } else { h with mn := m.dimM, nn := m.dimN, kn := 32 * m.aux0 }
  else h

/-- First failing cause of SHAPE_EXCEEDS, 0 for none (R143). -/
def shapeCause (s : State) (m : Macro) (f : Nat) (h : Share) (dfr : Option Deferred) : Nat :=
  let ds := (descRoles m).map fun r => (r.1, r.2, readDesc s f (m.desc r.1))
  let wgts := ds.filter fun d => decide (d.2.1 = .wgt)
  let geo := match dfr with
    | some d => if m.fromRegion then macroOf d.word else m
    | none => m
  let hg := if m.fromRegion then shareOf geo f else h
  let hy := if m.fromRegion then { hg with bn := max hg.bn 1 } else h
  let out := ds.filter fun d => decide (d.2.1 = .out)
  if m.tv = 0 ∨ m.tv > 256 ∨ m.tv * m.regionPitch > 32768 then 1
  else if wgts.any (fun d => decide (128 * tilesK (wgtShare m h d.1) * 128 * fmtBits d.2.2.fmt > 4194304)) then 2
  else if ds.any (fun d =>
      !inAlloc s f (m.desc d.1 / 32 * 32, 32) || decide (d.2.2.loc = 3) ||
      (if d.2.1 = .wgt then
        decide (d.2.2.loc = 0) ||
        decide (d.2.2.base + m.chunkBytes (wgtShare m h d.1) (fmtBits d.2.2.fmt) > 524288) ||
        ((d.2.2.fmt ∈ [7, 8] : Bool) && !inAlloc s f (d.2.2.auxBase, ceilDiv (cbColumns m h d.1) 128))
      else
        decide (d.2.2.loc ≠ 0) ||
        (tensorSpans f d.2.2 (tensorDims geo hy d.1).1 (tensorDims geo hy d.1).2 (decide (d.2.1 = .out))).any fun sp => !inAlloc s f sp))
      || (decide (m.opc = 11) && !inAlloc s f (m.desc 5, 64)) then 3
  else if (m.tiled &&
      decide (m.dimK * (if m.cplx ∧ m.opc ≠ 4 then 2 else 1) * (if m.split then 2 else 1) > 65536)) then 4
  else if (!m.fromRegion && out.any fun d =>
      decide (d.2.2.qmode = 1) && !(d.2.2.fmt ∈ [0, 1, 2, 9] : Bool) && decide (m.sn ≠ 0) &&
      decide ((128 * ceilDiv (ceilDiv m.dimN 128) (2 ^ m.sn) / (if m.cplx ∧ m.opc ≠ 4 then 2 else 1)) % groupSize d.2.2.group ≠ 0)) then 5
  else if (m.tiled && m.deferRo && decide (h.bn * m.tilesM h * tilesN h > 1)) || (m.fromRegion && dfr.isNone) then 6
  else if (decide (m.batch > 1) && !(m.opc ∈ [3, 5] : Bool) && !m.fromRegion) ||
      (decide (m.opc = 5) && decide (m.aux0 = 0 ∨ m.aux0 > 128)) ||
      (decide (m.opc = 6) && (decide (m.aux0 = 0 ∨ m.aux0 > 16 ∨ m.dimK % max m.aux0 1 ≠ 0) ||
        decide (m.dimK / max m.aux0 1 % groupSize (readDesc s f (m.desc 0)).group ≠ 0))) ||
      (decide (m.opc = 11) && (decide (m.aux0 = 0 ∨ m.aux0 > 128) || m.cplx)) then 7
  else 0

/-- Largest member cost (R155). -/
def wcOf (s : State) (m : Macro) : Nat :=
  if m.zeroDim then 4
  else m.members.foldl (fun w f => max w (memberCycles s m f (s.floe f).deferred)) 4

/-- The checks of one member in the order of R142. A failed check 1 ends checks 3 to 6; check 2 is still made but for an opcode
that no row lists, on which its divisions rest, and for a word read from a poisoned line, all of whose fields are rejected. -/
def checkShare (s : State) (m : Macro) (f : Nat) (poisoned : Bool) : Verdict :=
  let dfr := (s.floe f).deferred
  let ill := poisoned || m.rsvd || decide (m.opc = 0 ∨ m.opc > 11)
  let wb := !poisoned && decide (m.opc ≠ 0 ∧ m.opc ≤ 11) && wingBad m f dfr
  if ill || wb then { opcIll := ill, wingBad := wb }
  else
    let h := shareOf m f
    let noRegion := m.fromRegion && (match dfr with
      | some d => d.region.isNone
      | none => false)
    if m.zeroDim || (!m.fromRegion && h.empty) || noRegion then { idle := true, wc := wcOf s m }
    else
      let fi := fmtIllegal s m f
      let cb := cbMissing s m f h
      if fi || cb then { fmtIll := fi, cbMissing := cb }
      else
        let c := shapeCause s m f h dfr
        if c ≠ 0 then { cause := c }
        else
          let w := wcOf s m
          { wcEx := decide (w > m.wcDecl), wc := w }

def Verdict.fails (v : Verdict) : Bool := v.opcIll || v.wingBad || v.fmtIll || v.cbMissing || v.cause ≠ 0 || v.wcEx

/-- The flag of the first failing check and its record's detail (R144). -/
def Verdict.flag (v : Verdict) : Fld :=
  if v.opcIll then F.GAFF_ERR_STAT_OPC_ILLEGAL
  else if v.wingBad then F.GAFF_ERR_STAT_WING_BAD
  else if v.fmtIll then F.GAFF_QNT_STAT_FMT_ILLEGAL
  else if v.cbMissing then F.GAFF_QNT_STAT_CB_MISSING
  else if v.cause ≠ 0 then F.GAFF_ERR_STAT_SHAPE_EXCEEDS
  else F.GAFF_ERR_STAT_WC_EXCEEDS

end Sys2Proof.Machine
end

