-- ==== Sys2Proof/Machine/GaffData.lean ====
section
/-! DEFINITION. What the Gaff reads and writes: rows of tensors with their scales (R79, R82 to R84), weight tiles (R115 to R122, R141,
R591), entered sums (R68, R73), and the output side, row by row (R75, R93 to R106, R592). -/

namespace Sys2Proof.Machine

/-! ### Committing lines -/

/-- A line commits: its number goes to the scoreboard entry of its producer (R281, R354). -/
def State.markLine (s : State) (c : WorkCtx) (a : Nat) : State :=
  match c.work with
  | none => s
  | some k =>
    match Tab.at s.mst.works k none with
    | none => s
    | some w => { s with mst := { s.mst with works := Tab.set s.mst.works k none (some { w with lines := w.lines ++ [a / 64] }) } }

/-- Write a whole line as part of issued work; lines of a failed cell carry POISON (R356). -/
def State.commitLine (s : State) (c : WorkCtx) (a : Nat) (bs : Bytes) (t : Tag) : State :=
  (s.wrLine a bs (Tag.addPoison t (c.failed.contains (Tag.cell t)))).markLine c a

/-- Whether lines of `[a, a + n)` reach the work as poison (R33, R354). -/
def State.readsPoison (s : State) (c : WorkCtx) (a n : Nat) : Bool :=
  s.poisonIn a n || (n ≠ 0 && c.late.any fun l => decide (a / 64 ≤ l ∧ l ≤ (a + n - 1) / 64))

/-! ### Rows of a tensor in the scratchpad -/

/-- Byte address of real element `e` of a row. -/
def rowAddr (f : Nat) (d : TDesc) (row e : Nat) : Nat := floeBase f + d.base + row * d.pitch + e * fmtBits d.fmt / 8

/-- Stored code at an address (R55). -/
def State.code (s : State) (a w e : Nat) : Nat :=
  if w = 4 then bits (s.rdByte a).toNat (4 * (e % 2) + 3) (4 * (e % 2)) else s.rdLe a (w / 8)

/-- Elements per group, counting the real ones (R78). -/
def TDesc.groupReals (d : TDesc) : Nat := groupSize d.group * (if d.cplx then 2 else 1)

/-- Data line within the row, and slot in its scale line, of a row's group `q` (R83). -/
def TDesc.scaleSlot (d : TDesc) (q : Nat) : Nat × Nat :=
  let gb := d.groupReals * fmtBits d.fmt / 8
  (q * gb / 64, q - ceilDiv (q * gb / 64 * 64) gb)

/-- Bytes of a scale line (R83). -/
def TDesc.scaleLine (d : TDesc) : Nat := if d.kind = 1 then 4 else 8

/-- Address of the scale of group `q` of a row (R83). -/
def scaleAddr (f : Nat) (d : TDesc) (row q : Nat) : Nat :=
  let p := d.scaleSlot q
  floeBase f + d.scaleBase + (row * (d.pitch / 64) + p.1) * d.scaleLine + p.2 * (d.scaleLine / 4)

/-- Value of a group's scale. -/
def State.scaleOf (s : State) (f : Nat) (d : TDesc) (row q : Nat) : Val :=
  match ScaleKind.ofCode d.kind with
  | some .none | none => .fin false 1 0
  | some k => scaleVal k (s.rdLe (scaleAddr f d row q) k.bytes)

/-- Whether the data line with real element `e` is consumed as poison: its own tag, or the line of a scale of a group that it holds (R84). -/
def State.elemPoison (s : State) (c : WorkCtx) (f : Nat) (d : TDesc) (row e : Nat) : Bool :=
  let w := fmtBits d.fmt
  let l := e * w / 8 / 64
  let a := floeBase f + d.base + row * d.pitch + l * 64
  s.readsPoison c a 64 ||
    (d.kind ≠ 0 &&
      let g := d.groupReals
      let q0 := l * 512 / w / g
      let q1 := (l * 512 / w + 512 / w - 1) / g
      (List.range (q1 + 1 - q0)).any fun i => s.readsPoison c (scaleAddr f d row (q0 + i)) 1)

/-- Codebook of a slice as FP16 codes (R85, R87). -/
def State.codebook (s : State) (f slot : Nat) : List Nat := ((s.floe f).cb slot).codes.map (·.toNat)

/-- Value of a code under a codebook. -/
def cbAt (codes : List Nat) (q : Nat) : Val := decodeVal .fp16 noCb (codes.getD q 0)

/-- Real value of real element `e` of a row (R82, R85). -/
def State.elemVal (s : State) (f : Nat) (d : TDesc) (row e : Nat) : Val :=
  match Fmt.ofCode d.fmt with
  | none => .nan
  | some fm =>
    let v := s.code (rowAddr f d row e) (fmtBits d.fmt) e
    let cb := if d.fmt = 7 ∨ d.fmt = 8 then cbAt (s.codebook f (sliceSlot s f d (e / 128)).1) else noCb
    (decodeVal fm cb v).mul (s.scaleOf f d row (e / d.groupReals))

/-- Value and poison of `n` real elements of a row from element `e`. -/
def State.rowVals (s : State) (c : WorkCtx) (f : Nat) (d : TDesc) (row e n : Nat) : List (Val × Bool) :=
  (List.range n).map fun i => (s.elemVal f d row (e + i), s.elemPoison c f d row (e + i))

/-! ### Block-float expansion (R91) -/

/-- Normalise one group of values to operands. -/
def expandGroup (b : Nat) (vs : List (Val × Bool)) : List Op :=
  let r := toBlockFloat (vs.map (·.1)) b
  (r.1.zip vs).map fun x => { neg := x.1.1, mag := x.1.2, exp := r.2, poison := x.2.2 }

/-- Cut a list in groups of `g`. -/
def chunk {α : Type} (g : Nat) : Nat → List α → List (List α)
  | 0, _ => []
  | _, [] => []
  | n + 1, xs => xs.take g :: chunk g n (xs.drop g)

/-- Normalise a run of elements that starts at a group boundary (R64, R91). -/
def expandRow (g b : Nat) (vs : List (Val × Bool)) : List Op := (chunk g vs.length vs).flatMap (expandGroup b)

/-- The exact remainder that the high plane leaves (R121). -/
def remainder (v : Val) (o : Op) : Val := if v.isFinite then v.add (.fin (!o.neg) o.mag o.exp) else .fin false 0 0

/-- The two planes of a split weight group (R121). -/
def expandPlane (g b plane : Nat) (vs : List (Val × Bool)) : List Op :=
  let hi := expandRow g b vs
  if plane = 0 then hi else expandRow g b ((hi.zip vs).map fun x => (remainder x.2.1 x.1, x.2.2))

/-! ### Weight tiles -/

/-- Address of code (r, c) of a tile in a half (R141). -/
def tileAddr (f half base tile w r c : Nat) : Nat := floeBase f + offWb half + base + tile * 2048 * w + 16 * w * r + c * w / 8

/-- Value and poison of weight (r, c) of a tile (R85, R117, R591). -/
def State.weightAt (s : State) (c : WorkCtx) (f half : Nat) (d : TDesc) (tile slice r col : Nat) : Val × Bool :=
  let w := fmtBits d.fmt
  let a := tileAddr f half d.base tile w r col
  let q := s.code a w col
  let gsz := groupSize d.group
  let cc := if d.cplx then col / 2 else col
  let j := cc * (128 / gsz) + r / gsz
  let slot := s.sideSlot f half (((d.base + tile * 2048 * w) / 64 + j / 4) % 8192)
  let sc : Val × Bool :=
    match ScaleKind.ofCode d.kind with
    | some .e8m0 => (scaleVal .e8m0 (bits slot.data.toNat (8 * (j % 4) + 7) (8 * (j % 4))), slot.poison)
    | some .bf16 => (scaleVal .bf16 (bits slot.data.toNat (16 * (j % 4) + 15) (16 * (j % 4))), slot.poison)
    | _ => (.fin false 1 0, false)
  let p := s.readsPoison c a 1 || sc.2
  match Fmt.ofCode d.fmt with
  | none => (.nan, p)
  | some fm =>
    if fm = .cb8 ∨ fm = .cb4 then
      let sl := sliceSlot s f d slice
      ((decodeVal fm (cbAt (s.codebook f sl.1)) q).mul sc.1, p || ((s.floe f).cb sl.1).poison || sl.2)
    else ((decodeVal fm noCb q).mul sc.1, p)

/-- Operands of one column, or of the two columns of a complex one, over `rext` rows: lists by column (R91, R118, R122). -/
def expandColumn (g b plane : Nat) (cplx : Bool) (col : Nat → Nat → Val × Bool) (rext c : Nat) : List (List Op) :=
  let rows := List.range rext
  if cplx then
    let flat := rows.flatMap fun r => [col r c, col r (c + 1)]
    let ops := expandPlane (2 * g) b plane flat
    let pick (k : Nat) := rows.map fun r => ops.getD (2 * r + k) {}
    [pick 0, pick 1]
  else [expandPlane g b plane (rows.map fun r => col r c)]

/-- The operands of a tile, by column, then row. -/
def tileColumns (g b plane : Nat) (cplx : Bool) (col : Nat → Nat → Val × Bool) (rext cext : Nat) : List (List Op) :=
  if cplx then (List.range (ceilDiv cext 2)).flatMap fun j => expandColumn g b plane true col rext (2 * j)
  else (List.range cext).flatMap fun c => expandColumn g b plane false col rext c

/-- Weight registers and segment exponents of a tile (R113, R116); cells outside the shape stay cleared. -/
def tileOf (cols : List (List Op)) : Tile where
  cells := (cols.zipIdx.flatMap fun cl => cl.1.zipIdx.map fun x => (128 * cl.2 + x.2, Cell.mk x.1.mag x.1.neg x.1.poison)).filter
    fun e => decide (e.2 ≠ {})
  exps := (cols.zipIdx.flatMap fun cl => (List.range (ceilDiv cl.1.length 32)).map fun g => (4 * cl.2 + g, (cl.1.getD (32 * g) {}).exp)).filter
    fun e => decide (e.2 ≠ 0)

/-- The operand in a cell of a tile (R113). -/
def Tile.op (t : Tile) (r c : Nat) : Op :=
  let x := Tab.at t.cells (128 * c + r) {}
  { neg := x.neg, mag := x.mag, exp := Tab.at t.exps (4 * c + r / 32) 0, poison := x.poison }

/-! ### Sums -/

/-- Enter one product (R68, R124); `flip` inverts its sign (R73). -/
def Sum.enter (ebase : Int) (a : Sum) (p : Op × Op × Bool) : Sum :=
  let r := Sys2Proof.Machine.enter a.v ((p.1.neg != p.2.1.neg) != p.2.2) p.1.exp p.1.mag p.2.1.exp p.2.1.mag ebase
  { v := r.1, poison := a.poison || p.1.poison || p.2.1.poison, clamps := a.clamps + r.2.1.toNat, zeros := a.zeros + r.2.2.toNat }

def sumProducts (ebase : Int) (init : Sum) (ps : List (Op × Op × Bool)) : Sum := ps.foldl (Sum.enter ebase) init

/-! ### Outputs -/

/-- Pack codes into bytes (R55). -/
def packCodes (w : Nat) : List Nat → Bytes
  | [] => []
  | a :: rest =>
    if w = 4 then
      match rest with
      | [] => [BitVec.ofNat 8 (a % 16)]
      | b :: rest => BitVec.ofNat 8 (a % 16 + 16 * (b % 16)) :: packCodes w rest
    else leBytes (w / 8) a ++ packCodes w rest

/-- Pad to a multiple of 64 bytes with zeros (R79). -/
def padLine (bs : Bytes) : Bytes := bs ++ List.replicate (ceilDiv bs.length 64 * 64 - bs.length) 0

/-- Write a run of whole lines; `t` and `pois` give the tag and the poison of line `i`. -/
def State.commitLines (s : State) (c : WorkCtx) (a : Nat) (bs : Bytes) (t : Tag) (pois : Nat → Bool) : State :=
  (chunk 64 bs.length bs).zipIdx.foldl (fun s x => s.commitLine c (a + 64 * x.2) x.1 (Tag.addPoison t (pois x.2))) s

/-- What one element's write reports on the floe that makes it (R61, R76, R98, R105, R110). -/
def State.reportWr (s : State) (f : Nat) (w : Wr) : State :=
  let s := if w.outSat then s.raise (pgRime f) F.RIME_NUM_STAT_OUT_SAT else s
  let s := if w.outOvf then s.raise (pgRime f) F.RIME_NUM_STAT_OUT_OVF else s
  let s := if w.outSat || w.outOvf then s.bump (pgRime f) F.RIME_OUT_OVF_CNT else s
  let s := if w.invalid then s.raise (pgGaff f) F.GAFF_QNT_STAT_INVALID else s
  if w.clamped then s.bump (pgGaff f) F.GAFF_QNT_SAT_CNT else s

/-- The rescale entry of an output column (R93): MULT, SHIFT and whether its line is poisoned. -/
def State.rescaleAt (s : State) (c : WorkCtx) (f : Nat) (y : TDesc) (col : Nat) : Nat × Nat × Bool :=
  let a := floeBase f + y.auxBase + (if y.rsSingle then 0 else 8 * col)
  let v := s.rdLe a 8
  (bits v 31 0, bits v 38 32, s.readsPoison c a 8)

/-- Write a scale of the output's row and rewrite the tag of its line (R83, R592). -/
def State.putScale (s : State) (c : WorkCtx) (f : Nat) (y : TDesc) (row q code : Nat) (t : Tag) (pois : Bool) : State :=
  if y.kind = 0 then s
  else
    let a := scaleAddr f y row q
    let old := s.poisonAt a
    let s := s.wrLe a (y.scaleLine / 4) code
    let t := newTag y.stream y.fmt y.digest (pois || old) t
    (s.setTag a (Tag.addPoison t (c.failed.contains (Tag.cell t)))).markLine c a

/-- Clear the unused slots of the scale lines of a row from data line `l0`, `n` lines (R83). -/
def State.clearScales (s : State) (f : Nat) (y : TDesc) (row l0 n : Nat) : State :=
  if y.kind = 0 then s
  else
    let a := floeBase f + y.scaleBase + (row * (y.pitch / 64) + l0) * y.scaleLine
    s.zeroMem a (a + n * y.scaleLine)

/-- A value of an output element before it is coded: a window value with the exponent base, or an exact value. -/
inductive OutVal where
  | acc (a : Int) (e : Int)
  | val (v : Val)
deriving DecidableEq, Repr

def OutVal.exact : OutVal → Val
  | .acc a e => Val.ofInt a e
  | .val v => v

/-- Static integer or Q15 write through the rescale vector (R93, R94); an exact value is scaled in the same way, MULT × 2^−SHIFT. -/
def rescaleOut (fm : Fmt) (sat : Bool) (v : OutVal) (mult shift : Nat) : Wr × Bool :=
  let w := (fm.int.map (·.1)).getD 16
  match v with
  | .acc a _ => rescaleInt w sat a mult shift
  | .val v =>
    let sh := min shift 95
    (writeQuot fm sat (match v.quot with
      | .rat s n d e => .rat s (n * mult) d (e - sh + (if fm = .q15 then -15 else 0))
      | q => q), decide (shift > 95))

/-- Code one element of an output in the modes that need no amax of this pass (R74, R75, R94, R98, R101, R105): the write and whether SHIFT
was too large. `scale` is the group's scale value. -/
def codeOut (y : TDesc) (fm : Fmt) (cb : List Val) (sat : Bool) (v : OutVal) (scale : Val) (rs : Nat × Nat) (dequant : Bool) : Wr × Bool :=
  match fm with
  | .fp32 | .fp16 | .bf16 => (writeVal fm sat v.exact, false)
  | .q15 => if dequant then (writeVal fm sat v.exact, false) else rescaleOut fm sat v rs.1 rs.2
  | .int8 | .int4 =>
    if y.qmode = 0 then rescaleOut fm sat v rs.1 rs.2 else (quantElem fm cb (decide (y.qmode = 2)) sat v.exact scale, false)
  | _ => (quantElem fm cb (decide (y.qmode = 2)) sat v.exact scale, false)

/-- Scale code of an output group (R95, R97, R99, R103): from its amax in CURRENT mode, from the history in DELAYED mode. -/
def groupScale (y : TDesc) (cb : List Val) (amax hist : Val) : Nat :=
  match ScaleKind.ofCode y.kind, Fmt.ofCode y.fmt with
  | some k, some fm => selectScale k (if y.qmode = 2 then hist else amax) (qmax fm cb)
  | _, _ => 0

/-- A run of output elements of one row, within one group: their values and side bits, from real element `e0`. -/
structure OutRun where
  row : Nat
  e0 : Nat
  vals : List (OutVal × Bool)
  tag : Tag
deriving DecidableEq, Repr

/-- What writing a run gives back for the tensor as a whole (R104 to R106). -/
structure OutSum where
  amax : Val := .fin false 0 0
  clamps : Nat := 0
deriving DecidableEq, Repr

/-- The formats that take a scale of their own in CURRENT and DELAYED mode. -/
def TDesc.scaled (y : TDesc) : Bool := (y.fmt ∈ [3, 4, 5, 6, 7, 8] : Bool)

/-- Code the elements of a run that lies in one group: the state with what they report, the writes and the scale code to store. -/
def State.codeRun (s : State) (c : WorkCtx) (f : Nat) (y : TDesc) (sat : Bool) (hist : Val) (dequant : Bool) (r : OutRun) :
    State × List (Wr × Bool) × Option Nat :=
  match Fmt.ofCode y.fmt with
  | none => (s, [], none)
  | some fm =>
    let q := r.e0 / y.groupReals
    let slice := r.e0 / 128
    let cb := if y.fmt = 7 ∨ y.fmt = 8 then cbVals (s.codebook f (sliceSlot s f y slice).1) else []
    let amax := (r.vals.filter fun v => v.1.exact.isFinite).foldl (fun m v => Val.maxAbs m v.1.exact) (.fin false 0 0)
    let own := y.scaled && y.qmode ≠ 0
    let sc := groupScale y cb amax hist
    let scale :=
      if own then (match ScaleKind.ofCode y.kind with
        | some k => scaleVal k sc
        | none => .nan)
      else s.scaleOf f y r.row q
    let zr := own && decide (y.qmode = 1) && (amax.eqv (.fin false 0 0))
    let s := if zr then (s.raise (pgGaff f) F.GAFF_QNT_STAT_ZERO_RANGE).bump (pgGaff f) F.GAFF_QNT_ZR_CNT else s
    let useRs := y.fmt = 9 ∨ (y.qmode = 0 ∧ (y.fmt = 5 ∨ y.fmt = 6))
    let res := r.vals.zipIdx.map fun x =>
      let col := (r.e0 + x.2) / (if y.cplx then 2 else 1)
      let rs := if useRs ∧ !dequant then s.rescaleAt c f y col else (0, 0, false)
      let w := codeOut y fm cb sat x.1.1 scale (rs.1, rs.2.1) dequant
      (w.1, x.1.2 || rs.2.2, w.2)
    let s := res.foldl (fun s w => (if w.2.2 then s.raise (pgGaff f) F.GAFF_QNT_STAT_RESCALE_BAD else s).reportWr f w.1) s
    (s, res.map fun w => (w.1, w.2.1), if own then some sc else none)

/-- Runs of a row cut at the group boundaries. -/
def splitRun (g : Nat) : Nat → OutRun → List OutRun
  | 0, _ => []
  | n + 1, r =>
    if r.vals.isEmpty then []
    else
      let k := g - r.e0 % g
      { r with vals := r.vals.take k } :: splitRun g n { r with e0 := r.e0 + k, vals := r.vals.drop k }

/-- Add the clamps of a group to its byte of the saturation map (R105). -/
def State.putSmap (s : State) (f : Nat) (y : TDesc) (row q groups n : Nat) (first : Bool) : State :=
  if !y.smapEn then s
  else
    let rowB := floeBase f + y.smapBase + row * 64 * ceilDiv groups 64
    let old := if first then 0 else (s.rdByte (rowB + q)).toNat
    let s := s.wrByte (rowB + q) (BitVec.ofNat 8 (min 255 (old + n)))
    s.zeroMem (rowB + groups) (rowB + 64 * ceilDiv groups 64)

/-- Write one run of an output row that starts at a 64-byte boundary: elements, tags, scales, saturation map (R75, R98 to R105). `reals` is the
row's whole length. -/
def State.writeRun (s : State) (c : WorkCtx) (f : Nat) (y : TDesc) (sat : Bool) (hist : Val) (dequant strict : Bool) (reals : Nat)
    (acc : OutSum) (r : OutRun) : State × OutSum :=
  let g := y.groupReals
  let parts := splitRun g (r.vals.length + 1) r
  let res := parts.foldl (fun (x : State × List (Wr × Bool) × List (Nat × Nat × Nat)) p =>
    let o := x.1.codeRun c f y sat hist dequant p
    let cl := (o.2.1.filter fun w => w.1.clamped).length
    let s := x.1
    let s := { o.1 with rsp := s.rsp }
    let s := if y.qmode = 2 ∧ y.scaled then s.putSmap f y p.row (p.e0 / g) (ceilDiv reals g) cl (decide (p.e0 % g = 0)) else s
    (s, x.2.1 ++ o.2.1, x.2.2 ++ (match o.2.2 with
      | some k => [(p.e0 / g, k, p.e0)]
      | none => []))) (s, [], [])
  let ws := res.2.1
  let bitsW := fmtBits y.fmt
  let perLine := 512 / bitsW
  let linePois (l : Nat) : Bool :=
    ((ws.drop (l * perLine)).take perLine).any fun w => w.2 || (strict && decide (y.qmode = 2) && w.1.clamped)
  let a := rowAddr f y r.row r.e0
  let t := newTag y.stream y.fmt y.digest false r.tag
  let bytes := padLine (packCodes bitsW (ws.map fun w => w.1.bits))
  let s := res.1.commitLines c a bytes t linePois
  let l0 := r.e0 * bitsW / 512
  let s := if res.2.2.isEmpty then s else s.clearScales f y r.row l0 (bytes.length / 64)
  let s := res.2.2.foldl (fun s x =>
    let gb := g * bitsW / 8
    let la := x.1 * gb / 64 - l0
    let lb := (x.1 * gb + gb - 1) / 64 - l0
    s.putScale c f y r.row x.1 x.2.1 r.tag ((List.range (lb + 1 - la)).any fun i => linePois (la + i))) s
  let amax := (r.vals.filter fun v => v.1.exact.isFinite).foldl (fun m v => Val.maxAbs m v.1.exact) acc.amax
  (s, { amax := amax, clamps := acc.clamps + (ws.filter fun w => w.1.clamped).length })

end Sys2Proof.Machine
end

