-- ==== Sys2Proof/Machine/GaffRun.lean ====
section
/-! DEFINITION. The Gaff's walk: tile loads and passes through the Rime array (R115 to R126), merges (R150), readout (R127), and the amax
record (R102 to R106). -/

namespace Sys2Proof.Machine

/-! ### The executing macro-instruction -/

def State.setExec (s : State) (f : Nat) (x : Option GaffExec) : State := s.setFloe f { s.floe f with exec := x }

def State.runOf (s : State) (x : GaffExec) : Option Run := x.run.bind s.run

def State.ctxOf (s : State) (x : GaffExec) : WorkCtx := ((s.runOf x).map (·.ctx)).getD {}

def State.updRun (s : State) (x : GaffExec) (k : Run → Run) : State :=
  match x.run with
  | none => s
  | some r =>
    match s.run r with
    | none => s
    | some q => s.setRun r (some (k q))

/-- The macro-instruction that fixes a share's geometry. -/
def GaffExec.g (x : GaffExec) : Macro := macroOf x.geo

def GaffExec.share (x : GaffExec) (f : Nat) : Share := shareOf x.g f

/-- Passes of the whole share. -/
def GaffExec.total (x : GaffExec) (f : Nat) : Nat := (x.g.visits (x.share f)).length * x.g.passesPerTile (x.share f)

/-- Real elements per counted element. -/
def Macro.u (m : Macro) : Nat := if m.cplx then 2 else 1

/-- The place of pass `idx`: visit, (item, tile row, tile column), K tile, plane. -/
structure PassAt where
  visit : Nat
  b : Nat
  i : Nat
  j : Nat
  kt : Nat
  plane : Nat
  first : Bool
  last : Bool
deriving DecidableEq, Repr

def passAt (g : Macro) (h : Share) (idx : Nat) : PassAt :=
  let ppt := max 1 (g.passesPerTile h)
  let t := idx / ppt
  let w := idx % ppt
  let v := (g.visits h).getD t (0, 0, 0)
  { visit := t, b := v.1, i := v.2.1, j := v.2.2, kt := if g.split then w / 2 else w, plane := if g.split then w % 2 else 0,
    first := w = 0, last := w + 1 = ppt }

/-- Rows of a tile that the share fills (R148). -/
def tileRows (g : Macro) (h : Share) (i : Nat) : Nat := min g.tv (h.mn - i * g.tv)

/-- Extent of tile `t` along a dimension of `n`. -/
def ext128 (n t : Nat) : Nat := min 128 (n - 128 * t)

/-- Rows and columns of the tile's weights (R116, R119). -/
def tileExt (g : Macro) (h : Share) (p : PassAt) : Nat × Nat :=
  if g.transposed then (ext128 h.nn p.j, ext128 h.kn p.kt) else (ext128 h.kn p.kt, ext128 h.nn p.j)

/-- The weight of a tile at (r, c). -/
def State.tileWeight (s : State) (c : WorkCtx) (f : Nat) (g : Macro) (h : Share) (p : PassAt) (r col : Nat) : Val × Bool :=
  let d := readDesc s f (g.desc 1)
  let w := fmtBits d.fmt
  s.weightAt c f (g.halfAt h w d.loc p.visit) d (g.tileIdx h w p.b p.j p.kt) (if g.transposed then p.kt else p.j) r col

/-- Non-finite elements are reported (R66). -/
def State.nonfinite (s : State) (f n : Nat) : State :=
  if n = 0 then s else (s.bumpN (pgRime f) F.RIME_NONFINITE_CNT n).raise (pgRime f) F.RIME_NUM_STAT_NONFINITE_IN

/-- Whether a visit is the first of its item with a given tile row or tile column. -/
def firstVisit (g : Macro) (h : Share) (p : PassAt) (byRow : Bool) : Bool :=
  ((g.visits h).take p.visit).all fun v => decide (v.1 ≠ p.b ∨ (if byRow then v.2.1 ≠ p.i else v.2.2 ≠ p.j))

/-- Load the shadow registers with the tile of pass `idx` (R115 to R117, R121). -/
def State.loadShadow (s : State) (f : Nat) (x : GaffExec) (idx : Nat) : State :=
  let g := x.g
  let h := x.share f
  let ctx := s.ctxOf x
  let c := { ctx with late := ctx.late ++ x.hits }
  let p := passAt g h idx
  let e := tileExt g h p
  let d := readDesc s f (g.desc 1)
  let col (r k : Nat) := s.tileWeight c f g h p r k
  let tile := tileOf (tileColumns (groupSize d.group) g.mW p.plane g.cplx col e.1 e.2)
  let nf :=
    if h.rm = 0 ∧ p.plane = 0 ∧ firstVisit g h p false then
      (((List.range e.1).flatMap fun r => (List.range e.2).map fun k => (col r k).1).filter fun v => !v.isFinite).length
    else 0
  let s := s.nonfinite f nf
  let fl := s.floe f
  s.setFloe f { fl with rime := { fl.rime with shadow := tile }, exec := some { x with loaded := true, hits := [] } }

/-- The pass whose tile is loading, while it loads (R115). -/
def GaffExec.loading (x : GaffExec) (f : Nat) : Option Nat :=
  let idx := if x.passOn then x.pass + 1 else x.pass
  if x.phase = .work ∧ x.g.tiled ∧ !x.loaded ∧ idx < x.total f then some idx else none

/-- A line of a weight half is written: it collides with a tile load in progress from that half (R244). `a` is its address. -/
def State.wbWritten (s : State) (f half a : Nat) : State :=
  match (s.floe f).exec with
  | none => s
  | some x =>
    match x.loading f with
    | none => s
    | some idx =>
      let h := x.share f
      let d := readDesc s f (x.g.desc 1)
      if x.g.halfAt h (fmtBits d.fmt) d.loc (passAt x.g h idx).visit = half then
        let t := s.setExec f (some { x with hits := a / 64 :: x.hits })
        if x.hits = [] then (t.bump (pgFmem f) F.FMEM_WB_COLL_CNT).fault (pgFmem f) F.FMEM_ERR_STAT_WB_COLLIDE 4 0 x.g.id
        else t
      else s

/-- Whether the region that the next pass writes is free (R127, R148). -/
def bankFree (g : Macro) (x : GaffExec) (p : PassAt) : Bool :=
  !p.first || (if g.tv * g.regionPitch ≤ 16384 then x.regions.all fun r => decide (r.base ≠ g.regionBase p.visit) else x.regions.isEmpty)

/-- Start the next pass when its tile is loaded and its bank is free (R115, R126). -/
def State.startPass (s : State) (f : Nat) : State :=
  let fl := s.floe f
  match fl.exec with
  | none => s
  | some x =>
    if x.phase = .work ∧ x.g.tiled ∧ x.loaded ∧ !x.passOn ∧ x.pass < x.total f ∧ bankFree x.g x (passAt x.g (x.share f) x.pass) then
      let s := s.setFloe f { fl with rime := { fl.rime with active := fl.rime.shadow },
                                     exec := some { x with loaded := false, passOn := true, gate := s.bit (pgRime f) F.RIME_CTRL } }
      s.bump (pgRime f) F.RIME_TILE_CNT
    else s

/-- The share's own work is done when every pass has run and no region is left (R136). -/
def State.settleShare (s : State) (f : Nat) : State :=
  match (s.floe f).exec with
  | none => s
  | some x =>
    if x.phase = .work ∧ (x.g.tiled → x.pass ≥ x.total f) ∧ !x.passOn ∧ x.regions = [] then s.setExec f (some { x with phase := .done }) else s

/-! ### A pass -/

/-- Operands of `n` real elements of a row from element `a`, with the groups of the row (R64, R91). -/
def State.rowOps (s : State) (c : WorkCtx) (f : Nat) (d : TDesc) (aw row a n reals : Nat) : List Op :=
  let g := d.groupReals
  let lo := a / g * g
  let hi := min reals (ceilDiv (a + n) g * g)
  ((expandRow g aw (s.rowVals c f d row lo (hi - lo))).drop (a - lo)).take n

/-- Input position of a tap (R159); none is padding. -/
def tapPos (g : Macro) (row t : Nat) : Option Nat :=
  let q := row + t
  let o := (g.aux0 - 1) / 2
  if q < o ∨ q - o ≥ g.dimM then none else some (q - o)

/-- First real element and number of real elements of the activation vector that K tile `kt` reads. -/
def vecSpan (g : Macro) (h : Share) (kt : Nat) : Nat × Nat :=
  let u := if g.transposed then 1 else g.u
  (128 * kt * u, ext128 h.kn kt * u)

/-- The activation operands of one vector for one K tile (R118 to R122, R159). -/
def State.vecOps (s : State) (c : WorkCtx) (f : Nat) (g : Macro) (h : Share) (row kt : Nat) : List Op :=
  let d := readDesc s f (g.desc 0)
  let sp := vecSpan g h kt
  if g.opc = 6 then
    let w := g.dimK / max 1 g.aux0 * g.u
    let a := h.k0 * g.u + sp.1
    let t0 := a / max 1 w
    let taps := ceilDiv (a + sp.2) (max 1 w) - t0
    let all := (List.range taps).flatMap fun i =>
      match tapPos g row (t0 + i) with
      | some p => s.rowOps c f d g.aW p 0 w w
      | none => List.replicate w {}
    (all.drop (a - t0 * w)).take sp.2
  else s.rowOps c f d g.aW row sp.1 sp.2 (h.kn * (if g.transposed then 1 else g.u))

/-- Non-finite activation elements that this vector reports (R66): each at the first expansion on the lowest member. -/
def State.vecNonfinite (s : State) (c : WorkCtx) (f : Nat) (g : Macro) (h : Share) (row kt : Nat) : Nat :=
  let d := readDesc s f (g.desc 0)
  let sp := vecSpan g h kt
  if g.opc = 6 then
    let w := g.dimK / max 1 g.aux0 * g.u
    ((List.range sp.2).filter fun i =>
      let k := h.k0 * g.u + sp.1 + i
      let t := k / max 1 w
      match tapPos g row t with
      | some p => decide (t = (p + (g.aux0 - 1) / 2 + 1) - g.dimM) && !(s.elemVal f d p (k % max 1 w)).isFinite
      | none => false).length
  else ((s.rowVals c f d row sp.1 sp.2).filter fun v => !v.1.isFinite).length

/-- Products of one vector with a tile, by offset of the accumulator in the vector's row (R118, R119, R122). -/
def vecProducts (g : Macro) (op : Nat → Nat → Op) (rext cext : Nat) (a : Nat → Op) : List (Nat × List (Op × Op × Bool)) :=
  let rows := List.range rext
  if g.transposed then
    if g.cplx then
      rows.flatMap fun r =>
        let cols := List.range (ceilDiv cext 2)
        [(2 * r, cols.flatMap fun j => [(op r (2 * j), a (2 * j), false), (op r (2 * j + 1), a (2 * j + 1), !g.conj)]),
         (2 * r + 1, cols.flatMap fun j => [(op r (2 * j + 1), a (2 * j), g.conj), (op r (2 * j), a (2 * j + 1), false)])]
    else rows.map fun r => (r, (List.range cext).map fun k => (op r k, a k, false))
  else if g.cplx then
    (List.range (ceilDiv cext 2)).flatMap fun j =>
      [(2 * j, rows.flatMap fun r => [(op r (2 * j), a (2 * r), false), (op r (2 * j + 1), a (2 * r + 1), true)]),
       (2 * j + 1, rows.flatMap fun r => [(op r (2 * j + 1), a (2 * r), false), (op r (2 * j), a (2 * r + 1), false)])]
  else (List.range cext).map fun k => (k, rows.map fun r => (op r k, a r, false))

/-- What entering products reports (R68). -/
def State.reportSum (s : State) (f : Nat) (r : Sum) : State :=
  let s := if r.clamps = 0 then s else (s.bumpN (pgRime f) F.RIME_PROD_CLAMP_CNT r.clamps).raise (pgRime f) F.RIME_NUM_STAT_PROD_CLAMP
  if r.zeros = 0 then s else s.bumpN (pgRime f) F.RIME_ENTRY_ZERO_CNT r.zeros

/-- An accumulator takes a sum; one that becomes poisoned is counted once per macro-instruction (R124). `seen` lists those counted. -/
def State.putAcc (s : State) (f i : Nat) (v : Int) (p : Bool) (seen : List Nat) : State × List Nat :=
  let s := (s.setAcc f i v).setAccPoison f i p
  if p && !seen.contains i then ((s.bump (pgRime f) F.RIME_POISON_CNT).raise (pgRime f) F.RIME_ERR_STAT_POISON_IN, i :: seen)
  else (s, seen)

/-- Enter the products of one accumulator; the first pass of a region replaces the old contents (R125). -/
def State.enterAcc (s : State) (f : Nat) (ebase : Int) (first : Bool) (i : Nat) (ps : List (Op × Op × Bool)) (seen : List Nat) :
    State × List Nat :=
  let init : Sum := if first then {} else { v := s.acc f i, poison := s.accPoison f i }
  let r := sumProducts ebase init ps
  (s.reportSum f r).putAcc f i r.v r.poison seen

/-- Cell-products that switch for one broadcast (R130). -/
def switched (op : Nat → Nat → Op) (rext cext : Nat) (byCol : Bool) (a : Nat → Op) : Nat :=
  ((List.range rext).flatMap fun r => (List.range cext).filter fun k => (op r k).mag ≠ 0 ∧ (a (if byCol then k else r)).mag ≠ 0).length

/-- Region of a pass's tile, with the tags of its rows. -/
def State.regionOfPass (s : State) (f : Nat) (g : Macro) (h : Share) (p : PassAt) : Region :=
  let d := readDesc s f (g.desc 0)
  let row0 := p.b * h.mn + p.i * g.tv
  let n := tileRows g h p.i
  { visit := p.visit, base := g.regionBase p.visit, row0 := row0, rows := n,
    tags := (List.range n).map fun v => s.tagAt (rowAddr f d (row0 + v) 0) }

/-- The last pass into a region ends: the region waits for its merge and readout, or is deferred (R127, R152). -/
def State.closeTile (s : State) (f : Nat) (p : PassAt) : State :=
  let fl := s.floe f
  match fl.exec with
  | none => s
  | some x =>
    let r := s.regionOfPass f x.g (x.share f) p
    if x.g.deferRo then
      s.setFloe f { fl with exec := some { x with phase := .done }, deferred := some { word := x.word, region := some r } }
    else s.setExec f (some { x with regions := x.regions ++ [r] })

/-- The sums of a pass (R118 to R126, R131): every product entered, statuses and counts. -/
def State.passSums (s : State) (f : Nat) (x : GaffExec) (par : List ParErr) : State × List Nat :=
  let g := x.g
  let h := x.share f
  let c := s.ctxOf x
  let p := passAt g h x.pass
  let e := tileExt g h p
  let tile := (s.floe f).rime.active
  let base := g.regionBase p.visit
  (List.range (tileRows g h p.i)).foldl (fun (st : State × List Nat) v =>
    let row := p.b * h.mn + p.i * g.tv + v
    let ops := st.1.vecOps c f g h row p.kt
    let op (r k : Nat) : Op :=
      if par.any fun q => decide (q.vec = v) && decide (q.row.val = r) && decide (q.col.val = k) then { poison := true } else tile.op r k
    let a (i : Nat) : Op := ops.getD i {}
    let st := (vecProducts g op e.1 e.2 a).foldl (fun (st : State × List Nat) o =>
      st.1.enterAcc f g.ebase p.first (base + v * g.regionPitch + o.1) o.2 st.2) st
    let byCol := g.transposed
    let on :=
      if g.cplx then
        (if byCol then switched op e.1 e.2 true (fun k => a (k / 2 * 2)) + switched op e.1 e.2 true (fun k => a (k / 2 * 2 + 1))
         else switched op e.1 e.2 false (fun r => a (2 * r)) + switched op e.1 e.2 false (fun r => a (2 * r + 1)))
      else switched op e.1 e.2 byCol a
    let s := st.1.tally (pgRime f) F.RIME_CELLPROD_LO (g.u * e.1 * e.2)
    let s := if x.gate then s.tally (pgRime f) F.RIME_GATED_LO (g.u * 16384 - on) else s
    let nf := if h.rn = 0 ∧ p.plane = 0 ∧ firstVisit g h p true then s.vecNonfinite c f g h row p.kt else 0
    (s.nonfinite f nf, st.2)) (s, x.poisoned)

/-- Parity errors of a pass: flag, count, and one record (R131). -/
def State.parityErrors (s : State) (f : Nat) (id : Nat) (par : List ParErr) : State :=
  if par.isEmpty then s
  else
    let s := (s.bumpN (pgRime f) F.RIME_CELL_PAR_CNT par.length).fault (pgRime f) F.RIME_ERR_STAT_CELL_PAR 2 0 id
    par.foldl (fun s _ => s.countPar f) s

/-- A pass ends (R126). -/
def State.endPass (s : State) (f : Nat) (x : GaffExec) (par : List ParErr) : State :=
  let g := x.g
  let h := x.share f
  let p := passAt g h x.pass
  let v := tileRows g h p.i
  let cyc := g.u * v * g.period (readDesc s f (g.desc 0)).fmt
  let r := s.passSums f x par
  let s := r.1.tally (pgRime f) F.RIME_BUSY_CYC_LO cyc
  let s := if x.pass + 1 < x.total f then s.tally (pgRime f) F.RIME_STALL_CYC_LO (64 - cyc) else s
  let s := s.setExec f (some { x with pass := x.pass + 1, passOn := false, poisoned := r.2 })
  let s := if p.last then s.closeTile f p else s
  let s := (s.startPass f).settleShare f
  s.parityErrors f g.id par

/-! ### Merge -/

/-- The next round in which a member receives, from round `t` on: the round and the sender (R150). Members with empty shares are skipped. -/
def nextMerge (g : Macro) (f : Nat) : Nat → Nat → Option (Nat × Nat)
  | 0, _ => none
  | n + 1, t =>
    let rk := (shareOf g f).rk
    if t ≥ g.sk ∨ rk.testBit t then none
    else
      let p := f + 2 ^ (g.sm + g.sn + t)
      if rk + 2 ^ t < 2 ^ g.sk ∧ !(shareOf g p).empty then some (t, p) else nextMerge g f n (t + 1)

def Region.nextMerge (g : Macro) (f : Nat) (r : Region) : Option (Nat × Nat) := Sys2Proof.Machine.nextMerge g f 8 r.round

/-- Add a partial of `n` accumulators at `base` from member `p` into member `f` (R150). -/
def State.addPartial (s : State) (f p base n : Nat) (seen : List Nat) : State × List Nat :=
  (List.range n).foldl (fun (st : State × List Nat) i =>
    let a := base + i
    let was := st.1.accPoison f a
    st.1.putAcc f a (st.1.acc f a + st.1.acc p a) (was || st.1.accPoison p a) (if was then a :: st.2 else st.2)) (s, seen)

/-- One merge round from member `p` into member `f` for the region `r` at the head of `f`'s list. -/
def State.mergeRound (s : State) (f p t : Nat) (x y : GaffExec) (r : Region) : State :=
  let st := s.addPartial f p r.base (r.rows * x.g.regionPitch) x.poisoned
  let s := st.1.setExec f (some { x with regions := { r with round := t + 1 } :: x.regions.drop 1, poisoned := st.2 })
  let s := s.setExec p (some { y with regions := y.regions.filter fun q => decide (q.visit ≠ r.visit) })
  ((s.startPass p).settleShare p)

/-! ### Readout -/

/-- The output tensor's descriptor of a readout. -/
def outDesc (s : State) (f : Nat) (m : Macro) : TDesc := readDesc s f (m.desc (if m.opc = 5 then 5 else 2))

/-- Strict mode of a DELAYED output (R105). -/
def State.strict (s : State) (f : Nat) (y : TDesc) : Bool := y.strict || s.bit (pgGaff f) F.GAFF_QNT_CTRL

/-- Window values of `n` accumulators (R71), with their side bits. -/
def State.windowVals (s : State) (f base n : Nat) (ebase : Int) : State × List (OutVal × Bool) :=
  let vs := (List.range n).map fun k => (window (s.acc f (base + k)), s.accPoison f (base + k))
  let k := (vs.filter fun v => v.1.2).length
  let s := if k = 0 then s else (s.bumpN (pgRime f) F.RIME_ACC_OVF_CNT k).raise (pgRime f) F.RIME_NUM_STAT_ACC_OVF
  (s, vs.map fun v => (.acc v.1.1 ebase, v.2))

/-- Elements of a CURRENT group that wait for the other half of their group. -/
def heldKey (row e : Nat) : Nat := row * 2 ^ 20 + e

/-- Write one row's run; a CURRENT group wider than a region waits until all its elements are there. -/
def State.emitRun (s : State) (c : WorkCtx) (f : Nat) (y : TDesc) (sat : Bool) (hist : Val) (strict : Bool) (reals : Nat) (acc : OutSum)
    (held : Tab (Int × Bool)) (ebase : Int) (r : OutRun) : State × OutSum × Tab (Int × Bool) :=
  let g := y.groupReals
  if y.qmode = 1 ∧ y.scaled ∧ r.vals.length < min g (reals - r.e0 / g * g) then
    let held := r.vals.zipIdx.foldl (fun (t : Tab (Int × Bool)) v =>
      match v.1.1 with
      | .acc a _ => Tab.ins (Tab.drop t (heldKey r.row (r.e0 + v.2))) (heldKey r.row (r.e0 + v.2)) (a, v.1.2)
      | .val _ => t) held
    let e0 := r.e0 / g * g
    let n := min g (reals - e0)
    let got := (List.range n).filterMap fun i => (held.find? fun e => decide (e.1 = heldKey r.row (e0 + i))).map (·.2)
    if got.length = n then
      let o := s.writeRun c f y sat hist false strict reals acc { r with e0 := e0, vals := got.map fun v => (.acc v.1 ebase, v.2) }
      (o.1, o.2, Tab.clear held (heldKey r.row e0) (heldKey r.row (e0 + n)))
    else (s, acc, held)
  else
    let o := s.writeRun c f y sat hist false strict reals acc r
    (o.1, o.2, held)

/-- Read out the region at the head of a member's list (R71 to R75, R123, R127). -/
def State.readoutRegion (s : State) (f : Nat) (x : GaffExec) (r : Region) : State :=
  let g := x.g
  let h := x.share f
  let m := macroOf x.word
  let y := outDesc s f m
  let c := s.ctxOf x
  let hist := ((s.runOf x).map (·.hist)).getD (.fin false 0 0)
  let j := ((g.visits h).getD r.visit (0, 0, 0)).2.2
  let uo := if g.transposed then g.u else 1
  let n := ext128 h.nn j * uo
  let e0 := 128 * j * uo
  let res := (List.range r.rows).foldl (fun (st : State × OutSum × Tab (Int × Bool)) v =>
    let w := st.1.windowVals f (r.base + v * g.regionPitch) n g.ebase
    w.1.emitRun c f y m.sat hist (s.strict f y) (h.nn * uo) st.2.1 st.2.2 g.ebase
      { row := r.row0 + v, e0 := e0, vals := w.2, tag := r.tags.getD v 0 }) (s, {}, x.held)
  let s := res.1.tally (pgRime f) F.RIME_READOUT_LO (r.rows * g.regionPitch)
  let s := s.updRun x fun q => { q with amax := q.amax.maxAbs res.2.1.amax, clamps := q.clamps + res.2.1.clamps,
                                        poisonIn := q.poisonIn || (r.tags.any Tag.poison) }
  let s := s.setExec f (some { x with regions := x.regions.drop 1, written := x.written + 1, held := res.2.2 })
  (s.startPass f).settleShare f

/-! ### The amax record -/

/-- Address of an amax record of a DELAYED output. -/
def histVals (s : State) (y : TDesc) : List Val :=
  let h := (s.rdByte (y.amaxAddr + 73)).toNat
  let h := if h = 0 then 1 else min h 16
  (List.range h).map fun i => decodeVal .fp32 noCb (s.rdLe (y.amaxAddr + 8 + 4 * i) 4)

/-- Maximum of the history (R103). -/
def histMax (s : State) (y : TDesc) : Val :=
  let vs := (histVals s y).filter fun v => !v.isNan
  vs.foldl (fun m v => if m.lt v then v else m) (.fin false 0 0)

/-- The record's update at completion (R104). -/
def State.amaxUpdate (s : State) (a : Nat) (amax : Val) (clamps : Nat) (poison : Bool) : State :=
  let h := (s.rdByte (a + 73)).toNat
  let h := if h = 0 then 1 else min h 16
  let head := (s.rdByte (a + 72)).toNat % h
  let code := fp32Ceil amax
  let s := s.wrLe (a + 8 + 4 * head) 4 code
  let s := s.wrLe (a + 72) 1 ((head + 1) % h)
  let s := s.wrLe (a + 76) 4 code
  let s := s.wrLe (a + 80) 4 (min (s.rdLe (a + 80) 4 + clamps) 0xFFFFFFFF)
  if poison then s.wrLe (a + 7) 1 ((s.rdByte (a + 7)).toNat ||| 0x80) else s

/-- The bound of R106 on the present amax, times 2⁸, as the smallest `Qmax × S_hist`. -/
def underBound (s : State) (f : Nat) (m : Macro) (y : TDesc) (reals : Nat) (hist : Val) : Val :=
  match Fmt.ofCode y.fmt, ScaleKind.ofCode y.kind with
  | some fm, some k =>
    let slices := if y.fmt = 7 ∨ y.fmt = 8 then ceilDiv reals 128 else 1
    let qs := (List.range slices).map fun i =>
      let cb := if y.fmt = 7 ∨ y.fmt = 8 then cbVals (s.codebook f (sliceSlot s f y i).1) else []
      let q := qmax fm cb
      q.mul (scaleVal k (selectScale k hist q))
    match qs with
    | [] => .fin false 0 0
    | q :: qs => qs.foldl (fun a b => if b.lt a then b else a) q
  | _, _ => let _ := m; .fin false 0 0

/-- What the wing settles when its last member completes (R104 to R106). -/
def State.settleAmax (s : State) (r : Run) : State :=
  let m := macroOf r.word
  match r.readers with
  | [] => s
  | f :: _ =>
    let y := outDesc s f m
    if y.qmode ≠ 2 ∨ m.deferRo ∨ !y.scaled then s
    else
      let s := s.amaxUpdate y.amaxAddr r.amax r.clamps r.poisonIn
      let s :=
        if r.clamps = 0 then s
        else
          let s := (s.bump (pgGaff f) F.GAFF_QNT_STALE_CNT).raise (pgGaff f) F.GAFF_QNT_STAT_SCALE_STALE
          if s.strict f y then s.fault (pgGaff f) F.GAFF_QNT_STAT_STALE_FAULT 1 0 m.id else s
      let reals := cbColumns m (shareOf m f) 2
      let b := underBound s f m y reals r.hist
      if (r.amax.mul (.fin false 256 0)).lt b then
        (s.bump (pgGaff f) F.GAFF_QNT_UNDER_CNT).raise (pgGaff f) F.GAFF_QNT_STAT_UNDERUSE
      else s

/-- A history whose maximum is 0 sets ZERO_RANGE at issue (R103). -/
def State.histZero (s : State) (f : Nat) (y : TDesc) (hist : Val) : State :=
  if y.qmode = 2 ∧ y.scaled ∧ hist.eqv (.fin false 0 0) then
    (s.bump (pgGaff f) F.GAFF_QNT_ZR_CNT).raise (pgGaff f) F.GAFF_QNT_STAT_ZERO_RANGE
  else s

end Sys2Proof.Machine
end

