-- ==== Sys2Proof/Machine/GaffOne.lean ====
section
/-! DEFINITION. The opcodes that do not walk tiles: GATHER (R160), QUANT and DEQUANT of a tensor (R100, R101), ATTN (R157, R158) and
ADAPT_STEP (R161 to R163). -/

namespace Sys2Proof.Machine

/-! ### GATHER -/

/-- Copy the lines of one row (R160); `none` writes a zero row tagged POISON. -/
def State.gatherRow (s : State) (c : WorkCtx) (f : Nat) (x y : TDesc) (row : Nat) (src : Option Nat) (idxPoison : Bool) (n : Nat) : State :=
  let bytes := ceilDiv (n * fmtBits x.fmt) 8
  (List.range (ceilDiv bytes 64)).foldl (fun s l =>
    let a := floeBase f + y.base + row * y.pitch + 64 * l
    match src with
    | none => s.commitLine c a (List.replicate 64 0) (newTag y.stream y.fmt y.digest true (s.tagAt a))
    | some k =>
      let b := floeBase f + x.base + k * x.pitch + 64 * l
      let bs := padLine ((s.rdBytes b 64).take (bytes - 64 * l))
      s.commitLine c a bs (newTag y.stream y.fmt y.digest (idxPoison || s.readsPoison c b 64) (s.tagAt b))) s

def State.gather (s : State) (c : WorkCtx) (f : Nat) (m : Macro) : State :=
  let h := shareOf m f
  let x := readDesc s f (m.desc 0)
  let ix := readDesc s f (m.desc 1)
  let y := readDesc s f (m.desc 2)
  (List.range h.mn).foldl (fun s i =>
    let a := floeBase f + ix.base + 4 * i
    let k := s.rdLe a 4
    if k ≥ m.dimK then
      let s := s.gatherRow c f x y i none false m.dimN
      (s.bump (pgGaff f) F.GAFF_OOB_CNT).raise (pgGaff f) F.GAFF_ERR_STAT_GATHER_OOB
    else s.gatherRow c f x y i (some k) (s.readsPoison c a 4) m.dimN) s

/-! ### QUANT and DEQUANT of a tensor -/

/-- Values of a row of an input, with the poison of its codebook slots (R88, R117). -/
def State.rowIn (s : State) (c : WorkCtx) (f : Nat) (d : TDesc) (row n : Nat) : List (OutVal × Bool) :=
  (s.rowVals c f d row 0 n).zipIdx.map fun v =>
    let cb := (d.fmt = 7 ∨ d.fmt = 8) && (let sl := sliceSlot s f d (v.2 / 128); sl.2 || ((s.floe f).cb sl.1).poison)
    (.val v.1.1, v.1.2 || cb)

/-- Convert a tensor row by row; what the rows give for the amax record. -/
def State.convert (s : State) (c : WorkCtx) (f : Nat) (m : Macro) (hist : Val) (dequant : Bool) : State × OutSum :=
  let h := shareOf m f
  let x := readDesc s f (m.desc 0)
  let y := readDesc s f (m.desc 2)
  let reals := m.dimN * (if x.cplx then 2 else 1)
  (List.range h.mn).foldl (fun (st : State × OutSum) i =>
    let s := st.1
    s.writeRun c f y m.sat hist dequant (s.strict f y) reals st.2
      { row := i, e0 := 0, vals := s.rowIn c f x i reals, tag := s.tagAt (rowAddr f x i 0) }) (s, {})

/-! ### ATTN -/

/-- FP32 rounding of an exact value. -/
def f32 (v : Val) : Val := decodeVal .fp32 noCb (writeVal .fp32 false v).bits

/-- The exponential of Brash in FP32 (R158, R178). -/
def f32Exp (v : Val) : Val := decodeVal .fp32 noCb (vexpWr .fp32 false (writeVal .fp32 false v).bits v).bits

def f32Recip (v : Val) : Val := decodeVal .fp32 noCb (vrcpWr .fp32 false v).bits

/-- The larger of two values, a NaN giving the other (R158). -/
def fmax (a b : Val) : Val := if a.isNan then b else if b.isNan then a else if a.lt b then b else a

/-- Softmax of one query row (R158): FP32 scores and masks in, BF16 codes out. -/
def softmaxRow (s : List Val) (mask : Nat → Bool) : List Nat :=
  let cols := s.zipIdx
  let any := cols.any fun x => !mask x.2
  let mx := cols.foldl (fun m x => if mask x.2 then m else fmax m x.1) (.inf true)
  let e := cols.map fun x => if mask x.2 then Val.fin false 0 0 else f32Exp (f32 (x.1.add mx.neg))
  let sum := e.foldl (fun a x => f32 (a.add x)) (.fin false 0 0)
  let r := if any then f32Recip sum else .fin false 0 0
  e.map fun x => (writeVal .bf16 false (x.mul r)).bits

/-- Geometry of a cache for one head: features down the rows of the stored tiles, entries across their columns (R108, R157). -/
structure CacheGeo where
  d : TDesc
  half : Nat
  feat : Nat
  cols : Nat
  head : Nat
deriving DecidableEq, Repr

def cacheGeo (d : TDesc) (feat cols head : Nat) : CacheGeo := { d := d, half := d.loc - 1, feat := feat, cols := cols, head := head }

/-- Tile index of (feature, column). -/
def CacheGeo.tile (g : CacheGeo) (r k : Nat) : Nat :=
  (g.head * ceilDiv g.cols 128 + k / 128) * ceilDiv g.feat 128 + r / 128

def CacheGeo.addr (g : CacheGeo) (f r k : Nat) : Nat :=
  tileAddr f g.half g.d.base (g.tile r k) (fmtBits g.d.fmt) (r % 128) (k % 128)

/-- Side-store slot and position of the scale of a feature group of a column (R591). -/
def CacheGeo.scale (g : CacheGeo) (r k : Nat) : Nat × Nat :=
  let gsz := groupSize g.d.group
  let j := k % 128 * (128 / gsz) + r % 128 / gsz
  (((g.d.base + g.tile r k * 2048 * fmtBits g.d.fmt) / 64 + j / 4) % 8192, j % 4)

/-- Operands of one cache column, with m = 8 (R64, R157). -/
def State.cacheOps (s : State) (c : WorkCtx) (f : Nat) (g : CacheGeo) (k : Nat) : List Op :=
  expandRow (groupSize g.d.group) 8 ((List.range g.feat).map fun r =>
    s.weightAt c f g.half g.d (g.tile r k) (k / 128) (r % 128) (k % 128))

/-- Put `w` bits of a code at a byte address (R55). -/
def State.putCode (s : State) (a w e v : Nat) : State :=
  if w = 4 then
    let old := (s.rdByte a).toNat
    s.wrByte a (BitVec.ofNat 8 (if e % 2 = 0 then old / 16 * 16 + v % 16 else v % 16 * 16 + old % 16))
  else s.wrLe a (w / 8) v

/-- Put a scale code in a slot of a half's side store (R591). -/
def State.putSide (s : State) (f half slot pos : Nat) (kind code : Nat) (poison : Bool) : State :=
  let x := s.sideSlot f half slot
  let w := if kind = 1 then 8 else 16
  let lo := w * pos
  let old := x.data.toNat
  let d := old - bits old (lo + w - 1) lo * 2 ^ lo + code % 2 ^ w * 2 ^ lo
  s.setSide f half slot { data := BitVec.ofNat 64 d, poison := x.poison || poison }

/-- Write one row of new features into a column of a cache, quantised in CURRENT mode, with the row's tag (R108, R157). -/
def State.cacheColumn (s : State) (f : Nat) (g : CacheGeo) (sat : Bool) (k : Nat) (row : List (Val × Bool)) (t : Tag) : State :=
  let gsz := groupSize g.d.group
  let w := fmtBits g.d.fmt
  match Fmt.ofCode g.d.fmt, ScaleKind.ofCode g.d.kind with
  | some fm, some kd =>
    let s := (chunk gsz row.length row).zipIdx.foldl (fun (s : State) q =>
      let amax := (q.1.filter fun v => v.1.isFinite).foldl (fun m v => m.maxAbs v.1) (.fin false 0 0)
      let code := selectScale kd amax (qmax fm [])
      let p := g.scale (q.2 * gsz) k
      let s := if g.d.kind = 0 then s else s.putSide f g.half p.1 p.2 g.d.kind code (q.1.any (·.2))
      q.1.zipIdx.foldl (fun s v =>
        let r := q.2 * gsz + v.2
        s.putCode (g.addr f r k) w k (quantElem fm [] false sat v.1.1 (scaleVal kd code)).bits) s) s
    let pois := row.any (·.2)
    (List.range g.feat).foldl (fun s r => s.setTag (g.addr f r k) (Tag.addPoison t pois)) s
  | _, _ => s

/-- Replace a ring entry of both caches, and write the append out (R108, R157). -/
def State.attnAppend (s : State) (c : WorkCtx) (f : Nat) (m : Macro) (head : Nat) : State :=
  let le := m.aux0
  let kn := readDesc s f (m.desc 3)
  let vn := readDesc s f (m.desc 4)
  let o := { readDesc s f (m.desc 6) with qmode := 1 }
  (List.range le).foldl (fun s q =>
    let row := head * le + q
    let kt := s.tagAt (rowAddr f kn row 0)
    let vt := s.tagAt (rowAddr f vn row 0)
    let col := Tag.slot kt % 32 * le + q
    let kv := s.rowVals c f kn row 0 m.dimK
    let vv := s.rowVals c f vn row 0 m.dimN
    let s := s.cacheColumn f (cacheGeo (readDesc s f (m.desc 1)) m.dimK (32 * le) head) m.sat col kv kt
    let s := s.cacheColumn f (cacheGeo (readDesc s f (m.desc 2)) m.dimN (32 * le) head) m.sat col vv vt
    let s := (s.writeRun c f o m.sat (.fin false 0 0) false false m.dimK {}
      { row := 2 * head * le + q, e0 := 0, vals := kv.map fun v => (.val v.1, v.2), tag := kt }).1
    (s.writeRun c f o m.sat (.fin false 0 0) false false m.dimN {}
      { row := 2 * head * le + le + q, e0 := 0, vals := vv.map fun v => (.val v.1, v.2), tag := vt }).1) s

/-- Masked entries of a head: absent or poisoned (R109, R158). -/
def attnMask (s : State) (c : WorkCtx) (f : Nat) (m : Macro) (head : Nat) : List Bool :=
  let le := m.aux0
  let kg := cacheGeo (readDesc s f (m.desc 1)) m.dimK (32 * le) head
  let vg := cacheGeo (readDesc s f (m.desc 2)) m.dimN (32 * le) head
  let now := Tag.slot (s.tagAt (rowAddr f (readDesc s f (m.desc 3)) (head * le) 0))
  (List.range 32).map fun e =>
    let ka := kg.addr f 0 (e * le)
    let va := vg.addr f 0 (e * le)
    decide (slotDiff now (Tag.slot (s.tagAt ka)) ≥ 32) || s.readsPoison c ka 1 || s.readsPoison c va 1

/-- Sum of the products of two operand lists, entered at an exponent base. -/
def dotOps (ebase : Int) (ws as : List Op) : Sum := sumProducts ebase {} ((ws.zip as).map fun x => (x.1, x.2, false))

/-- The statuses of sums that are read out at once (R68, R71, R124): the state and the values with their side bits. -/
def State.readSums (s : State) (f : Nat) (ebase : Int) (rs : List Sum) : State × List (OutVal × Bool) :=
  let ov := (rs.filter fun r => (window r.v).2).length
  let s := rs.foldl (fun s r => s.reportSum f r) s
  let s := if ov = 0 then s else (s.bumpN (pgRime f) F.RIME_ACC_OVF_CNT ov).raise (pgRime f) F.RIME_NUM_STAT_ACC_OVF
  let pn := (rs.filter fun r => r.poison).length
  let s := if pn = 0 then s else (s.bumpN (pgRime f) F.RIME_POISON_CNT pn).raise (pgRime f) F.RIME_ERR_STAT_POISON_IN
  let s := s.tally (pgRime f) F.RIME_READOUT_LO rs.length
  (s, rs.map fun r => (.acc (window r.v).1 ebase, r.poison))

/-- One head of ATTN (R157, R158). -/
def State.attnHead (s : State) (c : WorkCtx) (f : Nat) (m : Macro) (hist : Val) (head : Nat) (acc : OutSum) : State × OutSum :=
  let le := m.aux0
  let l := 32 * le
  let q := readDesc s f (m.desc 0)
  let y := readDesc s f (m.desc 5)
  let pd := { readDesc s f (m.desc 7) with fmt := 0, kind := 0 }
  let s := s.attnAppend c f m head
  let mask := attnMask s c f m head
  let masked (k : Nat) : Bool := mask.getD (k / max 1 le) false
  let s := s.bumpN (pgGaff f) F.GAFF_MASK_CNT (mask.filter id).length
  let kg := cacheGeo (readDesc s f (m.desc 1)) m.dimK l head
  let vg := cacheGeo (readDesc s f (m.desc 2)) m.dimN l head
  let kOps := (List.range l).map fun k => s.cacheOps c f kg k
  let vOps := (List.range l).map fun k => s.cacheOps c f vg k
  let e2 := sInt 10 m.aux1
  let s := if mask.all id then s.raise (pgGaff f) F.GAFF_ERR_STAT_ATTN_EMPTY else s
  (List.range m.dimM).foldl (fun (st : State × OutSum) v =>
    let s := st.1
    let row := head * m.dimM + v
    let t := s.tagAt (rowAddr f q row 0)
    let a := s.rowOps c f q m.aW row 0 m.dimK m.dimK
    let sums := kOps.zipIdx.map fun k =>
      let r := dotOps m.ebase k.1 a
      if masked k.2 then { r with poison := (a.any (·.poison)) } else r
    let r := s.readSums f m.ebase sums
    let w := r.1.writeRun c f pd m.sat hist false false l {} { row := row, e0 := 0, vals := r.2, tag := t }
    let s := w.1
    let scores := (List.range l).map fun k => s.elemVal f pd row k
    let p := (softmaxRow scores masked).map fun code => (decodeVal .bf16 noCb code, sums.any fun x => x.poison)
    let pOps := expandRow (groupSize pd.group) m.aW p
    let ys := (List.range m.dimN).map fun k =>
      let ps := (vOps.zipIdx.filter fun o => !masked o.2).map fun o => (o.1.getD k {}, pOps.getD o.2 {}, false)
      sumProducts e2 {} ps
    let r := s.readSums f e2 ys
    r.1.writeRun c f y m.sat hist false (r.1.strict f y) m.dimN st.2 { row := row, e0 := 0, vals := r.2, tag := t }) (s, acc)

def State.attn (s : State) (c : WorkCtx) (f : Nat) (m : Macro) (hist : Val) : State × OutSum :=
  (List.range (shareOf m f).bn).foldl (fun (st : State × OutSum) b => st.1.attnHead c f m hist b st.2) (s, {})

/-! ### ADAPT_STEP -/

/-- The optimiser record (R162). -/
structure OptRec where
  eta : Val
  beta : Val
  lambda : Val
  ebH : Int
  ebU : Int
  ebGA : Int
  ebGB : Int
deriving DecidableEq, Repr

def readOpt (s : State) (a : Nat) : OptRec :=
  let v (o : Nat) := decodeVal .fp32 noCb (s.rdLe (a + o) 4)
  let e (o : Nat) := sInt 10 (s.rdLe (a + o) 2)
  { eta := v 0, beta := v 4, lambda := v 8, ebH := e 12, ebU := e 14, ebGA := e 16, ebGB := e 18 }

/-- The two planes of a weight-side operand in split mode (R121, R161). -/
def bothPlanes (g : Nat) (vs : List (Val × Bool)) : List (List Op) := [expandPlane g 8 0 vs, expandPlane g 8 1 vs]

/-- Sum over both planes of one reduction. -/
def splitDot (ebase : Int) (init : Sum) (planes : List (List Op)) (a : List Op) : Sum :=
  planes.foldl (fun r p => sumProducts ebase r ((p.zip a).map fun x => (x.1, x.2, false))) init

/-- A product read out in FP32 with SAT = 1 (R161). -/
def sumF32 (ebase : Int) (r : Sum) : Val := decodeVal .fp32 noCb (writeVal .fp32 true (Val.ofInt (window r.v).1 ebase)).bits

/-- Rows `n` of real length `k` of a tensor as values. -/
def State.matVals (s : State) (c : WorkCtx) (f : Nat) (d : TDesc) (n k : Nat) : List (List (Val × Bool)) :=
  (List.range n).map fun i => s.rowVals c f d i 0 k

def column (m : List (List (Val × Bool))) (k : Nat) : List (Val × Bool) := m.map fun r => r.getD k (.fin false 0 0, false)

/-- What one member of the wing gives to ADAPT_STEP: the operands of its samples and its local products H and U (R161). -/
structure AdaptPart where
  xs : List (List (Val × Bool))
  dys : List (List (Val × Bool))
  hs : List (List Val)
  us : List (List Val)
  poison : Bool
  sums : List Sum
deriving DecidableEq, Repr

def State.adaptPart (s : State) (c : WorkCtx) (f : Nat) (m : Macro) (o : OptRec) : AdaptPart :=
  let h := shareOf m f
  let r := m.aux0
  let xd := readDesc s f (m.desc 0)
  let yd := readDesc s f (m.desc 1)
  let ad := readDesc s f (m.desc 2)
  let bd := readDesc s f (m.desc 3)
  let xs := s.matVals c f xd h.mn m.dimK
  let dys := s.matVals c f yd h.mn m.dimN
  let as := s.matVals c f ad r m.dimK
  let bs := s.matVals c f bd m.dimN r
  let aP := as.map (bothPlanes (groupSize ad.group))
  let bP := bs.map (bothPlanes (groupSize bd.group))
  let hSums := xs.map fun x => aP.map fun p => splitDot o.ebH {} p (expandRow xd.groupReals m.aW x)
  let uSums := dys.map fun y =>
    let a := expandRow yd.groupReals m.aW y
    (List.range r).map fun j => (List.range 2).foldl (fun t pl =>
      sumProducts o.ebU t (bP.zipIdx.map fun q => (((q.1.getD pl []).getD j {}), a.getD q.2 {}, false))) {}
  { xs := xs, dys := dys, hs := hSums.map fun w => w.map (sumF32 o.ebH), us := uSums.map fun w => w.map (sumF32 o.ebU),
    poison := (xs ++ dys ++ as ++ bs).any fun w => w.any (·.2), sums := hSums.flatten ++ uSums.flatten }

/-- Gradient sums of one member, added to those before (R150, R161): `vecs` rows by `r` columns. -/
def adaptGrad (ebase : Int) (aw g1 g2 : Nat) (acts : List (List (Val × Bool))) (wgt : List (List Val)) (vecs r : Nat)
    (init : List (List Sum)) : List (List Sum) :=
  let planes := (List.range r).map fun j => bothPlanes g2 (wgt.map fun w => (w.getD j (.fin false 0 0), false))
  (List.range vecs).map fun n =>
    let a := expandRow g1 aw (column acts n)
    planes.zipIdx.map fun p => splitDot ebase ((init.getD n []).getD p.2 {}) p.1 a

/-- Fused multiply-add in FP32 (R57, R162). -/
def fma32 (sat : Bool) (a b c : Val) : Val := decodeVal .fp32 noCb (writeVal .fp32 sat ((a.mul b).add c)).bits

/-- Update one parameter (R162). -/
def State.adaptParam (s : State) (sat : Bool) (o : OptRec) (theta vel : Nat) (g : Val) : State :=
  let t := decodeVal .fp32 noCb (s.rdLe theta 4)
  let v := fma32 sat o.beta (decodeVal .fp32 noCb (s.rdLe vel 4)) g
  let d := fma32 sat o.lambda t v
  let t' := fma32 sat o.eta.neg d t
  (s.wrLe theta 4 (writeVal .fp32 sat t').bits).wrLe vel 4 (writeVal .fp32 sat v).bits

/-- Quantise a master into its staging copy in CURRENT mode (R162). -/
def State.adaptStage (s : State) (c : WorkCtx) (f : Nat) (sat : Bool) (x y : TDesc) (rows n : Nat) : State :=
  (List.range rows).foldl (fun s i =>
    (s.writeRun c f { y with qmode := 1 } sat (.fin false 0 0) false false n {}
      { row := i, e0 := 0, vals := (s.rowVals c f x i 0 n).map fun v => (.val v.1, v.2), tag := s.tagAt (rowAddr f x i 0) }).1) s

/-- ADAPT_STEP over the members of a wing whose shares are not empty; `f` is the lowest (R161 to R163). -/
def State.adapt (s : State) (c : WorkCtx) (f : Nat) (members : List Nat) (m : Macro) : State :=
  let r := m.aux0
  let oa := floeBase f + m.desc 5 % 2 ^ 22 / 64 * 64
  let o := readOpt s oa
  let parts := members.map fun k => (k, s.adaptPart c k m o)
  let yd := readDesc s f (m.desc 1)
  let xd := readDesc s f (m.desc 0)
  let ad := readDesc s f (m.desc 2)
  let bd := readDesc s f (m.desc 3)
  let mo := readDesc s f (m.desc 4)
  let gB := parts.foldl (fun t p => adaptGrad o.ebGB m.aW (groupSize yd.group) (groupSize ad.group) p.2.dys p.2.hs m.dimN r t) []
  let gA := parts.foldl (fun t p => adaptGrad o.ebGA m.aW (groupSize xd.group) (groupSize bd.group) p.2.xs p.2.us m.dimK r t) []
  let s := parts.foldl (fun s p => (s.readSums p.1 o.ebH p.2.sums).1) s
  let s := (s.readSums f o.ebGB gB.flatten).1
  let s := (s.readSums f o.ebGA gA.flatten).1
  let bad := parts.any (fun p => p.2.poison) || gA.any (fun w => w.any (·.poison)) || gB.any (fun w => w.any (·.poison)) ||
    s.readsPoison c oa 64 || s.readsPoison c (floeBase f + mo.base) (4 * r * (m.dimK + m.dimN))
  if bad then
    let s := s.wrLe (oa + 24) 4 (min (s.rdLe (oa + 24) 4 + 1) 0xFFFFFFFF)
    (s.bump (pgGaff f) F.GAFF_SKIP_CNT).raise (pgGaff f) F.GAFF_ERR_STAT_ADAPT_SKIPPED
  else
    let vel := floeBase f + mo.base
    let s := (List.range r).foldl (fun s j => (List.range m.dimK).foldl (fun s k =>
      s.adaptParam m.sat o (rowAddr f ad j k) (vel + 4 * (j * m.dimK + k)) (sumF32 o.ebGA ((gA.getD k []).getD j {}))) s) s
    let s := (List.range m.dimN).foldl (fun s n => (List.range r).foldl (fun s j =>
      s.adaptParam m.sat o (rowAddr f bd n j) (vel + 4 * (r * m.dimK + n * r + j)) (sumF32 o.ebGB ((gB.getD n []).getD j {}))) s) s
    let s := s.adaptStage c f m.sat ad (readDesc s f (m.desc 6)) r m.dimK
    let s := s.adaptStage c f m.sat bd (readDesc s f (m.desc 7)) m.dimN r
    s.wrLe (oa + 20) 4 (min (s.rdLe (oa + 20) 4 + 1) 0xFFFFFFFF)

end Sys2Proof.Machine
end

