-- ==== Sys2Proof/Machine/Gaff.lean ====
section
/-! DEFINITION. The Gaff's commands: issue, checks and refusal (R135 to R147), the steps of a share (R148 to R152), completion and overrun
(R136, R156), and codebook loads that wait (R89). -/

namespace Sys2Proof.Machine

/-! ### Checks, refusal and start -/

/-- A refused member (R142, R144). -/
def State.refuseMember (s : State) (f : Nat) (id : Nat) (v : Verdict) : State :=
  let g := pgGaff f
  let s := (s.bump g F.GAFF_FAULT_CNT).wf g F.GAFF_FAULT_ID id
  let s := s.wf g F.GAFF_SHAPE_CAUSE v.cause
  let s := if v.wcEx then s.wf g F.GAFF_WC_CYC v.wc else s
  let s := if v.opcIll then s.raise g F.GAFF_ERR_STAT_OPC_ILLEGAL else s
  let s := if v.wingBad then s.raise g F.GAFF_ERR_STAT_WING_BAD else s
  let s := if v.fmtIll then s.raise g F.GAFF_QNT_STAT_FMT_ILLEGAL else s
  let s := if v.cbMissing then s.raise g F.GAFF_QNT_STAT_CB_MISSING else s
  let s := if v.cause ≠ 0 then s.raise g F.GAFF_ERR_STAT_SHAPE_EXCEEDS else s
  let s := if v.wcEx then s.raise g F.GAFF_ERR_STAT_WC_EXCEEDS else s
  let s := if v.fails then s else s.raise g F.GAFF_ERR_STAT_PEER_FAULT
  s.setExec f none

/-- Every member refuses; the member at LEAD raises the record (R144). -/
def State.refuseRun (s : State) (r : Nat) (q : Run) (vs : List (Nat × Nat × Verdict)) : State :=
  let s := vs.foldl (fun s x => s.refuseMember x.1 x.2.1 x.2.2) s
  let s :=
    match vs.find? fun x => x.2.2.fails, vs.head? with
    | some x, some l => s.post (pgGaff l.1) x.2.2.flag 5 0 l.2.1 (some x.2.2.cause)
    | _, _ => s
  (s.workRefused q.ctx).setRun r none

/-- A deferred region that another macro-instruction replaces is lost (R152). -/
def State.dropDeferred (s : State) (f : Nat) : State :=
  let fl := s.floe f
  if fl.deferred.isSome then (s.setFloe f { fl with deferred := none }).raise (pgGaff f) F.GAFF_ERR_STAT_DEFER_LOST else s

/-- A member begins its share: what happens at once depends on the opcode. -/
def State.beginShare (s : State) (f : Nat) (x : GaffExec) (v : Verdict) (c : WorkCtx) (hist : Val) : State :=
  let m := macroOf x.word
  let s := s.wf (pgGaff f) F.GAFF_WC_CYC v.wc
  if v.idle then
    let s := if m.zeroDim || m.fromRegion then s else s.dropDeferred f
    let fl := s.floe f
    let d := if m.fromRegion then none else if !m.zeroDim && m.tiled && m.deferRo then some { word := x.word, region := none } else fl.deferred
    s.setFloe f { fl with exec := some { x with phase := .zero }, deferred := d }
  else if m.fromRegion then
    let fl := s.floe f
    match fl.deferred with
    | some { word := w, region := some r } =>
      let y := { x with geo := w, phase := .work, regions := [r] }
      s.setFloe f { fl with exec := some { y with pass := y.total f }, deferred := none }
    | _ => s.setExec f (some { x with phase := .zero })
  else
    let s := s.dropDeferred f
    if m.tiled then s.setExec f (some { x with phase := .work })
    else if m.opc = 5 ∨ m.opc = 11 then
      let s := if (s.floe f).core.phase = .idle then s else s.raise (pgCore f) F.FLOE_ERR_STAT_BRASH_WAIT
      s.setExec f (some { x with phase := .brash })
    else
      let r : State × OutSum := if m.opc = 7 then (s.gather c f m, {}) else s.convert c f m hist (decide (m.opc = 10))
      let y := { x with phase := .done, written := 1 }
      (r.1.setExec f (some y)).updRun x fun q => { q with amax := q.amax.maxAbs r.2.amax, clamps := q.clamps + r.2.clamps }

/-- Members that perform a readout: rk = 0 and a share that is not empty (R105, R150). -/
def readersOf (ms : List (Nat × Macro × Verdict)) : List Nat :=
  (ms.filter fun x => !x.2.2.idle && decide ((shareOf x.2.1 x.1).rk = 0)).map (·.1)

/-- All members have the word: the checks, and the start or the refusal (R142, R144). -/
def State.checkRun (s : State) (r : Nat) (q : Run) : State :=
  let xs := q.members.filterMap fun f => ((s.floe f).exec).map fun x => (f, x)
  let vs := xs.map fun x => (x.1, x.2, checkShare s (macroOf x.2.word) x.1 x.2.badWord)
  if vs.any fun v => v.2.2.fails then
    s.refuseRun r q (vs.map fun v => (v.1, (macroOf v.2.1.word).id, v.2.2))
  else
    let readers := readersOf (vs.map fun v => (v.1, macroOf v.2.1.word, v.2.2))
    let m := macroOf q.word
    let hist := match readers.head? with
      | some f => if (outDesc s f m).qmode = 2 then histMax s (outDesc s f m) else .fin false 0 0
      | none => .fin false 0 0
    let s := s.setRun r (some { q with readers := readers, hist := hist })
    let s := if m.deferRo then s else readers.foldl (fun s f => s.histZero f (outDesc s f m) hist) s
    vs.foldl (fun s v => s.beginShare v.1 v.2.1 v.2.2 q.ctx hist) s

/-- A member takes a word out of the latch or straight from the issue; when it is the last one, the checks follow. -/
def State.startMember (s : State) (f r : Nat) (word : BitVec 512) (bad : Bool) : State :=
  let s := s.setExec f (some { run := some r, word := word, badWord := bad, geo := word, phase := .peers })
  match s.run r with
  | none => s
  | some q =>
    let q := { q with started := q.started ++ [f] }
    let s := s.setRun r (some q)
    if q.members.all fun k => q.started.contains k then s.checkRun r q else s

/-- Deliver a macro-instruction to members that each hold a word (R135, R136, R476). -/
def State.deliverMacro (s : State) (sw : Bool) (c : WorkCtx) (ws : List (Nat × BitVec 512 × Bool)) : State :=
  match ws with
  | [] => s
  | w0 :: _ =>
    let id := (macroOf w0.2.1).id
    let off := ws.filter fun w => !s.works (pgGaff w.1)
    let full := ws.filter fun w => s.works (pgGaff w.1) && (s.floe w.1).exec.isSome && (s.floe w.1).glatch.isSome
    if off.isEmpty && full.isEmpty then
      let r := s.nextRun
      let ms := ws.map (·.1)
      let s := { s with nextRun := r + 1 }
      let s := s.setRun r (some { word := w0.2.1, sw := sw, ctx := c, members := ms, started := [], left := ms })
      ws.foldl (fun s w =>
        if (s.floe w.1).exec.isSome then s.setFloe w.1 { s.floe w.1 with glatch := some { run := some r, word := w.2.1, badWord := w.2.2 } }
        else s.startMember w.1 r w.2.1 w.2.2) s
    else
      let s := off.foldl (fun s w => s.discardWork (pgGaff w.1) id) s
      let s := full.foldl (fun s w => s.fault (pgGaff w.1) F.GAFF_ERR_STAT_ISSUE_OVERRUN 4 0 id) s
      let rest := ws.filter fun w => s.works (pgGaff w.1) && !((s.floe w.1).exec.isSome && (s.floe w.1).glatch.isSome)
      let s := rest.foldl (fun s w =>
        ((s.bump (pgGaff w.1) F.GAFF_FAULT_CNT).wf (pgGaff w.1) F.GAFF_FAULT_ID id).raise (pgGaff w.1) F.GAFF_ERR_STAT_PEER_FAULT) s
      s.workRefused c

/-- The Masthead's delivery: the word reaches every member of its wing, or the receiving floe alone when it is no member of a wing (R136,
R146). -/
def State.issueMacro (s : State) (c : WorkCtx) (rx : Nat) (word : BitVec 512) : State :=
  let m := macroOf word
  let ms := if m.wingOk && m.members.contains rx then m.members else [rx]
  s.deliverMacro false c (ms.map fun f => (f, word, false))

def execMmul (rx : Fin 64) (w : BitVec 512) (s : State) : Host.Outcome State Fault Refusal := .next (s.issueMacro {} rx (withOpc w 1))
def execCmmul (rx : Fin 64) (w : BitVec 512) (s : State) : Host.Outcome State Fault Refusal := .next (s.issueMacro {} rx (withOpc w 2))
def execBmmul (rx : Fin 64) (w : BitVec 512) (s : State) : Host.Outcome State Fault Refusal := .next (s.issueMacro {} rx (withOpc w 3))
def execTmmul (rx : Fin 64) (w : BitVec 512) (s : State) : Host.Outcome State Fault Refusal := .next (s.issueMacro {} rx (withOpc w 4))
def execAttn (rx : Fin 64) (w : BitVec 512) (s : State) : Host.Outcome State Fault Refusal := .next (s.issueMacro {} rx (withOpc w 5))
def execConv1d (rx : Fin 64) (w : BitVec 512) (s : State) : Host.Outcome State Fault Refusal := .next (s.issueMacro {} rx (withOpc w 6))
def execGather (rx : Fin 64) (w : BitVec 512) (s : State) : Host.Outcome State Fault Refusal := .next (s.issueMacro {} rx (withOpc w 7))
def execCombine (rx : Fin 64) (w : BitVec 512) (s : State) : Host.Outcome State Fault Refusal := .next (s.issueMacro {} rx (withOpc w 8))
def execQuant (rx : Fin 64) (w : BitVec 512) (s : State) : Host.Outcome State Fault Refusal := .next (s.issueMacro {} rx (withOpc w 9))
def execDequant (rx : Fin 64) (w : BitVec 512) (s : State) : Host.Outcome State Fault Refusal := .next (s.issueMacro {} rx (withOpc w 10))
def execAdaptStep (rx : Fin 64) (w : BitVec 512) (s : State) : Host.Outcome State Fault Refusal := .next (s.issueMacro {} rx (withOpc w 11))

/-! ### Software issue (R136, R137) -/

/-- Members of a software wing that have signalled: same LEAD and WING. -/
def State.signalled (s : State) (m : Macro) : List (Nat × GaffExec) :=
  m.members.filterMap fun f =>
    match (s.floe f).exec with
    | some x => if x.phase = .signal ∧ (macroOf x.word).lead = m.lead ∧ (macroOf x.word).wing = m.wing then some (f, x) else none
    | none => none

/-- A software issue starts at a member: it runs alone, or it signals and waits for its wing (R137). -/
def State.softStart (s : State) (f : Nat) (word : BitVec 512) (bad : Bool) : State :=
  let m := macroOf word
  if bad || m.wing = 0 || !m.wingOk || !m.members.contains f then s.deliverMacro true {} [(f, word, bad)]
  else
    let s := s.setExec f (some { run := none, word := word, badWord := bad, geo := word, phase := .signal })
    let ws := s.signalled m
    if ws.length = m.members.length then
      let s := ws.foldl (fun s w => s.setExec w.1 none) s
      s.deliverMacro true {} (ws.map fun w => (w.1, w.2.word, w.2.badWord))
    else s

/-- GO in GAFF_ISSUE (R136). -/
def State.gaffGo (s : State) (f off : Nat) : State :=
  if (s.floePart f).isSome then s.raise (pgGaff f) F.GAFF_ERR_STAT_ISSUE_DENIED
  else
    let a := floeBase f + off / 64 * 64
    let word := BitVec.ofNat 512 (s.rdLe a 64)
    let bad := s.poisonAt a
    let fl := s.floe f
    if !s.works (pgGaff f) then s.discardWork (pgGaff f) (macroOf word).id
    else if fl.exec.isSome then
      if fl.glatch.isSome then s.fault (pgGaff f) F.GAFF_ERR_STAT_ISSUE_OVERRUN 4 0 (macroOf word).id
      else s.setFloe f { fl with glatch := some { run := none, word := word, badWord := bad } }
    else s.softStart f word bad

/-- A write of GAFF_ISSUE (R136, R165). -/
def State.wrGaffIssue (s : State) (f : Nat) (v : Word) : State :=
  if F.GAFF_ISSUE_GO.of v = 1 then s.gaffGo f (F.GAFF_ISSUE_OFFSET.of v) else s

def execGaffIssue (a : Agent) (f : Fin 64) (v : Word) (s : State) : Host.Outcome State Fault Refusal :=
  .next (s.onReady a (pgGaff f) 0x040 fun s => s.wrGaffIssue f v)

/-- The latched word starts once no macro-instruction executes (R135). -/
def State.latchedStart (s : State) (f : Nat) : State :=
  let fl := s.floe f
  match fl.exec, fl.glatch with
  | none, some l =>
    if !s.enabled (pgGaff f) then s
    else
      let s := s.setFloe f { fl with glatch := none }
      match l.run with
      | some r => s.startMember f r l.word l.badWord
      | none => s.softStart f l.word l.badWord
  | _, _ => s

def execLatchedMacroStart (f : Fin 64) (s : State) : Host.Outcome State Fault Refusal := .next (s.latchedStart f)

/-- A wing whose members have not all signalled in time refuses (R137). -/
def State.signalTimeout (s : State) (f : Nat) : State :=
  match (s.floe f).exec with
  | some x =>
    if x.phase = .signal then
      let ws := s.signalled (macroOf x.word)
      let s := ws.foldl (fun s w =>
        let g := pgGaff w.1
        let s := ((s.bump g F.GAFF_FAULT_CNT).wf g F.GAFF_FAULT_ID (macroOf w.2.word).id).raise g F.GAFF_ERR_STAT_WING_BAD
        (s.wf g F.GAFF_SHAPE_CAUSE 0).setExec w.1 none) s
      match ws.head? with
      | some w => s.post (pgGaff w.1) F.GAFF_ERR_STAT_WING_BAD 5 0 (macroOf w.2.word).id (some 0)
      | none => s
    else s
  | none => s

def execWingSignalTimeout (f : Fin 64) (s : State) : Host.Outcome State Fault Refusal := .next (s.signalTimeout f)

/-! ### Completion -/

/-- A member reports completion; the last one settles the wing (R104 to R106, R136). -/
def State.memberDone (s : State) (f : Nat) (x : GaffExec) : State :=
  let fl := s.floe f
  let s := s.setFloe f { fl with exec := none, core := { fl.core with gaffHolds := false } }
  match x.run with
  | none => s
  | some r =>
    match s.run r with
    | none => s
    | some q =>
      let q := { q with left := q.left.filter (· ≠ f) }
      if q.left.isEmpty then ((s.settleAmax q).workDone q.ctx).setRun r none else s.setRun r (some q)

/-- A zero dimension or an empty share completes (R145, R147). -/
def State.zeroDone (s : State) (f : Nat) : State :=
  match (s.floe f).exec with
  | some x =>
    if x.phase = .zero then
      let g := pgGaff f
      let s := s.bump g F.GAFF_DONE_CNT
      let s := if (macroOf x.word).zeroDim then s.bump g F.GAFF_ZERO_CNT else s
      (s.tally g F.GAFF_BUSY_CYC_LO 4).memberDone f x
    else s
  | none => s

def execZeroDimComplete (f : Fin 64) (s : State) : Host.Outcome State Fault Refusal := .next (s.zeroDone f)

/-- A tile load completes, and the pass starts where it may (R115). The code is applied to the lines of the half (R241). -/
def State.tileLoaded (s : State) (f : Nat) (found : List (BitVec 24 × Ecc)) : State :=
  match (s.floe f).exec with
  | some x =>
    match x.loading f with
    | some idx =>
      let s := s.codesMet f Place.isHalf found
      if (s.floe f).exec = some x then (s.loadShadow f x idx).startPass f else s
    | none => s
  | none => s

def execTileLoadComplete (f : Fin 64) (found : List (BitVec 24 × Ecc)) (s : State) : Host.Outcome State Fault Refusal :=
  .next (s.tileLoaded f found)

/-- A pass ends (R126); it has read activations, and accumulators that it adds into (R242). -/
def State.passEnded (s : State) (f : Nat) (par : List ParErr) (found : List (BitVec 24 × Ecc)) : State :=
  match (s.floe f).exec with
  | some x =>
    if x.phase = .work ∧ x.passOn then
      let s := s.codesMet f (fun p => p.isSp || p.isAccs) found
      if (s.floe f).exec = some x then s.endPass f x par else s
    else s
  | none => s

def execPassEnd (f : Fin 64) (par : List ParErr) (found : List (BitVec 24 × Ecc)) (s : State) : Host.Outcome State Fault Refusal :=
  .next (s.passEnded f par found)

/-- A readout completes on a member with rk = 0 whose merges are done (R127, R150). -/
def State.readoutDone (s : State) (f : Nat) (found : List (BitVec 24 × Ecc)) : State :=
  match (s.floe f).exec with
  | some x =>
    match x.regions with
    | r :: _ => if x.phase = .work ∧ (x.share f).rk = 0 ∧ (r.nextMerge x.g f).isNone then
        let s := s.codesMet f Place.isAccs found
        if (s.floe f).exec = some x then s.readoutRegion f x r else s
      else s
    | [] => s
  | none => s

def execReadoutComplete (f : Fin 64) (found : List (BitVec 24 × Ecc)) (s : State) : Host.Outcome State Fault Refusal :=
  .next (s.readoutDone f found)

/-- A merge round completes into member `f` (R150). `found` is met in `f`'s accumulators, `sent` in the sender's (R242). -/
def State.mergeDone (s : State) (f : Nat) (found sent : List (BitVec 24 × Ecc)) : State :=
  match (s.floe f).exec with
  | some x =>
    match x.regions with
    | r :: _ =>
      match r.nextMerge x.g f with
      | some (t, p) =>
        match (s.floe p).exec with
        | some y =>
          match y.regions.find? fun q => decide (q.visit = r.visit) with
          | some q => if x.phase = .work ∧ y.phase = .work ∧ y.run = x.run ∧ (q.nextMerge y.g p).isNone then
              let s := (s.codesMet f Place.isAccs found).codesMet p Place.isAccs sent
              if (s.floe f).exec = some x ∧ (s.floe p).exec = some y then s.mergeRound f p t x y r else s
            else s
          | none => s
        | none => s
      | none => s
    | [] => s
  | none => s

def execMergeRoundComplete (f : Fin 64) (found sent : List (BitVec 24 × Ecc)) (s : State) : Host.Outcome State Fault Refusal :=
  .next (s.mergeDone f found sent)

/-- A share completes after the cycles given (R136). -/
def State.shareDone (s : State) (f cycles : Nat) : State :=
  match (s.floe f).exec with
  | some x =>
    if x.phase = .done then
      ((s.bump (pgGaff f) F.GAFF_DONE_CNT).tally (pgGaff f) F.GAFF_BUSY_CYC_LO cycles).memberDone f x
    else s
  | none => s

def execShareComplete (f : Fin 64) (cycles : BitVec 32) (s : State) : Host.Outcome State Fault Refusal := .next (s.shareDone f cycles.toNat)

/-! ### Overrun (R156) -/

/-- Lines of a run of an output row take POISON. -/
def State.poisonRun (s : State) (f : Nat) (y : TDesc) (src : Tag) (row e0 n : Nat) : State :=
  let w := fmtBits y.fmt
  let lines := ceilDiv (n * w) 512
  let t := newTag y.stream y.fmt y.digest true src
  (List.range lines).foldl (fun s i => s.setTag (rowAddr f y row e0 + 64 * i) t) s

/-- Output lines that a stopped share has not written. -/
def State.poisonUnwritten (s : State) (f : Nat) (x : GaffExec) : State :=
  let m := macroOf x.word
  let g := x.g
  let h := x.share f
  if x.phase = .brash ∨ x.phase = .held then
    ((descRoles m).filter fun r => decide (r.2 = .out)).foldl (fun s r =>
      let y := readDesc s f (m.desc r.1)
      let n := tensorDims m h r.1
      (List.range n.1).foldl (fun s i => s.poisonRun f y 0 i 0 n.2) s) s
  else if x.phase = .work ∧ h.rk = 0 ∧ !m.deferRo then
    let y := outDesc s f m
    let d := readDesc s f (g.desc 0)
    let uo := if g.transposed then g.u else 1
    ((g.visits h).drop (if m.fromRegion then 0 else x.written)).foldl (fun s v =>
      (List.range (tileRows g h v.2.1)).foldl (fun s i =>
        let row := v.1 * h.mn + v.2.1 * g.tv + i
        s.poisonRun f y (s.tagAt (rowAddr f d row 0)) row (128 * v.2.2 * uo) (ext128 h.nn v.2.2 * uo)) s) s
  else s

/-- The side bits of a region's accumulators are set. -/
def State.poisonRegion (s : State) (f base n : Nat) : State := (List.range n).foldl (fun s i => s.setAccPoison f (base + i) true) s

/-- WC_DECL is reached before the share completes (R156, R559). -/
def State.gaffOverrun (s : State) (f : Nat) : State :=
  match (s.floe f).exec with
  | some x =>
    if x.phase = .signal ∨ x.phase = .peers then s
    else
      let m := macroOf x.word
      let h := x.share f
      let s := s.poisonUnwritten f x
      let s := x.regions.foldl (fun s r => s.poisonRegion f r.base (r.rows * x.g.regionPitch)) s
      let s :=
        if x.phase = .work ∧ m.tiled ∧ m.deferRo then
          let r := s.regionOfPass f x.g h (passAt x.g h x.pass)
          let s := s.poisonRegion f r.base (r.rows * x.g.regionPitch)
          s.setFloe f { s.floe f with deferred := some { word := x.word, region := some r } }
        else s
      let fl := s.floe f
      let s := s.setFloe f { fl with exec := none, core := { fl.core with gaffHolds := false } }
      let s := s.updRun x fun q => { q with left := q.left.filter (· ≠ f), poisonIn := true }
      let s := match x.run with
        | some r => (match s.run r with
          | some q => if q.left.isEmpty then (s.settleAmax q).setRun r none else s
          | none => s)
        | none => s
      let s := s.tally (pgGaff f) F.GAFF_BUSY_CYC_LO m.wcDecl
      (s.fault (pgGaff f) F.GAFF_ERR_STAT_WC_OVERRUN 3 0 m.id).autoFence f 3 0
  | none => s

def execWcOverrun (f : Fin 64) (s : State) : Host.Outcome State Fault Refusal := .next (s.gaffOverrun f)

/-! ### Brash for ATTN and ADAPT_STEP (R197) -/

/-- The Gaff acquires Brash when no kernel runs. -/
def State.gaffAcquire (s : State) (f : Nat) : State :=
  let fl := s.floe f
  match fl.exec with
  | some x =>
    if x.phase = .brash ∧ (fl.core.phase = .idle ∨ fl.core.phase = .waitBrash) then
      let m := macroOf x.word
      let c := s.ctxOf x
      let s := s.setFloe f { fl with core := { fl.core with gaffHolds := true }, exec := some { x with phase := .held } }
      if m.opc = 5 then
        let hist := ((s.runOf x).map (·.hist)).getD (.fin false 0 0)
        let r := s.attn c f m hist
        let s := r.1.setExec f (some { x with phase := .done, written := 1 })
        s.updRun x fun q => { q with amax := q.amax.maxAbs r.2.amax, clamps := q.clamps + r.2.clamps }
      else
        match s.runOf x with
        | none => s
        | some q =>
          let ms := q.left.filter fun k => match (s.floe k).exec with
            | some y => decide (y.run = x.run) && decide (y.phase ≠ .zero)
            | none => false
          let ready := ms.all fun k => match (s.floe k).exec with
            | some y => decide (y.phase = .held)
            | none => false
          match ready, ms with
          | true, lead :: _ =>
            let s := s.adapt c lead ms m
            ms.foldl (fun s k => match (s.floe k).exec with
              | some y => s.setExec k (some { y with phase := .done, written := 1 })
              | none => s) s
          | _, _ => s
    else s
  | none => s

def execGaffBrashAcquire (f : Fin 64) (s : State) : Host.Outcome State Fault Refusal := .next (s.gaffAcquire f)

/-! ### Codebook loads (R86, R89) -/

/-- Whether the executing macro-instruction names a codebook slot. -/
def State.cbInUse (s : State) (f j : Nat) : Bool :=
  match (s.floe f).exec with
  | none => false
  | some x =>
    let m := macroOf x.word
    let h := x.share f
    decide (x.phase ≠ .signal) && decide (x.phase ≠ .zero) && (descRoles m).any fun r =>
      let d := readDesc s f (m.desc r.1)
      (d.fmt = 7 || d.fmt = 8) && (List.range (ceilDiv (cbColumns m h r.1) 128)).any fun i => decide ((sliceSlot s f d i).1 = j)

/-- A complete codebook arrives for a slot (R86, R89). -/
def State.loadCb (s : State) (f j : Nat) (l : CbLoad) : State :=
  if s.cbInUse f j then
    let fl := s.floe f
    let c := fl.cb j
    let s := s.wf (pgRime f) (F.RIME_CB_SLOT_LOADING j) 0
    let s := if c.wait.isSome then s.raise (pgRime f) F.RIME_CB_STAT_CB_OVERRUN else s
    let s := (s.bump (pgRime f) F.RIME_CB_DEFER_CNT).wf (pgRime f) (F.RIME_CB_SLOT_DEFERRED j) 1
    let s := s.wf (pgRime f) (F.RIME_CB_SLOT_VALID j) (if c.codes.isEmpty then 0 else 1)
    s.setFloe f (fl.setCb j { c with wait := some l })
  else s.fillCb f j l

/-- A load that waited takes effect (R89). -/
def State.cbApply (s : State) (f j : Nat) : State :=
  match ((s.floe f).cb j).wait with
  | some l => if s.cbInUse f j then s else s.fillCb f j l
  | none => s

def execCbDeferredLoadApply (f : Fin 64) (slot : Fin 8) (s : State) : Host.Outcome State Fault Refusal := .next (s.cbApply f slot)

end Sys2Proof.Machine
end

