-- ==== Sys2Proof/Machine/IssueCore.lean ====
section
/-! DEFINITION. The floe issue core: issue times (R173, R174), scalar operations and branches (R190 to R192), and native kernels from header to
end (R193 to R197). -/

namespace Sys2Proof.Machine

def State.core (s : State) (f : Nat) : CoreSt := (s.floe f).core

def State.setCore (s : State) (f : Nat) (c : CoreSt) : State := s.setFloe f { s.floe f with core := c }

/-- Scalar register (R190): X0 reads 0. -/
def CoreSt.rx (c : CoreSt) (i : Nat) : Word := if i = 0 then 0 else Tab.at c.x i 0

/-- Scalar register write: X0 ignores it. -/
def CoreSt.wx (c : CoreSt) (i : Nat) (v : Word) : CoreSt := if i = 0 then c else { c with x := Tab.set c.x i 0 v }

def CoreSt.rsm (c : CoreSt) (i : Nat) : Summary := Tab.at c.sm i {}

def CoreSt.wsm (c : CoreSt) (i : Nat) (v : Summary) : CoreSt := { c with sm := Tab.set c.sm i {} v }

/-! ### Outputs and limits -/

/-- Whether bytes of the scratchpad lie in the allocation (R166, R188). -/
def State.inFloeAlloc (s : State) (f a n : Nat) : Bool := a + n ≤ 0x40_0000 && inAlloc s f (a, n)

/-- Whether bytes lie in an output range of the running kernel (R188). -/
def CoreSt.inOut (c : CoreSt) (a n : Nat) : Bool :=
  (c.out0.1 ≤ a && a + n ≤ c.out0.1 + c.out0.2) || (c.out1.1 ≤ a && a + n ≤ c.out1.1 + c.out1.2)

/-- An access outside the limits: flag, count, one record per kernel (R188). -/
def State.nativeOob (s : State) (f : Nat) : State :=
  let c := s.core f
  let s := s.bump (pgCore f) F.FLOE_OOB_CNT
  let s := s.raise (pgCore f) F.FLOE_ERR_STAT_NATIVE_OOB
  if c.oobRec then s
  else (s.setCore f { c with oobRec := true }).post (pgCore f) F.FLOE_ERR_STAT_NATIVE_OOB 6 0 c.ctx.reqId

/-- Tag of a line that the kernel stores to (R189). -/
def CoreSt.storeTag (c : CoreSt) (fmt : Nat) (inTag : Tag) (poison : Bool) : Tag :=
  newTag (c.tagT % 4096) fmt (decide (c.tagT / 32768 % 2 = 1)) (poison || c.latch) (Tag.addPoison 0 false ||| (inTag &&& ~~~(1#64 <<< 63)))

/-- Rewrite the tag of a line after a store (R189, R356). -/
def State.kernelTag (s : State) (f : Nat) (c : CoreSt) (a fmt : Nat) (poison : Bool) : State :=
  let t := c.storeTag fmt (s.tagAt (floeBase f + c.inTag)) (poison || s.poisonAt a)
  (s.setTag a (Tag.addPoison t (c.ctx.failed.contains (Tag.cell t)))).markLine c.ctx a

/-- Mark an output range with POISON (R194, R195). -/
def State.poisonRange (s : State) (f : Nat) (r : Nat × Nat) : State :=
  (List.range (r.2 / 64)).foldl (fun s i =>
    let a := floeBase f + r.1 + 64 * i
    s.setTag a (Tag.addPoison (s.tagAt a) true)) s

/-! ### Start -/

/-- A native header (R193). -/
structure NatHdr where
  codeOff : Nat
  codeLen : Nat
  entry : Nat
  decl : Nat
  tagT : Nat
  inTag : Nat
  out0 : Nat × Nat
  out1 : Nat × Nat
  xs : List Nat
deriving DecidableEq, Repr

def readNatHdr (s : State) (f off : Nat) : NatHdr :=
  let r (o n : Nat) := s.rdLe (floeBase f + off + o) n
  { codeOff := r 0 4, codeLen := r 4 2, entry := r 6 2, decl := r 8 4, tagT := r 12 2, inTag := r 16 4 / 64 * 64, out0 := (r 20 4, r 24 4),
    out1 := (r 28 4, r 32 4), xs := (List.range 7).map fun i => r (36 + 4 * i) 4 }

def outRangeOk (s : State) (f : Nat) (r : Nat × Nat) : Bool :=
  r.1 % 64 = 0 && r.2 % 64 = 0 && (r.2 = 0 || s.inFloeAlloc f r.1 r.2)

/-- The limits of R193 and R194. -/
def NatHdr.ok (h : NatHdr) (s : State) (f off : Nat) : Bool :=
  h.codeOff % 64 = 0 && 1 ≤ h.codeLen && h.codeLen ≤ 1024 && h.entry < h.codeLen && 1 ≤ h.decl && s.inFloeAlloc f off 64 &&
    s.inFloeAlloc f h.codeOff (4 * h.codeLen) && s.inFloeAlloc f h.inTag 64 && outRangeOk s f h.out0 && outRangeOk s f h.out1

/-- A native kernel's start reaches the issue core (R194, R197, R476). -/
def State.startKernel (s : State) (ctx : WorkCtx) (f off : Nat) : State :=
  let g := pgCore f
  let off := off / 64 * 64
  let c := s.core f
  if !s.works g || !s.works (pgBrash f) then (s.discardWork (if s.works g then pgBrash f else g) ctx.reqId).workRefused ctx
  else if c.phase ≠ .idle then s.fault g F.FLOE_ERR_STAT_KSTART_OVERRUN 4 0 ctx.reqId
  else
    let h := readNatHdr s f off
    let s := (s.wf g F.FLOE_KHDR off).wf g F.FLOE_KDECL h.decl
    if h.ok s f off then
      let c := { c with phase := if c.gaffHolds then .waitBrash else .preload, hdr := off, codeLen := h.codeLen, entry := h.entry,
                        decl := h.decl, tagT := h.tagT, inTag := h.inTag, out0 := h.out0, out1 := h.out1, ctx := ctx, oobRec := false }
      let s := s.setCore f c
      if c.gaffHolds then s.raise g F.FLOE_ERR_STAT_BRASH_WAIT else s
    else
      let s := if outRangeOk s f h.out0 then s.poisonRange f h.out0 else s
      let s := if outRangeOk s f h.out1 then s.poisonRange f h.out1 else s
      ((s.bump g F.FLOE_KFAULT_CNT).fault g F.FLOE_ERR_STAT_NATIVE_ILLEGAL 5 0 ctx.reqId).workRefused ctx

/-- A write of FLOE_KSTART (R194). -/
def State.wrKstart (s : State) (f : Nat) (v : Word) : State :=
  if F.FLOE_KSTART_GO.of v = 0 then s
  else if (s.floePart f).isSome then s.raise (pgCore f) F.FLOE_ERR_STAT_KSTART_DENIED
  else s.startKernel {} f (F.FLOE_KSTART_OFFSET.of v)

def execFloeKstart (a : Agent) (f : Fin 64) (v : Word) (s : State) : Host.Outcome State Fault Refusal :=
  .next (s.onReady a (pgCore f) 0x044 fun s => s.wrKstart f v)

/-- A preload that waited for the Gaff begins (R197). -/
def State.preloadStart (s : State) (f : Nat) : State :=
  let c := s.core f
  if c.phase = .waitBrash ∧ !c.gaffHolds then s.setCore f { c with phase := .preload } else s

def execKernelPreloadStart (f : Fin 64) (s : State) : Host.Outcome State Fault Refusal := .next (s.preloadStart f)

/-- What the preload leaves (R194). -/
def State.preloadDone (s : State) (f : Nat) : State :=
  let c := s.core f
  if c.phase = .preload then
    let h := readNatHdr s f c.hdr
    let code := ((List.range c.codeLen).map fun i => (i, BitVec.ofNat 32 (s.rdLe (floeBase f + h.codeOff + 4 * i) 4)))
    let xs := (h.xs.zipIdx.map fun x => (x.2 + 1, BitVec.ofNat 32 x.1))
    s.setCore f { c with
      v := [], vPoison := [], sm := [], vl := 512, phase := .running, pc := c.entry, lastPc := c.entry, next := 1, last := 0
      vReady := [], smReady := [], xReady := [], aluFree := 0, transFree := 0, memFree := 0
      x := xs.filter fun e => decide (e.2 ≠ 0)
      fetch := code.filter fun e => decide (e.2 ≠ 0)
      latch := s.readsPoison c.ctx (floeBase f + c.inTag) 64 }
  else s

def execKernelPreloadDone (f : Fin 64) (s : State) : Host.Outcome State Fault Refusal := .next (s.preloadDone f)

/-! ### End -/

/-- The kernel leaves the issue core at a count; its cycles are tallied (R195, R200, R201). -/
def State.kernelLeaves (s : State) (f t : Nat) : State :=
  let c := s.core f
  let busy := ceilDiv c.codeLen 64 + 6 + t
  let s := s.setCore f { c with phase := .idle }
  let s := (s.tally (pgCore f) F.FLOE_KBUSY_CYC_LO busy).tally (pgBrash f) F.BRASH_BUSY_CYC_LO busy
  (s.wf (pgCore f) F.FLOE_KCYC t).workDone c.ctx

/-- A kernel stopped early marks its outputs (R40, R195). -/
def State.kernelStopped (s : State) (f t : Nat) (flag : Fld) (cls : Nat) : State :=
  let c := s.core f
  let s := (s.poisonRange f c.out0).poisonRange f c.out1
  let s := (s.bump (pgCore f) F.FLOE_KFAULT_CNT).fault (pgCore f) flag cls 0 c.ctx.reqId
  s.kernelLeaves f t

/-- WC_DECL is reached (R40). -/
def State.kernelOverrun (s : State) (f : Nat) : State := s.kernelStopped f (s.core f).decl F.FLOE_ERR_STAT_NATIVE_OVERRUN 4

/-- An illegal instruction reaches issue (R195). -/
def State.kernelIllegal (s : State) (f : Nat) : State :=
  let c := s.core f
  if c.next > c.decl then s.kernelOverrun f else s.kernelStopped f c.next F.FLOE_ERR_STAT_NATIVE_ILLEGAL 5

def State.nativeOverrunAt (s : State) (f : Nat) : State := if (s.core f).phase = .running then s.kernelOverrun f else s

def execNativeOverrun (f : Fin 64) (s : State) : Host.Outcome State Fault Refusal := .next (s.nativeOverrunAt f)

/-- A word that R175, R185 or R191 does not define reaches issue. -/
def State.illegalAt (s : State) (f : Nat) : State := if (s.core f).phase = .running then s.kernelIllegal f else s

def execIllegalInstruction (f : Fin 64) (w : Word) (s : State) : Host.Outcome State Fault Refusal :=
  let _ := w
  .next (s.illegalAt f)

/-! ### Issue (R173) -/

/-- The units of R173; `none` for scalar operations and branches. -/
inductive KUnit where
  | none | alu | trans | mem
deriving DecidableEq, Repr

def maxAll (l : List Nat) (t : Nat) : Nat := l.foldl max t

/-- The cycle in which an instruction issues. -/
def CoreSt.issueAt (c : CoreSt) (vs sms xs : List Nat) (u : KUnit) : Nat :=
  let t := maxAll (vs.map fun i => Tab.at c.vReady i 0) c.next
  let t := maxAll (sms.map fun i => Tab.at c.smReady i 0) t
  let t := maxAll (xs.map fun i => Tab.at c.xReady i 0) t
  match u with
  | .none => t
  | .alu => max t c.aluFree
  | .trans => max t c.transFree
  | .mem => max t c.memFree

/-- The unit stays held, and the following instruction may issue `next` cycles later. -/
def CoreSt.issued (c : CoreSt) (t : Nat) (u : KUnit) (occ next : Nat) : CoreSt :=
  let c := { c with lastPc := c.pc, pc := c.pc + 1, next := t + next }
  match u with
  | .none => c
  | .alu => { c with aluFree := t + occ }
  | .trans => { c with transFree := t + occ }
  | .mem => { c with memFree := t + occ }

/-- A result is ready after the latency. -/
def CoreSt.readyV (c : CoreSt) (i t : Nat) : CoreSt := { c with vReady := Tab.set c.vReady i 0 t, last := max c.last t }
def CoreSt.readySm (c : CoreSt) (i t : Nat) : CoreSt := { c with smReady := Tab.set c.smReady i 0 t, last := max c.last t }
def CoreSt.readyX (c : CoreSt) (i t : Nat) : CoreSt := { c with xReady := Tab.set c.xReady i 0 t, last := max c.last t }

/-- An instruction of a running kernel: it issues in its cycle, or the counter has reached WC_DECL first. -/
def State.issueK (s : State) (f : Nat) (vs sms xs : List Nat) (u : KUnit) (body : State → CoreSt → Nat → State) : State :=
  let c := s.core f
  if c.phase = .running then
    let t := c.issueAt vs sms xs u
    if t > c.decl then s.kernelOverrun f else body s c t
  else s

/-! ### Scalar operations (R191) -/

/-- A register operation of latency `lat`. -/
def State.scalarOp (s : State) (f : Nat) (o : ScalarArgs) (srcs : List Nat) (lat : Nat) (v : CoreSt → Word) : State :=
  s.issueK f [] [] (o.xd.toNat :: srcs) .none fun s c t =>
    s.setCore f (((c.issued t .none 0 1).wx o.xd.toNat (v c)).readyX o.xd.toNat (t + lat))

def State.scalarRR (s : State) (f : Nat) (o : ScalarArgs) (lat : Nat) (op : Word → Word → Word) : State :=
  s.scalarOp f o [o.xa.toNat, o.xb.toNat] lat fun c => op (c.rx o.xa.toNat) (c.rx o.xb.toNat)

/-- IMM12, sign-extended. -/
def imm12 (o : ScalarArgs) : Word := (o.imm20.setWidth 12).signExtend 32

def State.scalarRI (s : State) (f : Nat) (o : ScalarArgs) (op : Word → Word → Word) : State :=
  s.scalarOp f o [o.xa.toNat] 1 fun c => op (c.rx o.xa.toNat) (imm12 o)

def execScalarAdd (f : Fin 64) (o : ScalarArgs) (s : State) : Host.Outcome State Fault Refusal := .next (s.scalarRR f o 1 (· + ·))
def execScalarSub (f : Fin 64) (o : ScalarArgs) (s : State) : Host.Outcome State Fault Refusal := .next (s.scalarRR f o 1 (· - ·))
def execScalarAnd (f : Fin 64) (o : ScalarArgs) (s : State) : Host.Outcome State Fault Refusal := .next (s.scalarRR f o 1 (· &&& ·))
def execScalarOr (f : Fin 64) (o : ScalarArgs) (s : State) : Host.Outcome State Fault Refusal := .next (s.scalarRR f o 1 (· ||| ·))
def execScalarXor (f : Fin 64) (o : ScalarArgs) (s : State) : Host.Outcome State Fault Refusal := .next (s.scalarRR f o 1 (· ^^^ ·))
def execSll (f : Fin 64) (o : ScalarArgs) (s : State) : Host.Outcome State Fault Refusal :=
  .next (s.scalarRR f o 1 fun a b => a <<< (b.toNat % 32))
def execSrl (f : Fin 64) (o : ScalarArgs) (s : State) : Host.Outcome State Fault Refusal :=
  .next (s.scalarRR f o 1 fun a b => a >>> (b.toNat % 32))
def execSra (f : Fin 64) (o : ScalarArgs) (s : State) : Host.Outcome State Fault Refusal :=
  .next (s.scalarRR f o 1 fun a b => a.sshiftRight (b.toNat % 32))
def execSlt (f : Fin 64) (o : ScalarArgs) (s : State) : Host.Outcome State Fault Refusal :=
  .next (s.scalarRR f o 1 fun a b => if a.slt b then 1 else 0)
def execSltu (f : Fin 64) (o : ScalarArgs) (s : State) : Host.Outcome State Fault Refusal :=
  .next (s.scalarRR f o 1 fun a b => if a.ult b then 1 else 0)
def execScalarMul (f : Fin 64) (o : ScalarArgs) (s : State) : Host.Outcome State Fault Refusal := .next (s.scalarRR f o 2 (· * ·))
def execScalarAddi (f : Fin 64) (o : ScalarArgs) (s : State) : Host.Outcome State Fault Refusal := .next (s.scalarRI f o (· + ·))
def execAndi (f : Fin 64) (o : ScalarArgs) (s : State) : Host.Outcome State Fault Refusal := .next (s.scalarRI f o (· &&& ·))
def execOri (f : Fin 64) (o : ScalarArgs) (s : State) : Host.Outcome State Fault Refusal := .next (s.scalarRI f o (· ||| ·))
def execLui (f : Fin 64) (o : ScalarArgs) (s : State) : Host.Outcome State Fault Refusal :=
  .next (s.scalarOp f o [] 1 fun _ => o.imm20.setWidth 32 <<< 12)

/-- LW: a word of the allocation; a poisoned line or an access outside sets the latch (R188, R191, R192). -/
def State.loadWord (s : State) (f : Nat) (o : ScalarArgs) : State :=
  s.issueK f [] [] [o.xd.toNat, o.xa.toNat] .mem fun s c t =>
    let a := (c.rx o.xa.toNat + imm12 o).toNat
    let ok := s.inFloeAlloc f a 4
    let v : Word := if ok then BitVec.ofNat 32 (s.rdLe (floeBase f + a) 4) else 0
    let p := !ok || s.readsPoison c.ctx (floeBase f + a) 4
    let c' := ((c.issued t .mem 1 1).wx o.xd.toNat v).readyX o.xd.toNat (t + 7)
    let s := s.setCore f { c' with latch := c.latch || p }
    if ok then s else s.nativeOob f

def execLw (f : Fin 64) (o : ScalarArgs) (s : State) : Host.Outcome State Fault Refusal := .next (s.loadWord f o)

/-- SW: a word of an output range (R188, R189, R191). -/
def State.storeWord (s : State) (f : Nat) (o : ScalarArgs) : State :=
  s.issueK f [] [] [o.xa.toNat, o.xb.toNat] .mem fun s c t =>
    let a := (c.rx o.xa.toNat + imm12 o).toNat
    let v := c.rx o.xb.toNat
    let s := s.setCore f (c.issued t .mem 1 1)
    if c.inOut a 4 && decide (a + 4 ≤ 0x40_0000) then
      let s := s.wrLe (floeBase f + a) 4 v.toNat
      let s := s.kernelTag f c (floeBase f + a) 0 false
      if (a + 3) / 64 = a / 64 then s else s.kernelTag f c (floeBase f + a + 3) 0 false
    else s.nativeOob f

def execSw (f : Fin 64) (o : ScalarArgs) (s : State) : Host.Outcome State Fault Refusal := .next (s.storeWord f o)

/-- SETVL (R171). -/
def State.setVl (s : State) (f : Nat) (o : ScalarArgs) : State :=
  s.issueK f [] [] [o.xd.toNat, o.xa.toNat] .none fun s c t =>
    let n := min (c.rx o.xa.toNat).toNat 512
    let c' := ((c.issued t .none 0 1).wx o.xd.toNat (BitVec.ofNat 32 n)).readyX o.xd.toNat (t + 1)
    s.setCore f { c' with vl := n }

def execSetvl (f : Fin 64) (o : ScalarArgs) (s : State) : Host.Outcome State Fault Refusal := .next (s.setVl f o)

/-- A poisoned summary is used: the flag and the latch (R192). -/
def State.summaryUse (s : State) (f : Nat) (p : Bool) : State :=
  let s := s.tally (pgCore f) F.FLOE_SBR_LO 1
  if p then (s.setCore f { s.core f with latch := true }).raise (pgCore f) F.FLOE_ERR_STAT_SUMM_POISON else s

/-- MVS (R174, R191). -/
def State.moveSummary (s : State) (f : Nat) (o : ScalarArgs) : State :=
  let k := o.xb.toNat % 8
  s.issueK f [] [k] [o.xd.toNat] .none fun s c t =>
    let v := c.rsm k
    let s := s.setCore f (((c.issued t .none 0 1).wx o.xd.toNat v.val).readyX o.xd.toNat (t + 4))
    s.summaryUse f v.poison

def execMvs (f : Fin 64) (o : ScalarArgs) (s : State) : Host.Outcome State Fault Refusal := .next (s.moveSummary f o)

/-! ### Branches (R191) -/

/-- A branch resolves: the target counts from the branch itself, and one outside the code is illegal when taken. -/
def State.branchTo (s : State) (f : Nat) (c : CoreSt) (t : Nat) (taken : Bool) (off : BitVec 16) (notTaken cost : Nat) : State :=
  let target : Int := c.pc + off.toInt
  if taken then
    if 0 ≤ target ∧ target < c.codeLen then s.setCore f { c.issued t .none 0 cost with pc := target.toNat }
    else s.kernelStopped f t F.FLOE_ERR_STAT_NATIVE_ILLEGAL 5
  else s.setCore f (c.issued t .none 0 notTaken)

def State.branchRR (s : State) (f : Nat) (o : BranchArgs) (cond : Word → Word → Bool) : State :=
  s.issueK f [] [] [o.xa.toNat, o.xb.toNat] .none fun s c t =>
    s.branchTo f c t (cond (c.rx o.xa.toNat) (c.rx o.xb.toNat)) o.off 1 2

def execBeq (f : Fin 64) (o : BranchArgs) (s : State) : Host.Outcome State Fault Refusal := .next (s.branchRR f o fun a b => a == b)
def execBne (f : Fin 64) (o : BranchArgs) (s : State) : Host.Outcome State Fault Refusal := .next (s.branchRR f o fun a b => a != b)
def execBlt (f : Fin 64) (o : BranchArgs) (s : State) : Host.Outcome State Fault Refusal := .next (s.branchRR f o fun a b => a.slt b)
def execBge (f : Fin 64) (o : BranchArgs) (s : State) : Host.Outcome State Fault Refusal := .next (s.branchRR f o fun a b => !a.slt b)
def execBltu (f : Fin 64) (o : BranchArgs) (s : State) : Host.Outcome State Fault Refusal := .next (s.branchRR f o fun a b => a.ult b)
def execBgeu (f : Fin 64) (o : BranchArgs) (s : State) : Host.Outcome State Fault Refusal := .next (s.branchRR f o fun a b => !a.ult b)

def State.jump (s : State) (f : Nat) (o : BranchArgs) : State :=
  s.issueK f [] [] [] .none fun s c t => s.branchTo f c t true o.off 2 2

def execJ (f : Fin 64) (o : BranchArgs) (s : State) : Host.Outcome State Fault Refusal := .next (s.jump f o)

/-- A summary branch; bit [19] of its word must be 0 (R174, R190, R192). -/
def State.branchSm (s : State) (f : Nat) (o : BranchArgs) (cond : Word → Word → Bool) : State :=
  if o.xb.toNat ≥ 8 then s.illegalAt f
  else
    let k := o.xb.toNat
    s.issueK f [] [k] [o.xa.toNat] .none fun s c t =>
      let v := c.rsm k
      let s := s.summaryUse f v.poison
      s.branchTo f (s.core f) t (cond v.val (c.rx o.xa.toNat)) o.off 4 4

def execBsz (f : Fin 64) (o : BranchArgs) (s : State) : Host.Outcome State Fault Refusal := .next (s.branchSm f o fun v _ => v == 0)
def execBsnz (f : Fin 64) (o : BranchArgs) (s : State) : Host.Outcome State Fault Refusal := .next (s.branchSm f o fun v _ => v != 0)
def execBslt (f : Fin 64) (o : BranchArgs) (s : State) : Host.Outcome State Fault Refusal := .next (s.branchSm f o fun v a => v.slt a)
def execBsge (f : Fin 64) (o : BranchArgs) (s : State) : Host.Outcome State Fault Refusal := .next (s.branchSm f o fun v a => !v.slt a)

/-- KEND issues when every earlier instruction has written its results (R195). -/
def State.kernelEnd (s : State) (f : Nat) : State :=
  let c := s.core f
  if c.phase = .running then
    let t := max c.next c.last
    if t > c.decl then s.kernelOverrun f
    else
      let s := s.setCore f { c with lastPc := c.pc }
      (s.bump (pgCore f) F.FLOE_KDONE_CNT).kernelLeaves f t
  else s

def execKend (f : Fin 64) (s : State) : Host.Outcome State Fault Refusal := .next (s.kernelEnd f)

end Sys2Proof.Machine
end

