-- ==== Sys2Proof/Machine/Brash.lean ====
section
/-! DEFINITION. The Brash vector engine (R167 to R189): lanes, elementwise operations, conversions, codebooks, reductions, and vector loads and
stores. -/

namespace Sys2Proof

/-! Fields of the instruction words as numbers (R175, R185). -/

def VecArgs.f (o : VecArgs) : Nat := o.fmt.toNat
def VecArgs.a (o : VecArgs) : Nat := o.va.toNat
def VecArgs.b (o : VecArgs) : Nat := o.vb.toNat
/-- Scalar register or destination format in the high bits of VB. -/
def VecArgs.vbHi (o : VecArgs) : Nat := o.vb.toNat / 2
/-- The formats that R176 calls "Not 7, 8". -/
def VecArgs.arith (o : VecArgs) : Bool := o.f ≠ 7 && o.f ≠ 8
/-- Formats 0, 1 and 2. -/
def VecArgs.flt (o : VecArgs) : Bool := o.f ≤ 2
def VMemArgs.f (o : VMemArgs) : Nat := o.fmt.toNat

end Sys2Proof

namespace Sys2Proof.Machine

/-! ### Lanes (R167, R168) -/

/-- Lane width of a format code; codes 10 to 15 are illegal. -/
def laneBits (fmt : Nat) : Nat := if fmt = 0 then 32 else if fmt = 1 ∨ fmt = 2 ∨ fmt = 9 then 16 else 8

def laneCount (fmt : Nat) : Nat := 4096 / laneBits fmt

/-- Lanes of a register at a width, lane 0 first. -/
def lanesOf (w : Nat) (r : BitVec 4096) : List Nat := (List.range (4096 / w)).map fun i => bits r.toNat (w * i + w - 1) (w * i)

/-- A register from its lanes. -/
def ofLanes (w : Nat) (l : List Nat) : BitVec 4096 := BitVec.ofNat 4096 (l.foldr (fun x a => x % 2 ^ w + 2 ^ w * a) 0)

def CoreSt.reg (c : CoreSt) (i : Nat) : BitVec 4096 := Tab.at c.v i 0
def CoreSt.vp (c : CoreSt) (i : Nat) : Bool := Tab.at c.vPoison i false
def CoreSt.setReg (c : CoreSt) (i : Nat) (v : BitVec 4096) (p : Bool) : CoreSt :=
  { c with v := Tab.set c.v i 0 v, vPoison := Tab.set c.vPoison i false p }

def CoreSt.lanes (c : CoreSt) (fmt i : Nat) : List Nat := lanesOf (laneBits fmt) (c.reg i)

/-- Value of a lane (R167, R177): an INT4 lane is read as a signed byte, a codebook lane as its index. -/
def laneVal (fmt code : Nat) : Val :=
  match fmt with
  | 6 => Val.ofInt (sInt 8 code) 0
  | 7 | 8 => Val.ofInt code 0
  | _ => match Fmt.ofCode fmt with
    | some f => decodeVal f noCb code
    | none => .nan

/-- Stored lane of a written code: INT4 is sign-extended to the lane (R167). -/
def laneCode (fmt bits : Nat) : Nat := if fmt = 6 then lowBits 8 (sInt 4 bits) else bits

def laneWr (fmt : Nat) (sat : Bool) (v : Val) : Wr :=
  match Fmt.ofCode fmt with
  | some f => let w := writeVal f sat v; { w with bits := laneCode fmt w.bits }
  | none => {}

/-- What the writes of one instruction report (R177, R200). -/
def State.brashReport (s : State) (f : Nat) (ws : List Wr) (divz : Bool) : State :=
  let g := pgBrash f
  let inv := ws.any (·.invalid)
  let st := ws.any (·.outSat)
  let ov := ws.any (·.outOvf)
  let s := if inv then (s.raise g F.BRASH_NUM_STAT_INVALID).bump g F.BRASH_INVALID_CNT else s
  let s := if st then s.raise g F.BRASH_NUM_STAT_OUT_SAT else s
  let s := if ov then s.raise g F.BRASH_NUM_STAT_OUT_OVF else s
  let s := if st || ov then s.bump g F.BRASH_OVF_CNT else s
  if divz then (s.raise g F.BRASH_NUM_STAT_DIVZERO).bump g F.BRASH_DIVZERO_CNT else s

/-! ### Vector instructions -/


/-- A vector instruction of a running kernel: its format must be one that the table lists. `srcs` are the vector registers it waits for. -/
def State.vecInsn (s : State) (f : Nat) (legal : Bool) (srcs sms xs : List Nat) (u : KUnit) (body : State → CoreSt → Nat → State) : State :=
  if legal then
    s.issueK f srcs sms xs u fun s c t => body (s.tally (pgBrash f) F.BRASH_VINSN_LO 1) c t
  else s.illegalAt f

/-- Lanes acted on (R171). -/
def CoreSt.vn (c : CoreSt) (fmt : Nat) : Nat := min c.vl (laneCount fmt)

/-- Write the first `n` lanes of a destination, the others kept (R170, R171). -/
def CoreSt.putLanes (c : CoreSt) (w i n : Nat) (new : List Nat) (poison : Bool) : CoreSt :=
  c.setReg i (ofLanes w (new.take n ++ (lanesOf w (c.reg i)).drop n)) (poison || c.vp i)

/-- An operation that gives lane codes from the lanes of its sources; `ws` are the reported writes. -/
def State.laneOp (s : State) (f : Nat) (o : VecArgs) (legal : Bool) (srcs xs : List Nat) (u : KUnit) (lat occ : Nat)
    (k : CoreSt → Nat → List Nat) : State :=
  s.vecInsn f (legal && decide (o.f < 10)) (o.vd.toNat :: srcs) [] xs u fun s c t =>
    let n := c.vn o.f
    let p := srcs.any c.vp
    s.setCore f (((c.issued t u occ 1).putLanes (laneBits o.f) o.vd.toNat n (k c n) p).readyV o.vd.toNat (t + lat))

/-- An operation that gives written values. -/
def State.valOp (s : State) (f : Nat) (o : VecArgs) (legal : Bool) (srcs : List Nat) (u : KUnit) (lat occ : Nat)
    (k : CoreSt → Nat → List (Wr × Bool)) : State :=
  s.vecInsn f (legal && decide (o.f < 10)) (o.vd.toNat :: srcs) [] [] u fun s c t =>
    let n := c.vn o.f
    let p := srcs.any c.vp
    let ws := (k c n).take n
    let s := s.setCore f (((c.issued t u occ 1).putLanes (laneBits o.f) o.vd.toNat n (ws.map fun w => w.1.bits) p).readyV o.vd.toNat (t + lat))
    s.brashReport f (ws.map (·.1)) (ws.any (·.2))


/-- Lane by lane on codes of two sources. -/
def zipCodes (c : CoreSt) (o : VecArgs) (op : Nat → Nat → Nat) : List Nat :=
  ((c.lanes o.f o.a).zip (c.lanes o.f o.b)).map fun x => op x.1 x.2

def execVmov (f : Fin 64) (o : VecArgs) (s : State) : Host.Outcome State Fault Refusal :=
  .next (s.laneOp f o true [o.a] [] .alu 1 1 fun c _ => c.lanes o.f o.a)
def execVand (f : Fin 64) (o : VecArgs) (s : State) : Host.Outcome State Fault Refusal :=
  .next (s.laneOp f o true [o.a, o.b] [] .alu 1 1 fun c _ => zipCodes c o fun x y => x &&& y)
def execVor (f : Fin 64) (o : VecArgs) (s : State) : Host.Outcome State Fault Refusal :=
  .next (s.laneOp f o true [o.a, o.b] [] .alu 1 1 fun c _ => zipCodes c o fun x y => x ||| y)
def execVxor (f : Fin 64) (o : VecArgs) (s : State) : Host.Outcome State Fault Refusal :=
  .next (s.laneOp f o true [o.a, o.b] [] .alu 1 1 fun c _ => zipCodes c o fun x y => x ^^^ y)

/-- VSEL: lanes of VB where the lane of VA is not 0 (R176). -/
def execVsel (f : Fin 64) (o : VecArgs) (s : State) : Host.Outcome State Fault Refusal :=
  .next (s.laneOp f o true [o.a, o.b] [] .alu 1 1 fun c _ =>
    ((zipCodes c o fun x y => if x = 0 then 2 ^ 32 else y).zip (c.lanes o.f o.vd.toNat)).map fun x => if x.1 = 2 ^ 32 then x.2 else x.1)

/-- Value of a summary register by its kind (R169). -/
def Summary.value (m : Summary) : Val :=
  match m.kind with
  | .f => decodeVal .fp32 noCb m.val.toNat
  | .i => Val.ofInt m.val.toInt 0
  | .q => Val.ofInt m.val.toInt (-15)

/-- VBCS: a summary in every lane, with its poison bit (R170, R176). -/
def State.broadcastSm (s : State) (f : Nat) (o : VecArgs) : State :=
  let k := o.aux.toNat % 8
  s.vecInsn f (o.arith && decide (o.f < 10)) [o.vd.toNat] [k] [] .alu fun s c t =>
    let n := c.vn o.f
    let m := c.rsm k
    let w := laneWr o.f o.sat m.value
    let c' := (c.issued t .alu 1 1).putLanes (laneBits o.f) o.vd.toNat n (List.replicate n w.bits) m.poison
    let s := s.setCore f (c'.readyV o.vd.toNat (t + 1))
    s.brashReport f (if n = 0 then [] else [w]) false

def execVbcs (f : Fin 64) (o : VecArgs) (s : State) : Host.Outcome State Fault Refusal := .next (s.broadcastSm f o)

def execVbcx (f : Fin 64) (o : VecArgs) (s : State) : Host.Outcome State Fault Refusal :=
  .next (s.laneOp f o true [] [o.vbHi] .alu 1 1 fun c n => List.replicate n (c.rx o.vbHi).toNat)
def execVsld (f : Fin 64) (o : VecArgs) (s : State) : Host.Outcome State Fault Refusal :=
  .next (s.laneOp f o true [o.a] [o.vbHi] .alu 2 1 fun c n =>
    let l := ((c.lanes o.f o.a).take n).drop (c.rx o.vbHi).toNat
    l ++ List.replicate (n - l.length) 0)
def execVslu (f : Fin 64) (o : VecArgs) (s : State) : Host.Outcome State Fault Refusal :=
  .next (s.laneOp f o true [o.a] [o.vbHi] .alu 2 1 fun c n =>
    let k := min n (c.rx o.vbHi).toNat
    List.replicate k 0 ++ (c.lanes o.f o.a).take (n - k))

/-- Elementwise on two values, rounded once (R177). -/
def zipVals (c : CoreSt) (o : VecArgs) (op : Val → Val → Val) : List (Wr × Bool) :=
  ((c.lanes o.f o.a).zip (c.lanes o.f o.b)).map fun x => (laneWr o.f o.sat (op (laneVal o.f x.1) (laneVal o.f x.2)), false)

def mapVals (c : CoreSt) (o : VecArgs) (op : Val → Val) : List (Wr × Bool) :=
  (c.lanes o.f o.a).map fun x => (laneWr o.f o.sat (op (laneVal o.f x)), false)

/-- Order with −0 below +0 (R177). -/
def Val.below (a b : Val) : Bool :=
  a.lt b || (a.eqv b && a.sign && !b.sign)

/-- VMIN and VMAX (R177): a NaN gives the other operand. -/
def vmin (a b : Val) : Val := if a.isNan then b else if b.isNan then a else if Val.below b a then b else a
def vmax (a b : Val) : Val := if a.isNan then b else if b.isNan then a else if Val.below a b then b else a

def execVadd (f : Fin 64) (o : VecArgs) (s : State) : Host.Outcome State Fault Refusal :=
  .next (s.valOp f o o.arith [o.a, o.b] .alu 2 1 fun c _ => zipVals c o Val.add)
def execVsub (f : Fin 64) (o : VecArgs) (s : State) : Host.Outcome State Fault Refusal :=
  .next (s.valOp f o o.arith [o.a, o.b] .alu 2 1 fun c _ => zipVals c o fun a b => a.add b.neg)
def execVmin (f : Fin 64) (o : VecArgs) (s : State) : Host.Outcome State Fault Refusal :=
  .next (s.valOp f o o.arith [o.a, o.b] .alu 2 1 fun c _ => zipVals c o vmin)
def execVmax (f : Fin 64) (o : VecArgs) (s : State) : Host.Outcome State Fault Refusal :=
  .next (s.valOp f o o.arith [o.a, o.b] .alu 2 1 fun c _ => zipVals c o vmax)
def execVabs (f : Fin 64) (o : VecArgs) (s : State) : Host.Outcome State Fault Refusal :=
  .next (s.valOp f o o.arith [o.a] .alu 2 1 fun c _ => mapVals c o Val.abs)
def execVneg (f : Fin 64) (o : VecArgs) (s : State) : Host.Outcome State Fault Refusal :=
  .next (s.valOp f o o.arith [o.a] .alu 2 1 fun c _ => mapVals c o Val.neg)

/-- The conditions of VCMP (R176, R180). -/
def vcond (k : Nat) (a b : Val) : Bool :=
  match k with
  | 0 => a.eqv b
  | 1 => !a.eqv b
  | 2 => a.lt b
  | 3 => a.lt b || a.eqv b
  | 4 => b.lt a
  | 5 => b.lt a || a.eqv b
  | _ => a.isNan || b.isNan

def execVcmp (f : Fin 64) (o : VecArgs) (s : State) : Host.Outcome State Fault Refusal :=
  .next (s.laneOp f o (decide (o.aux.toNat ≤ 6)) [o.a, o.b] [] .alu 2 1 fun c _ =>
    zipCodes c o fun x y => if vcond o.aux.toNat (laneVal o.f x) (laneVal o.f y) then 2 ^ laneBits o.f - 1 else 0)
def execVmul (f : Fin 64) (o : VecArgs) (s : State) : Host.Outcome State Fault Refusal :=
  .next (s.valOp f o o.arith [o.a, o.b] .alu 3 1 fun c _ => zipVals c o Val.mul)
/-- VFMA adds the destination, which is a source too (R176). -/
def execVfma (f : Fin 64) (o : VecArgs) (s : State) : Host.Outcome State Fault Refusal :=
  .next (s.valOp f o o.arith [o.a, o.b, o.vd.toNat] .alu 4 1 fun c _ =>
    ((((c.lanes o.f o.a).zip (c.lanes o.f o.b))).zip (c.lanes o.f o.vd.toNat)).map fun x =>
      (laneWr o.f o.sat (((laneVal o.f x.1.1).mul (laneVal o.f x.1.2)).add (laneVal o.f x.2)), false))

/-- Pairs of lanes as complex values (R168). -/
def pairs {α : Type} : List α → List (α × α)
  | a :: b :: r => (a, b) :: pairs r
  | _ => []

/-- VCMUL and VCMULJ over whole complex values (R171, R179). -/
def State.complexMul (s : State) (f : Nat) (o : VecArgs) (conj : Bool) : State :=
  s.vecInsn f (o.f ∈ [0, 1, 2, 9]) [o.vd.toNat, o.a, o.b] [] [] .alu fun s c t =>
    let n := c.vn o.f / 2 * 2
    let v (i : Nat) := pairs ((c.lanes o.f i).map (laneVal o.f))
    let ws := (((v o.a).zip (v o.b)).flatMap fun x =>
      let bi := if conj then x.2.2.neg else x.2.2
      [laneWr o.f o.sat ((x.1.1.mul x.2.1).add (x.1.2.mul bi).neg), laneWr o.f o.sat ((x.1.1.mul bi).add (x.1.2.mul x.2.1))]).take n
    let c' := (c.issued t .alu 1 1).putLanes (laneBits o.f) o.vd.toNat n (ws.map (·.bits)) (c.vp o.a || c.vp o.b)
    (s.setCore f (c'.readyV o.vd.toNat (t + 4))).brashReport f ws false

def execVcmul (f : Fin 64) (o : VecArgs) (s : State) : Host.Outcome State Fault Refusal := .next (s.complexMul f o false)
def execVcmulj (f : Fin 64) (o : VecArgs) (s : State) : Host.Outcome State Fault Refusal := .next (s.complexMul f o true)

/-- The transcendental operations (R178); DIVZERO on a zero source where `dz`. -/
def State.transOp (s : State) (f : Nat) (o : VecArgs) (lat : Nat) (dz : Bool) (op : Fmt → Nat → Val → Wr) : State :=
  s.valOp f o o.flt [o.a] .trans lat 2 fun c _ =>
    (c.lanes o.f o.a).map fun x =>
      let v := laneVal o.f x
      (op ((Fmt.ofCode o.f).getD .fp32) x v, dz && v.eqv (.fin false 0 0))

def execVexp (f : Fin 64) (o : VecArgs) (s : State) : Host.Outcome State Fault Refusal :=
  .next (s.transOp f o 8 false fun fm x v => vexpWr fm o.sat x v)
def execVrcp (f : Fin 64) (o : VecArgs) (s : State) : Host.Outcome State Fault Refusal :=
  .next (s.transOp f o 6 true fun fm _ v => vrcpWr fm o.sat v)
def execVrsq (f : Fin 64) (o : VecArgs) (s : State) : Host.Outcome State Fault Refusal :=
  .next (s.transOp f o 6 true fun fm x v => vrsqWr fm o.sat x v)

/-- Replace lanes from `at0` on. -/
def spliceLanes (old new : List Nat) (at0 : Nat) : List Nat := old.take at0 ++ new ++ old.drop (at0 + new.length)

/-- VCVT (R181). -/
def State.convertVec (s : State) (f : Nat) (o : VecArgs) : State :=
  let fd := o.vbHi
  let ls := laneCount o.f
  let ld := laneCount fd
  let p := o.aux.toNat % 4
  let ok := o.arith && decide (o.f < 10) && decide (fd < 10) && decide (fd ≠ 7 ∧ fd ≠ 8) && (if ld ≤ ls then decide (p < ls / ld) else decide (p < ld / ls))
  s.vecInsn f ok [o.vd.toNat, o.a] [] [] .alu fun s c t =>
    let n := c.vn o.f
    let src := c.lanes o.f o.a
    let part := if ld ≤ ls then (src.drop (p * ld)).take (min n ld) else src.take (min n ls)
    let ws := part.map fun x => laneWr fd o.sat (laneVal o.f x)
    let w := laneBits fd
    let old := lanesOf w (c.reg o.vd.toNat)
    let lanes := spliceLanes old (ws.map (·.bits)) (if ld ≤ ls then 0 else p * ls)
    let c' := (c.issued t .alu 1 1).setReg o.vd.toNat (ofLanes w lanes) (c.vp o.a || c.vp o.vd.toNat)
    (s.setCore f (c'.readyV o.vd.toNat (t + 3))).brashReport f ws false

def execVcvt (f : Fin 64) (o : VecArgs) (s : State) : Host.Outcome State Fault Refusal := .next (s.convertVec f o)

/-- VCBX (R182). -/
def State.codebookExpand (s : State) (f : Nat) (o : VecArgs) : State :=
  s.vecInsn f (decide (o.f = 7 ∨ o.f = 8)) [o.vd.toNat, o.a, o.b] [] [] .alu fun s c t =>
    let n := min (c.vn o.f) 256
    let cb := lanesOf 16 (c.reg o.b)
    let src := ((c.lanes o.f o.a).drop (o.aux.toNat % 2 * 256)).take n
    let new := src.map fun x => cb.getD (if o.f = 8 then x % 16 else x) 0
    let c' := (c.issued t .alu 1 1).putLanes 16 o.vd.toNat n new (c.vp o.a || c.vp o.b)
    s.setCore f (c'.readyV o.vd.toNat (t + 3))

def execVcbx (f : Fin 64) (o : VecArgs) (s : State) : Host.Outcome State Fault Refusal := .next (s.codebookExpand f o)

/-- VCBQ (R183, R98). -/
def State.codebookQuant (s : State) (f : Nat) (o : VecArgs) : State :=
  let ls := laneCount o.f
  let p := o.aux.toNat % 4
  s.vecInsn f (o.flt && decide (p < 512 / ls)) [o.vd.toNat, o.a, o.b] [] [] .alu fun s c t =>
    let n := c.vn o.f
    let cb := cbVals ((lanesOf 16 (c.reg o.b)).take (if o.aux.toNat / 4 % 2 = 1 then 16 else 256))
    let ws := ((c.lanes o.f o.a).take n).map fun x =>
      let r := codeCb cb (laneVal o.f x).quot
      ({ bits := r.1, outSat := r.2.1, invalid := r.2.2 } : Wr)
    let lanes := spliceLanes (lanesOf 8 (c.reg o.vd.toNat)) (ws.map (·.bits)) (p * ls)
    let c' := (c.issued t .alu 1 1).setReg o.vd.toNat (ofLanes 8 lanes) (c.vp o.a || c.vp o.b || c.vp o.vd.toNat)
    (s.setCore f (c'.readyV o.vd.toNat (t + 6))).brashReport f ws false

def execVcbq (f : Fin 64) (o : VecArgs) (s : State) : Host.Outcome State Fault Refusal := .next (s.codebookQuant f o)

/-! ### Reductions (R184) -/

/-- A reduction: value, kind and what its write reports, from the codes of the first lanes. -/
def State.reduceOp (s : State) (f : Nat) (o : VecArgs) (legal : Bool) (k : List Nat → Word × SmKind × List Wr) : State :=
  let d := o.aux.toNat % 8
  s.vecInsn f (legal && decide (o.f < 10)) [o.a] [d] [] .alu fun s c t =>
    let r := k ((c.lanes o.f o.a).take (c.vn o.f))
    let c' := ((c.issued t .alu 1 1).wsm d { val := r.1, poison := c.vp o.a, kind := r.2.1 }).readySm d (t + 8)
    (s.setCore f c').brashReport f r.2.2 false

/-- Kind of the results on a format's lanes. -/
def smKindOf (fmt : Nat) : SmKind := if fmt ≤ 4 then .f else if fmt = 9 then .q else .i

/-- Signed code of an integer lane. -/
def laneInt (fmt code : Nat) : Int := sInt (laneBits fmt) code

def sumLanes (o : VecArgs) (l : List Nat) : Word × SmKind × List Wr :=
  if o.f ≤ 4 then
    let vs := l.map (laneVal o.f)
    let sum := match vs with
      | [] => Val.fin false 0 0
      | v :: vs => vs.foldl Val.add v
    let w := writeVal .fp32 o.sat sum
    (BitVec.ofNat 32 w.bits, .f, [w])
  else (BitVec.ofInt 32 ((l.map (laneInt o.f)).foldl (· + ·) 0), smKindOf o.f, [])

/-- The extreme lane value; none when no lane counts. -/
def extreme (o : VecArgs) (big : Bool) (l : List Nat) : Option Val :=
  ((l.map (laneVal o.f)).filter fun v => !v.isNan).foldl (fun m v =>
    match m with
    | none => some v
    | some w => some (if big then vmax w v else vmin w v)) none

def extremeLanes (o : VecArgs) (big : Bool) (l : List Nat) : Word × SmKind × List Wr :=
  if o.f ≤ 4 then
    (BitVec.ofNat 32 (writeVal .fp32 false ((extreme o big l).getD (.inf big))).bits, .f, [])
  else
    let r := match l.map (laneInt o.f) with
      | [] => if big then -(2 ^ 31 : Int) else 2 ^ 31 - 1
      | x :: xs => xs.foldl (fun a b => if big then max a b else min a b) x
    (BitVec.ofInt 32 r, smKindOf o.f, [])

/-- Lowest lane equal to the maximum. -/
def argMaxLane (o : VecArgs) (l : List Nat) : Word × SmKind × List Wr :=
  match extreme o true l with
  | none => (0xFFFFFFFF#32, .i, [])
  | some m =>
    match (l.zipIdx).find? fun x => (laneVal o.f x.1).eqv m && ((laneVal o.f x.1).sign == m.sign) with
    | some x => (BitVec.ofNat 32 x.2, .i, [])
    | none => (0xFFFFFFFF#32, .i, [])

def countLanes (l : List Nat) : Nat := (l.filter (· ≠ 0)).length

def execVrsum (f : Fin 64) (o : VecArgs) (s : State) : Host.Outcome State Fault Refusal := .next (s.reduceOp f o o.arith (sumLanes o))
def execVrmax (f : Fin 64) (o : VecArgs) (s : State) : Host.Outcome State Fault Refusal := .next (s.reduceOp f o o.arith (extremeLanes o true))
def execVrmin (f : Fin 64) (o : VecArgs) (s : State) : Host.Outcome State Fault Refusal := .next (s.reduceOp f o o.arith (extremeLanes o false))
def execVramax (f : Fin 64) (o : VecArgs) (s : State) : Host.Outcome State Fault Refusal := .next (s.reduceOp f o o.arith (argMaxLane o))
def execVrcnt (f : Fin 64) (o : VecArgs) (s : State) : Host.Outcome State Fault Refusal :=
  .next (s.reduceOp f o true fun l => (BitVec.ofNat 32 (countLanes l), .i, []))
def execVrany (f : Fin 64) (o : VecArgs) (s : State) : Host.Outcome State Fault Refusal :=
  .next (s.reduceOp f o true fun l => (if countLanes l > 0 then 1 else 0, .i, []))
def execVrall (f : Fin 64) (o : VecArgs) (s : State) : Host.Outcome State Fault Refusal :=
  .next (s.reduceOp f o true fun l => (if countLanes l = l.length then 1 else 0, .i, []))

/-! ### Loads and stores (R185 to R189) -/


/-- Base address without the offset: bits [5:0] are ignored. -/
def vmemBase (c : CoreSt) (o : VMemArgs) : Nat := (c.rx o.xb.toNat).toNat / 64 * 64

/-- Address of a vector load or store, modulo 2³². -/
def vmemAddr (c : CoreSt) (o : VMemArgs) : Nat := lowBits 32 ((vmemBase c o : Int) + o.off.toInt * 64)

/-- Lines of `[a, a + n)`. -/
def linesOf (a n : Nat) : List Nat := if n = 0 then [] else (List.range ((a + n - 1) / 64 - a / 64 + 1)).map fun i => (a / 64 + i) * 64

/-- Bytes of the scratchpad, lines outside the allocation reading 0; whether any was outside, and whether any was poisoned (R170, R188). -/
def State.kernelRead (s : State) (f : Nat) (c : CoreSt) (a n : Nat) : Bytes × Bool × Bool :=
  let bs := (List.range n).map fun i => if s.inFloeAlloc f ((a + i) / 64 * 64) 64 then s.rdByte (floeBase f + a + i) else 0
  let ls := linesOf a n
  (bs, ls.any fun l => !s.inFloeAlloc f l 64, ls.any fun l => s.inFloeAlloc f l 64 && s.readsPoison c.ctx (floeBase f + l) 64)

/-- Store bytes to the output ranges, line by line; a line outside is dropped. The state, and whether any was dropped. -/
def State.kernelWrite (s : State) (f : Nat) (c : CoreSt) (a fmt : Nat) (bs : Bytes) (poison : Bool) : State × Bool :=
  (linesOf a bs.length).foldl (fun (st : State × Bool) l =>
    let lo := max l a
    let hi := min (l + 64) (a + bs.length)
    if c.inOut lo (hi - lo) && decide (hi ≤ 0x40_0000) then
      let s := st.1.wrBytes (floeBase f + lo) ((bs.drop (lo - a)).take (hi - lo))
      (s.kernelTag f c (floeBase f + l) fmt poison, st.2)
    else (st.1, true)) (s, false)

/-- Cut bytes in codes of `w` bits. -/
def codesOf (w : Nat) (bs : Bytes) (n : Nat) : List Nat :=
  (List.range n).map fun i =>
    if w = 4 then bits ((bs.getD (i / 2) 0).toNat) (4 * (i % 2) + 3) (4 * (i % 2)) else leNat ((bs.drop (i * (w / 8))).take (w / 8))

/-- VLD and VLDN: `w` bits an element in memory; `wide` gives the lane. -/
def State.vecLoad (s : State) (f : Nat) (o : VMemArgs) (legal : Bool) (w : Nat) (wide : Nat → Nat) : State :=
  s.vecInsn f (legal && decide (o.f < 10)) [o.vd.toNat] [] [o.xb.toNat] .mem fun s c t =>
    let n := c.vn o.f
    let a := vmemAddr c o
    let b := ceilDiv (n * w) 8
    let occ := max 1 (ceilDiv b 256)
    let r := s.kernelRead f c a b
    let lanes := (codesOf w r.1 n).map wide ++ (c.lanes o.f o.vd.toNat).drop n
    let c' := (c.issued t .mem occ 1).setReg o.vd.toNat (ofLanes (laneBits o.f) lanes) (r.2.1 || r.2.2)
    let s := s.setCore f (c'.readyV o.vd.toNat (t + occ + 6))
    if r.2.1 then s.nativeOob f else s

def execVld (f : Fin 64) (o : VMemArgs) (s : State) : Host.Outcome State Fault Refusal :=
  .next (s.vecLoad f o (decide (o.f ≠ 6 ∧ o.f ≠ 8)) (laneBits o.f) id)
def execVldn (f : Fin 64) (o : VMemArgs) (s : State) : Host.Outcome State Fault Refusal :=
  .next (s.vecLoad f o (decide (o.f = 6 ∨ o.f = 8)) 4 (laneCode o.f))

/-- VST and VSTN: `narrow` gives the stored code of a lane. -/
def State.vecStore (s : State) (f : Nat) (o : VMemArgs) (legal : Bool) (w : Nat) (narrow : Nat → Wr) : State :=
  s.vecInsn f (legal && decide (o.f < 10)) [o.vd.toNat] [] [o.xb.toNat] .mem fun s c t =>
    let n := c.vn o.f
    let a := vmemAddr c o
    let occ := max 1 (ceilDiv (ceilDiv (n * w) 8) 256)
    let ws := ((c.lanes o.f o.vd.toNat).take n).map narrow
    let bs := packCodes w (ws.map (·.bits))
    let s := s.setCore f { c.issued t .mem occ 1 with last := max c.last (t + occ) }
    let r := s.kernelWrite f c a o.f bs (c.vp o.vd.toNat)
    let s := r.1.brashReport f ws false
    if r.2 then s.nativeOob f else s

def execVst (f : Fin 64) (o : VMemArgs) (s : State) : Host.Outcome State Fault Refusal :=
  .next (s.vecStore f o (decide (o.f ≠ 6 ∧ o.f ≠ 8)) (laneBits o.f) fun x => { bits := x })

/-- Narrowing of a lane (R186). -/
def narrowLane (o : VMemArgs) (x : Nat) : Wr :=
  if o.f = 6 then writeInt 4 o.sat (sInt 8 x) else { bits := x % 16, outOvf := decide (x > 15) }

def execVstn (f : Fin 64) (o : VMemArgs) (s : State) : Host.Outcome State Fault Refusal :=
  .next (s.vecStore f o (decide (o.f = 6 ∨ o.f = 8)) 4 (narrowLane o))

/-- Index register and legality of VGATH and VSCAT (R185, R187). -/
def vmemIdx (o : VMemArgs) : Nat := o.off.toNat / 256
def vmemIdxOk (o : VMemArgs) : Bool := o.off.toNat % 256 = 0 && o.f ≠ 6 && o.f ≠ 8 && decide (o.f < 10)

/-- Byte addresses of the elements of a gather or scatter. -/
def idxAddrs (c : CoreSt) (o : VMemArgs) (n : Nat) : List Nat :=
  ((lanesOf 32 (c.reg (vmemIdx o))).take n).map fun i => (vmemBase c o + i * (laneBits o.f / 8)) % 2 ^ 32

/-- VGATH (R187). -/
def State.vecGather (s : State) (f : Nat) (o : VMemArgs) : State :=
  s.vecInsn f (vmemIdxOk o) [o.vd.toNat, vmemIdx o] [] [o.xb.toNat] .mem fun s c t =>
    let n := min (c.vn o.f) 128
    let occ := ceilDiv n 8
    let rs := (idxAddrs c o n).map fun a => s.kernelRead f c a (laneBits o.f / 8)
    let lanes := rs.map (fun r => leNat r.1) ++ (c.lanes o.f o.vd.toNat).drop n
    let oob := rs.any (·.2.1)
    let p := oob || rs.any (·.2.2) || c.vp (vmemIdx o)
    let c' := (c.issued t .mem occ 1).setReg o.vd.toNat (ofLanes (laneBits o.f) lanes) p
    let s := s.setCore f (c'.readyV o.vd.toNat (t + occ + 7))
    if oob then s.nativeOob f else s

def execVgath (f : Fin 64) (o : VMemArgs) (s : State) : Host.Outcome State Fault Refusal := .next (s.vecGather f o)

/-- VSCAT: the higher lane wins, and two lanes that name one element set SCAT_DUP (R187). -/
def State.vecScatter (s : State) (f : Nat) (o : VMemArgs) : State :=
  s.vecInsn f (vmemIdxOk o) [o.vd.toNat, vmemIdx o] [] [o.xb.toNat] .mem fun s c t =>
    let n := min (c.vn o.f) 128
    let occ := ceilDiv n 8
    let as := idxAddrs c o n
    let w := laneBits o.f
    let s := s.setCore f { c.issued t .mem occ 1 with last := max c.last (t + occ) }
    let r := (as.zip (c.lanes o.f o.vd.toNat)).foldl (fun (st : State × Bool) x =>
      let q := st.1.kernelWrite f c x.1 o.f (leBytes (w / 8) x.2) (c.vp o.vd.toNat)
      (q.1, st.2 || q.2)) (s, false)
    let s := if as.dedup.length = as.length then r.1 else r.1.raise (pgBrash f) F.BRASH_NUM_STAT_SCAT_DUP
    if r.2 then s.nativeOob f else s

def execVscat (f : Fin 64) (o : VMemArgs) (s : State) : Host.Outcome State Fault Refusal := .next (s.vecScatter f o)

end Sys2Proof.Machine
end

