-- ==== Sys2Proof/Machine/Spar.lean ====
section
/-! DEFINITION. The Spar DSP (R203 to R234): data slots, arithmetic, the exposed pipeline, repeat blocks, interrupts and kernels. -/

namespace Sys2Proof.Machine

def State.spar (s : State) (f : Nat) : SparSt := (s.floe f).spar

def State.setSpar (s : State) (f : Nat) (p : SparSt) : State := s.setFloe f { s.floe f with spar := p }

/-! ### Registers (R204) -/

def SparSt.rt (p : SparSt) (i : Nat) : Nat := Tab.at p.t i 0
def SparSt.wt (p : SparSt) (i v : Nat) : SparSt := { p with t := Tab.set p.t i 0 (v % 2 ^ 16) }
def SparSt.ti (p : SparSt) (i : Nat) : Int := sInt 16 (p.rt i)
def SparSt.ptr (p : SparSt) (i : Nat) : Nat := Tab.at p.p i 0
def SparSt.setPtr (p : SparSt) (i v : Nat) : SparSt := { p with p := Tab.set p.p i 0 (v % 2 ^ 15) }
def SparSt.acc (p : SparSt) (a : Bool) : Int := (if a then p.a1 else p.a0).toInt
def SparSt.setAcc (p : SparSt) (a : Bool) (v : Int) : SparSt :=
  if a then { p with a1 := BitVec.ofInt 40 v } else { p with a0 := BitVec.ofInt 40 v }

/-- SR (R204). -/
def SparSt.sr (p : SparSt) : Nat :=
  p.z.toNat + 2 * p.n.toNat + 4 * p.v.toNat + 8 * p.ie.toNat + 16 * p.en.toNat + 128 * p.pend.toNat

/-- A late write takes effect (R219). -/
def SparSt.apply (p : SparSt) : SparLate → SparSt
  | .t i v => p.wt i v
  | .p i v => p.setPtr i v
  | .m i v => { p with m := Tab.set p.m i 0 (v % 2 ^ 16) }
  | .b i v => { p with b := Tab.set p.b i 0 (v % 2 ^ 15) }
  | .l i v => { p with l := Tab.set p.l i 0 (v % 2 ^ 15) }

def SparSt.settle (p : SparSt) : SparSt := { p.late.foldl SparSt.apply p with late := [] }

/-- Set Z and N from a value written, and V where given (R217). -/
def SparSt.flags (p : SparSt) (v : Int) (ov : Option Bool) : SparSt :=
  { p with z := decide (v = 0), n := decide (v < 0), v := ov.getD p.v }

/-! ### Interrupts pending (R222, R223) -/

/-- The hold-off of a source runs from the first cycle in which it is pending and enabled, IE is 1 and no handler runs. -/
def SparSt.watch (p : SparSt) : SparSt :=
  let on (i : Nat) : Bool := p.pend.getLsbD i && p.en.getLsbD i && p.ie && !p.inHandler
  { p with hold := (List.range 3).foldl (fun h i =>
      if on i then (if Tab.at h i 0 = 0 then Tab.set h i 0 p.cyc else h) else Tab.set h i 0 0) p.hold }

/-- An interrupt source fires (R222). -/
def State.sparRaise (s : State) (f i : Nat) : State :=
  let p := s.spar f
  if p.pend.getLsbD i then (s.bump (pgSpar f) F.SPAR_IRQ_LOST_CNT).raise (pgSpar f) F.SPAR_ERR_STAT_IRQ_LOST
  else s.setSpar f { p with pend := p.pend ||| (1#3 <<< i) }.watch

/-! ### Ends -/

/-- Address of a data-memory word. -/
def sparWord (f w : Nat) : Nat := floeBase f + offDmem + 2 * w

/-- Mark an output range, in words (R227, R228). -/
def State.sparPoison (s : State) (f : Nat) (r : Nat × Nat) : State :=
  (List.range (r.2 / 32)).foldl (fun s i =>
    let a := sparWord f (r.1 + 32 * i)
    s.setTag a (Tag.addPoison (s.tagAt a) true)) s

/-- The kernel leaves Spar at a count; pending interrupts are dropped (R228). -/
def State.sparLeaves (s : State) (f t : Nat) : State :=
  let p := s.spar f
  let drop := p.pend.getLsbD 0 |>.toNat
  let drop := drop + (p.pend.getLsbD 1).toNat + (p.pend.getLsbD 2).toNat
  let s := s.setSpar f { p.settle with phase := .idle, pend := 0, turn := none, rep := none, inHandler := false, hold := [] }
  let s := s.bumpN (pgSpar f) F.SPAR_IRQ_DROP_CNT drop
  ((s.wf (pgSpar f) F.SPAR_KCYC t).tally (pgSpar f) F.SPAR_BUSY_CYC_LO (4 + t)).workDone p.ctx

def State.sparStopped (s : State) (f t : Nat) (flag : Fld) (cls : Nat) : State :=
  let p := s.spar f
  let s := (s.sparPoison f p.out0).sparPoison f p.out1
  let s := (s.bump (pgSpar f) F.SPAR_KFAULT_CNT).fault (pgSpar f) flag cls 0 p.ctx.reqId
  s.sparLeaves f t

/-- WC_DECL is reached (R228). -/
def State.sparOver (s : State) (f : Nat) : State :=
  (s.sparStopped f (s.spar f).decl F.SPAR_ERR_STAT_SPAR_OVERRUN 4).raise (pgCore f) F.FLOE_ERR_STAT_NATIVE_OVERRUN

/-- An illegal instruction reaches issue (R228). -/
def State.sparIllegal (s : State) (f : Nat) : State := s.sparStopped f (s.spar f).cyc F.SPAR_ERR_STAT_SPAR_ILLEGAL 5

/-! ### Issue -/

/-- What takes place after the two delay slots (R219, R224, R228). -/
def SparSt.turned (p : SparSt) : SparSt :=
  match p.turn with
  | some (1, .jump t) => { p with turn := none, pc := t }
  | some (1, .reti) =>
    { p with turn := none, pc := p.ret, z := p.retZ, n := p.retN, v := p.retV, ie := true, inHandler := false }
  | some (1, .stop) => { p with turn := some (0, .stop) }
  | some (n + 1, k) => { p with turn := some (n, k) }
  | _ => p

/-- The address of the next instruction, through repeat blocks and delay slots (R219, R221). -/
def SparSt.advance (p : SparSt) : SparSt :=
  let q := { p with lastPc := p.pc, cyc := p.cyc + 1 }
  let q :=
    match p.rep with
    | some (first, last, n) =>
      if p.pc = last then (if n > 1 then { q with pc := first, rep := some (first, last, n - 1) } else { q with pc := p.pc + 1, rep := none })
      else { q with pc := p.pc + 1 }
    | none => { q with pc := p.pc + 1 }
  q.turned

/-- Whether a C-class instruction other than NOP may not stand here (R220). -/
def SparSt.sheltered (p : SparSt) : Bool := p.turn.isSome || p.rep.isSome

/-- One instruction issues: `ctl` marks the C class other than NOP. `k` reads the registers as this instruction sees them and writes onto those
with the previous instruction's late writes applied; it answers its own late writes. -/
def State.sparIssue (s : State) (f : Nat) (ctl : Bool) (k : State → SparSt → SparSt → State × SparSt × List SparLate) : State :=
  let p := s.spar f
  if p.phase ≠ .running ∨ (p.turn.map (·.1)) = some 0 then s
  else if p.cyc > p.decl then s.sparOver f
  else if ctl ∧ p.sheltered then s.sparIllegal f
  else
    let r := k s p p.settle
    r.1.setSpar f ({ r.2.1 with late := r.2.2 }.advance).watch

/-! ### Data slots (R207, R208, R229) -/

/-- Post-modify (R207). -/
def SparSt.postMod (p : SparSt) (i : Nat) (sel : Bool) : Nat :=
  let k := i % 4
  let m : Int := if sel then sInt 16 (Tab.at p.m k 0) else 1
  let q : Int := p.ptr i + m
  let b : Int := ((Tab.at p.b k 0 : Nat) : Int)
  let l : Int := ((Tab.at p.l k 0 : Nat) : Int)
  let q := if l = 0 then q else if q ≥ b + l then q - l else if q < b then q + l else q
  lowBits 15 q

def SparSt.inOut (p : SparSt) (w : Nat) : Bool :=
  (p.out0.1 ≤ w && w < p.out0.1 + p.out0.2) || (p.out1.1 ≤ w && w < p.out1.1 + p.out1.2)

/-- A store (R229). -/
def State.sparStore (s : State) (f : Nat) (p : SparSt) (w v : Nat) : State :=
  if p.inOut w then
    let a := sparWord f w
    let s := s.wrLe a 2 v
    let src := s.tagAt (sparWord f p.inTag) &&& ~~~(1#64 <<< 63)
    let t := newTag (p.tagT % 4096) 9 (decide (p.tagT / 32768 % 2 = 1)) (p.latch || s.poisonAt a) src
    (s.setTag a (Tag.addPoison t (p.ctx.failed.contains (Tag.cell t)))).markLine p.ctx a
  else
    let s := (s.bump (pgSpar f) F.SPAR_OOB_CNT).raise (pgSpar f) F.SPAR_ERR_STAT_SPAR_OOB
    let q := s.spar f
    if q.oobRec then s else (s.setSpar f { q with oobRec := true }).post (pgSpar f) F.SPAR_ERR_STAT_SPAR_OOB 6 0 p.ctx.reqId

/-- The two slots of an M-class instruction: loads see the memory before the stores, and the Y store lands last (R208). -/
def State.sparSlots (s : State) (f : Nat) (p q : SparSt) (x y : SparSlot) : State × SparSt × List SparLate :=
  let xi := x.p.toNat
  let yi := 4 + y.p.toNat
  let load (sl : SparSlot) (i : Nat) : List SparLate :=
    if sl.en && !sl.st then [.t sl.t.toNat (s.rdLe (sparWord f (p.ptr i)) 2)] else []
  let pois (sl : SparSlot) (i : Nat) : Bool := sl.en && !sl.st && s.readsPoison p.ctx (sparWord f (p.ptr i)) 2
  let late := load x xi ++ load y yi
  let latch := p.latch || pois x xi || pois y yi
  let s := if x.en && x.st then s.sparStore f p (p.ptr xi) (p.rt x.t.toNat) else s
  let s := if y.en && y.st then s.sparStore f p (p.ptr yi) (p.rt y.t.toNat) else s
  let q := if x.en then q.setPtr xi (p.postMod xi x.ms) else q
  let q := if y.en then q.setPtr yi (p.postMod yi y.ms) else q
  (s, { q with latch := latch, oobRec := q.oobRec || (s.spar f).oobRec }, late)

/-! ### Arithmetic (R212 to R216) -/

/-- A 40-bit result: the value written and whether it was out of range (R212). -/
def acc40 (sat : Bool) (v : Int) : Int × Bool :=
  let hi : Int := 2 ^ 39 - 1
  let lo : Int := -(2 ^ 39)
  if v > hi then (if sat then hi else sInt 40 (lowBits 40 v), true)
  else if v < lo then (if sat then lo else sInt 40 (lowBits 40 v), true)
  else (v, false)

/-- Write an accumulator under R212. -/
def State.putAcc40 (s : State) (f : Nat) (q : SparSt) (a sat : Bool) (v : Int) : State × SparSt :=
  let r := acc40 sat v
  let s := if r.2 then (s.bump (pgSpar f) F.SPAR_ACC_OVF_CNT).raise (pgSpar f) F.SPAR_NUM_STAT_ACC_OVF else s
  (s, (q.setAcc a r.1).flags r.1 (some r.2))

/-- Write a data register under R213. -/
def State.putT (s : State) (f : Nat) (q : SparSt) (rd : Nat) (sat : Bool) (v : Int) : State × SparSt :=
  let w := writeInt 16 sat v
  let o := w.outSat || w.outOvf
  let s := if w.outSat then s.raise (pgSpar f) F.SPAR_NUM_STAT_OUT_SAT else s
  let s := if w.outOvf then s.raise (pgSpar f) F.SPAR_NUM_STAT_OUT_OVF else s
  let s := if o then s.bump (pgSpar f) F.SPAR_OUT_OVF_CNT else s
  (s, (q.wt rd w.bits).flags (sInt 16 w.bits) (some o))

/-- The product of R212. -/
def SparSt.product (p : SparSt) (o : SparM) : Int :=
  let v := p.ti o.ta.toNat * p.ti o.tb.toNat
  if o.frac then 2 * v else v

/-- An M-class instruction: `op` gives the accumulator's exact new value from the old one and the product. -/
def State.sparM (s : State) (f : Nat) (o : SparM) (op : Option (Int → Int → Int)) : State :=
  s.sparIssue f false fun s p q =>
    let r := s.sparSlots f p q o.x o.y
    match op with
    | none => r
    | some g =>
      let w := r.1.putAcc40 f r.2.1 o.acc o.sat (g (p.acc o.acc) (p.product o))
      (w.1, w.2, r.2.2)

def execPmov (f : Fin 64) (o : SparM) (s : State) : Host.Outcome State Fault Refusal := .next (s.sparM f o none)
def execMpy (f : Fin 64) (o : SparM) (s : State) : Host.Outcome State Fault Refusal := .next (s.sparM f o (some fun _ p => p))
def execMac (f : Fin 64) (o : SparM) (s : State) : Host.Outcome State Fault Refusal := .next (s.sparM f o (some fun a p => a + p))
def execMsu (f : Fin 64) (o : SparM) (s : State) : Host.Outcome State Fault Refusal := .next (s.sparM f o (some fun a p => a - p))

/-- An A-class instruction that writes the visible registers at once. -/
def State.sparA (s : State) (f : Nat) (k : State → SparSt → SparSt → State × SparSt) : State :=
  s.sparIssue f false fun s p q => let r := k s p q; (r.1, r.2, [])

/-- An A-class instruction with a late write (R219). -/
def State.sparLateA (s : State) (f : Nat) (k : SparSt → SparLate) : State :=
  s.sparIssue f false fun s p q => (s, q, [k p])

/-- Bitwise operations (R211). -/
def State.sparBit (s : State) (f : Nat) (o : SparA) (op : Nat → Nat → Nat) : State :=
  s.sparA f fun s p q =>
    let v := op (p.rt o.ra.toNat) (p.rt o.rb.toNat)
    (s, (q.wt o.rd.toNat v).flags (sInt 16 v) (some false))

/-- Minimum and maximum set Z and N (R211). -/
def State.sparPick (s : State) (f : Nat) (o : SparA) (op : Int → Int → Int) : State :=
  s.sparA f fun s p q =>
    let v := op (p.ti o.ra.toNat) (p.ti o.rb.toNat)
    (s, (q.wt o.rd.toNat (lowBits 16 v)).flags v none)

def execSparAdd (f : Fin 64) (o : SparA) (s : State) : Host.Outcome State Fault Refusal :=
  .next (s.sparA f fun s p q => s.putT f q o.rd.toNat o.sat (p.ti o.ra.toNat + p.ti o.rb.toNat))
def execSparSub (f : Fin 64) (o : SparA) (s : State) : Host.Outcome State Fault Refusal :=
  .next (s.sparA f fun s p q => s.putT f q o.rd.toNat o.sat (p.ti o.ra.toNat - p.ti o.rb.toNat))
def execSparAnd (f : Fin 64) (o : SparA) (s : State) : Host.Outcome State Fault Refusal := .next (s.sparBit f o fun a b => a &&& b)
def execSparOr (f : Fin 64) (o : SparA) (s : State) : Host.Outcome State Fault Refusal := .next (s.sparBit f o fun a b => a ||| b)
def execSparXor (f : Fin 64) (o : SparA) (s : State) : Host.Outcome State Fault Refusal := .next (s.sparBit f o fun a b => a ^^^ b)
def execSparMin (f : Fin 64) (o : SparA) (s : State) : Host.Outcome State Fault Refusal := .next (s.sparPick f o min)
def execSparMax (f : Fin 64) (o : SparA) (s : State) : Host.Outcome State Fault Refusal := .next (s.sparPick f o max)
def execSparAbs (f : Fin 64) (o : SparA) (s : State) : Host.Outcome State Fault Refusal :=
  .next (s.sparA f fun s p q => s.putT f q o.rd.toNat o.sat (p.ti o.ra.toNat).natAbs)
def execSparNeg (f : Fin 64) (o : SparA) (s : State) : Host.Outcome State Fault Refusal :=
  .next (s.sparA f fun s p q => s.putT f q o.rd.toNat o.sat (-(p.ti o.ra.toNat)))
def execSparAddi (f : Fin 64) (o : SparA) (s : State) : Host.Outcome State Fault Refusal :=
  .next (s.sparA f fun s p q => s.putT f q o.rd.toNat o.sat (p.ti o.ra.toNat + o.imm.toInt))
def execLdi (f : Fin 64) (o : SparA) (s : State) : Host.Outcome State Fault Refusal :=
  .next (s.sparA f fun s _ q => (s, q.wt o.rd.toNat o.imm.toNat))
def execLdp (f : Fin 64) (o : SparA) (s : State) : Host.Outcome State Fault Refusal :=
  .next (s.sparLateA f fun _ => .p o.rd.toNat o.imm.toNat)
def execLdm (f : Fin 64) (o : SparA) (s : State) : Host.Outcome State Fault Refusal :=
  .next (s.sparLateA f fun _ => .m (o.rd.toNat % 4) o.imm.toNat)
def execLdb (f : Fin 64) (o : SparA) (s : State) : Host.Outcome State Fault Refusal :=
  .next (s.sparLateA f fun _ => .b (o.rd.toNat % 4) o.imm.toNat)
def execLdl (f : Fin 64) (o : SparA) (s : State) : Host.Outcome State Fault Refusal :=
  .next (s.sparLateA f fun _ => .l (o.rd.toNat % 4) o.imm.toNat)
def execMovp (f : Fin 64) (o : SparA) (s : State) : Host.Outcome State Fault Refusal :=
  .next (s.sparLateA f fun p => .p o.rd.toNat (p.rt o.ra.toNat))
def execMovt (f : Fin 64) (o : SparA) (s : State) : Host.Outcome State Fault Refusal :=
  .next (s.sparA f fun s p q => (s, q.wt o.rd.toNat (p.ptr o.ra.toNat)))

/-- Division of an accumulator by `2^k`: convergent on the magnitude, or toward minus infinity (R50, R214, R216). -/
def shiftDown (rnd : Bool) (a : Int) (k : Nat) : Int :=
  if rnd then (if a < 0 then -(rneShr a.natAbs k : Int) else (rneShr a.natAbs k : Int)) else a / 2 ^ k

def execMovh (f : Fin 64) (o : SparA) (s : State) : Host.Outcome State Fault Refusal :=
  .next (s.sparA f fun s p q => s.putT f q o.rd.toNat o.sat (shiftDown o.rnd (p.acc o.acc) 16))
def execMovl (f : Fin 64) (o : SparA) (s : State) : Host.Outcome State Fault Refusal :=
  .next (s.sparA f fun s p q => (s, q.wt o.rd.toNat (lowBits 16 (p.acc o.acc))))
def execMova (f : Fin 64) (o : SparA) (s : State) : Host.Outcome State Fault Refusal :=
  .next (s.sparA f fun s p q => let v := p.ti o.ra.toNat * 2 ^ 16; (s, (q.setAcc o.acc v).flags v none))
def execClr (f : Fin 64) (o : SparA) (s : State) : Host.Outcome State Fault Refusal :=
  .next (s.sparA f fun s _ q => (s, (q.setAcc o.acc 0).flags 0 none))
def execAdda (f : Fin 64) (o : SparA) (s : State) : Host.Outcome State Fault Refusal :=
  .next (s.sparA f fun s p q => s.putAcc40 f q o.acc o.sat (p.acc o.acc + p.acc (!o.acc)))
def execSuba (f : Fin 64) (o : SparA) (s : State) : Host.Outcome State Fault Refusal :=
  .next (s.sparA f fun s p q => s.putAcc40 f q o.acc o.sat (p.acc o.acc - p.acc (!o.acc)))

/-- ASH (R216). -/
def ashValue (rnd : Bool) (a : Int) (imm : BitVec 16) : Int :=
  let k := sInt 6 imm.toNat
  if k ≥ 0 then a * 2 ^ k.toNat else shiftDown rnd a (-k).toNat

def execAsh (f : Fin 64) (o : SparA) (s : State) : Host.Outcome State Fault Refusal :=
  .next (s.sparA f fun s p q => s.putAcc40 f q o.acc o.sat (ashValue o.rnd (p.acc o.acc) o.imm))

/-- Leading bits equal to bit 39 (R215). -/
def leadBits (a : Nat) : Nat → Nat
  | 0 => 40
  | n + 1 => if a.testBit n = a.testBit 39 then leadBits a n else 39 - n

/-- EXP (R215). -/
def sparExpOf (a : Int) : Int :=
  let l := leadBits (lowBits 40 a) 39
  if l = 40 then 31 else (l : Int) - 9

def execSparExp (f : Fin 64) (o : SparA) (s : State) : Host.Outcome State Fault Refusal :=
  .next (s.sparA f fun s p q => (s, q.wt o.rd.toNat (lowBits 16 (sparExpOf (p.acc o.acc)))))

/-- NORM (R215). -/
def State.sparNorm (s : State) (f : Nat) (o : SparA) : State :=
  s.sparA f fun s p q =>
    let a := p.acc o.acc
    let k := sparExpOf a
    let v := if k ≥ 0 then sInt 40 (lowBits 40 (a * 2 ^ k.toNat)) else shiftDown true a (-k).toNat
    (s, ((q.setAcc o.acc v).wt o.rd.toNat (lowBits 16 k)).flags v none)

def execNorm (f : Fin 64) (o : SparA) (s : State) : Host.Outcome State Fault Refusal := .next (s.sparNorm f o)

/-- MOVS (R211). -/
def execMovs (f : Fin 64) (o : SparA) (s : State) : Host.Outcome State Fault Refusal :=
  .next (s.sparA f fun s p q =>
    (s, q.wt o.rd.toNat (match o.imm.toNat with
      | 0 => p.sr
      | 1 => p.cause
      | 2 => p.mbox.toNat
      | _ => 0)))

/-! ### Control (R219 to R221) -/

def SparSt.inCode (p : SparSt) (a n : Nat) : Bool := p.codeBase ≤ a && a + n ≤ p.codeBase + p.codeLen

/-- A control instruction: it advances, then takes its turn; `none` makes it illegal. -/
def State.sparCtl (s : State) (f : Nat) (k : SparSt → Option (SparSt → SparSt)) : State :=
  let p := s.spar f
  if p.phase = .running ∧ (p.turn.map (·.1)) ≠ some 0 ∧ p.cyc ≤ p.decl ∧ !p.sheltered then
    match k p with
    | none => s.sparIllegal f
    | some g => s.setSpar f (g (p.settle.advance)).watch
  else s.sparIssue f true fun s _ q => (s, q, [])

/-- A branch: two delay slots, then the target (R219, R220). -/
def State.sparBranch (s : State) (f : Nat) (target : BitVec 14) (cond : SparSt → Bool) : State :=
  s.sparCtl f fun p =>
    if cond p then (if p.inCode target.toNat 1 then some fun q => { q with turn := some (2, .jump target.toNat) } else none)
    else some fun q => { q with turn := some (2, .jump (p.pc + 3)) }

def execSparB (f : Fin 64) (target : BitVec 14) (s : State) : Host.Outcome State Fault Refusal := .next (s.sparBranch f target fun _ => true)
def execBz (f : Fin 64) (target : BitVec 14) (s : State) : Host.Outcome State Fault Refusal := .next (s.sparBranch f target fun p => p.z)
def execBnz (f : Fin 64) (target : BitVec 14) (s : State) : Host.Outcome State Fault Refusal := .next (s.sparBranch f target fun p => !p.z)
def execBn (f : Fin 64) (target : BitVec 14) (s : State) : Host.Outcome State Fault Refusal := .next (s.sparBranch f target fun p => p.n)
def execBnn (f : Fin 64) (target : BitVec 14) (s : State) : Host.Outcome State Fault Refusal := .next (s.sparBranch f target fun p => !p.n)
def execBv (f : Fin 64) (target : BitVec 14) (s : State) : Host.Outcome State Fault Refusal := .next (s.sparBranch f target fun p => p.v)

/-- A repeat block (R221). A count of 0 skips the body; `lo` is the least count the form takes. -/
def State.sparRepeat (s : State) (f len : Nat) (lo : Nat) (count : SparSt → Nat) : State :=
  s.sparCtl f fun p =>
    let n := count p
    if n > 4096 ∨ n < lo ∨ !p.inCode (p.pc + 1) len then none
    else if n = 0 then some fun q => { q with pc := p.pc + 1 + len }
    else some fun q => { q with rep := some (p.pc + 1, p.pc + len, n) }

def execRep (f : Fin 64) (lenM1 : BitVec 8) (count : BitVec 13) (s : State) : Host.Outcome State Fault Refusal :=
  .next (s.sparRepeat f (lenM1.toNat + 1) 1 fun _ => count.toNat)
def execRept (f : Fin 64) (lenM1 : BitVec 8) (t : BitVec 3) (s : State) : Host.Outcome State Fault Refusal :=
  .next (s.sparRepeat f (lenM1.toNat + 1) 0 fun p => p.rt t.toNat)
def execSetie (f : Fin 64) (ie : Bool) (mask : BitVec 3) (s : State) : Host.Outcome State Fault Refusal :=
  .next (s.sparCtl f fun _ => some fun q => { q with ie := ie, en := mask })
def execReti (f : Fin 64) (s : State) : Host.Outcome State Fault Refusal :=
  .next (s.sparCtl f fun _ => some fun q => { q with turn := some (2, .reti) })
def execSparEnd (f : Fin 64) (s : State) : Host.Outcome State Fault Refusal :=
  .next (s.sparCtl f fun _ => some fun q => { q with turn := some (2, .stop) })
def execNop (f : Fin 64) (s : State) : Host.Outcome State Fault Refusal := .next (s.sparIssue f false fun s _ q => (s, q, []))

/-! ### Kernels (R226 to R228) -/

/-- A Spar header (R226). -/
structure SparHdr where
  entry : Nat
  base : Nat
  len : Nat
  decl : Nat
  holdDecl : Nat
  tagT : Nat
  inTag : Nat
  out0 : Nat × Nat
  out1 : Nat × Nat
  irq : Nat
  vec : Nat
  tick : Nat
deriving DecidableEq, Repr

def readSparHdr (s : State) (f w : Nat) : SparHdr :=
  let r (o n : Nat) := s.rdLe (sparWord f w + o) n
  { entry := r 0 2, base := r 2 2, len := r 4 2, decl := r 6 4, holdDecl := r 10 4, tagT := r 14 2, inTag := r 16 2,
    out0 := (r 18 2, r 20 2), out1 := (r 22 2, r 24 2), irq := r 26 2, vec := r 28 2, tick := r 30 2 }

def sparOutOk (r : Nat × Nat) : Bool := r.1 % 32 = 0 && r.2 % 32 = 0 && (r.2 = 0 || r.1 + r.2 ≤ 32768)

/-- The limits of R226. -/
def SparHdr.ok (h : SparHdr) : Bool :=
  1 ≤ h.len && h.base + h.len ≤ 16384 && h.base ≤ h.entry && h.entry < h.base + h.len && h.base ≤ h.vec && h.vec < h.base + h.len &&
    1 ≤ h.decl && h.inTag < 32768 && sparOutOk h.out0 && sparOutOk h.out1

/-- A Spar kernel's start (R227, R476). -/
def State.startSpar (s : State) (ctx : WorkCtx) (f off : Nat) : State :=
  let g := pgSpar f
  let off := off % 32768 / 16 * 16
  let p := s.spar f
  if !s.works g then (s.discardWork g ctx.reqId).workRefused ctx
  else if p.phase ≠ .idle then s.fault g F.SPAR_ERR_STAT_KSTART_OVERRUN 4 0 ctx.reqId
  else
    let h := readSparHdr s f off
    let s := ((s.wf g F.SPAR_KHDR off).wf g F.SPAR_KDECL h.decl).wf g F.SPAR_HOLDOFF_DECL h.holdDecl
    if h.ok then
      (s.wf g F.SPAR_HOLDOFF_MAX 0).setSpar f { p with
        phase := .preload, hdr := off, entry := h.entry, codeBase := h.base, codeLen := h.len, decl := h.decl, holdDecl := h.holdDecl
        tagT := h.tagT, inTag := h.inTag / 32 * 32, out0 := h.out0, out1 := h.out1, vec := h.vec, tickPeriod := h.tick, ctx := ctx
        oobRec := false, holdRec := false }
    else
      let s := if sparOutOk h.out0 then s.sparPoison f h.out0 else s
      let s := if sparOutOk h.out1 then s.sparPoison f h.out1 else s
      ((s.bump g F.SPAR_KFAULT_CNT).fault g F.SPAR_ERR_STAT_SPAR_ILLEGAL 5 0 ctx.reqId).workRefused ctx

/-- A write of SPAR_KSTART (R227). -/
def State.wrSparKstart (s : State) (f : Nat) (v : Word) : State :=
  if F.SPAR_KSTART_GO.of v = 0 then s
  else if (s.floePart f).isSome then s.raise (pgSpar f) F.SPAR_ERR_STAT_KSTART_DENIED
  else s.startSpar {} f (F.SPAR_KSTART_OFFSET.of v)

def execSparKstart (a : Agent) (f : Fin 64) (v : Word) (s : State) : Host.Outcome State Fault Refusal :=
  .next (s.onReady a (pgSpar f) 0x040 fun s => s.wrSparKstart f v)

/-- What the preload leaves (R227); an uncorrectable fetch of ENTRY makes it illegal (R209). -/
def State.sparPreloaded (s : State) (f : Nat) (ue : Bool) : State :=
  let p := s.spar f
  if p.phase = .preload then
    let h := readSparHdr s f p.hdr
    let s := s.setSpar f { p with
      t := [], a0 := 0, a1 := 0, p := [], m := [], b := [], l := [], z := false, n := false, v := false
      ie := decide (h.irq / 8 % 2 = 1), en := BitVec.ofNat 3 h.irq, pend := 0, pc := p.entry, lastPc := p.entry, late := [], turn := none
      rep := none, inHandler := false, hold := [], cyc := 1, phase := .running
      latch := s.readsPoison p.ctx (sparWord f p.inTag) 64 }
    if ue then (s.fault (pgSpar f) F.SPAR_ERR_STAT_IMEM_UE 1 0 p.ctx.reqId).sparIllegal f else s
  else s

def execSparPreloadDone (f : Fin 64) (imemUe : Bool) (s : State) : Host.Outcome State Fault Refusal := .next (s.sparPreloaded f imemUe)

/-- The kernel ends, 4 cycles after END issued (R228). -/
def State.sparEnded (s : State) (f : Nat) : State :=
  let p := s.spar f
  if p.phase = .running ∧ p.turn = some (0, .stop) then
    if p.cyc + 1 > p.decl then s.sparOver f
    else (s.bump (pgSpar f) F.SPAR_KDONE_CNT).sparLeaves f (p.cyc + 1)
  else s

def execSparKernelEnd (f : Fin 64) (s : State) : Host.Outcome State Fault Refusal := .next (s.sparEnded f)

def State.sparOverAt (s : State) (f : Nat) : State := if (s.spar f).phase = .running then s.sparOver f else s

def execSparOverrun (f : Fin 64) (s : State) : Host.Outcome State Fault Refusal := .next (s.sparOverAt f)

/-- A write of SPAR_MBOX: only while BUSY (R222, R234). -/
def State.wrMbox (s : State) (f : Nat) (v : Word) : State :=
  let p := s.spar f
  if p.phase = .idle then s else (s.setSpar f { p with mbox := BitVec.ofNat 16 v.toNat }).sparRaise f 2

def execSparMbox (a : Agent) (f : Fin 64) (v : Word) (s : State) : Host.Outcome State Fault Refusal :=
  .next (s.onReady a (pgSpar f) 0x050 fun s => s.wrMbox f v)

/-- TICK_PERIOD expires (R222). -/
def State.sparTick (s : State) (f : Nat) : State :=
  let p := s.spar f
  if p.phase = .running ∧ p.tickPeriod ≠ 0 then s.sparRaise f 0 else s

def execTick (f : Fin 64) (s : State) : Host.Outcome State Fault Refusal := .next (s.sparTick f)

/-- An interrupt is accepted (R223 to R225). -/
def State.sparAccept (s : State) (f : Nat) : State :=
  let p := s.spar f
  if p.phase = .running ∧ p.ie ∧ !p.inHandler ∧ p.turn = none ∧ p.rep = none ∧ p.cyc ≤ p.decl then
    match (List.range 3).find? fun i => p.pend.getLsbD i && p.en.getLsbD i with
    | none => s
    | some i =>
      let held := p.cyc - (if Tab.at p.hold i 0 = 0 then p.cyc else Tab.at p.hold i 0)
      let ov := decide (held > p.holdDecl)
      let q := { p.settle with
        ret := p.pc, retZ := p.z, retN := p.n, retV := p.v, ie := false, pend := p.pend &&& ~~~(1#3 <<< i)
        cause := (Config.sparCause i).toNat, inHandler := true, pc := p.vec, cyc := p.cyc + 3, holdRec := p.holdRec || ov }
      let s := s.setSpar f q.watch
      let s := s.bump (pgSpar f) F.SPAR_IRQ_CNT
      let s := s.wf (pgSpar f) F.SPAR_HOLDOFF_MAX (max held (s.rf (pgSpar f) F.SPAR_HOLDOFF_MAX))
      if ov then
        let s := s.raise (pgSpar f) F.SPAR_ERR_STAT_HOLDOFF_OVER
        if p.holdRec then s else s.post (pgSpar f) F.SPAR_ERR_STAT_HOLDOFF_OVER 4 0 p.ctx.reqId
      else s
  else s

def execSparIrqAccept (f : Fin 64) (s : State) : Host.Outcome State Fault Refusal := .next (s.sparAccept f)

end Sys2Proof.Machine
end

