-- ==== Sys2Proof/Machine/FloeMem.lean ====
section
/-! DEFINITION. The floe memories and who reaches them: scratchpad ports (R236 to R238), the patrol (R243), initialisation (R247), floe
windows (R246, R528), tenant scrubs (R248, R531) and remote windows (R256, R257, R434). -/

namespace Sys2Proof.Machine

/-- Bytes of an access. -/
def sizeBytes : Size → Nat
  | .b1 => 1
  | .b2 => 2
  | .b4 => 4
  | .b8 => 8
  | .line => 64

/-- The data of a write, cut or filled with zeros to its size. -/
def sized (n : Nat) (bs : Bytes) : Bytes := bs.take n ++ zeros (n - bs.length)

/-- Every path to the floe's memories is closed from the scrub's request to its end (R531). -/
def State.floeClosed (s : State) (f : Nat) : Bool := s.bit (pgFmem f) F.FMEM_STAT_SCRUB_PENDING || s.bit (pgFmem f) F.FMEM_STAT_SCRUBBING

/-- The floe executes work (R248). -/
def State.floeBusy (s : State) (f : Nat) : Bool :=
  (s.floe f).exec.isSome || decide ((s.floe f).core.phase ≠ .idle) || decide ((s.floe f).spar.phase ≠ .idle)

/-! ### Scratchpad ports -/

/-- A port access (R237, R238): a write of less than a whole word reads the old words first; a whole line replaces its tag. -/
def State.spAccess (s : State) (f line : Nat) (op : SpOp) (ecc : Ecc) : State :=
  let off := 64 * line
  let a := floeBase f + off
  match op with
  | .read =>
    if s.floeClosed f then s.answer (zeros 64) true
    else
      let r := s.floeRead f off 64 { ecc with wlc := 0 }
      r.1.answer r.2.1 (Tag.poison r.2.2)
  | .write o data tag =>
    if s.floeClosed f then s
    else
      let bs := inLine (a + o.toNat) data
      let whole := decide (o.toNat = 0 ∧ bs.length = 64)
      let s := if o.toNat % 8 = 0 ∧ bs.length % 8 = 0 then s else s.floeCodes f off { ecc with wlc := 0 }
      let s := s.wrBytes (a + o.toNat) bs
      match tag with
      | none => s
      | some t => s.setTag a (if whole then t else Tag.addPoison t (s.poisonAt a))

/-- A read or write at a port of the scratchpad; before READY it is unmapped (R247). -/
def execScratchpadAccess (f : Fin 64) (_port : SpPort) (line : BitVec 16) (op : SpOp) (ecc : Ecc) (s : State) :
    Host.Outcome State Fault Refusal :=
  .next (if s.ready (pgFmem f) then s.spAccess f line.toNat op ecc
    else match op with
      | .read => (s.unmapped 4 (floeBase f + 64 * line.toNat) false).answer (ones 64) false
      | .write _ _ _ => s.unmapped 4 (floeBase f + 64 * line.toNat) true)

/-- Window offset of the patrol's line `i`: scratchpad, Spar instruction memory, Spar data memory (R243). -/
def patrolOff (i : Nat) : Nat := if i < 65536 then 64 * i else 0x58_0000 + 64 * (i - 65536)

/-- A patrol turn (R243). -/
def State.patrolTurn (s : State) (f : Nat) (ecc : Ecc) : State :=
  let x := s.floe f
  let s := s.setFloe f { x with patrol := (x.patrol + 1) % 67584 }
  let s := if x.patrol + 1 = 67584 then s.bump (pgFmem f) F.FMEM_PATROL_CNT else s
  s.floeCodes f (patrolOff x.patrol) { ecc with wlc := 0 }

def execPatrolScrubTurn (f : Fin 64) (ecc : Ecc) (s : State) : Host.Outcome State Fault Refusal :=
  let g := pgFmem f
  .next (if s.ready g ∧ s.works g ∧ s.bit g F.FMEM_CTRL_PATROL_EN ∧ !s.floeClosed f then s.patrolTurn f ecc else s)

/-! ### Initialisation and scrub -/

/-- The main domains are in reset, without power, or stopped by the thermal trip (R573, R575, R582). -/
def State.mainHeld (s : State) : Bool := s.pwr.porst || s.pwr.sysrst || s.pwr.brownout || s.pwr.railsDown || s.pwr.stopped

/-- Every memory of the floe holds zeros, every line the all-zero tag (R247, R248). -/
def State.zeroFloe (s : State) (f : Nat) : State :=
  let lo := floeBase f
  let s := s.zeroMem lo (lo + 0x100_0000)
  { s with
    tags := Tab.clear s.tags (lo / 64) ((lo + 0x100_0000) / 64)
    side := Tab.clear s.side (sideKey f 0 0) (sideKey f 2 0)
    accSide := Tab.clear s.accSide (f * 32768) ((f + 1) * 32768) }

/-- The initialisation ends (R247); a fenced floe has none. -/
def State.memInit (s : State) (f : Nat) : State :=
  if s.bit (pgFmem f) F.FMEM_STAT_INIT_DONE || s.mainHeld || s.floeFenced f then s
  else ((s.zeroFloe f).wf (pgFmem f) F.FMEM_STAT_INIT_DONE 1).wf (pgFmem f) F.PAGE_STAT_READY 1

def execFloeMemInitDone (f : Fin 64) (s : State) : Host.Outcome State Fault Refusal := .next (s.memInit f)

/-- A scrub starts once the floe executes nothing (R248). -/
def State.scrubBegin (s : State) (f : Nat) : State :=
  if s.bit (pgFmem f) F.FMEM_STAT_SCRUB_PENDING && !s.bit (pgFmem f) F.FMEM_STAT_SCRUBBING && !s.floeBusy f then
    s.wf (pgFmem f) F.FMEM_STAT_SCRUBBING 1
  else s

/-- A write of 1 to SCRUB_PENDING (R248). -/
def State.scrubAsk (s : State) (f : Nat) : State := (s.wf (pgFmem f) F.FMEM_STAT_SCRUB_PENDING 1).scrubBegin f

def execScrubRequest (a : Agent) (f : Fin 64) (s : State) : Host.Outcome State Fault Refusal :=
  .next (s.onReady a (pgFmem f) 0x044 fun s => s.scrubAsk f)

def execScrubStart (f : Fin 64) (s : State) : Host.Outcome State Fault Refusal := .next (s.scrubBegin f)

/-- What a scrub clears besides the memories: codebook slots (R90) and register files (R198, R231). -/
def State.scrubUnits (s : State) (f : Nat) : State :=
  let s := s.setFloe f { s.floe f with cbs := [], core := {}, spar := {} }
  (List.range 8).foldl (fun s j => s.setWord (pgRime f) (F.RIME_CB_SLOT_VALID j).off 0) s

/-- A partition's clearing goes on with its next floe, where one waits (R363). -/
def State.nextScrub (s : State) (p : Nat) : State :=
  match Tab.at s.mst.scrub p none with
  | some (g :: rest) => { s with mst := { s.mst with scrub := Tab.set s.mst.scrub p none (some rest) } }.scrubAsk g
  | _ => s

/-- The scrub ends (R248). -/
def State.scrubDone (s : State) (f : Nat) : State :=
  if s.bit (pgFmem f) F.FMEM_STAT_SCRUBBING then
    let s := (((s.zeroFloe f).scrubUnits f).wf (pgFmem f) F.FMEM_STAT_SCRUBBING 0).wf (pgFmem f) F.FMEM_STAT_SCRUB_PENDING 0
    match s.floePart f with
    | some p => s.nextScrub p
    | none => s
  else s

def execScrubEnd (f : Fin 64) (s : State) : Host.Outcome State Fault Refusal := .next (s.scrubDone f)

/-! ### Floe windows (R246) -/

/-- Confidential mode on a floe window (R528). -/
def State.windowConfOk (s : State) (a : Agent) (f : Nat) : Bool :=
  if s.confidential then
    match a with
    | .fw k => decide (k.val = 0) || (s.floePart f).isNone
    | _ => (s.floeTenant f).isSome && decide (s.floeTenant f = s.agentTenant a)
  else true

/-- The table of R246. -/
def State.windowOk (s : State) (a : Agent) (f : Nat) (p : Place) (write : Bool) : Bool :=
  let g := pgFmem f
  let free := (s.floePart f).isNone
  let host := agentIsFw a || s.bit g (if write then F.FMEM_CTRL_HOST_WR else F.FMEM_CTRL_HOST_RD)
  let cond :=
    !write ||
    (match p with
    | .half _ _ => free
    | .accs _ => free && (s.floe f).exec.isNone
    | .imem _ => decide ((s.floe f).spar.phase = .idle)
    | _ => true)
  host && cond && !s.floeClosed f && s.windowConfOk a f

/-- A denial (R246). -/
def State.windowDeny (s : State) (f : Nat) : State :=
  (s.bump (pgFmem f) F.FMEM_WIN_DENY_CNT).fault (pgFmem f) F.FMEM_ERR_STAT_WIN_DENIED 6

def hasWindows : Agent → Bool
  | .app _ => true
  | .fw _ => true
  | _ => false

/-- A window access at a naturally aligned offset. -/
def State.window (s : State) (a : Agent) (f off0 : Nat) (acc : Access) (ecc : Ecc) : State :=
  let n := match acc with
    | .read z => sizeBytes z
    | .write z _ => sizeBytes z
  let off := off0 / n * n
  let p := regionOf f off
  let adr := floeBase f + off
  let here := s.ready (pgFmem f) && hasWindows a && decide (p ≠ .none)
  match acc with
  | .read _ =>
    if !here then (s.unmapped (agentCode a) adr false).answer (ones n) false
    else if s.windowOk a f p false then
      let r := s.floeRead f off n ecc
      r.1.answer r.2.1 (Tag.poison r.2.2)
    else (s.windowDeny f).answer (ones n) false
  | .write _ data =>
    if !here then s.unmapped (agentCode a) adr true
    else if s.windowOk a f p true then
      let s := if n < 8 then s.floeCodes f off ecc else s
      let s := s.wrBytes adr (sized n data)
      match p with
      | .half _ h => s.wbWritten f h adr
      | _ => s
    else s.windowDeny f

def execWindowAccess (a : Agent) (f : Fin 64) (off : BitVec 24) (acc : Access) (ecc : Ecc) (s : State) : Host.Outcome State Fault Refusal :=
  .next (s.window a f off.toNat acc ecc)

/-! ### Remote windows (R256, R257, R434) -/

/-- The registers of a window: page, fields, base, and its number in the table of pending enables. -/
structure WinRegs where
  page : Nat
  base : Nat
  log2 : Nat
  peers : Nat
  en : Fld
  rd : Fld
  wr : Fld
  tenant : Fld
  closing : Fld
  bad : Fld
  key : Nat

def State.winRegs (s : State) (w : WinRef) : WinRegs :=
  match w with
  | .floe n k =>
    let g := pgFwin n
    { page := g, base := 64 * s.rf g (F.FWIN_BASE k), log2 := s.rf g (F.FWIN_SIZE k), peers := s.rf g (F.FWIN_PEERS k), en := F.FWIN_CTRL_EN k
      rd := F.FWIN_CTRL_RD k, wr := F.FWIN_CTRL_WR k, tenant := F.FWIN_CTRL_TENANT k, closing := F.FWIN_CTRL_CLOSING k
      bad := F.FWIN_CTRL_WIN_CFG_BAD k, key := 8 * n.val + k.val }
  | .dram w =>
    let g := pgShr (w.val / 2)
    let k := w.val % 2
    { page := g, base := 4096 * s.rf g (F.SHR_WIN_BASE k), log2 := s.rf g (F.SHR_WIN_SIZE k), peers := s.rf g (F.SHR_WIN_PEERS k)
      en := F.SHR_WIN_CTRL_EN k, rd := F.SHR_WIN_CTRL_RD k, wr := F.SHR_WIN_CTRL_WR k, tenant := F.SHR_WIN_CTRL_TENANT k
      closing := F.SHR_WIN_CTRL_CLOSING k, bad := F.SHR_WIN_CTRL_WIN_CFG_BAD k, key := 512 + w.val }

/-- The limits of a window (R256, R434). -/
def winOk (w : WinRef) (x : WinRegs) : Bool :=
  let stop := x.base + 2 ^ x.log2
  match w with
  | .floe _ _ =>
    6 ≤ x.log2 && x.log2 ≤ 22 && x.base % 2 ^ x.log2 = 0 && (stop ≤ 0x40_0000 || (0x59_0000 ≤ x.base && stop ≤ 0x5A_0000))
  | .dram _ => 12 ≤ x.log2 && x.log2 ≤ 35 && x.base % 2 ^ x.log2 = 0 && stop ≤ dramSize

def State.setWinPend (s : State) (k : Nat) (p : Bool) : State := { s with winPend := Tab.set s.winPend k false p }

/-- An enable, refused where it breaks the limits. -/
def State.winEnable (s : State) (w : WinRef) : State :=
  let x := s.winRegs w
  if winOk w x then s.wf x.page x.en 1 else (s.wf x.page x.en 0).raise x.page x.bad

/-- A write of a window's control (R256, R257). -/
def State.wrWin (s : State) (w : WinRef) (v : Word) : State :=
  let x := s.winRegs w
  let s := if x.bad.of v = 1 then s.wf x.page x.bad 0 else s
  let s := ((s.wf x.page x.rd (x.rd.of v)).wf x.page x.wr (x.wr.of v)).wf x.page x.tenant (x.tenant.of v)
  if x.en.of v = 1 then (if s.bit x.page x.closing then s.setWinPend x.key true else s.winEnable w)
  else
    let s := s.setWinPend x.key false
    if s.bit x.page x.en then (s.wf x.page x.en 0).wf x.page x.closing 1 else s

def execFwinCtrl (a : Agent) (w : WinRef) (v : Word) (s : State) : Host.Outcome State Fault Refusal :=
  .next (s.onReady a (s.winRegs w).page (s.winRegs w).en.off fun s => s.wrWin w v)

/-- Every access accepted before a close has completed (R257). -/
def State.winClosed (s : State) (w : WinRef) : State :=
  let x := s.winRegs w
  if s.bit x.page x.closing then
    let s := s.wf x.page x.closing 0
    if Tab.at s.winPend x.key false then (s.setWinPend x.key false).winEnable w else s
  else s

def execWindowCloseComplete (w : WinRef) (s : State) : Host.Outcome State Fault Refusal := .next (s.winClosed w)

/-- Whether a window admits an access at offset `o` (R256). -/
def State.winAdmits (s : State) (w : WinRef) (src tenant o : Nat) (write : Bool) : Bool :=
  let x := s.winRegs w
  s.bit x.page x.en && x.peers.testBit src && decide (x.base ≤ o ∧ o < x.base + 2 ^ x.log2) &&
    s.bit x.page (if write then x.wr else x.rd) && decide (s.rf x.page x.tenant = tenant)

/-- The place of the record of R37 at a destination that holds no flag for it. -/
def fldNone : Fld := ⟨0, 0, 0⟩

/-- One line of a remote access to a floe aperture: none where it is refused (R256, R37, R531). -/
def State.remoteFloeLine (s : State) (src tenant n o : Nat) (ecc : Ecc) (line : Option TaggedLine) : State × Option TaggedLine :=
  let g := pgFwin n
  let adr := floeBase n + o
  let ok := s.ready g && (List.finRange 8).any fun k => s.winAdmits (.floe (Fin.ofNat 64 n) k) src tenant o line.isSome
  if !ok then (s.bump g F.FWIN_DENY_CNT, none)
  else
    match line with
    | none =>
      let s := s.bump g F.FWIN_RD_CNT
      if s.floeClosed n then (s, some { data := ones 64, tag := 0 })
      else
        let r := s.floeRead n o 64 { ecc with wlc := 0 }
        (r.1, some { data := r.2.1, tag := r.2.2 })
    | some l =>
      let s := s.bump g F.FWIN_WR_CNT
      if s.floeClosed n then (s, some l)
      else if (s.floeTenant n).isSome ∧ s.floeTenant n ≠ some (Tag.tenant l.tag) then (s.post (pgFmem n) fldNone 6 l.tag 0, some l)
      else (s.wrLine adr (sized 64 l.data) l.tag, some l)

/-- One line of a remote access to DRAM (R434, R529): a granule's refusal reads as zeros tagged POISON. -/
def State.remoteDramLine (s : State) (link src tenant o : Nat) (ecc : Ecc) (line : Option TaggedLine) : State × Option TaggedLine :=
  match (List.finRange 16).find? fun w => s.ready (pgShr (w.val / 2)) && s.winAdmits (.dram w) src tenant o line.isSome with
  | none => (s.bump (pgShr link) F.SHR_WIN_DENY_CNT, none)
  | some w =>
    let x := s.winRegs (.dram w)
    let poison : Tag := mkTag true false false 0 tenant 0 0 0 0
    if !s.granOk (.peer (s.rf x.page x.tenant)) o then (s.granDeny, some { data := zeros 64, tag := poison })
    else if !s.chanReady o then (s.unmapped 4 o line.isSome, some { data := ones 64, tag := 0 })
    else
      match line with
      | none =>
        let r := s.firnRead (some tenant) o false false false ecc
        (r.1, some { data := r.1.rdBytes o 64, tag := mkTag r.2 false false 0 tenant 0 0 0 0 })
      | some l => (s.firnWrite o (sized 64 l.data) false false, some l)

/-- One line at an aperture offset (R44); an offset that does not exist is refused as outside every window. -/
def State.remoteLine (s : State) (link src tenant o : Nat) (ecc : Ecc) (line : Option TaggedLine) : State × Option TaggedLine :=
  let o := o / 64 * 64
  if o < dramSize then s.remoteDramLine link src tenant o ecc line
  else if o < dramSize + 0x4000_0000 then
    s.remoteFloeLine src tenant ((o - dramSize) / 0x100_0000) ((o - dramSize) % 0x100_0000) ecc line
  else (s.bump (pgShr link) F.SHR_WIN_DENY_CNT, none)

/-- The lines of a remote access in turn. -/
def State.remoteLines (s : State) (link src tenant o : Nat) (ecc : Ecc) : List (Option TaggedLine) → State × List (Option TaggedLine)
  | [] => (s, [])
  | l :: ls =>
    let r := s.remoteLine link src tenant o ecc l
    let t := State.remoteLines r.1 link src tenant (o + 64) {} ls
    (t.1, r.2 :: t.2)

def remoteItems (r : RemoteAccess) : List (Option TaggedLine) :=
  match r.lines with
  | some ls => ls.map some
  | none => List.replicate r.n none

/-- A remote access at this device (R256): a read answers its lines, all ones where it is refused. -/
def State.remoteServe (s : State) (link : Nat) (r : RemoteAccess) : State × List (Option TaggedLine) :=
  s.remoteLines link r.src.val r.tenant.val r.offset.toNat r.ecc (remoteItems r)

def execRemoteFloeAccess (link : Fin 8) (r : RemoteAccess) (s : State) : Host.Outcome State Fault Refusal :=
  let x := s.remoteServe link.val r
  .next (match r.lines with
    | some _ => x.1
    | none =>
      x.1.answer (x.2.flatMap fun l => match l with
        | some t => t.data
        | none => ones 64) (x.2.any fun l => (l.map fun t => Tag.poison t.tag).getD false))

end Sys2Proof.Machine
end

