-- ==== Sys2Proof/Machine/Hash.lean ====
section
/-! DEFINITION. The hash functions that the specification names: SHA3-256 (FIPS 202), SHA-384 (FIPS 180-4) and the CRC-32C of R482. -/

namespace Sys2Proof

/-! ### SHA3-256 -/

/-- Round constants. -/
def keccakRc : List (BitVec 64) :=
  [0x0000000000000001, 0x0000000000008082, 0x800000000000808A, 0x8000000080008000] ++
  [0x000000000000808B, 0x0000000080000001, 0x8000000080008081, 0x8000000000008009] ++
  [0x000000000000008A, 0x0000000000000088, 0x0000000080008009, 0x000000008000000A] ++
  [0x000000008000808B, 0x800000000000008B, 0x8000000000008089, 0x8000000000008003] ++
  [0x8000000000008002, 0x8000000000000080, 0x000000000000800A, 0x800000008000000A] ++
  [0x8000000080008081, 0x8000000000008080, 0x0000000080000001, 0x8000000080008008]

/-- Rotations, lane x + 5 y. -/
def keccakRot : List Nat :=
  [0, 1, 62, 28, 27, 36, 44, 6, 55, 20] ++ [3, 10, 43, 25, 39, 41, 45, 15, 21, 8] ++ [18, 2, 61, 56, 14]

/-- One round of Keccak-f[1600]. -/
def keccakRound (a : List (BitVec 64)) (rc : BitVec 64) : List (BitVec 64) :=
  let g (l : List (BitVec 64)) (i : Nat) : BitVec 64 := l.getD i 0
  let c := (List.range 5).map fun x => g a x ^^^ g a (x + 5) ^^^ g a (x + 10) ^^^ g a (x + 15) ^^^ g a (x + 20)
  let d := (List.range 5).map fun x => g c ((x + 4) % 5) ^^^ (g c ((x + 1) % 5)).rotateLeft 1
  let b := (List.range 25).map fun i =>
    let x := (i % 5 + 3 * (i / 5)) % 5
    let j := x + 5 * (i % 5)
    (g a j ^^^ g d x).rotateLeft (keccakRot.getD j 0)
  let e := (List.range 25).map fun i =>
    g b i ^^^ (~~~(g b ((i + 1) % 5 + 5 * (i / 5))) &&& g b ((i + 2) % 5 + 5 * (i / 5)))
  match e with
  | [] => []
  | x :: xs => (x ^^^ rc) :: xs

def keccakF (a : List (BitVec 64)) : List (BitVec 64) := keccakRc.foldl keccakRound a

/-- 64-bit little-endian words of a run of bytes. -/
def words64 (bs : Bytes) : Nat → List (BitVec 64)
  | 0 => []
  | n + 1 => BitVec.ofNat 64 (leNat (bs.take 8)) :: words64 (bs.drop 8) n

/-- Absorb whole blocks of 136 bytes. -/
def sha3Absorb (a : List (BitVec 64)) (bs : Bytes) : Nat → List (BitVec 64)
  | 0 => a
  | n + 1 =>
    let w := words64 (bs.take 136) 17
    sha3Absorb (keccakF (a.zipIdx.map fun e => e.1 ^^^ w.getD e.2 0)) (bs.drop 136) n

def sha3_256 (bs : Bytes) : Bytes :=
  let blocks := bs.length / 136 + 1
  let gap := blocks * 136 - bs.length
  let pad : Bytes := if gap = 1 then [0x86] else 0x06 :: (List.replicate (gap - 2) 0 ++ [0x80])
  let a := sha3Absorb (List.replicate 25 0) (bs ++ pad) blocks
  (a.take 4).flatMap fun w => leBytes 8 w.toNat

/-! ### SHA-384 -/

/-- Round constants. -/
def sha512K : List (BitVec 64) :=
  [0x428A2F98D728AE22, 0x7137449123EF65CD, 0xB5C0FBCFEC4D3B2F, 0xE9B5DBA58189DBBC] ++
  [0x3956C25BF348B538, 0x59F111F1B605D019, 0x923F82A4AF194F9B, 0xAB1C5ED5DA6D8118] ++
  [0xD807AA98A3030242, 0x12835B0145706FBE, 0x243185BE4EE4B28C, 0x550C7DC3D5FFB4E2] ++
  [0x72BE5D74F27B896F, 0x80DEB1FE3B1696B1, 0x9BDC06A725C71235, 0xC19BF174CF692694] ++
  [0xE49B69C19EF14AD2, 0xEFBE4786384F25E3, 0x0FC19DC68B8CD5B5, 0x240CA1CC77AC9C65] ++
  [0x2DE92C6F592B0275, 0x4A7484AA6EA6E483, 0x5CB0A9DCBD41FBD4, 0x76F988DA831153B5] ++
  [0x983E5152EE66DFAB, 0xA831C66D2DB43210, 0xB00327C898FB213F, 0xBF597FC7BEEF0EE4] ++
  [0xC6E00BF33DA88FC2, 0xD5A79147930AA725, 0x06CA6351E003826F, 0x142929670A0E6E70] ++
  [0x27B70A8546D22FFC, 0x2E1B21385C26C926, 0x4D2C6DFC5AC42AED, 0x53380D139D95B3DF] ++
  [0x650A73548BAF63DE, 0x766A0ABB3C77B2A8, 0x81C2C92E47EDAEE6, 0x92722C851482353B] ++
  [0xA2BFE8A14CF10364, 0xA81A664BBC423001, 0xC24B8B70D0F89791, 0xC76C51A30654BE30] ++
  [0xD192E819D6EF5218, 0xD69906245565A910, 0xF40E35855771202A, 0x106AA07032BBD1B8] ++
  [0x19A4C116B8D2D0C8, 0x1E376C085141AB53, 0x2748774CDF8EEB99, 0x34B0BCB5E19B48A8] ++
  [0x391C0CB3C5C95A63, 0x4ED8AA4AE3418ACB, 0x5B9CCA4F7763E373, 0x682E6FF3D6B2B8A3] ++
  [0x748F82EE5DEFB2FC, 0x78A5636F43172F60, 0x84C87814A1F0AB72, 0x8CC702081A6439EC] ++
  [0x90BEFFFA23631E28, 0xA4506CEBDE82BDE9, 0xBEF9A3F7B2C67915, 0xC67178F2E372532B] ++
  [0xCA273ECEEA26619C, 0xD186B8C721C0C207, 0xEADA7DD6CDE0EB1E, 0xF57D4F7FEE6ED178] ++
  [0x06F067AA72176FBA, 0x0A637DC5A2C898A6, 0x113F9804BEF90DAE, 0x1B710B35131C471B] ++
  [0x28DB77F523047D84, 0x32CAAB7B40C72493, 0x3C9EBE0A15C9BEBC, 0x431D67C49C100D4C] ++
  [0x4CC5D4BECB3E42B6, 0x597F299CFC657E2A, 0x5FCB6FAB3AD6FAEC, 0x6C44198C4A475817]

/-- Initial hash value. -/
def sha384Init : List (BitVec 64) :=
  [0xCBBB9D5DC1059ED8, 0x629A292A367CD507, 0x9159015A3070DD17, 0x152FECD8F70E5939] ++
  [0x67332667FFC00B31, 0x8EB44A8768581511, 0xDB0C2E0D64F98FA7, 0x47B5481DBEFA4FA4]

/-- `n` big-endian bytes of a value. -/
def beBytes (n v : Nat) : Bytes := (leBytes n v).reverse

/-- The big-endian value of a run of bytes. -/
def beNat (bs : Bytes) : Nat := leNat bs.reverse

/-- 64-bit big-endian words of a run of bytes. -/
def words64be (bs : Bytes) : Nat → List (BitVec 64)
  | 0 => []
  | n + 1 => BitVec.ofNat 64 (beNat (bs.take 8)) :: words64be (bs.drop 8) n

/-- The message schedule, newest word first. -/
def sha512Sched (w : List (BitVec 64)) : Nat → List (BitVec 64)
  | 0 => w
  | n + 1 =>
    let g (i : Nat) : BitVec 64 := w.getD (i - 1) 0
    let s0 := (g 15).rotateRight 1 ^^^ (g 15).rotateRight 8 ^^^ (g 15) >>> 7
    let s1 := (g 2).rotateRight 19 ^^^ (g 2).rotateRight 61 ^^^ (g 2) >>> 6
    sha512Sched ((s1 + g 7 + s0 + g 16) :: w) n

def sha512Round (v : List (BitVec 64)) (kw : BitVec 64) : List (BitVec 64) :=
  match v with
  | [a, b, c, d, e, f, g, h] =>
    let s1 := e.rotateRight 14 ^^^ e.rotateRight 18 ^^^ e.rotateRight 41
    let t1 := h + s1 + ((e &&& f) ^^^ (~~~e &&& g)) + kw
    let s0 := a.rotateRight 28 ^^^ a.rotateRight 34 ^^^ a.rotateRight 39
    let t2 := s0 + ((a &&& b) ^^^ (a &&& c) ^^^ (b &&& c))
    [t1 + t2, a, b, c, d + t1, e, f, g]
  | _ => v

def sha512Blocks (h : List (BitVec 64)) (bs : Bytes) : Nat → List (BitVec 64)
  | 0 => h
  | n + 1 =>
    let w := (sha512Sched (words64be (bs.take 128) 16).reverse 64).reverse
    let v := ((sha512K.zip w).map fun e => e.1 + e.2).foldl sha512Round h
    sha512Blocks ((h.zip v).map fun e => e.1 + e.2) (bs.drop 128) n

def sha384 (bs : Bytes) : Bytes :=
  let blocks := (bs.length + 16) / 128 + 1
  let pad : Bytes := 0x80 :: (List.replicate (blocks * 128 - bs.length - 17) 0 ++ beBytes 16 (8 * bs.length))
  ((sha512Blocks sha384Init (bs ++ pad) blocks).take 6).flatMap fun w => beBytes 8 w.toNat

/-! ### CRC-32C (R482) -/

def crc32cBit (c : BitVec 32) : BitVec 32 := if c.getLsbD 0 then c >>> 1 ^^^ 0x82F63B78 else c >>> 1

def crc32cByte (c : BitVec 32) (x : Byte) : BitVec 32 :=
  crc32cBit (crc32cBit (crc32cBit (crc32cBit (crc32cBit (crc32cBit (crc32cBit (crc32cBit (c ^^^ x.setWidth 32))))))))

/-- CRC-32C of a run of bytes. -/
def crc32c (bs : Bytes) : BitVec 32 := ~~~(bs.foldl crc32cByte 0xFFFFFFFF)

end Sys2Proof
end

