-- ==== Sys2Proof/Machine/MorFrame.lean ====
section
/-! DEFINITION. Moraine's frames and tables (R293 to R302): parsing of the user plane, cell and stream entries, partners, PRB decompression. -/

namespace Sys2Proof.Machine

def State.setMor (s : State) (m : MorSt) : State := { s with mor := m }

/-- A big-endian number. -/
def beNat (bs : Bytes) : Nat := bs.foldl (fun v b => 256 * v + b.toNat) 0

def slice (bs : Bytes) (o n : Nat) : Bytes := (bs.drop o).take n

def beAt (bs : Bytes) (o n : Nat) : Nat := beNat (slice bs o n)

/-! ### Entries (R295, R296) -/

/-- A cell entry. -/
structure MorCell where
  cell : Nat
  num : Nat
  tenant : Nat
  mode : Nat
  sfn : Nat
  queue : Nat
  win : Nat
  recd : Bool
  adapt : Bool
  dg : Bool
deriving DecidableEq, Repr

def cellOf (ws : List Word) : MorCell :=
  let a := (ws.getD 0 0).toNat
  let b := (ws.getD 1 0).toNat
  { cell := bits a 9 0, num := bits a 10 10, tenant := bits a 13 11, mode := bits a 15 14, sfn := bits a 23 16, queue := bits a 31 24
    win := max 5 (min 200 (bits b 15 0)), recd := b.testBit 16, adapt := b.testBit 17, dg := b.testBit 18 }

/-- MODE with 3 treated as off. -/
def MorCell.live (c : MorCell) : Bool := c.mode = 1 || c.mode = 2

/-- Slot duration in ns (R34). -/
def MorCell.period (c : MorCell) : Nat := if c.num = 0 then 500000 else 125000

/-- T_close of a slot in ns (R302). -/
def MorCell.closeAt (c : MorCell) (n : Nat) : Nat := n * c.period + c.period + 1000 * c.win

/-- Most PRBs of a numerology (R293). -/
def MorCell.maxPrb (c : MorCell) : Nat := if c.num = 0 then 273 else 264

/-- A stream entry. -/
structure MorEntry where
  eaxc : Nat
  vlan : Nat
  filter : Nat
  ports : Nat
  cell : Nat
  kind : Nat
  ant : Nat
  valid : Bool
  start : Nat
  num : Nat
  meth : Nat
  width : Nat
  dyn : Bool
  sat : Bool
  fmt : Nat
  target : Nat
  alpha : Nat
  init : Nat
  muRe : Nat
  muIm : Nat
  scale : Nat
deriving DecidableEq, Repr

/-- A width code: 0 means 16. -/
def width16 (w : Nat) : Nat := if w = 0 then 16 else w

def entryOf (ws : List Word) : MorEntry :=
  let w (k : Nat) : Nat := (ws.getD k 0).toNat
  { eaxc := bits (w 0) 15 0, vlan := bits (w 0) 27 16, filter := bits (w 0) 31 28, ports := bits (w 1) 15 0, cell := bits (w 1) 21 16
    kind := bits (w 1) 23 22, ant := bits (w 1) 29 24, valid := (w 1).testBit 30, start := bits (w 2) 8 0, num := bits (w 2) 24 16
    meth := bits (w 3) 3 0, width := width16 (bits (w 3) 7 4), dyn := (w 3).testBit 8, sat := (w 3).testBit 9, fmt := bits (w 3) 13 10
    target := bits (w 3) 20 16, alpha := bits (w 3) 27 24, init := w 4, muRe := w 5, muIm := w 6, scale := w 7 }

def MorSt.cellWords (m : MorSt) (c : Nat) : List Word := (List.range 2).map fun k => Tab.at m.cells (2 * c + k) 0
def MorSt.streamWords (m : MorSt) (i : Nat) : List Word := (List.range 8).map fun k => Tab.at m.streams (8 * i + k) 0
def MorSt.cell (m : MorSt) (c : Nat) : MorCell := cellOf (m.cellWords c)
def MorSt.entry (m : MorSt) (i : Nat) : MorEntry := entryOf (m.streamWords i)

/-- Supported compressions (R293). -/
def compOk (meth w : Nat) : Bool := (meth = 0 && w = 16) || (meth = 1 && 8 ≤ w && w ≤ 16)

/-- Entries in use, by number. -/
def MorSt.inUse (m : MorSt) : List (Nat × MorEntry) :=
  ((m.streams.map fun e => e.1 / 8).dedup.map fun i => (i, m.entry i)).filter fun e => e.2.valid

/-- The limits of R296 on an entry. -/
def MorSt.entryOk (m : MorSt) (i : Nat) (e : MorEntry) : Bool :=
  let mx := (m.cell e.cell).maxPrb
  e.fmt ∈ [0, 1, 2, 9] && 1 ≤ e.num && e.start + e.num ≤ mx && (e.dyn || compOk e.meth e.width) &&
    m.inUse.all fun o => decide (o.1 = i ∨ o.2.cell ≠ e.cell ∨ o.2.ant ≠ e.ant)

/-- What a frame's fields match: an entry, only entries that break their limits, or none. -/
inductive MorMatch where
  | entry (i : Nat)
  | bad
  | none
deriving DecidableEq, Repr

def MorSt.lookup (m : MorSt) (eaxc vlan filter port : Nat) : MorMatch :=
  let hits := m.inUse.filter fun e =>
    decide (e.2.kind ≠ 3 ∧ e.2.eaxc = eaxc ∧ e.2.vlan = vlan ∧ e.2.filter = filter) && e.2.ports.testBit port
  match hits.find? fun e => m.entryOk e.1 e.2 with
  | some e => .entry e.1
  | none => if hits = [] then .none else .bad

/-- The streams of a cell's tensor, in ascending antenna index (R308). -/
def MorSt.streamsOf (m : MorSt) (c : Nat) : List Nat :=
  let es := m.inUse.filter fun e => decide (e.2.cell = c ∧ e.2.kind ≠ 3) && m.entryOk e.1 e.2
  ((List.range 64).flatMap fun a => es.filter fun e => decide (e.2.ant = a)).map (·.1)

/-! ### Indirect access (R295 to R297, R299) -/

def morIndRead (s : State) (i : Nat) : Option Word :=
  if i < 0x8000 then some (Tab.at s.mor.streams i 0)
  else if 0x1_0000 ≤ i ∧ i < 0x1_0080 then some (Tab.at s.mor.cells (i - 0x1_0000) 0)
  else if 0x2_0000 ≤ i ∧ i < 0x2_0200 then
    let j := i - 0x2_0000
    match Tab.at s.mor.partners (j / 2) none with
    | none => some 0
    | some p =>
      let bs := ((List.range 6).map fun k => BitVec.ofNat 8 (p.mac / 256 ^ (5 - k))) ++ [BitVec.ofNat 8 (p.port % 16 + 128), 0]
      some (BitVec.ofNat 32 (leNat (slice bs (4 * (j % 2)) 4)))
  else none

/-- Store a word of the tables. -/
def MorSt.store (m : MorSt) (i : Nat) (v : Word) : MorSt :=
  if i < 0x8000 then { m with streams := Tab.set m.streams i 0 v } else { m with cells := Tab.set m.cells (i - 0x1_0000) 0 v }

/-- The live cell that a write to a table address waits for: the entry's own cell, or the cell it would belong to. -/
def MorSt.waitsFor (m : MorSt) (i : Nat) (v : Word) : Option Nat :=
  if i < 0x8000 then
    let now := m.streamWords (i / 8)
    let cands := [entryOf now, entryOf (now.set (i % 8) v)].filter fun e => e.valid && (m.cell e.cell).live
    cands.head?.map (·.cell)
  else
    let c := (i - 0x1_0000) / 2
    if (m.cell c).live then some c else none

/-- Whether a cell entry and another one stand in modes 1 and 2 with one CELL (R387). -/
def MorSt.clashes (m : MorSt) (c : Nat) : Bool :=
  let x := m.cell c
  x.live && (List.range 64).any fun d =>
    let y := m.cell d
    decide (d ≠ c) && y.live && decide (y.mode ≠ x.mode) && decide (y.cell = x.cell)

/-- A word takes effect; a cell entry that would clash takes effect with MODE 0 (R387). -/
def State.morStore (s : State) (i : Nat) (v : Word) : State :=
  let c := (i - 0x1_0000) / 2
  let m := s.mor.store i v
  if 0x1_0000 ≤ i ∧ m.clashes c then
    let k := 2 * c
    (s.setMor { m with cells := Tab.set m.cells k 0 (putBits (Tab.at m.cells k 0) 15 14 0) }).raise pgDet F.DET_ERR_STAT_REPLAY_CLASH
  else s.setMor m

/-- A write of a table word; none where nothing can be written. -/
def State.morIndWrite (s : State) (i : Nat) (v : Word) : Option State :=
  if i < 0x8000 ∨ (0x1_0000 ≤ i ∧ i < 0x1_0080) then
    match s.mor.waitsFor i v with
    | some c => some (s.setMor { s.mor with wait := s.mor.wait ++ [(c, i, v)] })
    | none => some (s.morStore i v)
  else none

/-- The writes that wait for a cell take effect in order (R299). -/
def State.applyWait (s : State) (c : Nat) : State :=
  let m := s.mor
  let mine := m.wait.filter fun w => decide (w.1 = c)
  mine.foldl (fun s w => s.morStore w.2.1 w.2.2) (s.setMor { m with wait := m.wait.filter fun w => decide (w.1 ≠ c) })

/-! ### Parsing (R293) -/

/-- A user-plane message. -/
structure MorMsg where
  mac : Nat
  vlan : Nat
  eaxc : Nat
  seq : Nat
  filter : Nat
  frame : Nat
  subframe : Nat
  slot : Nat
  symbol : Nat
  body : Bytes
deriving DecidableEq, Repr

/-- Where a frame goes: the port's software queue, MOR_FMT_CNT, or the tables. -/
inductive MorParse where
  | queue
  | fmt
  | msg (m : MorMsg)
deriving DecidableEq, Repr

/-- EtherType of a frame after its VLAN tags, its offset, and the VLAN ID nearest to it. -/
def etherOf (bs : Bytes) : Nat → Nat → Nat → Nat × Nat × Nat
  | 0, o, v => (beAt bs o 2, o, v)
  | n + 1, o, v =>
    let t := beAt bs o 2
    if (t = 0x8100 ∨ t = 0x88A8) ∧ o + 6 ≤ bs.length then etherOf bs n (o + 4) (beAt bs (o + 2) 2 % 4096) else (t, o, v)

def parseFrame (bs : Bytes) : MorParse :=
  if bs.length < 14 then .queue
  else
    let e := etherOf bs 2 12 0xFFF
    let h := e.2.1 + 2
    if e.1 ≠ 0xAEFE then .queue
    else if bs.length < h + 4 then .fmt
    else
      let b0 := beAt bs h 1
      let size := beAt bs (h + 2) 2
      let a := h + 8
      if b0 % 2 = 1 ∨ b0 / 16 ≠ 1 then .fmt
      else if beAt bs (h + 1) 1 ≠ 0 then .queue
      else if bs.length < h + 4 + size ∨ size < 8 ∨ 9216 < bs.length then .fmt
      else
        let d := beAt bs a 1
        let q := beAt bs (a + 2) 2
        if d ≥ 128 then .queue
        else if d / 16 % 8 ≠ 1 then .fmt
        else .msg { mac := beAt bs 6 6, vlan := e.2.2, eaxc := beAt bs (h + 4) 2, seq := beAt bs (h + 6) 1, filter := d % 16
                    frame := beAt bs (a + 1) 1, subframe := q / 4096, slot := q / 64 % 64, symbol := q % 64
                    body := slice bs (a + 4) (size - 8) }

/-- A section: whether it lies outside R293, its PRBs from `start` on (`every` for numPrbu 0), and its compression. -/
structure MorSec where
  bad : Bool
  every : Bool
  start : Nat
  meth : Nat
  width : Nat
  prbs : List Bytes
deriving DecidableEq, Repr

/-- Bytes of one compressed PRB (R300). -/
def prbBytes (meth w : Nat) : Nat := if meth = 1 then 1 + 3 * w else 3 * w

def chunks (n : Nat) : Nat → Bytes → List Bytes
  | 0, _ => []
  | k + 1, bs => bs.take n :: chunks n k (bs.drop n)

/-- The sections of a message, at most `fuel`; none where more follow. -/
def sections (e : MorEntry) : Nat → Bytes → Option (List MorSec)
  | 0, bs => if bs.length < 4 then some [] else none
  | fuel + 1, bs =>
    if bs.length < 4 then some []
    else
      let h := beAt bs 0 4
      let hdr := if e.dyn then 6 else 4
      let c := beAt bs 4 1
      let meth := if e.dyn then c % 16 else e.meth
      let w := if e.dyn then width16 (c / 16) else e.width
      let cnt := if h % 256 = 0 then e.num else h % 256
      let size := prbBytes meth w
      let sec : MorSec := { bad := !compOk meth w || h.testBit 18 || h.testBit 19, every := h % 256 = 0, start := bits h 17 8
                            meth := meth, width := w, prbs := [] }
      if bs.length < hdr ∨ 2 ≤ meth ∨ bs.length < hdr + cnt * size then some [{ sec with bad := true }]
      else
        let sec := { sec with prbs := chunks size cnt (bs.drop hdr) }
        (sections e fuel (bs.drop (hdr + cnt * size))).map fun r => sec :: r

/-! ### Decompression (R300) -/

/-- 24 integers of `w` bits, most significant bit first, shifted left by the exponent. -/
def samples (w e v : Nat) : List Int :=
  (List.range 24).map fun i => sInt w (v / 2 ^ (w * (23 - i))) * 2 ^ e

/-- The samples of a PRB: real and imaginary parts in turn. -/
def decompressPrb (p : MorPrb) : List Int :=
  if p.meth = 1 then samples p.width ((p.data.headD 0).toNat % 16) (beNat ((p.data.drop 1).take (3 * p.width)))
  else samples p.width 0 (beNat (p.data.take (3 * p.width)))

/-! ### Partners (R297, R298) -/

def MorSt.partnerOf (m : MorSt) (mac port : Nat) : Option Nat :=
  (List.range 256).find? fun p => match Tab.at m.partners p none with
    | some x => decide (x.mac = mac ∧ x.port = port)
    | none => false

/-- PARTNERS of MOR_STAT follows the table. -/
def State.setPartners (s : State) (t : Tab (Option MorPartner)) : State :=
  (s.setMor { s.mor with partners := t }).wf (pgMor 0) F.MOR_STAT_PARTNERS t.length

/-- The partner of an endpoint, learned where it is new: none for a frame that finds no entry free, and `some none` where learning is off. -/
def State.learn (s : State) (mac port : Nat) : State × Option (Option Nat) :=
  let now := s.tbNs 0
  match s.mor.partnerOf mac port with
  | some p => (s.setPartners (Tab.set s.mor.partners p none (some { mac := mac, port := port, last := now })), some (some p))
  | none =>
    if s.bit (pgMor 0) F.MOR_CTRL_LEARN_EN then
      match (List.range 256).find? fun p => (Tab.at s.mor.partners p none).isNone with
      | some p =>
        ((s.setPartners (Tab.set s.mor.partners p none (some { mac := mac, port := port, last := now }))).raise (pgMor 0)
          F.MOR_ERR_STAT_PARTNER_NEW, some (some p))
      | none => (s.raise (pgMor 0) F.MOR_ERR_STAT_PARTNER_FULL, none)
    else (s, some none)

def MorSt.stream (m : MorSt) (i : Nat) : MorStream := Tab.at m.run i {}
def MorSt.setStream (m : MorSt) (i : Nat) (x : MorStream) : MorSt := { m with run := Tab.set m.run i {} x }

/-- A partner is retired once it has been idle for MOR_PARTNER_AGE (R297). -/
def State.retire (s : State) (p : Nat) : State :=
  match Tab.at s.mor.partners p none with
  | none => s
  | some x =>
    if s.tbNs 0 < x.last + 1000000 * max 1 (s.rf (pgMor 0) F.MOR_PARTNER_AGE) then s
    else
      let run := s.mor.run.foldl (fun t e => if e.2.bound = some p then Tab.set t e.1 {} { e.2 with bound := none } else t) s.mor.run
      let s := s.setMor { s.mor with run := run }
      (s.setPartners (Tab.set s.mor.partners p none none)).raise (pgMor 0) F.MOR_ERR_STAT_PARTNER_GONE

def execPartnerRetire (p : Fin 256) (s : State) : Host.Outcome State Fault Refusal := .next (s.retire p)

/-! ### Placing a section (R301, R302) -/

/-- The slot number that a message names, near an arrival time (R301). -/
def slotOf (c : MorCell) (m : MorMsg) (now : Nat) : Option Nat :=
  let per := 1000000 / c.period
  if m.subframe ≥ 10 ∨ m.slot ≥ per then none
  else
    let p := 2560000000
    let t0 := ((m.frame + 256 - c.sfn) % 256) * 10000000 + m.subframe * 1000000 + m.slot * c.period
    let t := now / p * p + t0
    let t := if t > now + 1280000000 then t - p else if t + 1280000000 < now then t + p else t
    if t ≤ now + 1280000000 ∧ now ≤ t + 1280000000 then some (t / c.period) else none

/-- Bytes held in the buffer (R302, R310). -/
def MorSt.held (m : MorSt) : Nat :=
  let prbs := m.slots.foldl (fun n x => x.prbs.foldl (fun n e => n + (match e.2 with
    | some p => p.data.length
    | none => 0)) n) 0
  prbs + m.queues.foldl (fun n q => q.2.foldl (fun n t => n + 64 * t.lines.length) n) 0

def prbKey (stream symbol prb : Nat) : Nat := (stream * 14 + symbol) * 512 + prb

/-- Put the PRBs of a section into a slot: the first copy stays (R302). The result counts the copies. -/
def MorSlot.place (x : MorSlot) (i symbol : Nat) (e : MorEntry) (sec : MorSec) : MorSlot × Nat :=
  let first := if sec.every then e.start else sec.start
  sec.prbs.zipIdx.foldl (fun (r : MorSlot × Nat) d =>
    let prb := first + d.2
    if prb < e.start ∨ e.start + e.num ≤ prb then r
    else
      let k := prbKey i symbol prb
      if (Tab.at r.1.prbs k none).isSome then (r.1, r.2 + 1)
      else ({ r.1 with prbs := Tab.set r.1.prbs k none (some { meth := sec.meth, width := sec.width, data := d.1 }) }, r.2)) (x, 0)

def MorSt.openSlot (m : MorSt) (c n : Nat) : Option MorSlot := m.slots.find? fun x => decide (x.cell = c ∧ x.n = n)

def MorSt.setSlot (m : MorSt) (y : MorSlot) : MorSt :=
  { m with slots := m.slots.map fun x => if x.cell = y.cell ∧ x.n = y.n then y else x }

/-- A stream of a slot that is open, by the entries that it was opened under (R299): stream, entry and cell. -/
def MorSt.openEntry (t : MorSt) (m : MorMsg) (port now : Nat) : Option (Nat × MorEntry × MorCell) :=
  t.slots.findSome? fun x =>
    let c := cellOf x.words
    if slotOf c m now = some x.n then
      (x.streams.find? fun q => let e := entryOf q.2
        decide (e.eaxc = m.eaxc ∧ e.vlan = m.vlan ∧ e.filter = m.filter) && e.ports.testBit port).map fun q => (q.1, entryOf q.2, c)
    else none

/-- One section of a message for stream `i`, under entries `e` and `c`, from partner `p`. -/
def State.section (s : State) (i : Nat) (e : MorEntry) (c : MorCell) (p : Option Nat) (m : MorMsg) (sec : MorSec) : State :=
  let g := pgMor 0
  let st := s.mor.stream i
  let now := s.tbNs 0
  if sec.bad ∨ m.symbol ≥ 14 then s.bump g F.MOR_FMT_CNT
  else if st.bound.isSome ∧ st.bound ≠ p then (s.raise g F.MOR_ERR_STAT_SRC_CONFLICT).bump g F.MOR_CONFLICT_CNT
  else
    match slotOf c m now with
    | none => s.bump g F.MOR_FMT_CNT
    | some n =>
      if now < n * c.period then s.bump g F.MOR_EARLY_CNT
      else
        match s.mor.openSlot e.cell n with
        | none => s.bump g F.MOR_LATE_CNT
        | some x =>
          let cx := cellOf x.words
          if cx.closeAt n ≤ now then s.bump g F.MOR_LATE_CNT
          else
            let r := x.place i m.symbol e sec
            let t := s.mor.setSlot r.1
            if t.held > 2 ^ 20 * s.rf g F.MOR_BUF_SIZE then s.fault g F.MOR_ERR_STAT_BUF_FULL 4
            else
              let t := t.setStream i { t.stream i with bound := if st.bound.isSome then st.bound else p }
              (s.setMor t).bumpN g F.MOR_DUP_CNT r.2

/-- A message that stream `i` matched, under entries `e` and `c`. -/
def State.morMessage (s : State) (i : Nat) (e : MorEntry) (c : MorCell) (port : Nat) (m : MorMsg) : State :=
  let g := pgMor 0
  let r := s.learn m.mac port
  match r.2 with
  | none => r.1
  | some p =>
    let s := r.1
    let st := s.mor.stream i
    let s := if st.seq.isSome ∧ st.seq ≠ some ((m.seq + 255) % 256) then s.bump g F.MOR_SEQ_GAP_CNT else s
    let s := s.setMor (s.mor.setStream i { st with seq := some m.seq })
    match sections e 64 m.body with
    | none => s.bump g F.MOR_FMT_CNT
    | some secs => secs.foldl (fun s sec => s.section i e c p m sec) s

/-- A frame that a port hands to Moraine (R293): true where it goes to the port's software queue instead. -/
def State.morFrame (s : State) (port : Nat) (bs : Bytes) : State × Bool :=
  let g := pgMor 0
  match parseFrame bs with
  | .queue => (s, true)
  | q =>
    if !s.ready g || !s.works g || s.shutting g || !s.bit g F.MOR_CTRL_EN then (s, false)
    else
      match q with
      | .queue => (s, true)
      | .fmt => (s.bump g F.MOR_FMT_CNT, false)
      | .msg m =>
        match s.mor.openEntry m port (s.tbNs 0) with
        | some x => (s.morMessage x.1 x.2.1 x.2.2 port m, false)
        | none =>
          match s.mor.lookup m.eaxc m.vlan m.filter port with
          | .none => (s.bump g F.MOR_UNKNOWN_CNT, false)
          | .bad => ((s.raise g F.MOR_ERR_STAT_STREAM_CFG_BAD).bump g F.MOR_FMT_CNT, false)
          | .entry i =>
            let e := s.mor.entry i
            let c := s.mor.cell e.cell
            if c.mode ≠ 1 then (s, false)
            else if ((slotOf c m (s.tbNs 0)).bind fun n => s.mor.openSlot e.cell n).isSome then (s.bump g F.MOR_UNKNOWN_CNT, false)
            else (s.morMessage i e c port m, false)

end Sys2Proof.Machine
end

