-- ==== Sys2Proof/Machine/Moraine.lean ====
section
/-! DEFINITION. Moraine's slots (R301 to R312), the adaptation stream (R313 to R316), and record and replay (R317 to R319). -/

namespace Sys2Proof.Machine

/-! ### Opening -/

def State.setOpen (s : State) (xs : List MorSlot) : State :=
  (s.setMor { s.mor with slots := xs }).wf (pgMor 0) F.MOR_STAT_OPEN_SLOTS xs.length

/-- A slot of period `p` starts at this tick, which is shorter than 2 ns (R301). -/
def State.slotStarts (s : State) (p : Nat) : Bool := decide (s.tbNs 0 % p < 2)

/-- A slot starts: the writes that wait for it take effect (R299), and it opens, once (R301, R302). -/
def State.openSlot (s : State) (c : Nat) : State :=
  let g := pgMor 0
  let now := s.tbNs 0 / 2
  if !s.ready g || !s.works g || !s.slotStarts (s.mor.cell c).period || decide (Tab.at s.mor.opened c none = some now) then s
  else
    let s := s.applyWait c
    let m := { s.mor with opened := Tab.set s.mor.opened c none (some now) }
    let x := m.cell c
    if x.mode ≠ 1 ∨ s.shutting g ∨ !s.slotStarts x.period then s.setMor m
    else
      let slot : MorSlot :=
        { cell := c, n := s.tbNs 0 / x.period, words := m.cellWords c, streams := (m.streamsOf c).map fun i => (i, m.streamWords i) }
      (s.setMor m).setOpen (m.slots ++ [slot])

def execSlotOpen (c : Fin 64) (s : State) : Host.Outcome State Fault Refusal := .next (s.openSlot c)

/-! ### Gain control (R306) -/

def fp32 (code : Nat) : Val := decodeVal .fp32 noCb code

def toFp32 (v : Val) : Nat := (writeVal .fp32 false v).bits

/-- floor_log2 of a nonzero level; left open for a level that has none. -/
def agcExp (lev : Nat) : Int :=
  match fp32 lev with
  | .fin false m e => floorLog2 m 1 + e
  | _ => Config.agcExponent lev

/-- agc_gain. -/
def agcGain (lev target : Nat) : Int :=
  if lev % 2 ^ 31 = 0 then 15 else max (-31) (min 15 ((target : Int) - (agcExp lev + 1) / 2))

/-- The power of a symbol, rounded once to FP32. -/
def symbolPower (xs : List Int) : Nat :=
  let p := xs.foldl (fun n x => n + x.natAbs * x.natAbs) 0
  (writeQuot .fp32 false (.rat false p (max 1 (xs.length / 2)) 0)).bits

/-- The loop over a slot's symbols: level, RSSI where the loop froze. -/
structure AgcState where
  level : Nat
  rssi : Option Nat := none
deriving DecidableEq, Repr

def agcStep (alpha mask dmrs : Nat) (a : AgcState) (l p : Nat) : AgcState :=
  let a := if l = dmrs then { a with rssi := some p } else a
  if a.rssi.isSome ∨ mask.testBit l then a
  else
    let d := fp32 (toFp32 ((fp32 p).add (fp32 a.level).neg))
    { a with level := toFp32 (((Val.fin false 1 (-(alpha : Int))).mul d).add (fp32 a.level)) }

def agcSlot (alpha mask dmrs level : Nat) (powers : List Nat) : AgcState :=
  powers.zipIdx.foldl (fun a p => agcStep alpha mask dmrs a p.2 p.1) { level := level }

/-! ### The slot tensor (R303, R307 to R309) -/

/-- Samples of a symbol of a stream, in ascending PRB. -/
def symbolSamples (prb : Nat → Nat → Option MorPrb) (e : MorEntry) (l : Nat) : List Int :=
  (List.range e.num).flatMap fun p => ((prb l (e.start + p)).map decompressPrb).getD []

/-- Bytes of one element of an output format. -/
def elemBytes (fmt : Nat) : Nat := if fmt = 0 then 4 else 2

/-- Lines of a row of 12 × NUM_PRB complex elements. -/
def rowLines (e : MorEntry) : Nat := ceilDiv (24 * e.num * elemBytes e.fmt) 64

/-- Cut a row into lines, padded with zeros. -/
def toLines (t : Tag) (n : Nat) (bs : Bytes) : List TaggedLine :=
  (List.range n).map fun i => { data := sized 64 (slice bs (64 * i) 64), tag := t }

/-- A sample in the stream's format (R307); the index is even for a real part. -/
def writeSample (e : MorEntry) (k : Int) (i : Nat) (x : Int) : Wr :=
  let mu := fp32 (if i % 2 = 0 then e.muRe else e.muIm)
  match Fmt.ofCode e.fmt with
  | some f => writeVal f e.sat (((Val.ofInt x k).add mu.neg).mul (fp32 e.scale))
  | none => {}

/-- What a stream gives to a slot: its information row, its lines, its level after the slot, and its out-of-range writes. -/
structure StreamOut where
  info : Nat
  lines : List TaggedLine
  level : Nat
  sat : Nat := 0
  ovf : Nat := 0
  placeholder : Bool := false

/-- A placeholder (R303). -/
def placeholderOut (e : MorEntry) (t : Tag) (level : Nat) : StreamOut :=
  { info := lowBits 8 (agcGain level e.target) * 2 ^ 32 + 2 ^ 41, level := level, placeholder := true
    lines := List.replicate (14 * rowLines e) { data := zeros 64, tag := Tag.addPoison t true } }

/-- A complete stream (R306, R307). -/
def streamOut (prb : Nat → Nat → Option MorPrb) (e : MorEntry) (t : Tag) (mask dmrs level : Nat) : StreamOut :=
  let rows := (List.range 14).map (symbolSamples prb e)
  let a := agcSlot e.alpha mask dmrs level (rows.map symbolPower)
  let k := agcGain a.level e.target
  let ws := rows.map fun r => r.zipIdx.map fun x => writeSample e k x.2 x.1
  let all := ws.flatten
  { info := a.rssi.getD 0 + lowBits 8 k * 2 ^ 32 + a.rssi.isSome.toNat * 2 ^ 40 + a.rssi.isSome.toNat * 2 ^ 42
    lines := ws.flatMap fun r => toLines t (rowLines e) (r.flatMap fun w => leBytes (elemBytes e.fmt) w.bits)
    level := a.level, sat := (all.filter (·.outSat)).length, ovf := (all.filter (·.outOvf)).length }

/-- A stream is complete when every symbol holds every PRB of its range (R303). -/
def complete (prb : Nat → Nat → Option MorPrb) (e : MorEntry) : Bool :=
  (List.range 14).all fun l => (List.range e.num).all fun p => (prb l (e.start + p)).isSome

/-- Tags of a cell's tensor (R309). -/
def morTag (c : MorCell) (slot stream fmt : Nat) : Tag := mkTag false c.dg false fmt c.tenant stream c.cell slot slot

/-- Information rows (R308). -/
def infoLines (t : Tag) (infos : List Nat) : List TaggedLine := toLines t (ceilDiv infos.length 8) (infos.flatMap fun v => leBytes 8 v)

/-- The flags of out-of-range writes (R307). -/
def State.morOvf (s : State) (sat ovf : Nat) : State :=
  let g := pgMor 0
  let s := if sat = 0 then s else s.raise g F.MOR_ERR_STAT_OUT_SAT
  let s := if ovf = 0 then s else s.raise g F.MOR_ERR_STAT_OUT_OVF
  if sat + ovf = 0 then s else s.bumpN g F.MOR_OUT_OVF_CNT (sat + ovf)

/-- Place a tensor on a queue, by closing time and lower CELL; the cell's earlier tensors of the queue are freed (R310). -/
def State.enqueue (s : State) (q : Nat) (t : MorTensor) : State :=
  let old := (Tab.at s.mor.queues q []).filter fun x => decide (x.cell ≠ t.cell)
  let before := fun (x : MorTensor) => decide (x.close < t.close ∨ (x.close = t.close ∧ x.index ≤ t.index))
  s.setMor { s.mor with queues := Tab.set s.mor.queues q [] (old.filter before ++ [t] ++ old.filter fun x => !before x) }

/-- The input digest of a tensor that has one, and the CELL's three before it, are kept (R379). -/
def State.keepId (s : State) (c : MorCell) (slot : Nat) (lines : List TaggedLine) : State :=
  if c.dg ∧ lines ≠ [] then
    let old := (Tab.at s.mor.ids c.cell []).filter fun e => decide (e.1 ≠ slot)
    s.setMor { s.mor with ids := Tab.set s.mor.ids c.cell [] ((slot, sha3_256 (lines.flatMap (·.data))) :: old.take 3) }
  else s

/-! ### The balancer (R312) -/

/-- One job; a new closing instant leaves behind the Spar jobs of the one before. -/
def State.balance (s : State) (j : MorJob) : State :=
  let g := pgMor 0
  let m := s.mor
  let m := if m.instant.1 = j.close then m else { m with instant := (j.close, 0), sparJobs := [] }
  if m.instant.2 < s.rf g F.BAL_SPAR_SLOTS then
    s.setMor { m with instant := (j.close, m.instant.2 + 1), sparJobs := m.sparJobs ++ [j] }
  else if m.acJobs.length < s.rf g F.BAL_AC_DEPTH_DEPTH then
    (s.setMor { m with instant := (j.close, m.instant.2 + 1), acJobs := m.acJobs ++ [j] }).wf g F.BAL_AC_DEPTH_OCC (m.acJobs.length + 1)
  else (s.setMor m).bump (pgMor 1) F.BAL_DROP_CNT

/-- The driver returns jobs. -/
def State.acPop (s : State) (v : Word) : State :=
  let left := s.mor.acJobs.drop (F.BAL_AC_POP.of v)
  (s.setMor { s.mor with acJobs := left }).wf (pgMor 0) F.BAL_AC_DEPTH_OCC left.length

def execBalAcPop (a : Agent) (v : Word) (s : State) : Host.Outcome State Fault Refusal :=
  .next (s.onReady a (pgMor 0) 0x068 fun s => s.acPop v)

/-- The balancer's next job for the current closing instant, taken (R353). -/
def State.takeJob (s : State) : State × Option MorJob :=
  match s.mor.sparJobs with
  | [] => (s, none)
  | j :: js => (s.setMor { s.mor with sparJobs := js }, some j)

/-! ### Adaptation (R313) -/

/-- A tensor without poison goes to the fill half. -/
def State.adpKeep (s : State) (infoN : Nat) (es : List MorEntry) (lines : List TaggedLine) : State :=
  let g := pgMor 1
  if lines.any fun l => Tag.poison l.tag then s
  else if s.mor.fill.length ≥ min 65536 (s.rf g F.ADP_CAP) ∨ lines.length > s.rf g F.ADP_SLOT_LINES_LINES then s.bump g F.ADP_DROP_CNT
  else s.setMor { s.mor with fill := s.mor.fill ++ [{ info := infoN, rows := es.map fun e => (e.fmt, e.num, e.sat), lines := lines }] }

/-! ### The record ring (R317, R318) -/

def recBase (s : State) : Nat := s.rf (pgMor 1) F.REC_BASE * 2 ^ 20

/-- Lines of the ring. -/
def recLines (s : State) : Nat := min 8192 (s.rf (pgMor 1) F.REC_SIZE) * 16384

/-- Write lines into the ring from a line number on, wrapping at its end. -/
def State.ringWrite (s : State) (n at' : Nat) : List Bytes → State
  | [] => s
  | b :: bs => State.ringWrite (s.firnWrite (recBase s + 64 * (at' % n)) b false true) n (at' + 1) bs

/-- Add one entry: its header without LINES and SEQ, and its payload lines. -/
def State.record (s : State) (hdr : Nat → Nat → Bytes) (payload : List Bytes) : State :=
  let g := pgMor 1
  let n := recLines s
  let w := s.rf g F.REC_WPTR
  let wrap := s.bit g F.REC_CTRL_WRAP
  if !s.bit g F.REC_CTRL_REC_EN || n = 0 || s.mor.recStopped then s
  else if !wrap ∧ w + 1 + payload.length > n then (s.setMor { s.mor with recStopped := true }).raise g F.REC_STAT_REC_FULL
  else
    let s := s.ringWrite n w (sized 64 (hdr payload.length s.mor.recSeq) :: payload)
    (s.setMor { s.mor with recSeq := s.mor.recSeq + 1 }).wf g F.REC_WPTR (if wrap then (w + 1 + payload.length) % n else w + 1 + payload.length)

/-- Header of a slot entry. -/
def slotHdr (c : MorCell) (slot start mask dmrs lines seq : Nat) : Bytes :=
  leBytes 1 1 ++ leBytes 3 lines ++ leBytes 8 seq ++ leBytes 2 c.cell ++ leBytes 2 slot ++ leBytes 8 start ++ leBytes 2 mask ++ leBytes 1 dmrs

def epochHdr (lines seq : Nat) : Bytes := leBytes 1 2 ++ leBytes 3 lines ++ leBytes 8 seq

/-- Cut bytes into whole lines. -/
def wholeLines (bs : Bytes) : List Bytes := (List.range (ceilDiv bs.length 64)).map fun i => sized 64 (slice bs (64 * i) 64)

/-- Payload of a slot entry: 8 bytes per stream, then each complete stream's rows, compressed. -/
def slotPayload (prb : Nat → Nat → Nat → Option MorPrb) (xs : List (Nat × MorEntry × Nat × Bool)) : List Bytes :=
  wholeLines (xs.flatMap fun x => leBytes 8 (x.2.2.1 + x.2.2.2.toNat * 2 ^ 32)) ++
    (xs.filter fun x => !x.2.2.2).flatMap fun x => (List.range 14).flatMap fun l =>
      wholeLines ((List.range x.2.1.num).flatMap fun p => ((prb x.1 l (x.2.1.start + p)).map (·.data)).getD [])

/-! ### Closing (R303 to R310) -/

/-- Make a cell's slot from its streams: the tensor's lines, the states after it, and what was out of range. `level` gives the loop level at
the start of the slot, `held` whether a stream becomes a placeholder. -/
def slotOuts (c : MorCell) (slot mask dmrs : Nat) (prb : Nat → Nat → Nat → Option MorPrb) (level : Nat → Nat) (held : Nat → Bool)
    (xs : List (Nat × MorEntry)) : List StreamOut :=
  xs.map fun x =>
    let t := morTag c slot x.1 x.2.fmt
    if held x.1 then placeholderOut x.2 t (level x.1) else streamOut (prb x.1) x.2 t mask dmrs (level x.1)

def slotLines (c : MorCell) (slot : Nat) (outs : List StreamOut) : List TaggedLine :=
  infoLines (morTag c slot 0 0) (outs.map (·.info)) ++ outs.flatMap (·.lines)

/-- The level of a stream at the start of a slot: it starts from AGC_L_INIT, and again when that changes. -/
def MorSt.levelOf (m : MorSt) (i : Nat) (e : MorEntry) : Nat :=
  let st := m.stream i
  if st.init = e.init then st.level else e.init

/-- Close one slot. -/
def State.closeSlot (s : State) (x : MorSlot) : State :=
  let g := pgMor 0
  let c := cellOf x.words
  let slot := x.n % 65536
  let xs : List (Nat × MorEntry) := x.streams.map fun q => (q.1, entryOf q.2)
  let prb (i l p : Nat) : Option MorPrb := Tab.at x.prbs (prbKey i l p) none
  let key := x.cell * 65536 + slot
  let al := Tab.at s.mor.allocs key none
  let s := if al.isNone then s.raise g F.MOR_ERR_STAT_ALLOC_LATE else s
  let mask := (al.getD (0, 15)).1
  let dmrs := let d := (al.getD (0, 15)).2; if d = 14 then 15 else d
  let level (i : Nat) : Nat := s.mor.levelOf i ((xs.lookup i).getD (entryOf []))
  let held (i : Nat) : Bool := !complete (prb i) ((xs.lookup i).getD (entryOf []))
  let outs := slotOuts c slot mask dmrs prb level held xs
  let recXs := (xs.zip outs).map fun q => (q.1.1, q.1.2, level q.1.1, q.2.placeholder)
  let m := (xs.zip outs).foldl (fun m q => m.setStream q.1.1 { m.stream q.1.1 with init := q.1.2.init, level := q.2.level }) s.mor
  let m := { m with allocs := Tab.set m.allocs key none none, closed := Tab.set m.closed x.cell none (some slot) }
  let s := (s.setMor m).setOpen (m.slots.filter fun y => decide (y.cell ≠ x.cell ∨ y.n ≠ x.n))
  let holders := (outs.filter (·.placeholder)).length
  let s := if holders = 0 then s else s.bumpN g F.MOR_PLACEHOLDER_CNT holders
  let s := s.morOvf ((outs.map (·.sat)).foldl (· + ·) 0) ((outs.map (·.ovf)).foldl (· + ·) 0)
  let lines := slotLines c slot outs
  let s := if lines = [] then s else s.enqueue c.queue { cell := x.cell, close := c.closeAt x.n, index := c.cell, lines := lines }
  let s := s.keepId c slot lines
  let s := if c.recd then s.record (slotHdr c slot (x.n * c.period) mask dmrs) (slotPayload prb recXs) else s
  let s := if c.adapt then s.adpKeep (ceilDiv outs.length 8) (xs.map (·.2)) lines else s
  (xs.filter fun q => decide (q.2.kind = 1 ∨ q.2.kind = 2)).foldl (fun s q =>
    s.balance { close := c.closeAt x.n, cell := c.cell, stream := q.1, n := x.n }) s

/-- Order of closing (R310, R312). -/
def closesBefore (x y : MorSlot) : Bool :=
  let a := (cellOf x.words).closeAt x.n
  let b := (cellOf y.words).closeAt y.n
  decide (a < b ∨ (a = b ∧ (cellOf x.words).cell < (cellOf y.words).cell))

/-- The cell's oldest slot closes once its T_close has come and no slot that closes before it is open. -/
def State.slotClose (s : State) (c : Nat) : State :=
  match s.mor.slots.find? fun x => decide (x.cell = c) with
  | none => s
  | some x =>
    if (cellOf x.words).closeAt x.n ≤ s.tbNs 0 ∧ s.mor.slots.all fun y => !closesBefore y x then s.closeSlot x else s

def execSlotClose (c : Fin 64) (s : State) : Host.Outcome State Fault Refusal := .next (s.slotClose c)

/-- A STEP of time base 0 closes every open slot (R304). -/
def State.morStep (s : State) : State :=
  if s.mor.slots = [] then s.setMor { s.mor with opened := [] }
  else
    let s := s.mor.slots.foldl (fun s x => s.closeSlot x) s
    (s.setMor { s.mor with opened := [] }).raise (pgMor 0) F.MOR_ERR_STAT_STEP_CLOSE

/-! ### Allocations (R305) -/

/-- A push: late when the slot has closed, else it stands until its slot closes. -/
def State.wrAlloc (s : State) (v : Word) : State :=
  let g := pgMor 0
  if F.MOR_ALLOC_PUSH1_GO.of v = 0 then s
  else
    let slot := F.MOR_ALLOC_PUSH0_SLOT.of s.mor.stage
    let c := F.MOR_ALLOC_PUSH0_CELL_IX.of s.mor.stage
    let late := ((Tab.at s.mor.closed c none).map fun k => decide (slotDiff slot k ≤ 0)).getD false
    if late then s.raise g F.MOR_ERR_STAT_ALLOC_LATE
    else s.setMor { s.mor with
      allocs := Tab.set s.mor.allocs (c * 65536 + slot) none (some (F.MOR_ALLOC_PUSH1_ALLOC_MASK.of v, F.MOR_ALLOC_PUSH1_FIRST_DMRS.of v)) }

def execAllocPush (a : Agent) (v : Word) (s : State) : Host.Outcome State Fault Refusal :=
  .next (s.onReady a (pgMor 0) 0x05C fun s => s.wrAlloc v)

/-! ### Epochs (R313 to R316) -/

/-- A write of ADP_START: the halves swap and the epoch starts; its start is recorded (R318). -/
def State.wrAdpStart (s : State) (v : Word) : State :=
  let g := pgMor 1
  if F.ADP_START.of v = 0 then s
  else if s.mor.epoch.isSome then s.raise g F.REC_STAT_ADP_BUSY
  else
    let n := s.mor.fill.length
    let e := s.rf g F.ADP_EPOCH
    let seed := s.rf g F.ADP_SEED
    let m := { s.mor with keep := s.mor.fill, fill := [], epoch := if n = 0 then none else some { epoch := e, seed := seed, n := n } }
    let s := (s.setMor m).wf g F.REC_STAT_ADP_RUNNING (decide (n ≠ 0)).toNat
    let aug := s.rf g F.ADP_AUG_BASE * 256
    s.record epochHdr ((leBytes 4 e ++ leBytes 4 seed ++ leBytes 4 n ++ zeros 52) :: wholeLines (s.rdBytes aug (32 * n)))

def execAdpStart (a : Agent) (v : Word) (s : State) : Host.Outcome State Fault Refusal :=
  .next (s.onReady a (pgMor 1) 0x074 fun s => s.wrAdpStart v)

/-- mix32 (R314). -/
def mix32 (x : BitVec 32) : BitVec 32 :=
  let x := (x ^^^ (x >>> 16)) * 0x7FEB352D#32
  let x := (x ^^^ (x >>> 15)) * 0x846CA68B#32
  x ^^^ (x >>> 16)

/-- Half the even width w of R314. -/
def halfWidth (n : Nat) : Nat := ((List.range 7).map (· + 1)).find? (fun h => decide (n ≤ 2 ^ (2 * h))) |>.getD 8

/-- Four Feistel rounds (R314). -/
def feistel (h : Nat) (seed e : BitVec 32) (x : Nat) : Nat :=
  let m := 2 ^ h
  let r := (List.range 4).foldl (fun (lr : Nat × Nat) k =>
    let key := mix32 (seed ^^^ mix32 (e ^^^ mix32 (BitVec.ofNat 32 k)))
    let t := lr.1 ^^^ ((mix32 (BitVec.ofNat 32 lr.2 ^^^ key)).toNat % m)
    (lr.2, t)) (x / m, x % m)
  r.1 * m + r.2

/-- Cycle walking keeps the position below `n`; it ends within the permutation's cycle. -/
def walk (h : Nat) (seed e : BitVec 32) (n : Nat) : Nat → Nat → Nat
  | 0, x => x
  | fuel + 1, x => let y := feistel h seed e x; if y < n then y else walk h seed e n fuel y

/-- shuffle_index (R314). -/
def shuffleIndex (q n seed e : Nat) : Nat := walk (halfWidth n) (BitVec.ofNat 32 seed) (BitVec.ofNat 32 e) n (4 ^ halfWidth n) q

/-- π in 2⁻¹²⁰ units. -/
def piFx : Nat := 1069028584064966747859680373161870783300 / 256

/-- A Taylor series with alternating signs, in 2⁻¹²⁰ units: `term` at index `k`. -/
def taylor (t : Nat) : Nat → Nat → Nat → Int
  | 0, _, _ => 0
  | n + 1, k, term => (term : Int) - taylor t n (k + 2) (term * t / 2 ^ 120 * t / 2 ^ 120 / ((k + 1) * (k + 2)))

/-- cos (2πi / 4096) as sign and magnitude in 2⁻¹²⁰ units; the error is far below the distance of every entry from a rounding tie. -/
def cosFx (i : Nat) : Bool × Nat :=
  let i := i % 4096
  let i := if i > 2048 then 4096 - i else i
  let neg := decide (i > 1024)
  let j := if neg then 2048 - i else i
  let v := if j ≤ 512 then taylor (piFx * j / 2048) 20 0 (2 ^ 120)
    else let t := piFx * (1024 - j) / 2048; taylor t 20 1 t
  (neg, v.toNat)

/-- COS[i] (R316). -/
def cosTab (i : Nat) : Val :=
  let v := cosFx i
  fp32 (writeVal .fp32 false (.fin v.1 v.2 (-120))).bits

/-- ν_p (R316). -/
def noise (nseed a l j p : Nat) : Val :=
  let r := (((a * 14 + l) * 4096 + j) * 2 + p) * 4
  let sum := (List.range 4).foldl (fun n t => n + (mix32 (BitVec.ofNat 32 nseed ^^^ mix32 (BitVec.ofNat 32 (r + t)))).toNat) 0
  .ofInt ((sum : Int) - 2 ^ 33) (-32)

/-- One complex element under an augmentation record at `aug` (R315, R316). -/
def augment (s : State) (aug : Nat) (f : Fmt) (sat : Bool) (a l j : Nat) (re im : Val) : Wr × Wr :=
  let w (o : Nat) := s.rdLe (aug + o) 4
  let i := (w 4 + w 8 * l + w 12 * j) % 2 ^ 32 / 2 ^ 20
  let c := cosTab i
  let si := cosTab ((i + 3072) % 4096)
  let gain := fp32 (w 16)
  let ns := fp32 (w 20)
  let x := (gain.mul ((re.mul c).add (im.mul si).neg)).add (ns.mul (noise (w 24) a l j 0))
  let y := (gain.mul ((re.mul si).add (im.mul c))).add (ns.mul (noise (w 24) a l j 1))
  (writeVal f sat x, writeVal f sat y)

/-- One row of a stored sample, augmented: lines and what was out of range. -/
def augRow (s : State) (aug : Nat) (fmt num : Nat) (sat : Bool) (a l : Nat) (lines : List TaggedLine) : Bytes × Nat × Nat :=
  match Fmt.ofCode fmt with
  | none => ([], 0, 0)
  | some f =>
    let b := elemBytes fmt
    let bs := lines.flatMap (·.data)
    let ws := (List.range (12 * num)).flatMap fun j =>
      let v (o : Nat) : Val := decodeVal f noCb (leNat (slice bs ((2 * j + o) * b) b))
      let r := augment s aug f sat a l j (v 0) (v 1)
      [r.1, r.2]
    (ws.flatMap fun w => leBytes b w.bits, (ws.filter (·.outSat)).length, (ws.filter (·.outOvf)).length)

/-- The lines of an emitted sample: ORDER 1, SAMPLE its number, augmented where its record says so. -/
def emitLines (s : State) (i : Nat) (x : AdpSample) : List TaggedLine × Nat × Nat :=
  let aug := s.rf (pgMor 1) F.ADP_AUG_BASE * 256 + 32 * i
  let on := (s.rdByte aug).getLsbD 0
  let tag (t : Tag) : Tag :=
    mkTag (Tag.poison t) (Tag.digestEn t) true (Tag.fmt t) (Tag.tenant t) (Tag.stream t) (Tag.cell t) (Tag.slot t) i
  let info := (x.lines.take x.info).map fun l => { l with tag := tag l.tag }
  let r := x.rows.zipIdx.foldl (fun (st : List TaggedLine × List TaggedLine × Nat × Nat) q =>
    (List.range 14).foldl (fun st l =>
      let n := ceilDiv (24 * q.1.2.1 * elemBytes q.1.1) 64
      let mine := st.1.take n
      let t := tag ((mine.headD ⟨[], 0⟩).tag)
      let o := if on then augRow s aug q.1.1 q.1.2.1 q.1.2.2 q.2 l mine else (mine.flatMap (·.data), 0, 0)
      (st.1.drop n, st.2.1 ++ toLines t n o.1, st.2.2.1 + o.2.1, st.2.2.2 + o.2.2)) st) (x.lines.drop x.info, [], 0, 0)
  (info ++ r.2.1, r.2.2.1, r.2.2.2)

/-- The next sample of the epoch is emitted on ADP_QUEUE. -/
def State.adpEmit (s : State) : State :=
  let g := pgMor 1
  match s.mor.epoch with
  | none => s
  | some e =>
    let i := shuffleIndex e.q e.n e.seed e.epoch
    let x := s.mor.keep.getD i { info := 0, rows := [], lines := [] }
    let r := emitLines s i x
    let s := s.morOvf r.2.1 r.2.2
    let s := s.enqueue (s.rf g F.ADP_SLOT_LINES_QUEUE) { cell := 64 + e.q, close := s.tbNs 0, index := 1024, lines := r.1 }
    let last := decide (e.q + 1 ≥ e.n)
    (s.setMor { s.mor with epoch := if last then none else some { e with q := e.q + 1 } }).wf g F.REC_STAT_ADP_RUNNING (!last).toNat

def execAdpSampleEmit (s : State) : Host.Outcome State Fault Refusal := .next s.adpEmit

/-! ### Replay (R319) -/

/-- Whether a line of the ring can be read. -/
def ringReads (s : State) (line : Nat) : Bool :=
  let a := recBase s + 64 * line
  a + 64 ≤ dramSize && s.chanReady a && !s.dramPoisonAt a

/-- The address of a line of the ring counted from the first one. -/
def ringAddr (s : State) (line : Nat) : Nat := recBase s + 64 * (line % max 1 (recLines s))

/-- Rebuild a cell's slot from an entry at `line` (R319): none where it is malformed. -/
def replayEntry (s : State) (c line lines : Nat) : Option (List StreamOut × Nat × Nat) :=
  let x := s.mor.cell c
  let xs := (s.mor.streamsOf c).map fun i => (i, s.mor.entry i)
  let hdr (o n : Nat) := s.rdLe (ringAddr s line + o) n
  let n8 := ceilDiv xs.length 8
  let info (k : Nat) : Nat := s.rdLe (ringAddr s (line + 1 + k / 8) + 8 * (k % 8)) 8
  let held (k : Nat) : Bool := (info k).testBit 32
  let rowN (e : MorEntry) : Nat := ceilDiv (e.num * prbBytes e.meth e.width) 64
  let offs := xs.zipIdx.foldl (fun (st : List Nat × Nat) q =>
    (st.1 ++ [st.2], if held q.2 then st.2 else st.2 + 14 * rowN q.1.2)) ([], n8)
  if xs = [] ∨ lines ≠ offs.2 ∨ hdr 12 2 ≠ x.cell then none
  else
    let ix (i : Nat) : Nat := (xs.map (·.1)).idxOf i
    let prb (i l p : Nat) : Option MorPrb :=
      let e := (xs.lookup i).getD (entryOf [])
      let b := prbBytes e.meth e.width
      let o := (p - e.start) * b
      let row := line + 1 + (offs.1.getD (ix i) 0) + l * rowN e
      some { meth := e.meth, width := e.width
             data := (List.range b).map fun k => s.rdByte (ringAddr s (row + (o + k) / 64) + (o + k) % 64) }
    let slot := hdr 14 2
    let dmrs := if hdr 26 1 = 14 then 15 else hdr 26 1
    some (slotOuts x slot (hdr 24 2) dmrs prb (fun i => info (ix i) % 2 ^ 32) (fun i => held (ix i)) xs, slot, hdr 16 8)

/-- Where the replay of a cell stands after an entry, or how it stopped. -/
inductive ReplayEnd where
  | done
  | bad
  | slot (line lines seq : Nat)
  | epoch (line lines seq : Nat)
deriving DecidableEq, Repr

/-- Look at the entry at a line. -/
def replayLook (s : State) (line : Nat) (seq : Option Nat) : ReplayEnd :=
  let g := pgMor 1
  let n := recLines s
  if line = s.rf g F.RPL_END then .done
  else if n = 0 ∨ !ringReads s (line % max 1 n) then .bad
  else
    let h (o k : Nat) := s.rdLe (ringAddr s line + o) k
    let ty := h 0 1
    let q := h 4 8
    let lines := h 1 3
    if ty ≠ 1 ∧ ty ≠ 2 then .bad
    else if (seq.map fun k => decide (q ≠ k + 1)).getD false then .done
    else if !((List.range lines).all fun k => ringReads s ((line + 1 + k) % n)) then .bad
    else if ty = 2 then .epoch line lines q
    else .slot line lines q

/-- The next entry of the cell, entries of other cells passed over and epoch entries replayed. -/
def State.replayNext (s : State) (c : Nat) : Nat → Nat → Option Nat → State × ReplayEnd
  | 0, _, _ => (s, .done)
  | fuel + 1, line, seq =>
    let g := pgMor 1
    match replayLook s line seq with
    | .done => (s, .done)
    | .bad => (s, .bad)
    | .epoch line lines q =>
      let a := ringAddr s (line + 1)
      let s := (s.wf g F.ADP_EPOCH (s.rdLe a 4)).wf g F.ADP_SEED (s.rdLe (a + 4) 4)
      State.replayNext s c fuel ((line + 1 + lines) % max 1 (recLines s)) (some q)
    | .slot line lines q =>
      if s.rdLe (ringAddr s line + 12) 2 = (s.mor.cell c).cell then (s, .slot line lines q)
      else State.replayNext s c fuel ((line + 1 + lines) % max 1 (recLines s)) (some q)

/-- A tensor that still holds unread lines. -/
def unread (t : MorTensor) : Bool := t.read.length < t.lines.length

/-- One replayed slot, once the cell's queue has released its tensor before. A cell that has stopped stays stopped until RPL_PTR is written
or its MODE changes. -/
def State.replaySlot (s : State) (c : Nat) : State :=
  let g := pgMor 1
  let t := s.applyWait c
  let x := t.mor.cell c
  if x.mode ≠ 2 ∨ !s.works (pgMor 0) then s
  else
    let s := t
    if (Tab.at s.mor.queues x.queue []).any fun t => decide (t.cell = c) && unread t then s
    else
      let start := (Tab.at s.mor.replay c none).getD (s.rf g F.RPL_PTR, none)
      let r := s.replayNext c (recLines s + 1) start.1 start.2
      let s := r.1
      match r.2 with
      | .slot line lines q =>
        match replayEntry s c line lines with
        | none => s.fault g F.REC_STAT_REPLAY_BAD 1
        | some (outs, slot, t0) =>
          let next := (line + 1 + lines) % max 1 (recLines s)
          let s := s.setMor { s.mor with replay := Tab.set s.mor.replay c none (some (next, some q)) }
          let s := s.morOvf ((outs.map (·.sat)).foldl (· + ·) 0) ((outs.map (·.ovf)).foldl (· + ·) 0)
          let s := s.bumpN (pgMor 0) F.MOR_PLACEHOLDER_CNT (outs.filter (·.placeholder)).length
          let ls := slotLines x slot outs
          (s.enqueue x.queue { cell := c, close := t0, index := x.cell, lines := ls }).keepId x slot ls
      | .bad => s.fault g F.REC_STAT_REPLAY_BAD 1
      | _ => s.raise g F.REC_STAT_REPLAY_DONE

def execReplaySlot (c : Fin 64) (s : State) : Host.Outcome State Fault Refusal := .next (s.replaySlot c)

/-! ### Queue reads (R264, R310) -/

/-- Line `k` of a queue, counted from the first tensor on it; tensors whose every line has been read are freed when a transfer reads line 0. -/
def State.queueLine (s : State) (q k : Nat) : State × Option TaggedLine :=
  let ts := Tab.at s.mor.queues q []
  let ts := if k = 0 then ts.filter unread else ts
  let r := ts.foldl (fun (st : List MorTensor × Nat × Option TaggedLine) t =>
    if st.2.2.isSome ∨ k < st.2.1 ∨ st.2.1 + t.lines.length ≤ k then (st.1 ++ [t], st.2.1 + t.lines.length, st.2.2)
    else
      let j := k - st.2.1
      (st.1 ++ [{ t with read := if t.read.contains j then t.read else j :: t.read }], st.2.1 + t.lines.length, t.lines[j]?)) ([], 0, none)
  (s.setMor { s.mor with queues := Tab.set s.mor.queues q [] r.1 }, r.2.2)

/-! ### Reset (R320) -/

/-- A write of REC_CTRL: the entry numbers start at 0 when recording is switched on (R317). -/
def State.wrRecCtrl (s : State) (v : Word) : State :=
  let g := pgMor 1
  let on := F.REC_CTRL_REC_EN.of v = 1 ∧ !s.bit g F.REC_CTRL_REC_EN
  let s := (s.wf g F.REC_CTRL_REC_EN (F.REC_CTRL_REC_EN.of v)).wf g F.REC_CTRL_WRAP (F.REC_CTRL_WRAP.of v)
  if on then s.setMor { s.mor with recSeq := 0, recStopped := false } else s

end Sys2Proof.Machine
end

