-- ==== Sys2Proof/Machine/Remote.lean ====
section
/-! DEFINITION. The requester's side of a remote access (R44, R433): route, refusal, and the request that waits on a link. -/

namespace Sys2Proof.Machine

def State.shr (s : State) (l : Nat) : ShrSt := Tab.at s.shrs l {}

def State.setShr (s : State) (l : Nat) (x : ShrSt) : State := { s with shrs := Tab.set s.shrs l {} x }

/-- Link that leads toward a position; 15 for none (R433). -/
def State.routeOf (s : State) (p : Nat) : Nat :=
  bits (s.word (pgShr 0) (if p < 8 then F.SHR_ROUTE_LO.off else F.SHR_ROUTE_HI.off)).toNat (p % 8 * 4 + 3) (p % 8 * 4)

/-- Rank position of this device. -/
def State.rankPos (s : State) : Nat := s.rf (pgShr 0) F.SHR_RANK

/-- Rank position and aperture offset of a remote address (R44). -/
def remoteTarget (a : Nat) : Option (Nat × Nat) :=
  if 0x20_0000_0000 ≤ a ∧ a < 0x24_0000_0000 then
    some ((a - 0x20_0000_0000) / 0x4000_0000, 0x8_0000_0000 + (a - 0x20_0000_0000) % 0x4000_0000)
  else if 0x80_0000_0000 ≤ a ∧ a < 0x100_0000_0000 then some ((a - 0x80_0000_0000) / 0x8_0000_0000, (a - 0x80_0000_0000) % 0x8_0000_0000)
  else none

/-- Payload of a write or of a read response, and of a read request (R428). -/
def linePayload (word : BitVec 128) (ls : List TaggedLine) : Bytes :=
  let b := leBytes 16 word.toNat ++ ls.flatMap fun l => (l.data.take 64 ++ List.replicate (64 - l.data.length) 0) ++ leBytes 8 l.tag.toNat
  b ++ List.replicate ((16 - b.length % 16) % 16) 0

def State.shrState (s : State) (l : Nat) : Nat := s.rf (pgShr l) F.SHR_STAT_STATE

/-- Frames cross the link: UP or REMAP (R432). -/
def State.shrUp (s : State) (l : Nat) : Bool := s.shrState l = 3 || s.shrState l = 4

/-- Write lines that a link has lost (R432). -/
def State.shrLost (s : State) (l n : Nat) : State :=
  if n = 0 then s else (s.bumpN (pgShr l) F.SHR_LOST_CNT n).post (pgShr l) F.SHR_LOST_CNT 7 0 0

/-- A frame for a link waits on it; a link that is not up loses it. -/
def State.shrQueue (s : State) (l : Nat) (m : ShrMsg) : State :=
  if s.shrUp l then s.setShr l { s.shr l with wait := (s.shr l).wait ++ [m] } else s.shrLost l m.lines

/-- What becomes of a remote access at its requester: refused as unmapped, lost on a link that is down, or sent. -/
inductive RemoteSent where
  | refused
  | lost
  | sent
deriving DecidableEq

/-- A remote access of up to three lines leaves on the link toward its position, or is refused (R44, R433). A halyard's read is over with the
answer that its event brings, so none stays outstanding. -/
def State.remoteSend (s : State) (agent a tenant n : Nat) (ls : Option (List TaggedLine)) : State × RemoteSent :=
  match remoteTarget a with
  | none => (s.unmapped agent a ls.isSome, .refused)
  | some (p, o) =>
    let l := s.routeOf p
    if p = s.rankPos then ((s.unmapped agent a ls.isSome).raise (pgShr 0) F.SHR_ERR_STAT_WIN_CLOSED, .refused)
    else if l ≥ 8 then ((s.unmapped agent a ls.isSome).raise (pgShr 0) F.SHR_ERR_STAT_ROUTE_BAD, .refused)
    else
      let id := s.nextXfer
      let s := { s with nextXfer := id + 1 }
      let word := Config.requestWord o n id tenant
      let m : ShrMsg := match ls with
        | some ds => { kind := 1, dst := p, src := s.rankPos, body := linePayload word ds, lines := ds.length }
        | none => { kind := 2, dst := p, src := s.rankPos, body := leBytes 16 word.toNat }
      let up := s.shrUp l
      let s := s.shrQueue l m
      if !up then (s, .lost)
      else
        (if ls.isSome ∨ agent = 4 then s else s.setShr l { s.shr l with reads := (s.shr l).reads ++ [{ id := id, n := n, agent := agent, addr := a }] }, .sent)

/-- A read that the peer refused: unmapped, and WIN_CLOSED in the page of the link on which it left (R44, R434). -/
def State.windowClosed (s : State) (agent a : Nat) : State :=
  let s := s.unmapped agent a false
  match remoteTarget a with
  | some (p, _) => if s.routeOf p < 8 then s.raise (pgShr (s.routeOf p)) F.SHR_ERR_STAT_WIN_CLOSED else s
  | none => s

end Sys2Proof.Machine
end

