-- ==== Sys2Proof/Machine/SerCode.lean ====
section
/-! DEFINITION. The codes of Serac: CRCs, layered offset min-sum LDPC (R325 to R330) and CRC-aided list decoding of polar codes (R333, R334). -/

namespace Sys2Proof.Machine

/-! ### CRCs (TS 38.212 clause 5.1) -/

/-- A generator polynomial: degree and low coefficients. -/
structure Gen where
  deg : Nat
  low : Nat
deriving DecidableEq, Repr

def crc24a : Gen := ⟨24, 0x864CFB⟩
def crc24b : Gen := ⟨24, 0x800063⟩
def crc16 : Gen := ⟨16, 0x1021⟩
def crc11 : Gen := ⟨11, 0x621⟩
def crc6 : Gen := ⟨6, 0x21⟩

/-- One step of a remainder: `r × x + b` modulo the generator. -/
def Gen.step (g : Gen) (r : Nat) (b : Bool) : Nat :=
  let v := 2 * r + b.toNat
  if v.testBit g.deg then (v % 2 ^ g.deg) ^^^ g.low else v

/-- Remainder of a bit string as a polynomial, first bit highest. -/
def Gen.rem (g : Gen) (bs : List Bool) : Nat := bs.foldl g.step 0

/-- `a × x^n` modulo the generator. -/
def Gen.shl (g : Gen) (a : Nat) : Nat → Nat
  | 0 => a
  | n + 1 => g.step (Gen.shl g a n) false

/-- The generator of a TB_CRC code (R324). -/
def tbGen (c : Nat) : Gen := if c = 1 then crc16 else crc24a

/-- tb_combine (R332). -/
def tbCombine (g : Gen) (parts : List (Nat × Nat)) : Nat := parts.foldl (fun r p => g.shl r p.2 ^^^ p.1) 0

/-- Bits packed as in R331. -/
def packBits (bs : List Bool) : Bytes :=
  (List.range (ceilDiv bs.length 8)).map fun i =>
    BitVec.ofNat 8 ((List.range 8).foldl (fun v j => 2 * v + (bs.getD (8 * i + j) false).toNat) 0)

/-! ### LDPC -/

/-- Set index of a lifting size (TS 38.212 table 5.3.2-1): Z is `a × 2^j`, at most 384. -/
def liftSet (z : Nat) : Option Nat :=
  if z > 384 then none
  else (List.range 8).find? fun i => (List.range 8).any fun j => [2, 3, 5, 7, 9, 11, 13, 15].getD i 0 * 2 ^ j = z

/-- An LDPC job's shape. -/
structure LdpcShape where
  bg : Nat
  z : Nat
  rows : Nat
  iters : Nat
  filler : Nat
  crc : Bool
  llr4 : Bool
deriving DecidableEq, Repr

def LdpcShape.kcols (p : LdpcShape) : Nat := if p.bg = 0 then 22 else 10
def LdpcShape.ncol (p : LdpcShape) : Nat := p.kcols + p.rows
def LdpcShape.k (p : LdpcShape) : Nat := p.kcols * p.z

/-- Lines of one code block (R325). -/
def LdpcShape.cbLines (p : LdpcShape) : Nat := ceilDiv ((p.ncol - 2) * p.z * (if p.llr4 then 4 else 8)) 512

/-- A soft bit (R326). -/
def llrAt (llr4 : Bool) (bs : Bytes) (i : Nat) : Int :=
  let v := if llr4 then 16 * sInt 4 ((bs.getD (i / 2) 0).toNat / (if i % 2 = 1 then 16 else 1)) else sInt 8 (bs.getD i 0).toNat
  if v = -128 then -127 else v

/-- Channel value of a codeword position (R326). -/
def LdpcShape.lambda (p : LdpcShape) (bs : Bytes) (v : Nat) : Int :=
  if p.k - p.filler ≤ v ∧ v < p.k then 127 else if v < 2 * p.z then 0 else llrAt p.llr4 bs (v - 2 * p.z)

/-- The edges of a base row: number, column and shift (R325, R327). -/
def rowEdges (bg set row : Nat) : List (Nat × Nat × Nat) :=
  let first := ((List.range row).map fun r => (Config.ldpcCols bg r).length).foldl (· + ·) 0
  (Config.ldpcCols bg row).zipIdx.map fun c => (first + c.2, c.1, Config.ldpcShift bg set (first + c.2))

/-- Clamp to `±m`. -/
def sat (v m : Int) : Int := max (-m) (min v m)

/-- Posteriors by position and check messages by edge × 384 + lane (R329). -/
structure LdpcState where
  post : Tab Int := []
  msg : Tab Int := []
deriving DecidableEq, Repr

/-- The two smallest magnitudes, the lowest place of the smallest, and the product of the signs. -/
structure MinSum where
  m1 : Nat := 1023
  m2 : Nat := 1023
  place : Nat := 0
  neg : Bool := false
deriving DecidableEq, Repr

def MinSum.step (s : MinSum) (q : Int × Nat) : MinSum :=
  let a := q.1.natAbs
  let s := { s with neg := s.neg != decide (q.1 < 0) }
  if a < s.m1 then { s with m2 := s.m1, m1 := a, place := q.2 } else if a < s.m2 then { s with m2 := a } else s

/-- One lane of a layer (R329); `wt` gives the weight byte of an edge. -/
def ldpcLane (z : Nat) (edges : List (Nat × Nat × Nat)) (wt : Nat → Nat) (s : LdpcState) (lane : Nat) : LdpcState :=
  let pos (e : Nat × Nat × Nat) : Nat := e.2.1 * z + (lane + e.2.2 % z) % z
  let qs := edges.map fun e => sat (Tab.at s.post (pos e) 0 - Tab.at s.msg (e.1 * 384 + lane) 0) 511
  let m := qs.zipIdx.foldl MinSum.step {}
  (edges.zip qs.zipIdx).foldl (fun s x =>
    let w := wt x.1.1
    let mm := if x.2.2 = m.place then m.m2 else m.m1
    let mag : Int := max 0 ((rneShr ((w % 16 + 1) * mm) 4 : Nat) - (w / 16 : Nat))
    let c := if m.neg != decide (x.2.1 < 0) then -mag else mag
    { post := Tab.set s.post (pos x.1) 0 (sat (x.2.1 + c) 2047), msg := Tab.set s.msg (x.1.1 * 384 + lane) 0 c }) s

/-- One iteration: every base row in ascending order. -/
def ldpcIter (p : LdpcShape) (set : Nat) (wt : Nat → Nat) (s : LdpcState) : LdpcState :=
  (List.range p.rows).foldl (fun s r => (List.range p.z).foldl (ldpcLane p.z (rowEdges p.bg set r) wt) s) s

/-- Hard decision (R330). -/
def LdpcState.hard (s : LdpcState) (v : Nat) : Bool := decide (Tab.at s.post v 0 < 0)

/-- Whether every parity check holds. -/
def ldpcZero (p : LdpcShape) (set : Nat) (s : LdpcState) : Bool :=
  (List.range p.rows).all fun r => (List.range p.z).all fun lane =>
    !((rowEdges p.bg set r).foldl (fun x e => x != s.hard (e.2.1 * p.z + (lane + e.2.2 % p.z) % p.z)) false)

/-- Iterate until the syndrome is zero or no iteration is left: the state, the iterations run, and whether it converged. -/
def ldpcRun (p : LdpcShape) (set : Nat) (wt : Nat → Nat → Nat) : Nat → Nat → LdpcState → LdpcState × Nat × Bool
  | 0, t, s => (s, t, false)
  | n + 1, t, s =>
    let s := ldpcIter p set (wt t) s
    if ldpcZero p set s then (s, t + 1, true) else ldpcRun p set wt n (t + 1) s

/-- A code block's result: iterations run or path chosen, status (R330, R337), bits kept. -/
structure CbOut where
  count : Nat
  status : Nat
  bits : List Bool
deriving DecidableEq, Repr

/-- Decode one code block from the bytes of its lines. -/
def ldpcBlock (p : LdpcShape) (wt : Nat → Nat → Nat) (bs : Bytes) : CbOut :=
  let set := (liftSet p.z).getD 0
  let s0 : LdpcState := { post := (List.range (p.ncol * p.z)).foldl (fun t v => Tab.set t v 0 (p.lambda bs v)) [] }
  let r := ldpcRun p set wt p.iters 0 s0
  let raw := (List.range (p.k - p.filler)).map r.1.hard
  let good := !p.crc || decide (crc24b.rem raw = 0)
  { count := r.2.1, status := if !r.2.2 then 2 else if good then 0 else 1, bits := if p.crc then raw.take (raw.length - 24) else raw }

/-! ### Polar -/

/-- A polar job's shape (R333). -/
structure PolarShape where
  a : Nat
  e : Nat
  nlog : Nat
deriving DecidableEq, Repr

def PolarShape.n (p : PolarShape) : Nat := 2 ^ p.nlog
def PolarShape.gen (p : PolarShape) : Gen := if p.a ≤ 19 then crc6 else crc11
def PolarShape.k (p : PolarShape) : Nat := p.a + p.gen.deg
def PolarShape.npc (p : PolarShape) : Nat := if p.a ≤ 19 then 3 else 0

/-- The limits of R333. -/
def PolarShape.ok (p : PolarShape) : Bool :=
  12 ≤ p.a && p.a ≤ 1012 && 5 ≤ p.nlog && p.nlog ≤ 10 && p.k + p.npc ≤ min p.e p.n

/-- Sub-block interleaver pattern (TS 38.212 table 5.4.1.1-1). -/
def subPat : List Nat :=
  [0, 1, 2, 4, 3, 5, 6, 7, 8, 16, 9, 17, 10, 18, 11, 19, 12, 20, 13, 21, 14, 22, 15, 23, 24, 25, 26, 28, 27, 29, 30, 31]

def PolarShape.j (p : PolarShape) (i : Nat) : Nat := subPat.getD (32 * i / p.n) 0 * (p.n / 32) + i % (p.n / 32)

/-- Positions frozen by puncturing or shortening (TS 38.212 clause 5.4.1.1). -/
def PolarShape.preFrozen (p : PolarShape) (i : Nat) : Bool :=
  let n := p.n
  if p.e ≥ n then false
  else if 16 * p.k ≤ 7 * p.e then
    ((List.range (n - p.e)).any fun m => p.j m = i) ||
      (if 4 * p.e ≥ 3 * n then decide (i < ceilDiv (3 * n - 2 * p.e) 4) else decide (i < ceilDiv (9 * n - 4 * p.e) 16))
  else (List.range (n - p.e)).any fun m => p.j (p.e + m) = i

/-- The positions that carry bits, most reliable first. -/
def PolarShape.info (p : PolarShape) : List Nat :=
  let seq := ((List.range 1024).map Config.polarSeq).filter fun q => decide (q < p.n) && !p.preFrozen q
  (seq.reverse).take (p.k + p.npc)

/-- Ones of an index: the row weight is 2 to that power. -/
def ones1 (i : Nat) : Nat := ((List.range 10).filter fun b => i.testBit b).length

/-- Parity-check positions (TS 38.212 clause 5.3.1.2). -/
def PolarShape.pc (p : PolarShape) : List Nat :=
  if p.npc = 0 then []
  else
    let q := p.info
    let wm := if p.e + 3 > 192 + p.k then 1 else 0
    let best := q.take p.k
    let low := best.foldl (fun m i => min m (ones1 i)) 10
    let light := ((best.filter fun i => ones1 i = low).take wm)
    (q.drop (q.length - (p.npc - wm))) ++ light

/-- Encode half a block (natural order). -/
def polarEnc : Nat → List Bool → List Bool
  | 0, u => u
  | n + 1, u =>
    let h := 2 ^ n
    let a := polarEnc n (u.take h)
    let b := polarEnc n (u.drop h)
    (List.zipWith (· != ·) a b) ++ b

def sgn (v : Int) : Int := if v < 0 then -1 else 1

/-- f of R334. -/
def polarF (a b : Int) : Int := sgn a * sgn b * (min a.natAbs b.natAbs : Nat)

/-- g of R334. -/
def polarG (a b : Int) (u : Bool) : Int := sat (b + (if u then -a else a)) 511

/-- LLR of bit `i`, from the bits decided before it. -/
def polarLlr : Nat → List Int → List Bool → Nat → Int
  | 0, l, _, _ => l.headD 0
  | n + 1, l, us, i =>
    let h := 2 ^ n
    let a := l.take h
    let b := l.drop h
    if i < h then polarLlr n (List.zipWith polarF a b) us i
    else
      let x := polarEnc n (us.take h)
      polarLlr n (((a.zip b).zip x).map fun q => polarG q.1.1 q.1.2 q.2) (us.drop h) (i - h)

/-- A path: bits so far, the bits that carry information, metric, and the shift register (y0 to y4). -/
structure PolarPath where
  us : List Bool := []
  info : List Bool := []
  pm : Nat := 0
  reg : List Bool := [false, false, false, false, false]
deriving DecidableEq, Repr

/-- Decide `u` at an LLR. -/
def PolarPath.put (x : PolarPath) (u : Bool) (l : Int) : PolarPath :=
  { x with us := x.us ++ [u], pm := if u != decide (l < 0) then min 65535 (x.pm + l.natAbs) else x.pm }

/-- The candidates in ascending metric, ties in the order given. -/
def insertPath (x : PolarPath) : List PolarPath → List PolarPath
  | [] => [x]
  | y :: ys => if x.pm < y.pm then x :: y :: ys else y :: insertPath x ys

def sortPaths (xs : List PolarPath) : List PolarPath := xs.foldl (fun s x => insertPath x s) []

/-- One bit of every path. -/
def polarBit (p : PolarShape) (llrs : List Int) (info pc : List Nat) (xs : List PolarPath) (i : Nat) : List PolarPath :=
  let llr (x : PolarPath) : Int := polarLlr p.nlog llrs x.us i
  let turn (x : PolarPath) : PolarPath := { x with reg := x.reg.drop 1 ++ x.reg.take 1 }
  let note (x : PolarPath) (u : Bool) : PolarPath :=
    { x with info := x.info ++ [u], reg := (x.reg.headD false != u) :: x.reg.drop 1 }
  if !info.contains i then xs.map fun x => (turn x).put false (llr x)
  else if pc.contains i then xs.map fun x => let y := turn x; y.put (y.reg.headD false) (llr x)
  else
    (sortPaths (xs.flatMap fun x =>
      let y := turn x
      [note (y.put false (llr x)) false, note (y.put true (llr x)) true])).take 8

/-- Decode a polar block: the chosen path's place, status, the A bits, and its metric. -/
def polarBlock (p : PolarShape) (llrs : List Int) : CbOut × Nat :=
  let info := p.info
  let pc := p.pc
  let xs := sortPaths ((List.range p.n).foldl (polarBit p llrs info pc) [{}])
  match xs.zipIdx.find? fun x => p.gen.rem x.1.info = 0 with
  | some x => ({ count := x.2, status := 0, bits := x.1.info.take p.a }, x.1.pm)
  | none => let x := xs.headD {}; ({ count := 0, status := 1, bits := x.info.take p.a }, x.pm)

end Sys2Proof.Machine
end

