-- ==== Sys2Proof/Machine/Serac.lean ====
section
/-! DEFINITION. The Serac engines (R323, R324, R331, R332, R335 to R343): input, checks, records, weight sets. -/

namespace Sys2Proof.Machine

def State.ser (s : State) (e : Nat) : SerSt := Tab.at s.sers e {}

/-- SER_STAT follows the engine (R342). -/
def State.setSer (s : State) (e : Nat) (x : SerSt) : State :=
  let g := pgSer e
  let s := { s with sers := Tab.set s.sers e {} x }
  ((s.wf g F.SER_STAT_BUSY x.run.isSome.toNat).wf g F.SER_STAT_IN_JOBS x.jobs.length).wf g F.SER_STAT_OUT_RECS x.out.length

/-! ### The header (R324) -/

/-- A job's header line. -/
structure SerHdr where
  kind : Nat
  flags : Nat
  w2 : Nat
  b4 : Nat
  b5 : Nat
  w4 : Nat
  b6 : Nat
  wset : Nat
  inLines : Nat
  filler : Nat
  tagT : Nat
  id : Nat
  rsvd : Bool
  tag : Tag
deriving DecidableEq, Repr

def serHdr (j : SerJob) : SerHdr :=
  let l := j.lines.headD ⟨[], 0⟩
  let r (o n : Nat) : Nat := leNat (slice l.data o n)
  { kind := r 0 1, flags := r 1 1, w2 := r 2 2, b4 := r 4 1, b5 := r 5 1, w4 := r 4 2, b6 := r 6 1, wset := r 7 1, inLines := r 8 4
    filler := r 12 2, tagT := r 14 2, id := r 16 4
    rsvd := decide (r 1 1 ≥ 128) || decide (bits (r 14 2) 14 12 ≠ 0) || (l.data.drop 20).any fun b => decide (b ≠ 0)
    tag := l.tag }

def SerHdr.ldpc (h : SerHdr) : LdpcShape :=
  { bg := h.flags % 2, z := h.w2, rows := h.b4, iters := h.b5, filler := h.filler, crc := h.flags.testBit 3, llr4 := h.flags.testBit 6 }

def SerHdr.polar (h : SerHdr) : PolarShape := { a := h.w2, e := h.w4, nlog := h.b6 }

def SerHdr.tbCrc (h : SerHdr) : Nat := bits h.flags 5 4

/-- Edges of a graph code, 1 or 2 (R327). -/
def graphEdges (g : Nat) : Nat := if g = 1 then 316 else 197

/-- IN_LINES that a header calls for (R325, R328, R332, R333). -/
def SerHdr.wants (h : SerHdr) : Nat :=
  match h.kind with
  | 1 => 1 + h.b6 * h.ldpc.cbLines
  | 2 => 1 + ceilDiv h.polar.n 64
  | 3 => 1 + h.b6
  | _ => if bits h.flags 1 0 = 1 then 125 else 78

/-- A part line of a TB_CHECK job. -/
def partLine (j : SerJob) (p : Nat) : TaggedLine := j.lines.getD (1 + p) ⟨[], 0⟩

def partFlags (j : SerJob) (p : Nat) : Nat := leNat (slice (partLine j p).data 15 1)

def SerSt.set (x : SerSt) (j : Nat) : SerSet := Tab.at x.sets j {}

/-- The first failing check (R339); 0 when none fails. -/
def serCause (x : SerSt) (j : SerJob) : Nat :=
  let h := serHdr j
  let l := h.ldpc
  let w := x.set h.wset
  let foreign := (w.owner.map fun t => decide (t ≠ Tag.tenant h.tag)).getD false
  let kLim := l.k - (if l.crc then 24 else 0)
  let g := bits h.flags 1 0
  let checks : List (Nat × Bool) :=
    [(1, !(1 ≤ h.kind && h.kind ≤ 4) || h.rsvd),
     (2, h.kind = 1 && ((liftSet l.z).isNone || l.rows < 4 || l.rows > (if l.bg = 0 then 46 else 42) || l.iters = 0 || l.iters > 25 ||
        h.b6 = 0 || h.b6 > 16 || kLim ≤ l.filler)),
     (3, j.mixed || h.inLines > 6400 || (if h.kind = 4 ∧ (g = 0 ∨ g = 3) then false else decide (h.inLines ≠ h.wants))),
     (4, ((h.kind = 1 || h.kind = 4) && (h.wset > 15 || foreign)) || (h.kind = 1 && w.graph ≠ 0 && w.graph ≠ l.bg + 1)),
     (5, h.kind = 2 && !h.polar.ok),
     (6, h.kind = 3 && (h.b6 < 2 || h.b6 > 16 || !(partFlags j 0).testBit 1 || !(partFlags j (h.b6 - 1)).testBit 2 ||
        (List.range h.b6).any fun p => bits (partFlags j p) 5 4 ≠ h.tbCrc)),
     (7, h.tbCrc = 3 && h.kind ≠ 4 || (h.kind = 4 && (g = 0 || g = 3)))]
  ((checks.find? (·.2)).map (·.1)).getD 0

/-! ### Input (R335) -/

/-- A line reaches an engine, from a halyard where one brings it. -/
def State.serInput (s : State) (e : Nat) (l : TaggedLine) (src : Option Nat) : State :=
  let g := pgSer e
  let x := s.ser e
  if !s.works g then (s.bump g F.SER_DISCARD_CNT).discardWork g 0
  else if !s.bit g F.SER_CTRL || s.shutting g then s.bump g F.SER_DISCARD_CNT
  else if x.fill.isNone ∧ x.jobs.length ≥ 2 then (s.bump g F.SER_DISCARD_CNT).fault g F.SER_ERR_STAT_IN_OVERRUN 4 l.tag
  else
    let j : SerJob := match x.fill with
      | none => { lines := [l] }
      | some f => { lines := f.lines ++ [l], mixed := f.mixed || decide (x.src ≠ src) }
    if j.lines.length ≥ (serHdr j).inLines then s.setSer e { x with fill := none, src := none, jobs := x.jobs ++ [j] }
    else s.setSer e { x with fill := some j, src := src }

def execSeracInputLine (e : Fin 8) (data : Bytes) (tag : Tag) (s : State) : Host.Outcome State Fault Refusal :=
  .next (s.serInput e { data := sized 64 data, tag := tag } none)

/-! ### Weight sets (R327, R328) -/

/-- Byte of the active bank of a set. -/
def SerSet.byte (w : SerSet) (i : Nat) : Nat := ((if w.active then w.bank1 else w.bank0).getD i 0x0F).toNat

/-- The sets that wait return to the default (R328). -/
def SerSt.boundary (x : SerSt) : SerSt :=
  { x with sets := (List.range 16).foldl (fun t j => if x.clr.testBit j then Tab.set t j {} {} else t) x.sets, clr := 0 }

def State.wrWsetClr (s : State) (e : Nat) (v : Word) : State :=
  let x := s.ser e
  s.setSer e { x with clr := x.clr ||| F.SER_WSET_CLR.of v }

def execSerWsetClr (a : Agent) (e : Fin 8) (v : Word) (s : State) : Host.Outcome State Fault Refusal :=
  .next (s.onReady a (pgSer e) 0x080 fun s => s.wrWsetClr e v)

/-! ### Starting a job -/

/-- The oldest complete job starts on an idle engine; its checks are made (R335, R339). -/
def State.serStart (s : State) (e : Nat) : State :=
  let g := pgSer e
  let x := s.ser e
  match x.run, x.jobs with
  | none, j :: js =>
    if !s.works g then s
    else
      let x := x.boundary
      let c := serCause x j
      let h := serHdr j
      let s := (s.setSer e { x with jobs := js, run := some { job := j, cause := c } }).wf g F.SER_JOB_ID h.id
      if c = 0 then s else (s.wf g F.SER_BAD_CAUSE c).fault g F.SER_ERR_STAT_JOB_BAD 5 h.tag h.id (some c)
  | _, _ => s

def execSeracJobStart (e : Fin 8) (s : State) : Host.Outcome State Fault Refusal := .next (s.serStart e)

/-! ### Records (R331, R337, R338) -/

/-- Fields of a record's header line. -/
structure RecHdr where
  status : Nat
  ncb : Nat := 0
  cause : Nat := 0
  bits : Nat := 0
  part : Nat := 0
  cbs : List CbOut := []
  pm : Nat := 0

/-- The header line's bytes. -/
def recBytes (h : SerHdr) (r : RecHdr) : Bytes :=
  sized 64 (leBytes 1 h.kind ++ leBytes 1 r.status ++ leBytes 1 r.ncb ++ leBytes 1 r.cause ++ leBytes 4 h.id ++ leBytes 4 r.bits ++
    leBytes 3 r.part ++ leBytes 1 (h.flags &&& 0x36) ++
    sized 16 (r.cbs.map fun c => BitVec.ofNat 8 (c.count % 32 + 32 * c.status)) ++ leBytes 2 r.pm)

/-- A record: its lines and their tags. -/
def mkRec (h : SerHdr) (poison : Bool) (r : RecHdr) (payload : Bytes) : SerRec :=
  let t (fmt : Nat) : Tag := newTag (h.tagT % 4096) fmt (decide (h.tagT ≥ 32768)) poison h.tag
  { lines := { data := recBytes h r, tag := t 0 } ::
      (List.range (ceilDiv payload.length 64)).map fun i => { data := sized 64 (slice payload (64 * i) 64), tag := t 5 } }

/-- The record of a refused job (R339). -/
def badRec (h : SerHdr) (cause : Nat) : SerRec := mkRec h false { status := 6, cause := cause } []

/-- The running job's own record, and what it consumed. -/
def State.serDecoded (s : State) (e : Nat) (r : SerRun) (rc : SerRec) (poison memUe : Bool) : State :=
  let g := pgSer e
  let s := s.setSer e { s.ser e with run := some { r with rec? := some rc } }
  let s := if poison then s.raise g F.SER_ERR_STAT_IN_POISON else s
  if memUe then
    let x := s.ser e
    (s.setSer e { x with ueTimes := recentTimes (s.tbNs 0) x.ueTimes }).fault g F.SER_ERR_STAT_MEM_UE 1 (serHdr r.job).tag (serHdr r.job).id
  else s

/-- A job of a kind that runs and is not yet decoded. -/
def SerSt.ready (x : SerSt) (kind : Nat) : Option (SerRun × SerHdr) :=
  match x.run with
  | some r => if (serHdr r.job).kind = kind ∧ r.cause = 0 ∧ r.rec?.isNone then some (r, serHdr r.job) else none
  | none => none

/-- Bytes and poison of lines `[i, i + n)` of a job. -/
def jobLines (j : SerJob) (i n : Nat) : Bytes × Bool :=
  let ls := (j.lines.drop i).take n
  (ls.flatMap (·.data), ls.any fun l => Tag.poison l.tag)

/-- Counters of decoded blocks (R342). -/
def State.serBlocks (s : State) (e : Nat) (cbs : List CbOut) : State :=
  let g := pgSer e
  (s.bumpN g F.SER_CB_CNT cbs.length).bumpN g F.SER_CB_FAIL_CNT ((cbs.filter fun c => decide (c.status ≠ 0)).length)

/-- TB_STATUS of whole transport blocks and parts (R331); poison comes first (R338). -/
def tbStatus (h : SerHdr) (cbs : List CbOut) (rem : Nat) (poison : Bool) : Nat :=
  if poison then 5
  else if h.tbCrc = 0 then 4
  else if h.flags.testBit 1 ∧ h.flags.testBit 2 then
    (if cbs.any fun c => decide (c.status ≠ 0) then 2 else if rem = 0 then 0 else 1)
  else 3

/-- An LDPC job (R329 to R331). -/
def State.serLdpc (s : State) (e : Nat) (memUe : Bool) : State :=
  match (s.ser e).ready 1 with
  | none => s
  | some (r, h) =>
    let p := h.ldpc
    let w := (s.ser e).set h.wset
    let wt (t k : Nat) : Nat := w.byte (t * graphEdges (p.bg + 1) + k)
    let bad0 := Tag.poison h.tag || memUe
    let outs := (List.range h.b6).map fun c =>
      let b := jobLines r.job (1 + c * p.cbLines) p.cbLines
      let o := ldpcBlock p wt b.1
      (if b.2 || bad0 then { o with status := 3 } else o, o)
    let cbs := outs.map (·.1)
    let poison := cbs.any fun c => decide (c.status = 3)
    let payload := cbs.flatMap (·.bits)
    let whole := h.flags.testBit 1 && h.flags.testBit 2 && decide (h.tbCrc ≠ 0)
    let rem := if h.tbCrc = 0 then 0 else (tbGen h.tbCrc).rem payload
    let hdr : RecHdr := { status := tbStatus h cbs rem poison, ncb := h.b6, bits := payload.length, part := if whole then 0 else rem, cbs := cbs }
    let s := (s.serBlocks e cbs).tally (pgSer e) F.SER_ITER_LO ((cbs.map (·.count)).foldl (· + ·) 0)
    let s := s.bumpN (pgSer e) F.SER_EARLY_CNT ((outs.filter fun o => decide (o.2.count < p.iters)).length)
    s.serDecoded e r (mkRec h poison hdr (packBits payload)) poison memUe

def execLdpc (e : Fin 8) (memUe : Bool) (s : State) : Host.Outcome State Fault Refusal := .next (s.serLdpc e memUe)

/-- A POLAR job (R333, R334). -/
def State.serPolar (s : State) (e : Nat) (memUe : Bool) : State :=
  match (s.ser e).ready 2 with
  | none => s
  | some (r, h) =>
    let p := h.polar
    let b := jobLines r.job 1 (ceilDiv p.n 64)
    let llrs := (List.range p.n).map fun i => sInt 8 (b.1.getD i 0).toNat
    let o := polarBlock p llrs
    let poison := b.2 || Tag.poison h.tag || memUe
    let cb := if poison then { o.1 with status := 3 } else o.1
    let hdr : RecHdr := { status := if poison then 5 else if cb.status = 0 then 0 else 1, ncb := 1, bits := cb.bits.length, cbs := [cb], pm := o.2 }
    (s.serBlocks e [cb]).serDecoded e r (mkRec h poison hdr (packBits cb.bits)) poison memUe

def execPolar (e : Fin 8) (memUe : Bool) (s : State) : Host.Outcome State Fault Refusal := .next (s.serPolar e memUe)

/-- Whether a part's record reports every code block OK (R332, R337). -/
def partOk (l : TaggedLine) : Bool :=
  (List.range (leNat (slice l.data 2 1))).all fun c => decide (leNat (slice l.data (16 + c) 1) < 32)

/-- A TB_CHECK job (R332). -/
def State.serTbCheck (s : State) (e : Nat) (memUe : Bool) : State :=
  match (s.ser e).ready 3 with
  | none => s
  | some (r, h) =>
    let ls := (List.range h.b6).map (partLine r.job)
    let parts := ls.map fun l => (leNat (slice l.data 12 3), leNat (slice l.data 8 4))
    let rem := if h.tbCrc = 0 then 0 else tbCombine (tbGen h.tbCrc) parts
    let poison := ls.any (fun l => Tag.poison l.tag) || Tag.poison h.tag || memUe
    let st := if poison then 5 else if !ls.all partOk then 2 else if rem = 0 then 0 else 1
    s.serDecoded e r (mkRec h poison { status := st, ncb := h.b6 } []) poison memUe

def execTbCheck (e : Fin 8) (memUe : Bool) (s : State) : Host.Outcome State Fault Refusal := .next (s.serTbCheck e memUe)

/-- A WSET_LOAD job (R328): the inactive bank is written and becomes active; a poisoned load leaves the set unchanged. -/
def State.serWset (s : State) (e : Nat) (memUe : Bool) : State :=
  match (s.ser e).ready 4 with
  | none => s
  | some (r, h) =>
    let g := bits h.flags 1 0
    let b := jobLines r.job 1 (h.inLines - 1)
    let poison := b.2 || Tag.poison h.tag || memUe
    let s :=
      if poison then s
      else
        let x := s.ser e
        let w := x.set h.wset
        let bytes := b.1.take (25 * graphEdges g)
        let w' : SerSet := { w with
          graph := g, owner := some (Tag.tenant h.tag), active := !w.active, loaded := true
          bank0 := if w.active then bytes else w.bank0, bank1 := if w.active then w.bank1 else bytes }
        (s.setSer e { x with sets := Tab.set x.sets h.wset {} w' }).bump (pgSer e) F.SER_WSET_LOAD_CNT
    s.serDecoded e r (mkRec h poison { status := if poison then 5 else 0 } []) poison memUe

def execWsetLoad (e : Fin 8) (memUe : Bool) (s : State) : Host.Outcome State Fault Refusal := .next (s.serWset e memUe)

/-! ### The end of a job, and records out -/

/-- A job ends: its record enters the queue, a fifth discarding the oldest (R335, R337). -/
def State.serEnd (s : State) (e cycles : Nat) : State :=
  let g := pgSer e
  let x := s.ser e
  match x.run with
  | none => s
  | some r =>
    match (if r.cause = 0 then r.rec? else some (badRec (serHdr r.job) r.cause)) with
    | none => s
    | some rc =>
      let full := decide (x.out.length ≥ 4)
      let s := s.setSer e { x.boundary with run := none, out := (if full then x.out.drop 1 else x.out) ++ [rc] }
      let s := if full then s.fault g F.SER_ERR_STAT_OUT_OVERRUN 4 0 (serHdr r.job).id else s
      let st := leNat (slice ((rc.lines.headD ⟨[], 0⟩).data) 1 1)
      let s := if st = 1 ∨ st = 2 then s.bump g F.SER_TB_FAIL_CNT else s
      (s.bump g F.SER_JOB_CNT).tally g F.SER_BUSY_CYC_LO cycles

def execSeracJobEnd (e : Fin 8) (cycles : BitVec 32) (s : State) : Host.Outcome State Fault Refusal := .next (s.serEnd e cycles.toNat)

/-- Line `k` of the oldest unread record; reading its last line frees it. -/
def State.serRead (s : State) (e k : Nat) : State × Option (TaggedLine × Bool) :=
  let x := s.ser e
  match x.out with
  | [] => (s, none)
  | rc :: rest =>
    match rc.lines[k]? with
    | none => (s, none)
    | some l =>
      if k + 1 ≥ rc.lines.length then (s.setSer e { x with out := rest }, some (l, true))
      else (s.setSer e { x with out := { rc with next := k + 1 } :: rest }, some (l, false))

/-- The next line of the oldest unread record is read. -/
def execSeracRecordRead (e : Fin 8) (s : State) : Host.Outcome State Fault Refusal :=
  let r := s.serRead e (((s.ser e).out.head?.map (·.next)).getD 0)
  .next (match r.2 with
    | some l => r.1.answer l.1.data (Tag.poison l.1.tag)
    | none => s)

/-- An indirect read of the SERAC page (R342). -/
def serIndRead (s : State) (e i : Nat) : Option Word :=
  let x := s.ser e
  if 0x1_0000 ≤ i ∧ i < 0x1_0010 then
    let w := x.set (i - 0x1_0000)
    some (BitVec.ofNat 32 (w.graph + (w.owner.getD 0) * 4 + w.active.toNat * 32 + w.loaded.toNat * 64))
  else if i < 0x1_0000 then
    let w := x.set (i / 0x1000)
    let k := i % 0x1000
    if 4 * k < 25 * graphEdges (if w.graph = 2 then 2 else 1) then
      some (BitVec.ofNat 32 (leNat ((List.range 4).map fun b => BitVec.ofNat 8 (w.byte (4 * k + b)))))
    else none
  else none

end Sys2Proof.Machine
end

