-- ==== Sys2Proof/Machine/Halyard.lean ====
section
/-! DEFINITION. The halyards (R262 to R292): paths, checks, arming, lines, cancel and completion. -/

namespace Sys2Proof.Machine

/-! ### Ends and spans (R262, R266, R268) -/

/-- An end of a transfer. -/
inductive HEnd where
  | mem (p : Place)
  | queue | serOut | serIn | slot | bad
deriving DecidableEq, Repr

def srcEnd (w : BitVec 512) : HEnd :=
  match dSrcKind w with
  | 0 => .mem (placeOf (dSrc w))
  | 1 => .queue
  | 2 => .serOut
  | _ => .bad

def dstEnd (w : BitVec 512) : HEnd :=
  match dDstKind w with
  | 0 => .mem (placeOf (dDst w))
  | 1 => .slot
  | 2 => .serIn
  | _ => .bad

/-- A place in a floe that a transfer may name. -/
def Place.inFloe : Place → Bool
  | .sp _ => true
  | .half _ _ => true
  | .imem _ => true
  | .dmem _ => true
  | _ => false

/-- The paths of R262; a place outside every range or region is left to cause 3. -/
def pathOk (chan : Bool) (a b : HEnd) : Bool :=
  if a = .mem .none ∨ b = .mem .none then a ≠ .bad && b ≠ .bad
  else if chan then
    match a, b with
    | .mem .dram, .mem .dram => true
    | .mem .dram, .mem p => p.inFloe
    | .mem .dram, .slot => true
    | .mem p, .mem .dram => p.inFloe
    | .serOut, .mem .dram => true
    | _, _ => false
  else
    (match a with
    | .mem (.remote _) => true
    | .mem p => p.inFloe
    | .queue => true
    | .serOut => true
    | _ => false) &&
    (match b with
    | .mem (.remote _) => true
    | .mem p => p.inFloe && !p.isHalf
    | .serIn => true
    | _ => false)

/-- Register space is a range of R41 that no path names. -/
def inRegs (a : Nat) : Bool := 0x10_0000_0000 ≤ a && a < 0x10_1000_0000

/-- Bytes of a scale line (R269). -/
def dScaleBytes (w : BitVec 512) : Nat := if dSclKind w = 1 then 4 else 8

def dScaled (w : BitVec 512) : Bool := dSclKind w = 1 || dSclKind w = 2

/-- Address of data line 0 on each side (R266). -/
def dSrcBase (w : BitVec 512) : Nat := dSrc w + if dSrcRec w then 64 else 0
def dDstBase (w : BitVec 512) : Nat := dDst w + if dDstRec w then 64 else 0

/-- Rows of each side (R268). -/
def dSrcRows (w : BitVec 512) : Nat := if dIdxEn w && !dIdxDst w then dIdxLimit w else dCount w
def dDstRows (w : BitVec 512) : Nat := if dIdxEn w && dIdxDst w then dIdxLimit w else dCount w

def rowSpan (rows pitch line : Nat) : Nat := if rows = 0 then 0 else (rows - 1) * pitch + line

/-- Spans of the source and destination as address and bytes; the record header and the digest line belong to them. -/
def srcSpan (w : BitVec 512) : Nat × Nat := (dSrc w, 64 * ((if dSrcRec w then 1 else 0) + rowSpan (dSrcRows w) (dSrcPitch w) (dRowLines w)))
def dstSpan (w : BitVec 512) : Nat × Nat :=
  let n := rowSpan (dDstRows w) (dDstPitch w) (dRowLines w)
  (dDst w, 64 * ((if dDstRec w then 1 else 0) + if dDgAppend w then max n (dCount w * dDstPitch w + 1) else n))

/-- Whether the scale companion lies beside lines that have addresses (R269, R278 cause 6). -/
def srcScaled (w : BitVec 512) : Bool := dScaled w && dSrcKind w = 0
def dstScaled (w : BitVec 512) : Bool := dScaled w && dDstKind w = 0 && !(placeOf (dDst w)).isHalf

/-- Every span that a descriptor names: address, bytes, alignment. -/
def dSpans (w : BitVec 512) : List (Nat × Nat × Nat) :=
  (if dSrcKind w = 0 then [((srcSpan w).1, (srcSpan w).2, 64)] else []) ++
  (if dDstKind w = 0 then [((dstSpan w).1, (dstSpan w).2, 64)] else []) ++
  (if dIdxEn w then [(dIdx w, 4 * dCount w, 64)] else []) ++
  (if srcScaled w then [(dSclSrc w, dSrcRows w * dRowLines w * dScaleBytes w, dScaleBytes w)] else []) ++
  (if dstScaled w then [(dSclDst w, dDstRows w * dRowLines w * dScaleBytes w, dScaleBytes w)] else [])

/-- Two places in one range of R41 and one region of R43. -/
def oneRange : Place → Place → Bool
  | .remote p, .remote q => decide (p < 16) == decide (q < 16)
  | p, q => p = q && p ≠ .none

/-- A span that touches DRAM outside channel `h` (R278 cause 2). -/
def outOfChannel (h : Nat) (x : Nat × Nat × Nat) : Bool :=
  x.2.1 ≠ 0 && decide (x.1 < dramSize) && (decide (x.1 < h * 0x2000_0000) || decide (min (x.1 + x.2.1) dramSize > (h + 1) * 0x2000_0000))

def idxPlaceOk (chan : Bool) (a : Nat) : Bool :=
  match placeOf a with
  | .dram => chan
  | .sp _ => !chan
  | .dmem _ => !chan
  | _ => false

/-- The first failing cause (R278); 0 for none. -/
def descCause (h : Nat) (w : BitVec 512) : Nat :=
  let chan := decide (h < 64)
  let a := srcEnd w
  let b := dstEnd w
  let regs := (dSrcKind w = 0 && inRegs (dSrc w)) || (dDstKind w = 0 && inRegs (dDst w))
  let half := dDstKind w = 0 && (placeOf (dDst w)).isHalf
  let sclBad := srcScaled w && dDstKind w = 0 &&
    !pathOk chan (.mem (placeOf (dSclSrc w))) (if half then b else .mem (placeOf (dSclDst w)))
  if regs || !pathOk chan a b || (dIdxEn w && !idxPlaceOk chan (dIdx w)) || sclBad then 1
  else if chan && (dSpans w).any (outOfChannel h) then 2
  else if (dSpans w).any fun x => x.1 % x.2.2 ≠ 0 || (x.2.1 ≠ 0 && !oneRange (placeOf x.1) (placeOf (x.1 + x.2.1 - 1))) then 3
  else if dSrcKind w = 0 ∧ dDstKind w = 0 ∧ (srcSpan w).2 ≠ 0 ∧ (dstSpan w).2 ≠ 0 ∧ (srcSpan w).1 < (dstSpan w).1 + (dstSpan w).2 ∧
      (dstSpan w).1 < (srcSpan w).1 + (srcSpan w).2 then 4
  else if descBits w 4 63 32 ≠ 0 ∧ descBits w 4 63 32 < dRowLines w then 5
  else if dSclKind w = 3 ∨ (dSclKind w ≠ 0 ∧ (dDstKind w ≠ 0 ∨ dSrcKind w ≠ 0)) then 6
  else if dDstKind w = 1 ∧ !(dCount w = 1 && !dIdxEn w && dSclKind w = 0 && a = .mem .dram && (dRowLines w = 1 || dRowLines w = 8)) then 7
  else if dMcast w ≠ 0 ∧ !(half && dMcast w ≤ 4 && ((windowFloe (dDst w)).getD 1) % 2 ^ dMcast w = 0) then 8
  else if dRsvd w then 9
  else if (dPin w && a ≠ .mem .dram) || (dSrcRec w && a ≠ .mem .dram) || (dDstRec w && b ≠ .mem .dram) || (dDgAppend w && dIdxDst w) then 10
  else 0

/-! ### Arming (R276, R277) -/

/-- A descriptor becomes active (R277, R292); the readiness of what it reads is checked now (R354). -/
def State.activate (s : State) (h : Nat) (d : HalDesc) : State :=
  let x := s.hal h
  let r := s.readyCheck d.ctx (dXferId d.word)
  let s := r.1.wf (pgHal h) F.HAL_XFER_ID (dXferId d.word)
  s.putHal h { active := some { d with ctx := r.2 }, shadow := x.shadow, tenant := s.rf (pgHal h) F.HAL_TENANT_TENANT, compose := x.compose }

/-- The shadow becomes active once nothing is (R277); a disabled halyard discards it (R476). -/
def State.promote (s : State) (h : Nat) : State :=
  let x := s.hal h
  match x.active, x.shadow with
  | none, some d =>
    if s.shutting (pgHal h) then s
    else
      let s := s.putHal h { x with shadow := none }
      if s.works (pgHal h) then s.activate h d else (s.discardWork (pgHal h) (dXferId d.word)).workRefused d.ctx
  | _, _ => s

/-- An arm (R276). -/
def State.arm (s : State) (h : Nat) (d : HalDesc) : State :=
  let g := pgHal h
  if !s.works g then (s.discardWork g (dXferId d.word)).workRefused d.ctx
  else
    let s := s.promote h
    let x := s.hal h
    if x.active.isNone && x.shadow.isNone then s.activate h d
    else
      let s := s.putHal h { x with shadow := some d }
      if x.shadow.isSome then (s.bump g F.HAL_OVERRUN_CNT).fault g F.HAL_ERR_STAT_OVERRUN 4 0 (dXferId d.word) else s

/-- Bytes of HAL_DESC_STAGE. -/
def State.halStage (s : State) (h : Nat) : BitVec 512 :=
  (List.range 16).foldl (fun w k => w ||| ((s.word (pgHal h) (F.HAL_DESC_STAGE k).off).setWidth 512 <<< (32 * k))) 0

/-- Discard the shadow (R276, R279, R290). -/
def State.dropShadow (s : State) (h : Nat) : State :=
  let x := s.hal h
  if x.shadow.isSome then (s.putHal h { x with shadow := none }).bump (pgHal h) F.HAL_OVERRUN_CNT else s

/-- CANCEL_ALL (R279): the shadow goes as well, when the cancel is accepted or one is in progress. -/
def State.cancelAll (s : State) (h : Nat) : State :=
  let s := s.cancelXfer h
  if (s.hal h).cancelling then s.dropShadow h else s

/-- A write of HAL_ARM (R276, R279, R292): a cancel first, then the arm. -/
def State.wrHalArm (s : State) (h : Nat) (v : Word) : State :=
  let g := pgHal h
  let go := F.HAL_ARM_GO.of v = 1
  let can := F.HAL_ARM_CANCEL.of v = 1
  let all := F.HAL_ARM_CANCEL_ALL.of v = 1
  if !(go || can || all) then s
  else if s.bit g F.HAL_TENANT_PART then s.raise g F.HAL_ERR_STAT_ARM_DENIED
  else
    let s := if all then s.cancelAll h else if can then s.cancelXfer h else s
    if go then s.arm h { word := s.halStage h } else s

def execHalArmGo (a : Agent) (h : Fin 128) (s : State) : Host.Outcome State Fault Refusal :=
  .next (s.onReady a (pgHal h) 0x040 fun s => s.wrHalArm h 1)

def execHalCancel (a : Agent) (h : Fin 128) (s : State) : Host.Outcome State Fault Refusal :=
  .next (s.onReady a (pgHal h) 0x040 fun s => s.wrHalArm h 2)

def execHalCancelAll (a : Agent) (h : Fin 128) (s : State) : Host.Outcome State Fault Refusal :=
  .next (s.onReady a (pgHal h) 0x040 fun s => s.wrHalArm h 4)

/-! ### Activation (R278) -/

/-- The checks end: the descriptor is refused, or its transfer starts. -/
def State.checkDesc (s : State) (h : Nat) (d : HalDesc) : State :=
  let g := pgHal h
  let x := s.hal h
  let c := descCause h d.word
  if c = 0 then
    let s := s.setHal h { x with checked := true }
    if dDstKind d.word = 1 then
      let r := pgRime (bits (dDst d.word) 5 0)
      let j := bits (dDst d.word) 8 6
      (s.wf r (F.RIME_CB_SLOT_LOADING j) 1).wf r (F.RIME_CB_SLOT_VALID j) 0
    else s
  else
    let s := s.putHal h { x with active := none }
    let s := (s.wf g F.HAL_BAD_CAUSE c).bump g F.HAL_BAD_CNT
    (s.fault g F.HAL_ERR_STAT_DESC_BAD 5 0 (dXferId d.word) (some c)).workRefused d.ctx

/-- The shadow is promoted, or the active descriptor's checks end. -/
def State.halStart (s : State) (h : Nat) : State :=
  let x := s.hal h
  match x.active with
  | some d => if x.checked || x.cancelling then s else s.checkDesc h d
  | none => s.promote h

def execDescActivate (h : Fin 128) (s : State) : Host.Outcome State Fault Refusal := .next (s.halStart h)

/-! ### Reading a line (R267, R269, R273 to R275) -/

/-- A line as its source gave it: data, tag where the source is tagged, poison, returned under R42, refused under R529. -/
structure HLine where
  data : Bytes := zeros 64
  tag : Option Tag := none
  poison : Bool := false
  unmapped : Bool := false
  denied : Bool := false
deriving DecidableEq, Repr

def HLine.dead : HLine := { poison := true }

/-- The line of a floe. -/
def State.floeLine (s : State) (c : WorkCtx) (f a : Nat) (ecc : Ecc) : State × HLine :=
  let off := a - floeBase f
  if s.floeFenced f || s.floeClosed f then (s, HLine.dead)
  else if !s.ready (pgFmem f) then (s.unmapped 4 a false, { poison := true, unmapped := true })
  else
    let r := s.floeRead f off 64 ecc
    let p := Tag.poison r.2.2 || s.readsPoison c a 64
    match regionOf f off with
    | .half _ _ => (r.1, { data := r.2.1, poison := p })
    | .imem _ => (r.1, { data := r.2.1, poison := ecc.ue.isSome })
    | _ => (r.1, { data := r.2.1, tag := some r.2.2, poison := p })

/-- A line of DRAM through the Firn slices. -/
def State.dramLine (s : State) (c : WorkCtx) (tenant a : Nat) (pin wline : Bool) (ecc : Ecc) : State × HLine :=
  if !s.granOk (.halyard tenant) a then (s.granDeny, { poison := true, denied := true })
  else if !s.chanReady a then (s.unmapped 4 a false, { poison := true, unmapped := true })
  else
    let r := s.firnRead (some tenant) a pin wline false ecc
    (r.1, { data := r.1.rdBytes a 64, poison := r.2 || c.late.contains (a / 64) })

/-- A line at an address; a remote one is what the peer answered. -/
def State.lineAt (s : State) (c : WorkCtx) (tenant a : Nat) (pin wline : Bool) (ecc : Ecc) (peer : Option PeerLine) : State × HLine :=
  match placeOf a with
  | .dram => s.dramLine c tenant a pin wline ecc
  | .remote _ =>
    let r := s.remoteSend 4 a tenant 1 none
    (match r.2, peer with
    | .refused, _ => (r.1, { poison := true, unmapped := true })
    | .lost, _ => (r.1, { poison := true, unmapped := true })
    | .sent, some p => (r.1, { data := sized 64 p.line.data, tag := some p.line.tag, poison := Tag.poison p.line.tag })
    | .sent, none => (r.1.windowClosed 4 a, { poison := true, unmapped := true }))
  | .none => (s.unmapped 4 a false, { poison := true, unmapped := true })
  | .accs _ => (s.unmapped 4 a false, { poison := true, unmapped := true })
  | .sp f => s.floeLine c f a ecc
  | .half f _ => s.floeLine c f a ecc
  | .imem f => s.floeLine c f a ecc
  | .dmem f => s.floeLine c f a ecc

/-- Index of a row, none where it is out of range or its line carries POISON (R267). -/
def State.rowIndex (s : State) (x : HalSt) (w : BitVec 512) (r : Nat) : Option Nat :=
  let a := dIdx w + 4 * r
  let l := a / 64 * 64
  let bad := match placeOf l with
    | .dram => s.dramPoisonAt l || !s.granOk (.halyard x.tenant) l || !s.chanReady l
    | .sp f => s.poisonAt l || s.floeFenced f || s.floeClosed f || !s.ready (pgFmem f)
    | .dmem f => s.poisonAt l || s.floeFenced f || s.floeClosed f || !s.ready (pgFmem f)
    | _ => true
  let i := s.rdLe a 4
  if bad || decide (i ≥ dIdxLimit w) then none else some i

/-- The tag of a delivered line (R35, R273). -/
def outTag (t : Tag) (tenant : Nat) (src : Option Tag) (poison : Bool) : Tag :=
  match src with
  | none => mkTag (poison || Tag.poison t) (Tag.digestEn t) (Tag.order t) (Tag.fmt t) tenant (Tag.stream t) (Tag.cell t) (Tag.slot t)
      (Tag.sample t)
  | some i => newTag (Tag.stream t) (Tag.fmt t) (Tag.digestEn t) poison i

def setTenant (t : Tag) (tenant : Nat) : Tag :=
  mkTag (Tag.poison t) (Tag.digestEn t) (Tag.order t) (Tag.fmt t) tenant (Tag.stream t) (Tag.cell t) (Tag.slot t) (Tag.sample t)

/-! ### Writing a line -/

/-- A line reaches a floe (R37, R531, R560). -/
def State.toFloe (s : State) (f a : Nat) (bs : Bytes) (t : Tag) : State :=
  let off := a - floeBase f
  if s.floeFenced f || s.floeClosed f then s
  else if !s.ready (pgFmem f) then s.unmapped 4 a true
  else if (s.floeTenant f).isSome ∧ s.floeTenant f ≠ some (Tag.tenant t) then s.post (pgFmem f) fldNone 6 t 0
  else
    match regionOf f off with
    | .imem _ => s.wrBytes a (bs.take 64)
    | .half _ k => (s.wrLine a bs t).wbWritten f k a
    | _ => s.wrLine a bs t

/-- A line commits at an address (R271, R281). -/
def State.putLine (s : State) (h : Nat) (x : HalSt) (w : BitVec 512) (c : WorkCtx) (a : Nat) (bs : Bytes) (t : Tag) : State :=
  let s := match placeOf a with
    | .dram =>
      if !s.granOk (.halyard x.tenant) a then s.granDeny
      else if !s.chanReady a then s.unmapped 4 a true
      else s.firnWrite a bs (dWline w) false
    | .remote _ => (s.remoteSend 4 a x.tenant 1 (some [{ data := bs, tag := t }])).1
    | .half f _ => (List.range (2 ^ dMcast w)).foldl (fun s i => (s.toFloe (f + i) (a + i * 0x100_0000) bs t).markLine c (a + i * 0x100_0000)) s
    | .sp f => s.toFloe f a bs t
    | .dmem f => s.toFloe f a bs t
    | .imem f => s.toFloe f a bs t
    | _ => s.unmapped 4 a true
  (s.tally (pgHal h) F.HAL_LINES_LO 1).markLine c a

/-- A scale line commits (R269): in the side stores of a weight half, or in the line that holds it. -/
def State.halPutScale (s : State) (h : Nat) (x : HalSt) (w : BitVec 512) (c : WorkCtx) (lam row j : Nat) (bs : Bytes) (poison : Bool) : State :=
  let s := match placeOf (dDst w) with
    | .half f k =>
      let slot := (dDstBase w + 64 * lam - floeBase f - offWb k) / 64
      (List.range (2 ^ dMcast w)).foldl (fun (s : State) i =>
        if s.floeFenced (f + i) || s.floeClosed (f + i) || !s.ready (pgFmem (f + i)) then s
        else s.setSide (f + i) k slot { data := BitVec.ofNat 64 (leNat bs), poison := poison }) s
    | _ =>
      let a := dSclDst w + (row * dRowLines w + j) * dScaleBytes w
      let l := a / 64 * 64
      match placeOf a with
      | .dram =>
        if !s.granOk (.halyard x.tenant) a then s.granDeny
        else if !s.chanReady a then s.unmapped 4 a true
        else
          let s := s.firnWrite a bs false false
          if poison then s.setDramPoison l true else s
      | .remote _ => s
      | p =>
        match p.floe with
        | some f =>
          if s.floeFenced f || s.floeClosed f || !s.ready (pgFmem f) then s
          else ((s.wrBytes a bs).setTag l (Tag.addPoison (s.tagAt l) poison)).markLine c a
        | none => s
  s.tally (pgHal h) F.HAL_LINES_LO 1

/-! ### One line (R266 to R275, R287) -/

/-- Where the next line is read from and written to: rows of each side, or a row that is out of range. -/
structure Visit where
  src : Option Nat
  dst : Option Nat
deriving DecidableEq, Repr

def State.visit (s : State) (x : HalSt) (w : BitVec 512) : Visit :=
  if dIdxEn w then
    let i := s.rowIndex x w x.row
    if dIdxDst w then { src := some x.row, dst := i } else { src := i, dst := some x.row }
  else { src := some x.row, dst := some x.row }

/-- The counters of a row that is out of range (R267), and the read of the index line that a row begins. -/
def State.rowBegins (s : State) (h : Nat) (x : HalSt) (c : WorkCtx) (w : BitVec 512) (v : Visit) : State :=
  if dIdxEn w ∧ x.line = 0 then
    let s := if x.row % 16 = 0 then (s.lineAt c x.tenant (dIdx w + 4 * x.row) false false {} none).1 else s
    if v.src.isNone || v.dst.isNone then (s.raise (pgHal h) F.HAL_ERR_STAT_IDX_OOB).bump (pgHal h) F.HAL_OOB_CNT else s
  else s

/-- A line whose tenant is not the halyard's (R275, R529). -/
def State.halMismatch (s : State) (h : Nat) (w : BitVec 512) (t : Tag) : State :=
  let g := pgHal h
  let s := s.bump g F.TENANT_MISMATCH_CNT
  if (s.hal h).mismatch then s.raise g F.HAL_ERR_STAT_TENANT_MISMATCH
  else (s.setHal h { s.hal h with mismatch := true }).fault g F.HAL_ERR_STAT_TENANT_MISMATCH 6 t (dXferId w)

/-- Read the source line, or none while a queue or an engine has not delivered it. -/
def State.readSource (s : State) (h : Nat) (c : WorkCtx) (w : BitVec 512) (row : Option Nat) (j : Nat) (ecc : Ecc) (peer : Option PeerLine) :
    Option (State × HLine) :=
  let x := s.hal h
  match row with
  | none => some (s, HLine.dead)
  | some r =>
    let k := r * dSrcPitch w + j
    match dSrcKind w with
    | 1 =>
      let q := s.queueLine (dSrc w % 256) k
      q.2.map fun l => (q.1, { data := sized 64 l.data, tag := some l.tag, poison := Tag.poison l.tag })
    | 2 =>
      let e := dSrc w % 8
      if x.freed then some (s, HLine.dead)
      else
        let q := s.serRead e k
        (match q.2 with
        | some l =>
          some (q.1.setHal h { q.1.hal h with freed := l.2 }, { data := sized 64 l.1.data, tag := some l.1.tag, poison := Tag.poison l.1.tag })
        | none => if (s.ser e).out.isEmpty then none else some (s, HLine.dead))
    | _ =>
      let hd := if dSrcRec w && x.srcTag.isNone then
          let q := s.lineAt c x.tenant (dSrc w) (dPin w) false {} none
          (q.1.setHal h { q.1.hal h with srcTag := some (Tag.addPoison (BitVec.ofNat 64 (leNat (q.2.data.take 8))) q.2.poison) })
        else s
      let q := hd.lineAt c x.tenant (dSrcBase w + 64 * k) (dPin w) (dWline w) ecc peer
      let l := q.2
      match (q.1.hal h).srcTag with
      | some t => some (q.1, if dSrcRec w then { l with tag := some t, poison := l.poison || Tag.poison t } else l)
      | none => some (q.1, l)

/-- The scale line beside a line (R269). -/
def State.readScale (s : State) (c : WorkCtx) (x : HalSt) (w : BitVec 512) (row : Option Nat) (j : Nat) (peer : Option PeerLine) :
    State × Bytes × Bool :=
  let n := dScaleBytes w
  match row with
  | none => (s, zeros n, true)
  | some r =>
    let a := dSclSrc w + (r * dRowLines w + j) * n
    match placeOf a, peer with
    | .remote _, some p => (s, sized n p.scale, p.scalePoison)
    | _, _ =>
      let q := s.lineAt c x.tenant (a / 64 * 64) (dPin w) false {} none
      (q.1, (q.2.data.drop (a % 64)).take n, q.2.poison)

/-- Step the visit order. -/
def HalSt.advance (x : HalSt) (w : BitVec 512) (whole : Bool) : HalSt :=
  if whole || x.line + 1 ≥ dRowLines w then { x with row := x.row + 1, line := 0 } else { x with line := x.line + 1 }

/-- Where a delivered line goes. -/
def State.place (s : State) (h : Nat) (c : WorkCtx) (w : BitVec 512) (lam : Nat) (bs : Bytes) (t : Tag) : State :=
  let x := s.hal h
  match dDstKind w with
  | 1 => (s.setHal h { x with cb := x.cb ++ bs, cbPoison := x.cbPoison || Tag.poison t }).tally (pgHal h) F.HAL_LINES_LO 1
  | 2 => (s.serInput (dDst w % 8) { data := bs, tag := t } (some h)).tally (pgHal h) F.HAL_LINES_LO 1
  | _ => s.putLine h x w c (dDstBase w + 64 * lam) bs t

/-- A line is delivered to destination row `d`. -/
def State.deliverLine (s : State) (h : Nat) (c : WorkCtx) (w : BitVec 512) (l : HLine) (srcRow : Option Nat) (d j : Nat)
    (peer : Option PeerLine) : State :=
  let g := pgHal h
  let x := s.hal h
  let s := if l.unmapped then s.raise g F.HAL_ERR_STAT_LINE_UNMAPPED else s
  let foreign := match l.tag with
    | some t => decide (Tag.tenant t ≠ x.tenant)
    | none => false
  let s := if foreign || l.denied then s.halMismatch h w (l.tag.getD 0) else s
  let t := setTenant (outTag (dTagT w) x.tenant l.tag (l.poison || foreign)) x.tenant
  let t := Tag.addPoison t (c.failed.contains (Tag.cell t))
  let bs := if foreign then zeros 64 else l.data
  let s := if Tag.poison t then (s.bump g F.HAL_POISON_CNT).raise g F.HAL_ERR_STAT_LINE_POISON else s
  let lam := d * dDstPitch w + j
  let s := s.place h c w lam bs t
  let q : State × Bytes × Bool := if dScaled w then
      (if foreign || l.denied then (s, zeros (dScaleBytes w), true) else s.readScale c x w srcRow j peer)
    else (s, [], false)
  let s := if dScaled w then q.1.halPutScale h x w c lam d j q.2.1 q.2.2 else s
  let x := s.hal h
  let absorb := dDgEn w && Tag.digestEn t
  s.setHal h { x with
    done := x.done + 1, recPoison := x.recPoison || Tag.poison t, firstTag := some (x.firstTag.getD t)
    absorbed := if absorb then x.absorbed ++ bs ++ q.2.1 else x.absorbed, dgPoison := x.dgPoison || (absorb && Tag.poison t) }

/-- The next line of the active transfer, in visit order. -/
def State.halLine (s : State) (h : Nat) (ecc : Ecc) (peer : Option PeerLine) : State :=
  let x := s.hal h
  match x.active with
  | none => s
  | some d =>
    let w := d.word
    if !x.checked || x.cancelling || decide (dCount w ≤ x.row) then s
    else
      let v := s.visit x w
      match v.dst with
      | none =>
        let s := s.rowBegins h x d.ctx w v
        s.setHal h ((s.hal h).advance w true)
      | some dr =>
        match s.readSource h d.ctx w v.src x.line ecc peer with
        | none => s
        | some (s', l) =>
          let s' := s'.rowBegins h x d.ctx w v
          let s' := s'.deliverLine h d.ctx w l v.src dr x.line peer
          s'.setHal h ((s'.hal h).advance w false)

def execHalLineDeliver (h : Fin 128) (ecc : Ecc) (peer : Option PeerLine) (s : State) : Host.Outcome State Fault Refusal :=
  .next (s.halLine h ecc peer)

/-! ### Completion (R274, R281, R289) -/

/-- Place a digest in HAL_DGST. -/
def State.putDigest (s : State) (h : Nat) (dg : Bytes) : State :=
  (List.range 8).foldl (fun s k => s.setWord (pgHal h) (F.HAL_DGST k).off (BitVec.ofNat 32 (leNat ((dg.drop (4 * k)).take 4)))) s

/-- XFER_ID is reported; the counters, the interrupts and the composer follow (R281, R381). -/
def State.halDone (s : State) (h : Nat) (d : HalDesc) (cycles : Nat) (rx : Option Bytes) : State :=
  let g := pgHal h
  let x := s.hal h
  let w := d.word
  let s := (s.bump g F.HAL_DONE_CNT).wf g F.HAL_LINES_DONE x.done
  let s := s.tally g F.HAL_BUSY_CYC_LO cycles
  let s := if dIrq w then s.irq g 0 else s
  let s := if dIrq w ∧ dDstKind w = 0 then (match placeOf (dDst w) with
    | .dmem f => s.sparRaise f 1
    | _ => s) else s
  let cmp := match d.ctx.endOf, rx, x.firstTag with
    | some e, some r, some t =>
      if dDgEn w && Tag.digestEn t then
        some { tag := Tag.addPoison t x.dgPoison, rx := r, xfer := dXferId w, info := e, time := s.tbNs 0 }
      else x.compose
    | _, _, _ => x.compose
  (s.putHal h { shadow := x.shadow, compose := cmp }).workDone d.ctx

/-- The last write commits. -/
def State.halComplete (s : State) (h cycles : Nat) : State :=
  let x := s.hal h
  match x.active with
  | none => s
  | some d =>
    let w := d.word
    if !x.checked || x.cancelling || dCount w = 0 || decide (x.row < dCount w) then s
    else
      let s := if dDstRec w then
          let t := Tag.addPoison (x.firstTag.getD (setTenant (dTagT w) x.tenant)) x.recPoison
          s.putLine h x w d.ctx (dDst w) (leBytes 8 t.toNat ++ zeros 56) t
        else s
      let dg := sha3_256 x.absorbed
      let s := if dDgEn w || dDgAppend w then s.putDigest h dg else s
      let s := if dDgAppend w then
          let t := dTagT w
          let tag := mkTag x.dgPoison false (Tag.order t) 0 (Tag.tenant t) (Tag.stream t) (Tag.cell t) (Tag.slot t) (Tag.sample t)
          s.place h d.ctx w (dCount w * dDstPitch w) (dg ++ zeros 32) tag
        else s
      let s := if dDstKind w = 1 then
          s.loadCb (bits (dDst w) 5 0) (bits (dDst w) 8 6)
            { codes := cbOfBytes x.cb (if dRowLines w = 8 then 256 else 16), id := BitVec.ofNat 16 (dCbId w), poison := x.cbPoison }
        else s
      s.halDone h d cycles (some dg)

def execHalTransferComplete (h : Fin 128) (cycles : BitVec 32) (s : State) : Host.Outcome State Fault Refusal :=
  .next (s.halComplete h cycles.toNat)

/-- A transfer of no rows (R266); it takes 4 cycles. A descriptor that breaks a check is refused. -/
def State.halZero (s : State) (h : Nat) : State :=
  let x := s.hal h
  match x.active with
  | none => s
  | some d =>
    if x.cancelling || dCount d.word ≠ 0 then s
    else if descCause h d.word ≠ 0 then s.checkDesc h d
    else (s.bump (pgHal h) F.HAL_ZERO_CNT).halDone h d 4 none

def execHalZeroRowComplete (h : Fin 128) (s : State) : Host.Outcome State Fault Refusal := .next (s.halZero h)

/-- The reads in flight of a cancelled transfer have returned (R279). -/
def State.cancelDone (s : State) (h cycles : Nat) : State :=
  let g := pgHal h
  let x := s.hal h
  if x.cancelling then
    let s := s.putHal h { shadow := x.shadow, compose := x.compose }
    let s := ((s.wf g F.HAL_ERR_STAT_CANCELLED 1).irq g 1).bump g F.HAL_CANCEL_CNT
    (s.wf g F.HAL_LINES_DONE x.done).tally g F.HAL_BUSY_CYC_LO cycles
  else s

def execCancelEnd (h : Fin 128) (cycles : BitVec 32) (s : State) : Host.Outcome State Fault Refusal := .next (s.cancelDone h cycles.toNat)

/-- An indirect read of the HAL page (R291). -/
def halIndRead (s : State) (h i : Nat) : Option Word :=
  let x := s.hal h
  let wordOf (d : Option HalDesc) (k : Nat) : Word := match d with
    | some d => BitVec.ofNat 32 (bits d.word.toNat (32 * k + 31) (32 * k))
    | none => 0
  if i < 0x10 then some (wordOf x.active i) else if i < 0x20 then some (wordOf x.shadow (i - 0x10)) else none

end Sys2Proof.Machine
end

