-- ==== Sys2Proof/Machine/MstTable.lean ====
section
/-! DEFINITION. Schedule tables (R344 to R352): the image, the units and intervals of its entries, and the rules that a commit checks. -/

namespace Sys2Proof.Machine

/-! ### The image (R346 to R348) -/

/-- Counts of a header: entries, payloads, reservations, wave records. -/
structure MstCounts where
  ne : Nat
  np : Nat
  nr : Nat
  nw : Nat
deriving DecidableEq, Repr

def readCounts (s : State) (a : Nat) : MstCounts :=
  { ne := s.rdLe (a + 4) 2, np := s.rdLe (a + 6) 2, nr := s.rdLe (a + 8) 4, nw := s.rdLe (a + 12) 2 }

def MstCounts.bytes (c : MstCounts) : Nat := 128 + 32 * c.ne + 64 * c.np + 16 * c.nr + 16 * c.nw

/-- Offsets of the payloads, the reservations and the wave records. -/
def MstCounts.payOff (c : MstCounts) : Nat := 128 + 32 * c.ne
def MstCounts.resOff (c : MstCounts) : Nat := c.payOff + 64 * c.np
def MstCounts.waveOff (c : MstCounts) : Nat := c.resOff + 16 * c.nr

/-- The header's limits (cause 1). -/
def headerOk (s : State) (a : Nat) (c : MstCounts) : Bool :=
  let p := s.rdLe a 4
  p % 125000 = 0 && 125000 ≤ p && p ≤ 4000000 && c.ne ≤ 16384 && c.np ≤ 16384 && c.nr ≤ 65536 && c.nw ≤ 512 &&
    s.rdLe (a + 14) 2 = 0 && (s.rdBytes (a + 64) 64).all fun b => decide (b = 0)

/-- Lines that can be read without poison (cause 9). -/
def imageReads (s : State) (a lines : Nat) : Bool :=
  a + 64 * lines ≤ dramSize && (List.range lines).all fun i => s.ready (pgDrc ((a + 64 * i) / 0x2000_0000)) && !s.dramPoisonAt (a + 64 * i)

/-- DIGEST over the image with its own field as zeros (cause 2). -/
def imageDigest (s : State) (a n : Nat) : Bytes :=
  sha3_256 (s.rdBytes a 16 ++ List.replicate 32 0 ++ s.rdBytes (a + 48) (n - 48))

/-- An entry as it stands in the image (R347). -/
def readEntry (s : State) (a : Nat) : MstEntry :=
  let fl := s.rdLe (a + 10) 1
  { start := s.rdLe a 4, wc := s.rdLe (a + 4) 4, kind := s.rdLe (a + 8) 1, target := s.rdLe (a + 9) 1, part := bits fl 2 0
    lag := fl.testBit 3, fin := fl.testBit 4, adpRel := fl.testBit 5, cells := s.rdLe (a + 11) 1, wave := bits (s.rdLe (a + 12) 2) 8 0
    pay := s.rdLe (a + 14) 2, resFirst := bits (s.rdLe (a + 16) 4) 16 0, resN := s.rdLe (a + 20) 1 }

/-- Reserved fields of an entry. -/
def entryRsvd (s : State) (a : Nat) : Bool :=
  bits (s.rdLe (a + 10) 1) 7 6 ≠ 0 || bits (s.rdLe (a + 12) 2) 15 9 ≠ 0 || bits (s.rdLe (a + 16) 4) 31 17 ≠ 0 || s.rdLe (a + 21) 11 ≠ 0

def readPay (s : State) (a : Nat) : BitVec 512 := BitVec.ofNat 512 (s.rdLe a 64)

/-- TARGET and WC against the payload (R347). -/
def targetOk (kind target wc : Nat) (pay : BitVec 512) : Bool :=
  match kind with
  | 1 => target = (macroOf pay).lead && (macroOf pay).wcDecl ≤ wc
  | 4 => target < 128
  | _ => target < 64

/-- Cause 3, but for the order of STARTs. A wave is needed where a cell is named. -/
def entryOk (s : State) (a period : Nat) (c : MstCounts) (e : MstEntry) (pay : BitVec 512) : Bool :=
  e.start < period && 1 ≤ e.kind && e.kind ≤ 5 && 1 ≤ e.wc && !entryRsvd s a && e.pay < c.np && e.resFirst + e.resN ≤ c.nr &&
    (e.cells = 0 || e.wave < c.nw) && targetOk e.kind e.target e.wc pay

def readRes (s : State) (a : Nat) : MstRes := { base := s.rdLe a 5, acc := bits (s.rdLe (a + 5) 1) 1 0, lines := s.rdLe (a + 8) 4 }

/-- Range of R41 that an address lies in. -/
def addrRange (a : Nat) : Option Nat :=
  if a < dramSize then some 0
  else if 0x10_0000_0000 ≤ a ∧ a < 0x10_1000_0000 then some 1
  else if 0x18_0000_0000 ≤ a ∧ a < 0x18_4000_0000 then some 2
  else if 0x20_0000_0000 ≤ a ∧ a < 0x24_0000_0000 then some 3
  else if 0x80_0000_0000 ≤ a ∧ a < 0x100_0000_0000 then some 4
  else none

/-- A range of lines within one range of R41 (R348). -/
def MstRes.ok (r : MstRes) : Bool :=
  1 ≤ r.acc && 1 ≤ r.lines && r.base % 64 = 0 && (addrRange r.base).isSome && addrRange r.base = addrRange (r.base + 64 * r.lines - 1)

/-- Cause 4. -/
def resOk (s : State) (a : Nat) : Bool :=
  (readRes s a).ok && bits (s.rdLe (a + 5) 1) 7 2 = 0 && s.rdLe (a + 6) 2 = 0 && s.rdLe (a + 12) 4 = 0

/-- Slots of a wave record (R347). -/
def readWave (s : State) (a : Nat) : List (Option Nat) :=
  (List.range 8).map fun i => let v := s.rdLe (a + 2 * i) 2; if v.testBit 15 then some (bits v 9 0) else none

def waveRsvd (s : State) (a : Nat) : Bool := (List.range 8).any fun i => bits (s.rdLe (a + 2 * i) 2) 14 10 ≠ 0

/-- First index below `n` that satisfies a condition. -/
def firstIdx (n : Nat) (p : Nat → Bool) : Option Nat := (List.range n).find? p

/-- Read an image of known counts. -/
def readTable (s : State) (a : Nat) (c : MstCounts) : MstTable :=
  { period := s.rdLe a 4, gens := (List.range 8).map fun p => s.rdLe (a + 48 + 2 * p) 2, id := s.rdLe (a + 32) 4
    entries := (List.range c.ne).map fun i => readEntry s (a + 128 + 32 * i)
    pays := (List.range c.np).map fun i => readPay s (a + c.payOff + 64 * i)
    res := (List.range c.nr).map fun i => readRes s (a + c.resOff + 16 * i)
    waves := (List.range c.nw).map fun i => readWave s (a + c.waveOff + 16 * i) }

def emptyTable : MstTable := { period := 125000, gens := [], id := 0, entries := [], pays := [], res := [], waves := [] }

/-- An image as GO finds it, with the first of causes 9, 1, 2, 3 and 4 and its index; cause 0 for none (R352). -/
def parseTable (s : State) (a : Nat) : MstTable × Nat × Nat :=
  let c := readCounts s a
  if !imageReads s a 2 then (emptyTable, 9, 0)
  else if !headerOk s a c then (emptyTable, 1, 0)
  else if !imageReads s a (ceilDiv c.bytes 64) then (emptyTable, 9, 0)
  else if imageDigest s a c.bytes ≠ s.rdBytes (a + 16) 32 then (emptyTable, 2, 0)
  else
    let t := readTable s a c
    let badEntry := firstIdx c.ne fun i =>
      let o := a + 128 + 32 * i
      let e := readEntry s o
      !entryOk s o t.period c e (t.pays.getD e.pay 0) || (i ≠ 0 && decide (e.start < (readEntry s (o - 32)).start))
    match badEntry with
    | some i => (t, 3, i)
    | none =>
      match firstIdx c.nw fun i => waveRsvd s (a + c.waveOff + 16 * i) with
      | some i => (t, 3, i)
      | none =>
        match firstIdx c.nr fun i => !resOk s (a + c.resOff + 16 * i) with
        | some i => (t, 4, i)
        | none => (t, 0, 0)

/-! ### Units and intervals (R349) -/

/-- A unit that an entry holds. -/
inductive MstUnit where
  | gaff (f : Nat)
  | brash (f : Nat)
  | core (f : Nat)
  | spar (f : Nat)
  | hal (h : Nat)
deriving DecidableEq, Repr

/-- Units held by work of a kind on a target. -/
def unitsOf (kind target : Nat) (pay : BitVec 512) : List MstUnit :=
  match kind with
  | 1 =>
    let m := macroOf pay
    m.members.map .gaff ++ if m.opc = 5 ∨ m.opc = 11 then m.members.map .brash else []
  | 2 => [.core target, .brash target]
  | 4 => [.hal target]
  | _ => [.spar target]

def MstTable.pay (t : MstTable) (e : MstEntry) : BitVec 512 := t.pays.getD e.pay 0

def MstTable.units (t : MstTable) (e : MstEntry) : List MstUnit := unitsOf e.kind e.target (t.pay e)

def MstTable.resOf (t : MstTable) (e : MstEntry) : List MstRes := (t.res.drop e.resFirst).take e.resN

/-- Cells of the wave record that an entry names, those that CELL_MASK selects or all. -/
def MstTable.cellsOf (t : MstTable) (e : MstEntry) (whole : Bool) : List Nat :=
  if e.cells = 0 then []
  else ((t.waves.getD e.wave []).zipIdx.filter fun c => whole || e.cells.testBit c.2).filterMap (·.1)

/-- One issue of an entry: index, units, reservations, start, effective start and end. -/
structure Slotted where
  i : Nat
  resFirst : Nat
  hal : Bool
  units : List MstUnit
  res : List MstRes
  s : Nat
  eff : Nat
  fin : Nat
deriving DecidableEq, Repr

/-- The issues of consecutive periods from `base`, with the ends that HAL entries start from. -/
def MstTable.periods (t : MstTable) (base n : Nat) (ends : Tab Nat) : List Slotted :=
  ((List.range n).foldl (fun (acc : List Slotted × Tab Nat) k =>
    let b := base + k * t.period
    t.entries.zipIdx.foldl (fun (acc : List Slotted × Tab Nat) e =>
      let x := e.1
      let s := b + x.start
      let eff := if x.kind = 4 then max s (Tab.at acc.2 x.target 0) else s
      let y := Slotted.mk e.2 x.resFirst (decide (x.kind = 4)) (t.units x) (t.resOf x) s eff (eff + x.wc)
      (acc.1 ++ [y], if x.kind = 4 then Tab.set acc.2 x.target 0 (eff + x.wc) else acc.2)) acc) ([], ends)).1

/-- The issues of one period in steady state, which starts at `t.period`. -/
def MstTable.steady (t : MstTable) : List Slotted := (t.periods 0 2 []).filter fun x => decide (t.period ≤ x.s)

/-! ### Rules 1 to 3 (R352) -/

/-- Two consecutive entries of one unit that rule 1 forbids. -/
def overlap1 (a b : Slotted) : Bool := if b.hal then decide (b.s < a.eff) else decide (b.eff < a.fin)

/-- Rule 1: the first issue that meets the one before it on a unit. -/
def rule1 (items : List Slotted) : Option Slotted :=
  (items.foldl (fun (st : List Slotted × Option Slotted) b =>
    let bad := b.units.any fun u => match st.1.find? fun a => a.units.contains u with
      | some a => overlap1 a b
      | none => false
    (b :: st.1, if st.2.isNone && bad then some b else st.2)) ([], none)).2

def sharesLine (a b : MstRes) : Bool := decide (a.base < b.base + 64 * b.lines) && decide (b.base < a.base + 64 * a.lines)

/-- Rule 2: the first reservation, by index in its issue, that shares a written line with an issue before it whose interval meets its own. -/
def rule2 (items : List Slotted) : Option Nat :=
  (items.foldl (fun (st : List Slotted × Option Nat) b =>
    if st.2.isSome then st
    else
      let near := st.1.filter fun a => decide (a.eff < b.fin) && decide (b.eff < a.fin)
      let hit := b.res.zipIdx.find? fun r => near.any fun a => a.res.any fun q => (q.acc ≠ 1 || r.1.acc ≠ 1) && sharesLine q r.1
      (b :: st.1, hit.map fun r => b.resFirst + r.2)) ([], none)).2

/-- Floes whose windows a range of lines touches. -/
def windowFloes (r : MstRes) : List Nat :=
  (List.range 64).filter fun f => decide (r.base < floeBase (f + 1)) && decide (floeBase f < r.base + 64 * r.lines)

/-- Every unit and every floe-window line lies in the partition's masks. -/
def State.inPart (s : State) (p : Nat) (us : List MstUnit) (rs : List MstRes) : Bool :=
  (us.all fun u => match u with
    | .gaff f => s.partHasFloe p f
    | .brash f => s.partHasFloe p f
    | .core f => s.partHasFloe p f
    | .spar f => s.partHasFloe p f
    | .hal h => s.partHasHal p h) &&
  rs.all fun r => (windowFloes r).all fun f => s.partHasFloe p f

def State.partGen (s : State) (p : Nat) : Nat := s.rf (pgMst 1) (F.MST_PART_CMD_GEN p)

/-- Rule 3: the first entry, or the first wave record that repeats a CELL of an earlier one. -/
def rule3 (s : State) (t : MstTable) : Option Nat :=
  let es := t.entries.zipIdx
  let bad := es.find? fun e =>
    let x := e.1
    s.partState x.part ≠ 1 || s.partGen x.part ≠ t.gens.getD x.part 0 || !s.inPart x.part (t.units x) (t.resOf x) ||
      (x.cells ≠ 0 && (es.find? fun y => decide (y.1.cells ≠ 0) && decide (y.1.wave = x.wave)).any fun y => decide (y.1.part ≠ x.part))
  match bad with
  | some e => some e.2
  | none => firstIdx t.waves.length fun w =>
      ((t.waves.getD w []).filterMap id).any fun c => (t.waves.take w).any fun v => v.contains (some c)

/-- Causes 5 to 8 and their index; cause 0 for none. The active table's tail stands before the new table's first period. -/
def verifyTable (s : State) (t : MstTable) (active : Option MstTable) : Nat × Nat :=
  let items := t.periods 0 2 []
  match rule1 items with
  | some x => (5, x.i)
  | none =>
    match rule2 items with
    | some j => (6, j)
    | none =>
      match rule3 s t with
      | some i => (7, i)
      | none =>
        match active with
        | none => (0, 0)
        | some a =>
          let b := 2 * a.period
          let tail := a.steady.filter fun x => decide (b < x.fin)
          let ends := tail.foldl (fun (m : Tab Nat) x => match x.units with
            | [.hal h] => Tab.set m h 0 x.fin
            | _ => m) []
          let cross := tail ++ t.periods b 1 ends
          match rule1 cross with
          | some x => (8, x.i)
          | none =>
            match rule2 cross with
            | some j => (8, j)
            | none => (0, 0)

/-! ### Questions of best-effort admission (R361) -/

/-- Earliest start of an entry on a unit at or after an instant. -/
def MstTable.nextStart (t : MstTable) (u : MstUnit) (now : Nat) : Option Nat :=
  let ds := (t.entries.filter fun e => (t.units e).contains u).map fun e => (e.start + t.period - now % t.period) % t.period
  match ds with
  | [] => none
  | d :: ds => some (now + ds.foldl min d)

/-- Longest interval of a unit without an entry; none where it has no entry. -/
def MstTable.longestGap (t : MstTable) (u : MstUnit) : Option Nat :=
  let xs := t.steady.filter fun x => x.units.contains u
  match xs with
  | [] => none
  | x :: _ =>
    let last := (xs.map (·.fin)).foldl max 0 - t.period
    let r := xs.foldl (fun (st : Nat × Nat) y => (max st.1 (y.s - st.2), max st.2 y.fin)) (0, last)
    some (max r.1 (x.s + t.period - r.2))

/-- Whether regions share a line with a reservation whose interval meets `[t0, t1)`, one of them written. The first issue of an entry that ends
after t0 ends `e` after it. -/
def MstTable.touches (t : MstTable) (regs : List MstRes) (t0 t1 : Nat) : Bool :=
  t.steady.any fun x =>
    let d := (x.fin % t.period + t.period - t0 % t.period) % t.period
    let e := if d = 0 then t.period else d
    decide (e < t1 - t0 + (x.fin - x.eff)) && x.res.any fun q => regs.any fun r => (q.acc ≠ 1 || r.acc ≠ 1) && sharesLine q r

end Sys2Proof.Machine
end

