-- ==== Sys2Proof/Machine/Masthead.lean ====
section
/-! DEFINITION. The Masthead (R344 to R358): commits, boundaries, and the issue of entries. -/

namespace Sys2Proof.Machine

/-! ### State of page 0 -/

def State.setMst (s : State) (m : MstSt) : State := { s with mst := m }

/-- MST_STAT and MST_PERIOD follow the tables (R367). -/
def State.mstStat (s : State) : State :=
  let g := pgMst 0
  let s := s.wf g F.MST_STAT_ACTIVE s.mst.active.isSome.toNat
  let s := s.wf g F.MST_STAT_VERIFYING s.mst.check.isSome.toNat
  let s := s.wf g F.MST_STAT_STAGED s.mst.staged.isSome.toNat
  s.wf g F.MST_PERIOD ((s.mst.active.map (·.period)).getD 0)

/-- FROZEN of CFGI (R484). -/
def State.frozen (s : State) : Bool := s.bit pgCfgi F.CFG_STAT_FROZEN

/-! ### Commits (R350 to R352) -/

/-- A table is taken for verification; an earlier one under verification or staged is dropped (R351). -/
def State.commitTable (s : State) (t : MstTable × Nat × Nat) : State :=
  (s.setMst { s.mst with check := some t, staged := none }).mstStat

/-- GO: the image at MST_TBL_BASE is read. -/
def State.commitGo (s : State) : State :=
  if s.frozen then s.raise (pgMst 0) F.MST_ERR_STAT_ASSIGN_CONFLICT
  else
    let a := s.rf (pgMst 0) F.MST_TBL_BASE_HI * 2 ^ 32 + s.rf (pgMst 0) F.MST_TBL_BASE_LO * 64
    let t := parseTable s a
    let lines := if t.2.1 = 9 ∨ t.2.1 = 1 then 2 else ceilDiv (readCounts s a).bytes 64
    let s := (List.range lines).foldl (fun s i =>
      if a + 64 * i < dramSize ∧ s.chanReady (a + 64 * i) then s.drcRead (a + 64 * i) false true {} else s) s
    s.commitTable t

/-- A write of MST_TBL_COMMIT. -/
def State.wrCommit (s : State) (v : Word) : State :=
  if F.MST_TBL_COMMIT.of v = 0 then s
  else if s.works (pgMst 0) then s.commitGo else s.discardWork (pgMst 0) 0

def execTableCommit (a : Agent) (v : Word) (s : State) : Host.Outcome State Fault Refusal :=
  .next (s.onReady a (pgMst 0) F.MST_TBL_COMMIT.off fun s => s.wrCommit v)

/-- Verification ends: the table is staged, or the commit is bad. -/
def State.verifyEnd (s : State) : State :=
  match s.mst.check with
  | none => s
  | some (t, c, i) =>
    let r := if c = 0 then verifyTable s t s.mst.active else (c, i)
    if r.1 = 0 then (s.setMst { s.mst with check := none, staged := some t }).mstStat
    else
      let g := pgMst 0
      let s := (s.setMst { s.mst with check := none }).mstStat
      let s := (s.wf g F.MST_BAD_CAUSE_CAUSE r.1).wf g F.MST_BAD_CAUSE_INDEX r.2
      (s.raise g F.MST_ERR_STAT_COMMIT_BAD).irq g 1

def execTableVerifyEnd (s : State) : Host.Outcome State Fault Refusal := .next s.verifyEnd

/-! ### Boundaries (R344, R345, R358, R363, R365) -/

def nextDrain : DrainPhase → DrainPhase
  | .none => .none
  | .wait => .lag
  | .lag => .past
  | .past => .past

/-- A pending swap changes SEL; every selector's value in the period before is kept (R358). -/
def MstSt.swaps (m : MstSt) : MstSt :=
  let sel := m.swap.foldl (fun (t : Tab Bool) e => if e.2 then Tab.set t e.1 false (!Tab.at t e.1 false) else t) m.sel
  { m with sel := sel, selPrev := m.sel, swap := [] }

/-- A period starts at schedule time `b`. While the page is shutting down or disabled, none of its entries issues (R365, R476). -/
def State.boundary (s : State) (b : Nat) : State :=
  let g := pgMst 0
  let m := s.mst.swaps
  let n := (m.active.map (·.entries.length)).getD 0
  let held := if s.shutting g || !s.works g then List.range n else []
  let drain := (List.range 8).foldl (fun (t : Tab DrainPhase) p => Tab.set t p .none (nextDrain (Tab.at t p .none))) m.drain
  s.setMst { m with periodStart := b, en := s.bit g F.MST_CTRL, issued := held, drain := drain }

/-- Times on the scoreboard and of halyards move with a STEP (R345). -/
def MstSt.shift (m : MstSt) (d : Int) : MstSt :=
  let mv (n : Nat) : Nat := ((n : Int) + d).toNat
  { m with
    works := m.works.map fun e => (e.1, e.2.map fun w => { w with start := mv w.start, fin := mv w.fin })
    halEnd := (m.halEnd.map fun e => (e.1, mv e.2)).filter fun e => decide (e.2 ≠ 0) }

/-- Start of the period that holds the present time. -/
def State.periodNow (s : State) (p : Nat) : Nat := s.tbNs 0 / p * p

/-- A boundary of the active table passes; after a STEP the gap begins in its place. -/
def State.periodEnd (s : State) : State :=
  match s.mst.active with
  | none => s
  | some t =>
    if s.bit (pgMst 0) F.MST_STAT_STEP_GAP then s
    else if s.mst.stepped then
      (s.setMst { s.mst with stepped := false }).wf (pgMst 0) F.MST_STAT_STEP_GAP 1
    else s.boundary (s.mst.periodStart + t.period)

def execPeriodBoundary (s : State) : Host.Outcome State Fault Refusal := .next s.periodEnd

/-- The gap ends: periods follow the stepped time. -/
def State.realign (s : State) : State :=
  match s.mst.active with
  | none => s
  | some t =>
    if s.bit (pgMst 0) F.MST_STAT_STEP_GAP then
      let b := s.periodNow t.period
      let s := s.setMst (s.mst.shift ((b : Int) - (s.mst.periodStart + t.period : Nat)))
      let s := (s.wf (pgMst 0) F.MST_STAT_STEP_GAP 0).raise (pgMst 0) F.MST_ERR_STAT_STEP_REALIGN
      s.boundary b
    else s

def execStepRealign (s : State) : Host.Outcome State Fault Refusal := .next s.realign

/-! ### Parking and resuming (R508, R509), as far as tables go -/

/-- Every fronthaul port and Shroud link holds, or none does (R426, R508). -/
def State.holdAll (s : State) (on : Bool) : State :=
  let s := (List.range 16).foldl (fun s p => s.wf (pgFh p) F.FH_STAT_HOLD on.toNat) s
  (List.range 8).foldl (fun s l => s.setShr l { s.shr l with hold := on }) s

/-- A table of the same header without the entries that `keep` drops, and an empty one. -/
def MstTable.only (t : MstTable) (keep : MstEntry → Bool) : MstTable := { t with entries := t.entries.filter keep, id := 0 }

def State.fwState (s : State) : Nat := s.rf pgFwctl F.FWCTL_STAT_STATE

def State.setFwState (s : State) (v : Nat) : State := s.wf pgFwctl F.FWCTL_STAT_STATE v

/-- The empty table is active, or none was: the device is parked (R508). -/
def State.parked (s : State) : State :=
  let s := ((s.setFwState 2).bump pgFwctl F.FWCTL_PARK_CNT).holdAll true
  { s with fw := { s.fw with parkStep := 0 } }

/-- Parking starts: firmware commits the park image of the active table, with its LAG entries alone (R508). -/
def State.park (s : State) : State :=
  let s := s.setFwState 1
  match s.mst.active with
  | none => { s with fw := { s.fw with saved := none } }.parked
  | some t => { s with fw := { s.fw with saved := some t, parkStep := 1 } }.commitTable (t.only (·.lag), 0, 0)

/-- RESUME in PARKED: HOLD clears and the table that was active before parking is committed (R509). -/
def State.resumeFrom (s : State) : State :=
  let s := (s.setFwState 3).holdAll false
  let s := { s with fw := { s.fw with lease := s.tbNs 0, resumeHeld := false } }
  match s.fw.saved with
  | none => s.setFwState 0
  | some t => { s with fw := { s.fw with parkStep := 3 } }.commitTable (t, 0, 0)

/-- What an activation means for parking and resuming. -/
def State.parkActivated (s : State) : State :=
  match s.fw.parkStep, s.mst.active with
  | 1, some t => { s with fw := { s.fw with parkStep := 2 } }.commitTable (t.only fun _ => false, 0, 0)
  | 2, _ =>
    let s := s.parked
    if s.fw.resumeHeld then s.resumeFrom else s
  | 3, _ =>
    let s := { s.setFwState 0 with fw := { s.fw with parkStep := 0, saved := none } }
    if s.fw.detachHeld then { s with fw := { s.fw with detachHeld := false } }.park else s
  | _, _ => s

/-- A staged table becomes active, and its first period starts (R350). -/
def State.activateTable (s : State) : State :=
  let g := pgMst 0
  match s.mst.staged with
  | none => s
  | some t =>
    if s.bit g F.MST_STAT_STEP_GAP || !s.works g || s.shutting g then s
    else
      let s := (s.setMst { s.mst with active := some t, staged := none, stepped := false }).mstStat
      let s := ((s.irq g 0).bump g F.MST_COMMIT_CNT).wf g F.MST_TBL_ID t.id
      (s.boundary (s.periodNow t.period)).parkActivated

def execTableActivate (s : State) : Host.Outcome State Fault Refusal := .next s.activateTable

/-! ### Adapter bases (R358, R367) -/

/-- A swap is requested; it stays one while it is pending. -/
def State.wrAdpSwap (s : State) (v : Word) : State :=
  if F.MST_ADP_SWAP_GO.of v = 0 then s else s.setMst { s.mst with swap := Tab.set s.mst.swap (F.MST_ADP_SWAP_CELL.of v) false true }

def execMstAdpSwap (a : Agent) (v : Word) (s : State) : Host.Outcome State Fault Refusal :=
  .next (s.onReady a (pgMst 0) F.MST_ADP_SWAP_GO.off fun s => s.wrAdpSwap v)

def State.sel (s : State) (c : Nat) : Bool := Tab.at s.mst.sel c false

def mstIndRead (s : State) (i : Nat) : Option Word :=
  if i < 4096 then
    let w := Tab.at s.mst.adps i 0
    if i % 4 = 3 then some (putBits (putBits w 8 8 (s.sel (i / 4)).toNat) 9 9 (Tab.at s.mst.swap (i / 4) false).toNat) else some w
  else none

/-- The base of the copy that SEL does not select may be written. -/
def State.mstIndWrite (s : State) (i : Nat) (v : Word) : State :=
  if i < 4096 ∧ decide (2 ≤ i % 4) ≠ s.sel (i / 4) then
    let v := if i % 2 = 0 then bits v.toNat 31 6 * 64 else bits v.toNat 7 0
    s.setMst { s.mst with adps := Tab.set s.mst.adps i 0 (BitVec.ofNat 32 v) }
  else s

/-- Adapter base of a cell's copy: copy B where `b` is set. -/
def State.adpBase (s : State) (c : Nat) (b : Bool) : Nat :=
  let i := 4 * c + 2 * b.toNat
  (Tab.at s.mst.adps (i + 1) 0).toNat * 2 ^ 32 + (Tab.at s.mst.adps i 0).toNat

/-! ### Issue (R353 to R357) -/

/-- Floes whose units an entry holds. -/
def unitFloe : MstUnit → Option Nat
  | .gaff f => some f
  | .brash f => some f
  | .core f => some f
  | .spar f => some f
  | .hal _ => none

/-- Whether a partition's entry may issue now (R353, R363). -/
def State.mayIssue (s : State) (e : MstEntry) : Bool :=
  match s.partState e.part with
  | 1 => true
  | 2 =>
    match Tab.at s.mst.drain e.part .none with
    | .lag => e.lag
    | .past => false
    | _ => true
  | _ => false

/-- An entry takes its place on the scoreboard. -/
def State.addWork (s : State) (w : Work) : State × Nat :=
  let k := s.mst.nextWork
  (s.setMst { s.mst with works := Tab.set s.mst.works k none (some w), nextWork := k + 1 }, k)

/-- A descriptor with ADP_REL reads the adapter copy of the period, or of the period before for LAG (R358, R382). -/
def State.relocate (s : State) (e : MstEntry) (cells : List Nat) (w : BitVec 512) : State × BitVec 512 :=
  match e.kind, e.adpRel, cells with
  | 4, true, c :: _ =>
    let b := Tab.at (if e.lag then s.mst.selPrev else s.mst.sel) c false
    let src := (dSrc w + s.adpBase c b) % 2 ^ 40
    ({ s with lastCopy := Tab.set s.lastCopy c false b }, BitVec.ofNat 512 (w.toNat - dSrc w + src))
  | _, _, _ => (s, w)

/-- The issue reaches its target. -/
def State.dispatch (s : State) (kind target : Nat) (w : BitVec 512) (c : WorkCtx) : State :=
  match kind with
  | 1 => s.issueMacro c target w
  | 2 => s.startKernel c target (bits w.toNat 31 0)
  | 4 => s.arm target { word := w, ctx := c }
  | _ => s.startSpar c target (bits w.toNat 15 0)

def workId (kind : Nat) (w : BitVec 512) : Nat := if kind = 1 then (macroOf w).id else if kind = 4 then dXferId w else 0

/-- A skipped entry (R353, R355). -/
def State.skipEntry (s : State) (t : MstTable) (e : MstEntry) (w : Work) (fenced : Bool) : State :=
  let s := (s.addWork w).1.bump (pgMst 0) F.MST_SKIP_CNT
  if fenced then s.markFailed (t.cellsOf e false) else s

/-- An entry is issued with its failed-cell list; END clears the marks of its cells (R356). Readiness is checked at once, for a halyard when
its descriptor becomes active. -/
def State.issueWork (s : State) (t : MstTable) (e : MstEntry) (w : Work) : State :=
  let cells := t.cellsOf e false
  let failed := (t.cellsOf e true).filter fun c => s.mst.marks.contains c
  let r := s.addWork w
  let s := r.1.tally (pgMst 0) F.MST_ISSUE_LO 1
  let s := if e.fin then s.setMst { s.mst with marks := s.mst.marks.filter fun c => !cells.contains c } else s
  let q := s.relocate e cells (t.pay e)
  let info := if e.fin then some { part := e.part, gen := s.partGen e.part, tbl := t.id } else none
  let c : WorkCtx := { work := some r.2, cells := cells, failed := failed, endOf := info }
  if e.kind = 4 then q.1.dispatch 4 e.target q.2 c
  else
    let y := q.1.readyCheck c (workId e.kind q.2)
    y.1.dispatch e.kind e.target q.2 y.2

/-- The scheduled start of entry `i`, of a kind that `kind` names, once in its period. -/
def State.issueEntry (s : State) (kind i : Nat) : State :=
  match s.mst.active with
  | none => s
  | some t =>
    match t.entries[i]? with
    | none => s
    | some e =>
      if e.kind ≠ kind ∨ s.mst.issued.contains i ∨ s.bit (pgMst 0) F.MST_STAT_STEP_GAP then s
      else
        let s := s.setMst { s.mst with issued := i :: s.mst.issued }
        let start := s.mst.periodStart + e.start
        let eff := if kind = 4 then max start (Tab.at s.mst.halEnd e.target 0) else start
        let w : Work := { res := t.resOf e, start := eff, fin := eff + e.wc }
        let fenced := ((t.units e).filterMap unitFloe).any s.floeFenced
        if !s.mst.en || s.partGen e.part ≠ t.gens.getD e.part 0 || !s.mayIssue e || fenced then s.skipEntry t e w fenced
        else
          let s := if kind = 4 then s.setMst { s.mst with halEnd := Tab.set s.mst.halEnd e.target 0 (eff + e.wc) } else s
          if kind = 5 then
            match s.takeJob with
            | (_, none) => s
            | (s, some _) => s.issueWork t e w
          else s.issueWork t e w

def execIssueMacro (i : Fin 16384) (s : State) : Host.Outcome State Fault Refusal := .next (s.issueEntry 1 i)
def execIssueNkern (i : Fin 16384) (s : State) : Host.Outcome State Fault Refusal := .next (s.issueEntry 2 i)
def execIssueSkern (i : Fin 16384) (s : State) : Host.Outcome State Fault Refusal := .next (s.issueEntry 3 i)
/-- The header of the balancer's next job for the current closing instant, where there is one (R312). -/
def execIssueBal (i : Fin 16384) (s : State) : Host.Outcome State Fault Refusal := .next (s.issueEntry 5 i)
def execIssueHal (i : Fin 16384) (s : State) : Host.Outcome State Fault Refusal := .next (s.issueEntry 4 i)

end Sys2Proof.Machine
end

