-- ==== Sys2Proof/Machine/BestEffort.lean ====
section
/-! DEFINITION. Best-effort rings (R359 to R362). -/

namespace Sys2Proof.Machine

/-! ### Rings (R359, R360) -/

def State.beSize (s : State) (p : Nat) : Nat := s.rf (pgMst 2) (F.MST_BE_SIZE p)
def State.beHead (s : State) (p : Nat) : Nat := s.rf (pgMst 2) (F.MST_BE_HEAD_HEAD p)
def State.beTail (s : State) (p : Nat) : Nat := s.rf (pgMst 2) (F.MST_BE_TAIL p)

/-- Requests that are pending. -/
def State.bePending (s : State) (p : Nat) : Nat := if s.beSize p = 0 then 0 else (s.beTail p + s.beSize p - s.beHead p % s.beSize p) % s.beSize p

def State.beSlot (s : State) (p k : Nat) : Nat := s.rf (pgMst 2) (F.MST_BE_BASE p) * 256 + 128 * k

/-- STATUS of a request. -/
def State.beStatus (s : State) (p k v : Nat) : State :=
  let a := s.beSlot p k + 12
  if a < dramSize ∧ s.chanReady a then s.firnWrite a [BitVec.ofNat 8 v] false true else s.unmapped 4 a true

/-- Read the request of a slot (R359); a line that cannot be read or carries poison makes it bad. -/
def State.readReq (s : State) (a : Nat) : BeReq :=
  let n := s.rdLe (a + 3) 1
  let reg (i : Nat) : MstRes := { base := s.rdLe (a + 16 + 12 * i) 5, acc := bits (s.rdLe (a + 21 + 12 * i) 1) 1 0, lines := s.rdLe (a + 22 + 12 * i) 4 }
  let regRsvd (i : Nat) : Bool := bits (s.rdLe (a + 21 + 12 * i) 1) 7 2 ≠ 0 || s.rdLe (a + 26 + 12 * i) 2 ≠ 0
  let used := List.range (min n 4)
  { kind := s.rdLe a 1, target := s.rdLe (a + 1) 1, irq := (s.rdLe (a + 2) 1).testBit 0, wc := s.rdLe (a + 4) 4, reqId := s.rdLe (a + 8) 4
    regs := used.map reg, pay := readPay s (a + 64)
    bad := !imageReads s a 2 || bits (s.rdLe (a + 2) 1) 7 1 ≠ 0 || decide (4 < n) || s.rdLe (a + 13) 3 ≠ 0 || used.any regRsvd }

def State.head (s : State) (p : Nat) : Option BeReq := Tab.at s.mst.heads p none

def State.setHead (s : State) (p : Nat) (r : Option BeReq) : State :=
  (s.setMst { s.mst with heads := Tab.set s.mst.heads p none r }).wf (pgMst 2) (F.MST_BE_HEAD_WAITING p) r.isSome.toNat

/-- HEAD has reached a request, which is read once. -/
def State.beLoad (s : State) (p : Nat) : State :=
  if (s.head p).isSome || s.bePending p = 0 then s else s.setHead p (some (s.readReq (s.beSlot p (s.beHead p))))

/-- HEAD leaves its request, which has been given a status where it has one. -/
def State.beAdvance (s : State) (p : Nat) (status : Option Nat) : State :=
  let k := s.beHead p
  let s := match status with
    | some v => s.beStatus p k v
    | none => s
  ((s.wf (pgMst 2) (F.MST_BE_HEAD_HEAD p) ((k + 1) % max 1 (s.beSize p))).setHead p none).beLoad p

def State.beBad (s : State) : State := s.raise (pgMst 0) F.MST_ERR_STAT_BE_TAIL_BAD

/-- Requests of a ring that run (R362). -/
def State.beRuns (s : State) (p : Nat) : List BeRun := Tab.at s.mst.runs p []

/-- A write of MST_BE_BASE or MST_BE_SIZE. -/
def State.wrBeRing (s : State) (p : Nat) (size : Bool) (v : Word) : State :=
  let g := pgMst 2
  if s.bePending p ≠ 0 ∨ s.beRuns p ≠ [] then s.beBad
  else
    let s := if size then s.wf g (F.MST_BE_SIZE p) ((F.MST_BE_SIZE p).of v) else s.wf g (F.MST_BE_BASE p) ((F.MST_BE_BASE p).of v)
    ((s.wf g (F.MST_BE_HEAD_HEAD p) 0).wf g (F.MST_BE_TAIL p) 0).setHead p none

def execMstBeRingCfg (a : Agent) (p : Fin 8) (size : Bool) (v : Word) (s : State) : Host.Outcome State Fault Refusal :=
  .next (s.onReady a (pgMst 2) (if size then (F.MST_BE_SIZE p).off else (F.MST_BE_BASE p).off) fun s => s.wrBeRing p size v)

/-- FLUSH. -/
def State.beFlush (s : State) (p : Nat) : State :=
  let n := s.beSize p
  let h := s.beHead p
  let s := (List.range (s.bePending p)).foldl (fun s i => s.beStatus p ((h + i) % max 1 n) 5) s
  (s.wf (pgMst 2) (F.MST_BE_HEAD_HEAD p) (s.beTail p)).setHead p none

/-! ### Admission (R361) -/

/-- A unit with nothing running and nothing in a latch or a shadow. -/
def State.unitIdle (s : State) (u : MstUnit) : Bool :=
  match u with
  | .gaff f => (s.floe f).exec.isNone && (s.floe f).glatch.isNone
  | .brash f => decide ((s.floe f).core.phase = .idle) && !(s.floe f).core.gaffHolds
  | .core f => decide ((s.floe f).core.phase = .idle)
  | .spar f => decide ((s.floe f).spar.phase = .idle)
  | .hal h => (s.hal h).active.isNone && (s.hal h).shadow.isNone

/-- First boundary of both tables from now on, where the staged table activates. -/
def State.nextCommon (s : State) (st : MstTable) : Nat :=
  let l := match s.mst.active with
    | none => st.period
    | some a => Nat.lcm a.period st.period
  ceilDiv (s.tbNs 0) (max 1 l) * l

/-- N_u (R361). -/
def State.nextLc (s : State) (u : MstUnit) : Option Nat :=
  let now := s.tbNs 0
  let a := s.mst.active.bind fun t => t.nextStart u now
  match s.mst.staged with
  | none => a
  | some st =>
    let b := s.nextCommon st
    let later := st.nextStart u (max now b)
    match a with
    | some n => if n < b then some n else later
    | none => later

/-- Whether regions meet a reservation of the tables in `[t0, t1)` (R361). -/
def State.lcMeets (s : State) (regs : List MstRes) (t0 t1 : Nat) : Bool :=
  match s.mst.staged with
  | none => s.mst.active.any fun t => t.touches regs t0 t1
  | some st =>
    let b := s.nextCommon st
    (decide (t0 < min t1 b) && s.mst.active.any fun t => t.touches regs t0 (min t1 b)) ||
      (decide (max t0 b < t1) && st.touches regs (max t0 b) t1)

/-- A request within R347, R348 and the masks of its partition. -/
def State.reqOk (s : State) (p : Nat) (r : BeReq) : Bool :=
  !r.bad && 1 ≤ r.kind && r.kind ≤ 4 && 1 ≤ r.wc && targetOk r.kind r.target r.wc r.pay && r.regs.all MstRes.ok &&
    s.inPart p (unitsOf r.kind r.target r.pay) r.regs

/-- Length W of a request. -/
def BeReq.len (r : BeReq) : Nat := r.wc + if r.kind = 4 then 2000 else 0

/-- What becomes of a head at this evaluation. -/
inductive BeFate where
  | hold | bad | noFit | takes
deriving DecidableEq, Repr

def State.beFate (s : State) (p : Nat) (r : BeReq) : BeFate :=
  let us := unitsOf r.kind r.target r.pay
  let now := s.tbNs 0
  if s.partState p = 2 ∨ s.partState p = 3 then .hold
  else if s.partState p ≠ 1 ∨ !s.reqOk p r then .bad
  else if us.any fun u => (s.mst.active.bind fun t => t.longestGap u).any fun n => decide (n < r.len) then .noFit
  else if us.all s.unitIdle && (us.all fun u => (s.nextLc u).all fun n => decide (now + r.len ≤ n)) && !s.lcMeets r.regs now (now + r.len) then .takes
  else .hold

/-- The request is issued at once (R362). -/
def State.beAdmit (s : State) (p : Nat) (r : BeReq) : State :=
  let k := s.beHead p
  let s := (s.beAdvance p none).bump (pgMst 2) F.MST_BE_ADMIT_CNT
  let s := s.setMst { s.mst with lastAdmit := p, runs := Tab.set s.mst.runs p [] (s.beRuns p ++ [{ slot := k, req := r }]) }
  s.dispatch r.kind r.target r.pay { be := some (p, k), reqId := r.reqId }

/-- One head; whether it left its place. -/
def State.beTry (s : State) (p : Nat) : State × Bool :=
  let s := s.beLoad p
  match s.head p with
  | none => (s, false)
  | some r =>
    match s.beFate p r with
    | .hold => (s, false)
    | .bad => (s.beAdvance p (some 2), true)
    | .noFit => (((s.beAdvance p (some 3)).raise (pgMst 0) F.MST_ERR_STAT_BE_NOFIT).bump (pgMst 2) F.MST_BE_NOFIT_CNT, true)
    | .takes => (s.beAdmit p r, true)

/-- The heads in rotating order, until one of them leaves its place. -/
def State.beRound (s : State) : List Nat → State × Bool
  | [] => (s, false)
  | p :: ps =>
    let r := s.beTry p
    if r.2 then r else State.beRound r.1 ps

def rotation (last : Nat) : List Nat := (List.range 8).map fun i => (last + 1 + i) % 8

def State.beRounds (s : State) : Nat → State
  | 0 => s
  | n + 1 =>
    let r := s.beRound (rotation s.mst.lastAdmit)
    if r.2 then State.beRounds r.1 n else r.1

/-- An evaluation of all heads; none is admitted while FROZEN (R484) or while the page does no work. -/
def State.beEvaluate (s : State) : State :=
  if s.frozen || !s.works (pgMst 0) then s
  else s.beRounds (((List.range 8).map s.bePending).foldl (· + ·) 0)

def execBeEvaluate (s : State) : Host.Outcome State Fault Refusal := .next s.beEvaluate

/-- A write of MST_BE_TAIL. -/
def State.wrBeTail (s : State) (p : Nat) (v : Word) : State :=
  let t := (F.MST_BE_TAIL p).of v
  if s.beSize p ≤ t then s.beBad
  else
    let s := s.wf (pgMst 2) (F.MST_BE_TAIL p) t
    if s.bePending p = 0 then s.setHead p none else s.beLoad p

def execMstBeTail (a : Agent) (p : Fin 8) (v : Word) (s : State) : Host.Outcome State Fault Refusal :=
  .next (s.onReady a (pgMst 2) (F.MST_BE_TAIL p).off fun s => s.wrBeTail p v)

def execFlush (a : Agent) (p : Fin 8) (s : State) : Host.Outcome State Fault Refusal :=
  .next (s.onReady a (pgMst 2) (F.MST_BE_HEAD_FLUSH p).off fun s => s.beFlush p)

/-! ### The end of a request (R362) -/

def State.beEnd (s : State) (p k : Nat) (stopped : Bool) : State :=
  match (s.beRuns p).find? fun r => decide (r.slot = k) with
  | none => s
  | some r =>
    let s := s.setMst { s.mst with runs := Tab.set s.mst.runs p [] ((s.beRuns p).filter fun x => decide (x.slot ≠ k)) }
    let s := s.beStatus p k (if stopped then 4 else 1)
    let s := if stopped then (s.raise (pgMst 0) F.MST_ERR_STAT_BE_STOPPED).bump (pgMst 2) F.MST_BE_STOP_CNT else s
    (if r.req.irq then s.irq (pgMst 0) 3 else s).beEvaluate

def execBeRequestEnd (p : Fin 8) (slot : BitVec 16) (stopped : Bool) (s : State) : Host.Outcome State Fault Refusal :=
  .next (s.beEnd p slot.toNat stopped)

/-- A HAL request reaches t + WC: the Masthead cancels it. -/
def State.beTimeout (s : State) (p k : Nat) : State :=
  match (s.beRuns p).find? fun r => decide (r.slot = k) with
  | none => s
  | some r =>
    let mine := ((s.hal r.req.target).active.map fun d => decide (d.ctx.be = some (p, k))).getD false
    if r.req.kind = 4 ∧ mine then s.cancelXfer r.req.target else s

def execBeHalTimeout (p : Fin 8) (slot : BitVec 16) (s : State) : Host.Outcome State Fault Refusal := .next (s.beTimeout p slot.toNat)

end Sys2Proof.Machine
end

