-- ==== Sys2Proof/Machine/Digest.lean ====
section
/-! DEFINITION. The digest composer (R377 to R391). -/

namespace Sys2Proof.Machine

/-- The 32 bytes at an indirect address of the DET page (R390). -/
def State.detBytes (s : State) (i : Nat) : Bytes := (List.range 8).flatMap fun k => leBytes 4 (Tab.at s.det (i + k) 0).toNat

def State.detCopy (s : State) (c : Nat) : Bool := Tab.at s.lastCopy c false

/-- PD and BASE_WD of a partition, ADP_WD of a cell's copy. -/
def State.pd (s : State) (p : Nat) : Bytes := s.detBytes (8 * p)
def State.baseWd (s : State) (p : Nat) : Bytes := s.detBytes (0x40 + 8 * p)
def State.adpWd (s : State) (c : Nat) (b : Bool) : Bytes := s.detBytes (0x1000 + 16 * c + 8 * b.toNat)

/-- The input digest that Moraine keeps for a CELL and a SLOT (R379). -/
def State.moraineId (s : State) (c slot : Nat) : Option Bytes := (Tab.at s.mor.ids c []).lookup slot

/-- The result digest (R381). -/
def resultDigest (pd base adp inId rx : Bytes) : Bytes := sha3_256 (pd ++ sha3_256 (base ++ adp) ++ inId ++ rx)

/-- A cell in MODE 2 carries this CELL (R383, R387). -/
def State.replays (s : State) (c : Nat) : Bool := (List.range 64).any fun i => decide ((s.mor.cell i).mode = 2) && decide ((s.mor.cell i).cell = c)

/-- The digest record of a completed END descriptor (R383). -/
def State.digestRecord (s : State) (d : Compose) : Bytes :=
  let c := Tag.cell d.tag
  let b := s.detCopy c
  let found := s.moraineId c (Tag.slot d.tag)
  let inId := found.getD (zeros 32)
  let rd := resultDigest (s.pd d.info.part) (s.baseWd d.info.part) (s.adpWd c b) inId d.rx
  let flags := d.xfer % 2 ^ 24 + found.isNone.toNat * 2 ^ 24 + (s.replays c).toNat * 2 ^ 25 + b.toNat * 2 ^ 26
  leBytes 8 d.tag.toNat ++ rd ++ inId ++ d.rx ++ leBytes 4 flags ++ leBytes 4 d.info.tbl ++ leBytes 2 d.info.gen ++
    leBytes 1 (d.info.part % 8) ++ zeros 1 ++ leBytes 8 (d.time % 2 ^ 64) ++ zeros 4

/-- Place a record in a tenant's ring, or drop it (R383). -/
def State.ringRecord (s : State) (t : Nat) (bs : Bytes) : State :=
  let g := pgDet
  let n := s.rf g (F.DET_RING_SIZE_SIZE t)
  let wr := s.rf g (F.DET_RING_SIZE_WR t)
  let next := (wr + 1) % max 1 n
  if n = 0 ∨ next = s.rf g (F.DET_RING_RD t) then (s.raise g F.DET_ERR_STAT_RING_FULL).bump g F.DET_DROP_CNT
  else
    let a := s.rf g (F.DET_RING_BASE_HI t) * 2 ^ 32 + s.rf g (F.DET_RING_BASE_LO t) * 128 + 128 * wr
    let put (s : State) (a : Nat) (bs : Bytes) : State :=
      if a < dramSize ∧ s.chanReady a then s.firnWrite a bs false true else s.unmapped 4 a true
    let s := put (put s a (bs.take 64)) (a + 64) (bs.drop 64)
    (s.wf g (F.DET_RING_SIZE_WR t) next).bump g F.DET_REC_CNT

/-- The composer takes a completed END descriptor (R381). -/
def State.compose (s : State) (h : Nat) : State :=
  let x := s.hal h
  match x.compose with
  | none => s
  | some d =>
    let s := s.setHal h { x with compose := none }
    if s.works pgDet && s.bit pgDet F.DET_CTRL then
      let miss := (s.moraineId (Tag.cell d.tag) (Tag.slot d.tag)).isNone
      let r := s.digestRecord d
      let s := if miss then (s.raise pgDet F.DET_ERR_STAT_ID_MISS).bump pgDet F.DET_IDMISS_CNT else s
      s.ringRecord (Tag.tenant d.tag) r
    else s

def execComposeDigest (h : Fin 128) (s : State) : Host.Outcome State Fault Refusal := .next (s.compose h)

/-- A write of a ring's base or size clears WR and RD (R391). -/
def State.wrDetRing (s : State) (t which : Nat) (v : Word) : State :=
  let g := pgDet
  let s := match which with
    | 0 => s.wf g (F.DET_RING_BASE_LO t) ((F.DET_RING_BASE_LO t).of v)
    | 1 => s.wf g (F.DET_RING_BASE_HI t) ((F.DET_RING_BASE_HI t).of v)
    | _ => s.wf g (F.DET_RING_SIZE_SIZE t) ((F.DET_RING_SIZE_SIZE t).of v)
  (s.wf g (F.DET_RING_SIZE_WR t) 0).wf g (F.DET_RING_RD t) 0

def execDetRingCfg (a : Agent) (t : Fin 8) (which : Fin 3) (v : Word) (s : State) : Host.Outcome State Fault Refusal :=
  .next (s.onReady a pgDet (0x080 + 16 * t + 4 * which) fun s => s.wrDetRing t which v)

/-! ### Indirect addresses (R389, R390) -/

def detIndOk (i : Nat) : Bool := i < 0x80 || (0x1000 ≤ i && i < 0x5000)

def State.detIndRead (s : State) (i : Nat) : Option Word :=
  if s.confidential then some 0xFFFF_FFFF
  else if detIndOk i then some (Tab.at s.det i 0)
  else if 0x5000 ≤ i ∧ i < 0x5400 then some (BitVec.ofNat 32 (s.detCopy (i - 0x5000)).toNat)
  else none

def State.detIndWrite (s : State) (i : Nat) (v : Word) : State := if detIndOk i then { s with det := Tab.set s.det i 0 v } else s

end Sys2Proof.Machine
end

