-- ==== Sys2Proof/Machine/Log.lean ====
section
/-! DEFINITION. The event log (R548, R549): records, the buffer in RAM, and the ring of sectors in flash. -/

namespace Sys2Proof.Machine

def State.setMgmt (s : State) (x : MgmtSt) : State := { s with mgmt := x }

/-- The register fabric is powered (R539). -/
def State.mainUp (s : State) : Bool := !s.pwr.railsDown

/-- Bank that runs (R551). -/
def State.bank (s : State) : Nat := s.rf pgMgmt F.MGMT_STAT_BANK

/-- Version that a bank holds. -/
def State.bankVer (s : State) (b : Nat) : Nat := (Tab.at s.mgmt.banks b none).getD Config.mgmtImageVersion

/-- Bytes of a record, with its check. -/
def LogRec.bytes (r : LogRec) : Bytes :=
  let b := leBytes 4 r.seq ++ leBytes 8 r.time ++ leBytes 4 r.uptime ++ leBytes 2 r.source ++ leBytes 1 r.kind ++ leBytes 1 r.severity
    ++ leBytes 8 r.data
  b ++ leBytes 4 (crc32c b).toNat

/-- LOG_DROP and its counter. -/
def State.logDrop (s : State) : State := (s.raise pgMgmt F.MGMT_ERR_STAT_LOG_DROP).bump pgMgmt F.MGMT_LOG_DROP_CNT

/-- The list without the newest record of a severity below `sev`; none where there is none. -/
def dropNewestBelow (sev : Nat) : List LogRec → Option (List LogRec)
  | [] => none
  | r :: rs =>
    match dropNewestBelow sev rs with
    | some t => some (r :: t)
    | none => if r.severity < sev then some rs else none

/-- A kept record enters the buffer under the next SEQ. -/
def State.logAppend (s : State) (old : List LogRec) (source kind sev data : Nat) : State :=
  let r : LogRec :=
    { seq := s.mgmt.seq, time := if s.mainUp then s.tbNs 0 % 2 ^ 64 else 0, uptime := (s.ticks - s.mgmt.started) / 625000 % 2 ^ 32
      source := source, kind := kind, severity := sev, data := data }
  s.setMgmt { s.mgmt with buffer := old ++ [r], seq := (s.mgmt.seq + 1) % 2 ^ 32 }

/-- A record reaches the log of a running controller (R548, R549). -/
def State.log (s : State) (source kind sev : Nat) (data : BitVec 64) : State :=
  if !s.mgmt.up || decide (sev < s.rf pgMgmt F.MGMT_LOG_LEVEL) then s
  else if s.mgmt.buffer.length < 256 then s.logAppend s.mgmt.buffer source kind sev data.toNat
  else
    match dropNewestBelow sev s.mgmt.buffer with
    | some b => s.logDrop.logAppend b source kind sev data.toNat
    | none => s.logDrop

/-- A record of the controller whose severity the rules leave open. -/
def State.logOwn (s : State) (source kind : Nat) (what : List Nat) : State :=
  s.log source kind (Config.logSeverity kind what).val (Config.logData kind what)

/-- A flag of a module page: the record of a module event (R439, R548). -/
def State.modFlag (s : State) (g : Nat) (f : Fld) : State := (s.raise g f).logOwn g 6 [f.off, f.lo]

/-- The ring moves on to its oldest sector, which is erased. -/
def nextSector : List LogSector → List LogSector
  | [] => []
  | x :: xs => xs ++ [{ erases := x.erases + 1 }]

/-- A record goes to the sector in use, or to the next one where that is full. -/
def putRecord (ring : List LogSector) (r : LogRec) : List LogSector :=
  let ring := match ring.getLast? with
    | some x => if x.recs.length < 126 then ring else nextSector ring
    | none => ring
  match ring.getLast? with
  | some x => ring.dropLast ++ [{ x with recs := x.recs ++ [r] }]
  | none => ring

/-- Buffered records go to flash; two failed attempts leave the sector in use for the next one. -/
def State.logFlush (s : State) (failures : Nat) : State :=
  if !s.mgmt.up then s
  else
    let bad := decide (2 ≤ failures)
    let s := if bad then s.raise pgMgmt F.MGMT_ERR_STAT_FLASH_FAIL else s
    let ring := if bad then nextSector s.mgmt.flash else s.mgmt.flash
    s.setMgmt { s.mgmt with flash := s.mgmt.buffer.foldl putRecord ring, buffer := [] }

/-- A retained record. -/
def State.logFind (s : State) (seq : Nat) : Option LogRec :=
  (s.mgmt.buffer ++ s.mgmt.flash.flatMap (·.recs)).find? fun r => decide (r.seq = seq)

/-- A record whose source lies in a partition of a confidential tenant (R549). -/
def State.logHidden (s : State) (r : LogRec) : Bool :=
  let held := match pageOf r.source with
    | some (.floe, n) | some (.gaff, n) | some (.brash, n) | some (.spar, n) | some (.rime, n) | some (.fmem, n) | some (.fwin, n) => s.floePart n
    | some (.hal, h) => s.halPart h
    | some (.serac, e) => s.serPart e
    | _ => none
  s.confidential && match held with
    | some p => (s.rf pgSec F.SEC_CONF_STAT_CONF_TENANTS).testBit (s.partTenant p)
    | none => false

/-- A record as a reader outside the controller's firmware sees it. -/
def State.logShown (s : State) (seq : Nat) : Option Bytes :=
  (s.logFind seq).map fun r => (if s.logHidden r then { r with data := 0 } else r).bytes

end Sys2Proof.Machine
end

