-- ==== Sys2Proof/Machine/Parts.lean ====
section
/-! DEFINITION. Partitions: forming, draining, killing and clearing (R363, R533). -/

namespace Sys2Proof.Machine

/-- A change of a partition's state (R363). -/
def State.setPart (s : State) (p v : Nat) : State := (s.wf (pgMst 1) (F.MST_PART_CMD_STATE p) v).irq (pgMst 0) 2

def State.conflict (s : State) : State := s.raise (pgMst 0) F.MST_ERR_STAT_ASSIGN_CONFLICT

def State.partSerac (s : State) (p : Nat) : Nat := s.rf (pgMst 1) (F.MST_PART_CFG_SERAC p)

/-- Masked floes and halyards, ascending. -/
def State.partFloes (s : State) (p : Nat) : List Nat := (List.range 64).filter (s.partHasFloe p)
def State.partHals (s : State) (p : Nat) : List Nat := (List.range 128).filter (s.partHasHal p)

/-- Conditions of FORM. -/
def State.mayForm (s : State) (p : Nat) : Bool :=
  !s.frozen && decide (s.partFloes p ≠ []) && !(s.partFloes p).any s.floeClosed &&
    ((List.range 8).filter fun q => decide (q ≠ p) && decide (s.partState q ≠ 0)).all fun q =>
      !(s.partFloes p).any (s.partHasFloe q) && !(s.partHals p).any (s.partHasHal q) && decide (s.partSerac p &&& s.partSerac q = 0)

/-- TDISP state: 0 CONFIG_UNLOCKED, 1 CONFIG_LOCKED, 2 RUN, 3 ERROR (R438). -/
def State.tdisp (s : State) : Nat := s.rf pgPcie F.PCI_STAT_TDISP

/-- STOP_INTERFACE takes effect once every partition formed while the interface was locked is FREE again (R438). -/
def State.tdispStop (s : State) : State :=
  if s.pci.stopping && s.pci.formed.isEmpty then { s with pci := { s.pci with stopping := false } }.wf pgPcie F.PCI_STAT_TDISP 0 else s

/-- FORM: a new generation, and the partition is LIVE. -/
def State.form (s : State) (p : Nat) : State :=
  if s.partState p = 0 ∧ s.mayForm p then
    let s := s.wf (pgMst 1) (F.MST_PART_CMD_GEN p) ((s.partGen p + 1) % 65536)
    let s := if s.tdisp = 0 then s else { s with pci := { s.pci with formed := p :: s.pci.formed.filter fun q => decide (q ≠ p) } }
    s.setPart p 1
  else s.conflict

def execForm (a : Agent) (p : Fin 8) (s : State) : Host.Outcome State Fault Refusal :=
  .next (s.onReady a (pgMst 1) (F.MST_PART_CMD_CMD p).off fun s => s.form p)

def State.drainPart (s : State) (p : Nat) : State :=
  if s.partState p = 1 then
    (s.setPart p 2).setMst { s.mst with drain := Tab.set s.mst.drain p .none .wait }
  else s.conflict

def execDrain (a : Agent) (p : Fin 8) (s : State) : Host.Outcome State Fault Refusal :=
  .next (s.onReady a (pgMst 1) (F.MST_PART_CMD_CMD p).off fun s => s.drainPart p)

/-- KILL of a confidential tenant's partition: its ports hold before the cancels start (R533). -/
def State.killHold (s : State) (t : Nat) : State :=
  if (s.rf pgSec F.SEC_CONF_STAT_CONF_TENANTS).testBit t then
    (List.range 16).foldl (fun s p => if s.rf (pgFh p) F.FH_CTRL_TENANT = t then s.wf (pgFh p) F.FH_STAT_HOLD 1 else s) s
  else s

def State.kill (s : State) (p : Nat) : State :=
  if s.partState p = 1 ∨ s.partState p = 2 ∨ s.partState p = 3 then
    let s := (s.killHold (s.partTenant p)).beFlush p
    let s := (s.partHals p).foldl (fun s h => s.cancelAll h) s
    (s.setPart p 4).setMst { s.mst with drain := Tab.set s.mst.drain p .none .none }
  else s.conflict

def execKill (a : Agent) (p : Fin 8) (s : State) : Host.Outcome State Fault Refusal :=
  .next (s.onReady a (pgMst 1) (F.MST_PART_CMD_CMD p).off fun s => s.kill p)

/-- A write of MST_PART_CMD. -/
def State.wrPartCmd (s : State) (p : Nat) (v : Word) : State :=
  match (F.MST_PART_CMD_CMD p).of v with
  | 1 => s.form p
  | 2 => s.drainPart p
  | 3 => s.kill p
  | _ => s

/-- Masks and tenant are written only in FREE (R363). -/
def State.wrPartCfg (s : State) (p off : Nat) (v : Word) : State :=
  if s.partState p = 0 then s.setWord (pgMst 1) off v else s.conflict

/-- Whether the partition's LAG entries of the period have all come to their starts (R363). -/
def State.lagDone (s : State) (p : Nat) : Bool :=
  match s.mst.active with
  | none => true
  | some t =>
    match Tab.at s.mst.drain p .none with
    | .past => true
    | .lag => t.entries.zipIdx.all fun e => !(decide (e.1.part = p) && e.1.lag) || s.mst.issued.contains e.2
    | _ => false

/-- The worst-case end of the last issued entry has come, and no admitted request runs. -/
def State.partDrained (s : State) (p : Nat) : State :=
  if s.partState p = 2 ∧ s.lagDone p ∧ s.beRuns p = [] then s.setPart p 3 else s

def execPartitionDrained (p : Fin 8) (s : State) : Host.Outcome State Fault Refusal := .next (s.partDrained p)

/-- A unit of the partition still runs. -/
def State.partBusy (s : State) (p : Nat) : Bool :=
  (s.partFloes p).any s.floeBusy || (s.partHals p).any fun h => (s.hal h).active.isSome

/-- Clearing starts: the Firn walks and the first scrub; or goes on, where a fence has ended a scrub (R363, R564). -/
def State.clearStart (s : State) (p : Nat) : State :=
  if s.partState p ≠ 4 ∨ s.partBusy p then s
  else
    match Tab.at s.mst.scrub p none with
    | none =>
      let s := (List.range 16).foldl (fun s sl => s.firnStart sl 3 (s.partTenant p)) s
      (s.setMst { s.mst with scrub := Tab.set s.mst.scrub p none (some (s.partFloes p)) }).nextScrub p
    | some _ => if (s.partFloes p).any s.floeClosed then s else s.nextScrub p

def execPartitionClearStart (p : Fin 8) (s : State) : Host.Outcome State Fault Refusal := .next (s.clearStart p)

/-- The walk and the last scrub have ended. -/
def State.partFree (s : State) (p : Nat) : State :=
  let walks := (List.range 16).any fun sl => match Tab.at s.firnOp sl none with
    | some (_, t) => decide (t = s.partTenant p)
    | none => false
  if s.partState p = 4 ∧ Tab.at s.mst.scrub p none = some [] ∧ !(s.partFloes p).any s.floeClosed ∧ !walks then
    let s := (s.setPart p 0).setMst { s.mst with scrub := Tab.set s.mst.scrub p none none }
    ({ s with pci := { s.pci with formed := s.pci.formed.filter fun q => decide (q ≠ p) } } : State).tdispStop
  else s

def execPartitionFree (p : Fin 8) (s : State) : Host.Outcome State Fault Refusal := .next (s.partFree p)

end Sys2Proof.Machine
end

