-- ==== Sys2Proof/Machine/Timing.lean ====
section
/-! DEFINITION. Time bases, pulse generators, capture inputs and the snapshot strobe (R392 to R417). -/

namespace Sys2Proof.Machine

/-! ### Ticks (R392, R393) -/

def State.timeBase (s : State) (i : Nat) : TimeBase := Tab.at s.tb i {}

/-- SLEWING and STEP_PEND follow the time base (R412). -/
def State.setTb (s : State) (i : Nat) (t : TimeBase) : State :=
  let s := { s with tb := Tab.set s.tb i {} t }
  (s.wf (pgTb i) F.TB_STAT_SLEWING (decide (t.slew ≠ 0)).toNat).wf (pgTb i) F.TB_STAT_STEP_PEND t.step.isSome.toNat

/-- The committed increment, in 2⁻³² ns. -/
def State.tbInc (s : State) (i : Nat) : Nat := s.rf (pgTb i) F.TB_INC_NS * 2 ^ 32 + (s.timeBase i).incFrac

/-- A value in 2⁻³² ns since the epoch. -/
def TimeBase.raw (t : TimeBase) : Nat := (t.sec * 1000000000 + t.ns) * 2 ^ 32 + t.frac

/-- Nanoseconds since the epoch. -/
def TimeBase.count (t : TimeBase) : Nat := t.sec * 1000000000 + t.ns

/-- The fields of a value; SEC wraps at 2⁴⁸. -/
def TimeBase.ofRaw (t : TimeBase) (v : Nat) : TimeBase :=
  let n := v / 2 ^ 32
  { t with sec := n / 1000000000 % 2 ^ 48, ns := n % 1000000000, frac := v % 2 ^ 32 }

/-- What is left of a slew after `n` ticks with at most `lim` each. -/
def slewLeft (slew : Int) (n lim : Nat) : Int := if slew < 0 then min 0 (slew + n * lim) else max 0 (slew - n * lim)

/-- `n` ticks of a time base with increment `inc`. -/
def TimeBase.run (t : TimeBase) (inc n : Nat) : TimeBase :=
  let left := slewLeft t.slew n (inc / 256)
  let v : Int := (t.raw : Int) + n * inc + (t.slew - left)
  { t.ofRaw v.toNat with slew := left }

/-- `n` ticks of the 625 MHz timing clock. -/
def State.advance (s : State) (n : Nat) : State :=
  let s := { s with ticks := s.ticks + n }
  (List.range 4).foldl (fun s i => s.setTb i ((s.timeBase i).run (s.tbInc i) n)) s

/-- Ticks that a slew still needs. -/
def TimeBase.slewTicks (t : TimeBase) (inc : Nat) : Nat := ceilDiv t.slew.natAbs (max 1 (inc / 256))

/-- The slew is spent once the ticks it needs have passed. -/
def execSlewComplete (tb : Fin 4) (s : State) : Host.Outcome State Fault Refusal :=
  .next (s.advance ((s.timeBase tb).slewTicks (s.tbInc tb)))

/-! ### Discipline (R394, R398 to R401) -/

def State.holdover (s : State) (i : Nat) : Bool := s.bit (pgTb i) F.TB_STAT_HOLDOVER

/-- Entry into holdover discards the slew (R400). -/
def State.enterHoldover (s : State) (i : Nat) : State :=
  (s.setTb i { s.timeBase i with slew := 0 }).wf (pgTb i) F.TB_STAT_HOLDOVER 1

/-- The servo of a running scheduler component reports the offset that it measured and waits (R510). -/
def State.servoReport (s : State) : State :=
  if (Tab.at s.fw.health 2 {}).state = 1 ∧ s.bit pgFwctl F.FWCTL_PTP_SERVO_EN then
    ({ s with fresh := s.fresh + 1 } : State).wf pgFwctl F.FWCTL_PTP_OFS (Config.servoOffset s.fresh).toNat
  else s

/-- A write that holdover ignores. -/
def State.tbIgnored (s : State) (i : Nat) : State := (s.raise (pgTb i) F.TB_ERR_STAT_WR_IGNORED).bump (pgTb i) F.TB_IGNORED_CNT

def State.wrTbIncFrac (s : State) (i : Nat) (v : Word) : State :=
  if s.holdover i then s.tbIgnored i else s.wf (pgTb i) F.TB_INC_FRAC v.toNat

def execTbIncFrac (a : Agent) (tb : Fin 4) (v : Word) (s : State) : Host.Outcome State Fault Refusal :=
  .next (s.onReady a (pgTb tb) F.TB_INC_FRAC.off fun s => s.wrTbIncFrac tb v)

/-- A write of TB_INC_NS commits both values, or is refused. -/
def State.wrTbIncNs (s : State) (i : Nat) (v : Word) : State :=
  let g := pgTb i
  let n := F.TB_INC_NS.of v
  if s.holdover i then s.tbIgnored i
  else if n = 0 ∨ 3 ≤ n then s.raise g F.TB_ERR_STAT_INC_BAD
  else (s.wf g F.TB_INC_NS n).setTb i { s.timeBase i with incFrac := s.rf g F.TB_INC_FRAC }

def execTbIncNs (a : Agent) (tb : Fin 4) (v : Word) (s : State) : Host.Outcome State Fault Refusal :=
  .next (s.onReady a (pgTb tb) F.TB_INC_NS.off fun s => s.wrTbIncNs tb v)

/-- THR in force (R412). -/
def State.jumpThr (s : State) (i : Nat) : Nat := max 10 (min 1000000000 (s.rf (pgTb i) F.TB_JUMP_THR))

/-- A phase correction (R398). -/
def State.wrTbAdj (s : State) (i : Nat) (v : Word) : State :=
  let g := pgTb i
  if s.holdover i then s.tbIgnored i
  else if v.toInt.natAbs ≤ s.jumpThr i then s.setTb i { s.timeBase i with slew := v.toInt * 2 ^ 32 }
  else
    let s := ((s.raise g F.TB_ERR_STAT_JUMP_REFUSED).bump g F.TB_REFUSE_CNT).enterHoldover i
    if i = 0 then s.servoReport else s

def execTbAdj (a : Agent) (tb : Fin 4) (v : Word) (s : State) : Host.Outcome State Fault Refusal :=
  .next (s.onReady a (pgTb tb) F.TB_ADJ.off fun s => s.wrTbAdj tb v)

/-- GO in TB_STEP_CMD: the step waits, in place of one that waited before (R401). -/
def State.wrTbStep (s : State) (i : Nat) (v : Word) : State :=
  let g := pgTb i
  if F.TB_STEP_CMD_GO.of v = 0 then s
  else if s.rf g F.TB_STEP_NS > 999999999 then s.raise g F.TB_ERR_STAT_STEP_BAD
  else
    let st : TbStep := { offset := F.TB_STEP_CMD_MODE.of v = 1, sec := s.rf g F.TB_STEP_SEC_HI * 2 ^ 32 + s.rf g F.TB_STEP_SEC_LO
                         ns := s.rf g F.TB_STEP_NS, frac := s.rf g F.TB_STEP_FRAC }
    s.setTb i { s.timeBase i with step := some st }

def execTbStepRequest (a : Agent) (tb : Fin 4) (v : Word) (s : State) : Host.Outcome State Fault Refusal :=
  .next (s.onReady a (pgTb tb) F.TB_STEP_CMD_GO.off fun s => s.wrTbStep tb v)

/-- The value that a step gives (R401). -/
def TimeBase.stepped (t : TimeBase) (st : TbStep) : TimeBase :=
  let abs := (st.sec * 1000000000 + st.ns) * 2 ^ 32 + st.frac
  let wrap := 2 ^ 48 * 1000000000 * 2 ^ 32
  let off : Int := (sInt 48 st.sec * 1000000000 + st.ns) * 2 ^ 32 + st.frac
  if st.offset then t.ofRaw (((t.raw : Int) + off) % (wrap : Nat)).toNat else t.ofRaw abs

/-! ### Pulse generators (R402 to R406) -/

def State.pg (s : State) (g : Nat) : PgSt := Tab.at s.pgs g {}
def State.setPg (s : State) (g : Nat) (x : PgSt) : State := { s with pgs := Tab.set s.pgs g {} x }

def State.pgArmed (s : State) (g : Nat) : Bool := s.bit pgPg (F.PG_CMD_ARMED g)

/-- First fire time at or after an instant. -/
def PgSt.firstAt (x : PgSt) (now : Nat) : Nat :=
  if x.periodic && decide (x.start < now) then x.start + ceilDiv (now - x.start) (max 1 x.period) * x.period else x.start

/-- ARMED of a generator, with SNAP_SRC for a strobe (R416). -/
def State.setArmed (s : State) (g : Nat) (on : Bool) : State :=
  let s := s.wf pgPg (F.PG_CMD_ARMED g) on.toNat
  if (s.pg g).func = 2 then (s.wf pgSnap F.SNAP_SRC_VALID on.toNat).wf pgSnap F.SNAP_SRC_GEN (if on then g else 0) else s

/-- A STEP reaches an armed generator (R406). -/
def State.pgStep (s : State) (g new : Nat) : State :=
  let x := s.pg g
  let missed := decide (x.next < new)
  let s := if missed then s.raise pgPg (F.PG_CMD_MISSED g) else s
  if missed && !x.periodic then s.setArmed g false else s.setPg g { x with next := x.firstAt new }

/-- The pending STEP takes effect (R401). -/
def State.applyStep (s : State) (i : Nat) : State :=
  let t := s.timeBase i
  match t.step with
  | none => s
  | some st =>
    let g := pgTb i
    let n := { t.stepped st with slew := 0, step := none }
    let s := (s.setTb i n).wf g F.TB_STAT_HOLDOVER 0
    let s := (s.raise g F.TB_ERR_STAT_STEPPED).bump g F.TB_STEP_CNT
    let s := ((List.range 8).filter fun k => s.pgArmed k && decide ((s.pg k).tb = i)).foldl (fun s k => s.pgStep k n.count) s
    if i = 0 then
      let s := (s.wf pgTs F.TS_MASTER_PORT_VALID 0).morStep
      if s.mst.active.isSome then s.setMst { s.mst with stepped := true } else s
    else s

def execTbStepApply (tb : Fin 4) (s : State) : Host.Outcome State Fault Refusal := .next (s.applyStep tb)

/-! ### Held sets (R395) -/

/-- Number of an agent's held set. -/
def agentIdx : Agent → Nat
  | .app c => c
  | .fw c => 16 + c
  | .mgmt => 27
  | .pcie => 28

def heldKey' (a : Agent) (i : Nat) : Nat := agentIdx a * 4 + i

/-- A read of TB_RD_NS fills the agent's held set. -/
def State.rdTbNs (s : State) (a : Agent) (i : Nat) : State × Word :=
  let t := s.timeBase i
  ({ s with tbHeld := Tab.set s.tbHeld (heldKey' a i) (0, 0) (t.sec, t.frac) }, BitVec.ofNat 32 t.ns)

def execTbRdNs (a : Agent) (tb : Fin 4) (s : State) : Host.Outcome State Fault Refusal :=
  .next (if s.ready (pgTb tb) then
      let r := s.rdTbNs a tb
      r.1.answer (leBytes 4 r.2.toNat) false
    else (s.unmapped (agentCode a) (regAddr (pgTb tb) F.TB_RD_NS.off) false).answer (ones 4) false)

/-- The held set of an agent. -/
def State.tbHeldOf (s : State) (a : Agent) (i : Nat) : Nat × Nat := Tab.at s.tbHeld (heldKey' a i) (0, 0)

/-! ### Master tracking (R399) and the timing clock (R396) -/

/-- A Sync message of the watched port and domain: clockIdentity and portNumber. -/
def State.ptpSync (s : State) (port domain ident num : Nat) : State :=
  if !s.bit pgTs F.TS_PTP_CTRL_TRACK_EN || s.rf pgTs F.TS_PTP_CTRL_PORT ≠ port || s.rf pgTs F.TS_PTP_CTRL_DOMAIN ≠ domain then s
  else if s.bit pgTs F.TS_MASTER_PORT_VALID then
    let same := s.rf pgTs F.TS_MASTER_HI * 2 ^ 32 + s.rf pgTs F.TS_MASTER_LO = ident && s.rf pgTs F.TS_MASTER_PORT_PORTNUM = num
    if same then s.bump pgTs F.TS_SYNC_CNT else ((s.raise (pgTb 0) F.TB_ERR_STAT_MASTER_CHANGED).enterHoldover 0).servoReport
  else
    let s := (s.wf pgTs F.TS_MASTER_LO (ident % 2 ^ 32)).wf pgTs F.TS_MASTER_HI (ident / 2 ^ 32)
    ((s.wf pgTs F.TS_MASTER_PORT_PORTNUM num).wf pgTs F.TS_MASTER_PORT_VALID 1).bump pgTs F.TS_SYNC_CNT

def execMasterLost (s : State) : Host.Outcome State Fault Refusal :=
  .next (if s.bit pgTs F.TS_PTP_CTRL_TRACK_EN && s.bit pgTs F.TS_MASTER_PORT_VALID then
      ((s.raise (pgTb 0) F.TB_ERR_STAT_MASTER_LOST).enterHoldover 0).servoReport
    else s)

/-- A write of TS_PTP_CTRL: once TRACK_EN is set, the next Sync latches a master. -/
def State.wrPtpCtrl (s : State) (v : Word) : State :=
  let was := s.bit pgTs F.TS_PTP_CTRL_TRACK_EN
  let s := s.setWord pgTs F.TS_PTP_CTRL_PORT.off (v &&& 0xFFFF1FFF)
  if !was && s.bit pgTs F.TS_PTP_CTRL_TRACK_EN then s.wf pgTs F.TS_MASTER_PORT_VALID 0 else s

/-- The recovered clock that SRC selects fails; REFCLK does not. -/
def execSynceLost (s : State) : Host.Outcome State Fault Refusal :=
  .next (if s.rf pgTs F.TS_CLK_CTRL = 0 then s
    else ((s.wf pgTs F.TS_CLK_STAT_CLK_HOLDOVER 1).wf pgTs F.TS_CLK_STAT_LOCKED 0).raise pgTs F.TS_ERR_STAT_SYNCE_LOST)

def execSynceRelock (s : State) : Host.Outcome State Fault Refusal :=
  .next (if s.bit pgTs F.TS_CLK_STAT_CLK_HOLDOVER then (s.wf pgTs F.TS_CLK_STAT_CLK_HOLDOVER 0).wf pgTs F.TS_CLK_STAT_LOCKED 1 else s)

def State.wrClkCtrl (s : State) (v : Word) : State :=
  if 16 < F.TS_CLK_CTRL.of v then s.raise pgTs F.TS_ERR_STAT_SRC_BAD else s.wf pgTs F.TS_CLK_CTRL (F.TS_CLK_CTRL.of v)

def execTsClkCtrl (a : Agent) (v : Word) (s : State) : Host.Outcome State Fault Refusal :=
  .next (s.onReady a pgTs F.TS_CLK_CTRL.off fun s => s.wrClkCtrl v)

/-- The timing PLL has locked after PORST_N (R581). -/
def execTimingPllLocked (s : State) : Host.Outcome State Fault Refusal := .next (s.wf pgTs F.TS_CLK_STAT_LOCKED 1)

/-! ### Owners (R402) -/

/-- Class of an agent. -/
def agentClass : Agent → Nat
  | .fw _ => 1
  | .mgmt => 2
  | .app _ => 3
  | .pcie => 4

/-- Page, owner field, and CONFLICT flag of a unit. -/
def unitPage : TimingUnit → Nat
  | .gen _ => pgPg
  | .cap _ => pgCap
def unitOwner : TimingUnit → Fld
  | .gen g => F.PG_OWN_OWNER g
  | .cap c => F.CAP_OWN_OWNER c
def unitConflict : TimingUnit → Fld
  | .gen g => F.PG_CMD_CONFLICT g
  | .cap c => F.CAP_STAT_CONFLICT c

def State.unitOwn (s : State) (u : TimingUnit) : Nat := s.rf (unitPage u) (unitOwner u)

/-- A write to a unit's registers by its owner's class; any other is ignored. -/
def State.asOwner (s : State) (a : Agent) (u : TimingUnit) (k : State → State) : State :=
  if s.unitOwn u = agentClass a then k s else s.raise (unitPage u) (unitConflict u)

def State.claimUnit (s : State) (a : Agent) (u : TimingUnit) : State :=
  if s.unitOwn u = 0 ∨ s.unitOwn u = agentClass a then s.wf (unitPage u) (unitOwner u) (agentClass a)
  else s.raise (unitPage u) (unitConflict u)

/-- Disarm a unit: a generator fires no more. A capture input without an owner is disarmed. -/
def State.disarmUnit (s : State) (u : TimingUnit) : State :=
  match u with
  | .gen g => if s.pgArmed g then s.setArmed g false else s
  | .cap _ => s

def State.freeUnit (s : State) (u : TimingUnit) : State := (s.disarmUnit u).wf (unitPage u) (unitOwner u) 0

def execClaim (a : Agent) (u : TimingUnit) (s : State) : Host.Outcome State Fault Refusal :=
  .next (s.onReady a (unitPage u) (unitOwner u).off fun s => s.claimUnit a u)

def execRelease (a : Agent) (u : TimingUnit) (s : State) : Host.Outcome State Fault Refusal :=
  .next (s.onReady a (unitPage u) (unitOwner u).off fun s => s.asOwner a u fun s => s.freeUnit u)

/-- A write of PG_OWN or CAP_OWN: RELEASE first. -/
def State.wrOwn (s : State) (a : Agent) (u : TimingUnit) (v : Word) : State :=
  let s := if v.getLsbD 30 then s.asOwner a u fun s => s.freeUnit u else s
  if v.getLsbD 31 then s.claimUnit a u else s

/-! ### Arming and firing (R403 to R405) -/

/-- What the registers of a generator say. -/
def State.pgFromRegs (s : State) (g : Nat) : PgSt :=
  { s.pg g with
    tb := s.rf pgPg (F.PG_CFG_TB g), periodic := s.bit pgPg (F.PG_CFG_PERIODIC g), func := s.rf pgPg (F.PG_CFG_FUNC g)
    pin := s.rf pgPg (F.PG_CFG_PIN g), low := s.bit pgPg (F.PG_CFG_POL g), period := s.rf pgPg (F.PG_PERIOD g)
    start := (s.rf pgPg (F.PG_START_SEC_HI g) * 2 ^ 32 + s.rf pgPg (F.PG_START_SEC_LO g)) * 1000000000 + s.rf pgPg (F.PG_START_NS g) }

/-- A configuration that ARM refuses with CFG_BAD. -/
def State.pgBad (s : State) (g : Nat) (x : PgSt) : Bool :=
  let w := s.rf pgPg (F.PG_WIDTH g)
  decide (s.rf pgPg (F.PG_START_NS g) > 999999999) || x.func = 3 ||
    (x.periodic && (decide (x.period < 100) || (x.func = 2 && decide (x.period < 10000)))) ||
    (x.func = 1 && (decide (w < 8) || (x.periodic && decide (x.period ≤ w))))

/-- A pin or the strobe that another armed generator holds, or a strobe of another owner (R404). -/
def State.pgClash (s : State) (g : Nat) (x : PgSt) : Bool :=
  let others := (List.range 8).filter fun k => decide (k ≠ g) && s.pgArmed k
  (x.func = 1 && others.any fun k => (s.pg k).func = 1 && (s.pg k).pin = x.pin) ||
    (x.func = 2 && (s.rf pgPg (F.PG_OWN_OWNER g) ≠ 2 || others.any fun k => decide ((s.pg k).func = 2)))

/-- ARM. -/
def State.pgArm (s : State) (g : Nat) : State :=
  let x := s.pgFromRegs g
  let now := (s.timeBase x.tb).count
  if !s.works pgPg then s.discardWork pgPg 0
  else if s.pgBad g x then s.raise pgPg (F.PG_CMD_CFG_BAD g)
  else if s.pgClash g x then s.raise pgPg (F.PG_CMD_CONFLICT g)
  else
    let s := s.disarmUnit (.gen (Fin.ofNat 8 g))
    if !x.periodic && decide (x.start < now) then s.raise pgPg (F.PG_CMD_MISSED g)
    else (s.setPg g { x with next := x.firstAt now }).setArmed g true

def execArm (a : Agent) (g : Fin 8) (s : State) : Host.Outcome State Fault Refusal :=
  .next (s.onReady a pgPg (F.PG_CMD_ARM g).off fun s => s.asOwner a (.gen g) fun s => s.pgArm g)

def execDisarm (a : Agent) (g : Fin 8) (s : State) : Host.Outcome State Fault Refusal :=
  .next (s.onReady a pgPg (F.PG_CMD_ARM g).off fun s => s.asOwner a (.gen g) fun s => s.disarmUnit (.gen g))

/-- A write of PG_CMD, after its W1C flags: DISARM, then ARM. -/
def State.wrPgCmd (s : State) (a : Agent) (g : Fin 8) (v : Word) : State :=
  let arm := (F.PG_CMD_ARM g).of v = 1
  let dis := (F.PG_CMD_DISARM g).of v = 1
  if arm || dis then
    s.asOwner a (.gen g) fun s =>
      let s := if dis then s.disarmUnit (.gen g) else s
      if arm then s.pgArm g else s
  else s

/-- Every island copies its live counters into their shadows; the time bases' values are kept (R31, R408). -/
def State.strobe (s : State) : State :=
  let s := s.live.foldl (fun s e =>
    let g := e.1 / 1024
    let off := e.1 % 1024 * 4
    (s.setWord g off (BitVec.ofNat 32 e.2)).setWord g (off + 4) (BitVec.ofNat 32 (e.2 / 2 ^ 32))) s
  let held := (List.range 4).foldl (fun (t : Tab Word) j =>
    let b := s.timeBase j
    let t := Tab.set t (4 * j) 0 (BitVec.ofNat 32 b.sec)
    let t := Tab.set t (4 * j + 1) 0 (BitVec.ofNat 32 (b.sec / 2 ^ 32))
    let t := Tab.set t (4 * j + 2) 0 (BitVec.ofNat 32 b.ns)
    Tab.set t (4 * j + 3) 0 (BitVec.ofNat 32 b.frac)) s.snap
  { s with snap := held }.wf pgSnap F.SNAP_STAT_BUSY 1

/-- A generator fires in the first tick at or after its fire time. -/
def State.fire (s : State) (g : Nat) : State :=
  let x := s.pg g
  if !s.pgArmed g || !s.works pgPg || decide ((s.timeBase x.tb).count < x.next) then s
  else
    let s := (s.bump pgPg (F.PG_FIRE_CNT g)).irq pgPg g
    let s := if x.periodic then s.setPg g { x with next := x.next + x.period } else s.setArmed g false
    match x.func with
    | 1 => (s.setPg g { s.pg g with pulse := some (x.pin, x.low) }).wf pgPg (F.PG_CMD_PIN_ACTIVE g) 1
    | 2 => if s.pwr.mgmtRst || !s.works pgSnap then s else s.strobe
    | _ => s

def execPgFire (g : Fin 8) (s : State) : Host.Outcome State Fault Refusal := .next (s.fire g)

def execSnapshotComplete (s : State) : Host.Outcome State Fault Refusal :=
  .next (if s.bit pgSnap F.SNAP_STAT_BUSY then
      ((s.wf pgSnap F.SNAP_STAT_BUSY 0).wf pgSnap F.SNAP_STAT_SEQ ((s.rf pgSnap F.SNAP_STAT_SEQ + 1) % 2 ^ 31)).irq pgSnap 0
    else s)

def State.pulseEnd (s : State) (g : Nat) : State :=
  (s.setPg g { s.pg g with pulse := none }).wf pgPg (F.PG_CMD_PIN_ACTIVE g) 0

def execPinPulseEnd (g : Fin 8) (s : State) : Host.Outcome State Fault Refusal := .next (s.pulseEnd g)

/-- Level of TIME_OUT[p]: a pulse drives it to its active level; else an armed generator holds it inactive, and it rests low without one. -/
def State.timeOut (s : State) (p : Nat) : Bool :=
  let gs := List.range 8
  match gs.findSome? fun g => (s.pg g).pulse.bind fun q => if q.1 = p then some q.2 else none with
  | some low => !low
  | none => gs.any fun g => s.pgArmed g && (s.pg g).func = 1 && (s.pg g).pin = p && (s.pg g).low

/-! ### Capture inputs (R407) -/

/-- The head of a capture FIFO stands in its registers, and LEVEL counts its entries. -/
def State.setCap (s : State) (c : Nat) (q : List CapEntry) : State :=
  let s := { s with caps := Tab.set s.caps c [] q }
  let h := q.headD { sec := 0, ns := 0, frac := 0, falling := false }
  let s := s.wf pgCap (F.CAP_SEC_LO c) h.sec
  let s := s.wf pgCap (F.CAP_SEC_HI_SEC c) (h.sec / 2 ^ 32)
  let s := s.wf pgCap (F.CAP_SEC_HI_FALLING c) h.falling.toNat
  let s := s.wf pgCap (F.CAP_SEC_HI_VALID c) (decide (q ≠ [])).toNat
  let s := s.wf pgCap (F.CAP_NS c) h.ns
  let s := s.wf pgCap (F.CAP_FRAC c) h.frac
  s.wf pgCap (F.CAP_STAT_LEVEL c) q.length

/-- The time of an edge: the tick's value less three increments. -/
def State.edgeTime (s : State) (tb : Nat) : TimeBase :=
  let t := s.timeBase tb
  let wrap := 2 ^ 48 * 1000000000 * 2 ^ 32
  t.ofRaw ((t.raw + wrap - 3 * s.tbInc tb) % wrap)

/-- An edge of TIME_IN[c], which an input with an owner sees: ten ticks are 16 ns. -/
def State.capture (s : State) (c : Nat) (falling : Bool) : State :=
  let last := Tab.at s.capLast c 0
  let q := Tab.at s.caps c []
  if !(s.rf pgCap (F.CAP_CFG_EDGE c)).testBit falling.toNat || !s.works pgCap || s.rf pgCap (F.CAP_OWN_OWNER c) = 0 then s
  else if last ≠ 0 ∧ s.ticks + 1 ≤ last + 10 then s.raise pgCap (F.CAP_STAT_GLITCH c)
  else
    let s := { s with capLast := Tab.set s.capLast c 0 (s.ticks + 1) }
    if 16 ≤ q.length then s.raise pgCap (F.CAP_STAT_OVF c)
    else
      let t := s.edgeTime (s.rf pgCap (F.CAP_CFG_TB c))
      ((s.setCap c (q ++ [{ sec := t.sec, ns := t.ns, frac := t.frac, falling := falling }])).bump pgCap (F.CAP_CNT c)).irq pgCap c

def execCaptureEdge (c : Fin 2) (falling : Bool) (s : State) : Host.Outcome State Fault Refusal := .next (s.capture c falling)

def State.capPop (s : State) (c : Nat) : State :=
  match Tab.at s.caps c [] with
  | [] => s
  | _ :: q => s.setCap c q

def execPop (a : Agent) (c : Fin 2) (s : State) : Host.Outcome State Fault Refusal :=
  .next (s.onReady a pgCap (F.CAP_CMD c).off fun s => s.asOwner a (.cap c) fun s => s.capPop c)

def snapIndRead (s : State) (i : Nat) : Option Word := if i < 16 then some (Tab.at s.snap i 0) else none

end Sys2Proof.Machine
end

