-- ==== Sys2Proof/Machine/Fronthaul.lean ====
section
/-! DEFINITION. Fronthaul ports (R418 to R426, R510): modes, MACsec, rings, timestamps, idle frames. -/

namespace Sys2Proof.Machine

def State.fh (s : State) (p : Nat) : FhSt := Tab.at s.fhs p {}

def State.setFh (s : State) (p : Nat) (x : FhSt) : State := { s with fhs := Tab.set s.fhs p {} x }

def State.health (s : State) (k : Nat) : Health := Tab.at s.fw.health k {}

/-- A firmware component runs (R511). -/
def State.fwRuns (s : State) (k : Nat) : Bool := decide ((s.health k).state = 1)

/-! ### Modes (R418) -/

def quadOf (p : Nat) : Nat := p / 4 * 4

def State.quadMode (s : State) (p : Nat) : Nat := s.rf (pgFh (quadOf p)) F.FH_CTRL_QUAD_MODE

/-- Ports that a mode gives its quad. -/
def portInMode (p mode : Nat) : Bool := mode = 0 || (mode = 1 && p % 2 = 0) || (mode = 2 && p % 4 = 0)

def State.portPresent (s : State) (p : Nat) : Bool := s.bit (pgFh p) F.FH_STAT_PRESENT

def State.portEn (s : State) (p : Nat) : Bool := s.bit (pgFh p) F.FH_CTRL_EN

def State.portUp (s : State) (p : Nat) : Bool := s.bit (pgFh p) F.FH_STAT_LINK_UP

/-- The link is lost. -/
def State.portDown (s : State) (p : Nat) : State :=
  if s.portUp p then (s.wf (pgFh p) F.FH_STAT_LINK_UP 0).raise (pgFh p) F.FH_ERR_STAT_LINK_DOWN else s

/-- A write of QUAD_MODE; writing the mode in force changes nothing. -/
def State.wrQuadMode (s : State) (p m : Nat) : State :=
  let g := pgFh p
  let quad := (List.range 4).map fun i => p + i
  if p % 4 ≠ 0 ∨ m = s.rf g F.FH_CTRL_QUAD_MODE then s
  else if m = 3 then s.raise g F.FH_ERR_STAT_MODE_BAD
  else if quad.any s.portEn then s.raise g F.FH_ERR_STAT_MODE_BUSY
  else quad.foldl (fun s q => s.wf (pgFh q) F.FH_STAT_PRESENT (portInMode q m).toNat) (s.wf g F.FH_CTRL_QUAD_MODE m)

/-- A write of MACSEC_MODE (R423); 0 is refused on a port of a tenant in confidential mode (R528). -/
def State.wrMacsecMode (s : State) (p m : Nat) : State :=
  let g := pgFh p
  if 2 ≤ m then s.raise g F.FH_ERR_STAT_MODE_BAD
  else if m = 0 ∧ s.confidential ∧ (s.rf pgSec F.SEC_CONF_STAT_CONF_TENANTS).testBit (s.rf g F.FH_CTRL_TENANT) then
    s.raise pgSec F.SEC_ERR_STAT_CONF_DENIED
  else s.wf g F.FH_CTRL_MACSEC_MODE m

/-- A write of FH_CTRL. -/
def State.wrFhCtrl (s : State) (p : Nat) (v : Word) : State :=
  let g := pgFh p
  if !s.portPresent p then s
  else
    let s := s.wrQuadMode p (F.FH_CTRL_QUAD_MODE.of v)
    let s := s.wrMacsecMode p (F.FH_CTRL_MACSEC_MODE.of v)
    let s := (s.wf g F.FH_CTRL_TENANT (F.FH_CTRL_TENANT.of v)).wf g F.FH_CTRL_ANLT (F.FH_CTRL_ANLT.of v)
    if F.FH_CTRL_EN.of v = 1 then s.wf g F.FH_CTRL_EN 1 else (s.wf g F.FH_CTRL_EN 0).portDown p

def execFhCtrl (a : Agent) (p : Fin 16) (v : Word) (s : State) : Host.Outcome State Fault Refusal :=
  .next (s.onReady a (pgFh p) F.FH_CTRL_EN.off fun s => s.wrFhCtrl p v)

/-- The port's lanes have trained: the speed is its mode's. -/
def State.portTrained (s : State) (p : Nat) : State :=
  let g := pgFh p
  if s.portPresent p && s.portEn p && s.works g && !s.shutting g then (s.wf g F.FH_STAT_LINK_UP 1).wf g F.FH_STAT_SPEED (s.quadMode p)
  else s

def execFhLinkUp (p : Fin 16) (s : State) : Host.Outcome State Fault Refusal := .next (s.portTrained p)

def execFhLinkDown (p : Fin 16) (s : State) : Host.Outcome State Fault Refusal := .next (s.portDown p)

/-- The port sends and receives. -/
def State.portRuns (s : State) (p : Nat) : Bool :=
  s.ready (pgFh p) && s.works (pgFh p) && s.portPresent p && s.portEn p && s.portUp p

/-! ### MACsec (R422 to R425) -/

def FhSt.mac (x : FhSt) (i : Nat) : Nat := (Tab.at x.macsec i (0 : Word)).toNat

def FhSt.putMac (x : FhSt) (i v : Nat) : FhSt := { x with macsec := Tab.set x.macsec i 0 (BitVec.ofNat 32 v) }

/-- `n` words at an indirect address, the first the lowest. -/
def FhSt.macN (x : FhSt) (i : Nat) : Nat → Nat
  | 0 => 0
  | n + 1 => x.mac i + 2 ^ 32 * FhSt.macN x (i + 1) n

def txAssoc (an : Nat) : Nat := 0x0100 + 0x20 * an
def rxChan (j : Nat) : Nat := 0x1000 + 0x100 * j
def rxAssoc (j an : Nat) : Nat := rxChan j + 0x10 + 0x10 * an

/-- IV of GCM-AES-XPN: SSCI and PN, exclusive-or the salt. -/
def xpnIv (salt ssci pn : Nat) : Nat := salt ^^^ (ssci * 2 ^ 64 + pn)

def FhSt.txAn (x : FhSt) : Nat := x.mac 3 % 4
def FhSt.txPn (x : FhSt) (an : Nat) : Nat := x.macN (txAssoc an + 0xC) 2
def FhSt.putTxPn (x : FhSt) (an pn : Nat) : FhSt := (x.putMac (txAssoc an + 0xC) pn).putMac (txAssoc an + 0xD) (pn / 2 ^ 32)

/-- A frame under the active AN: SecTAG with the SCI after the source address, ciphertext and ICV; none without an association in use or with
its PN exhausted (R425). -/
def State.protect (s : State) (p : Nat) (bs : Bytes) : Option (State × Bytes) :=
  let x := s.fh p
  let an := x.txAn
  let pn := x.txPn an
  if x.mac (txAssoc an + 0xE) % 2 = 0 ∨ pn = 2 ^ 64 - 1 then none
  else
    let body := bs.drop 12
    let sl := if body.length < 48 then body.length else 0
    let sec := beBytes 2 0x88E5 ++ [BitVec.ofNat 8 (0x2C + an), BitVec.ofNat 8 sl] ++ beBytes 4 pn ++ beBytes 8 (x.macN 0 2)
    let aad := bs.take 12 ++ sec
    let r := Config.gcmSeal (x.macN (txAssoc an) 8) (xpnIv (x.macN (txAssoc an + 8) 3) (x.mac 2) pn) aad body
    let s := s.setFh p (x.putTxPn an (pn + 1))
    let s := if pn + 1 = 0xC000_0000_0000_0000 then s.raise (pgFh p) F.FH_ERR_STAT_PN_NEAR else s
    some (s, aad ++ r.1 ++ beBytes 16 r.2.toNat)

/-- What becomes of a received frame under MACSEC_MODE. -/
inductive MacsecRx where
  | plain
  | clear (s : State) (bs : Bytes)
  | unprot
  | fail
  | late

/-- Whole packet number from its low half and the lowest acceptable one. -/
def pnOf (low lowest : Nat) : Nat :=
  let hi := lowest / 2 ^ 32
  (if lowest.testBit 31 && !low.testBit 31 then hi + 1 else hi) * 2 ^ 32 + low

/-- Validation under an association (R423). -/
def State.validateIn (s : State) (p j an : Nat) (bs : Bytes) (hdr : Nat) : MacsecRx :=
  let x := s.fh p
  let o := rxAssoc j an
  let lowest := x.macN (o + 11) 2
  let pn := pnOf (beAt bs 16 4) lowest
  let len := bs.length - hdr - 16
  let r := Config.gcmOpen (x.macN o 8) (xpnIv (x.macN (o + 8) 3) (x.mac (rxChan j + 2)) pn) (bs.take hdr) (slice bs hdr len)
    (BitVec.ofNat 128 (beAt bs (bs.length - 16) 16))
  if pn < lowest then .late
  else
    match r with
    | none => .fail
    | some body =>
      let next := max lowest (pn + 1 - x.mac (rxChan j + 3) % 2 ^ 30)
      .clear (s.setFh p ((x.putMac (o + 11) next).putMac (o + 12) (next / 2 ^ 32))) (bs.take 12 ++ body)

/-- A received frame under the port's mode. -/
def State.validate (s : State) (p : Nat) (bs : Bytes) : MacsecRx :=
  let x := s.fh p
  let ty := beAt bs 12 2
  if s.rf (pgFh p) F.FH_CTRL_MACSEC_MODE = 0 ∨ ty = 0x888E then .plain
  else if ty ≠ 0x88E5 then .unprot
  else
    let tci := beAt bs 14 1
    let an := tci % 4
    let hdr := if tci.testBit 5 then 28 else 20
    let sci := if tci.testBit 5 then beAt bs 20 8 else beAt bs 6 6 * 65536 + 1
    if tci.testBit 7 ∨ !tci.testBit 3 ∨ !tci.testBit 2 ∨ bs.length < hdr + 16 then .fail
    else
      match (List.range 16).find? fun j => decide (x.macN (rxChan j) 2 = sci) && decide (x.mac (rxAssoc j an + 13) % 2 = 1) with
      | none => .fail
      | some j => s.validateIn p j an bs hdr

/-! ### Rings and timestamps (R420, R421) -/

/-- A write by the device to memory, line by line; a place that is not DRAM in service is unmapped. -/
def State.devWrite (s : State) (a : Nat) (bs : Bytes) : State :=
  if dramSize < a + bs.length ∨ !s.chanReady a then s.unmapped 4 a true
  else
    let h := 64 - a % 64
    let rest := bs.drop h
    (List.range ((rest.length + 63) / 64)).foldl (fun s i => s.firnWrite (a + h + 64 * i) (slice rest (64 * i) 64) false true)
      (s.firnWrite a (bs.take h) false true)

/-- A corrected timestamp of time base 0, in ns since its epoch. -/
def State.stamp (s : State) (p : Nat) (corr : Fld) : Nat := ((s.tbNs 0 : Int) + sInt 16 (s.rf (pgFh p) corr)).toNat

def State.rxDrop (s : State) (p : Nat) : State := s.bump (pgFh p) F.FH_RX_DROP_CNT

/-- A frame for the port's software receive ring. -/
def State.rxRing (s : State) (p : Nat) (bs : Bytes) (isProt : Bool) : State :=
  let g := pgFh p
  let size := s.rf g F.FH_RXR_SIZE_SIZE
  let wr := s.rf g F.FH_RXR_SIZE_WR
  if size = 0 ∨ (wr + 1) % size = s.rf g F.FH_RXR_RD then (s.raise g F.FH_ERR_STAT_SQ_RX_FULL).bump g F.FH_SQ_DROP_CNT
  else
    let d := s.rf g F.FH_RXR_BASE * 256 + 32 * wr
    let buf := s.rdLe d 5
    let t := s.stamp p F.FH_TS_RX_CORR
    let s := s.devWrite buf bs
    let s := s.devWrite (d + 8) (leBytes 2 bs.length ++ [BitVec.ofNat 8 (1 + 2 * isProt.toNat)])
    let s := s.devWrite (d + 16) (leBytes 6 (t / 1000000000) ++ leBytes 4 (t % 1000000000))
    s.wf g F.FH_RXR_SIZE_WR ((wr + 1) % size)

/-- The firmware timing queue (R510): a running scheduler component takes a frame at once. -/
def State.timingFrame (s : State) (p : Nat) (bs : Bytes) : State :=
  let q := Tab.at s.fw.timing p []
  let s := if s.fwRuns 2 then s
    else if 32 ≤ q.length then s.bump pgFwctl F.FWCTL_TQ_DROP_CNT
    else { s with fw := { s.fw with timing := Tab.set s.fw.timing p [] (q ++ [(bs, s.stamp p F.FH_TS_RX_CORR)]) } }
  if beAt bs 12 2 = 0x88F7 ∧ 44 ≤ bs.length ∧ beAt bs 14 1 % 16 = 0 then s.ptpSync p (beAt bs 18 1) (beAt bs 34 8) (beAt bs 42 2) else s

/-- EtherType after up to two VLAN tags. -/
def innerType (bs : Bytes) : Nat :=
  let tag (t : Nat) : Bool := t = 0x8100 || t = 0x88A8
  let a := beAt bs 12 2
  if tag a then (if tag (beAt bs 16 2) then beAt bs 20 2 else beAt bs 16 2) else a

/-- Delivery of an accepted frame (R419). -/
def State.deliver (s : State) (p : Nat) (bs : Bytes) (isProt : Bool) : State :=
  let s := s.tally (pgFh p) F.FH_RX_FRAMES_LO 1
  let ty := beAt bs 12 2
  if innerType bs = 0xAEFE then
    let r := s.morFrame p bs
    if r.2 then r.1.rxRing p bs isProt else r.1
  else if ty = 0x88F7 ∨ (ty = 0x8809 ∧ beAt bs 14 1 = 0x0A) then s.timingFrame p bs
  else s.rxRing p bs isProt

/-- PAUSE and priority flow control. -/
def isPause (bs : Bytes) : Bool := beAt bs 12 2 = 0x8808 && (beAt bs 14 2 = 0x0001 || beAt bs 14 2 = 0x0101)

/-- A frame arrives at a port. -/
def State.rxFrame (s : State) (p : Nat) (fr : RxFrame) : State :=
  let g := pgFh p
  let bs := fr.data
  if !s.portRuns p then s
  else if !fr.fecOk then (s.bump g F.FH_FEC_UNCORR_CNT).rxDrop p
  else if !fr.fcsOk || decide (bs.length < 60) || decide (9212 < bs.length) || isPause bs then s.rxDrop p
  else
    match s.validate p bs with
    | .plain => s.deliver p bs false
    | .clear s' body => s'.deliver p body true
    | .unprot => s.bump g F.FH_MACSEC_UNPROT_CNT
    | .fail => s.bump g F.FH_MACSEC_FAIL_CNT
    | .late => s.bump g F.FH_MACSEC_LATE_CNT

def execFronthaulFrameReceive (p : Fin 16) (fr : RxFrame) (s : State) : Host.Outcome State Fault Refusal := .next (s.rxFrame p fr)

/-- The head of the transmit-timestamp FIFO stands in its registers. -/
def State.setTxts (s : State) (p : Nat) (q : List (Nat × Nat × Nat)) : State :=
  let g := pgFh p
  let h := q.headD (0, 0, 0)
  let s := s.setFh p { s.fh p with txts := q }
  let s := (s.wf g F.FH_TXTS_HDR_TS_ID h.1).wf g F.FH_TXTS_HDR_VALID (decide (q ≠ [])).toNat
  let s := (s.wf g F.FH_TXTS_SEC_LO h.2.1).wf g F.FH_TXTS_SEC_HI (h.2.1 / 2 ^ 32)
  s.wf g F.FH_TXTS_NS h.2.2

/-- A frame leaves the port, protected in MACSEC_MODE 1 unless it is EAPOL; none where R425 discards it. -/
def State.sendFrame (s : State) (p : Nat) (bs : Bytes) : Option State :=
  let out (s : State) (bs : Bytes) : State := ({ s with out := s.out ++ [Out.frame p bs] } : State).tally (pgFh p) F.FH_TX_FRAMES_LO 1
  if s.rf (pgFh p) F.FH_CTRL_MACSEC_MODE = 0 ∨ beAt bs 12 2 = 0x888E then some (out s bs)
  else (s.protect p bs).map fun r => out r.1 r.2

/-- The timestamp of a sent frame. -/
def State.txStamp (s : State) (p id : Nat) : State :=
  let q := (s.fh p).txts
  let t := s.stamp p F.FH_TS_TX_CORR
  if 16 ≤ q.length then s.raise (pgFh p) F.FH_ERR_STAT_TS_OVF else s.setTxts p (q ++ [(id, t / 1000000000, t % 1000000000)])

/-- The port sends its next descriptor's frame. -/
def State.txNext (s : State) (p : Nat) : State :=
  let g := pgFh p
  let size := s.rf g F.FH_TXR_SIZE_SIZE
  let rd := s.rf g F.FH_TXR_SIZE_RD
  if !s.portRuns p || s.shutting g || s.bit g F.FH_STAT_HOLD || size = 0 || rd = s.rf g F.FH_TXR_WR then s
  else
    let d := s.rf g F.FH_TXR_BASE * 256 + 32 * rd
    let len := s.rdLe (d + 8) 2
    let ask := (s.rdLe (d + 10) 1).testBit 0
    let id := s.rdLe (d + 12) 2
    let t := s.wf g F.FH_TXR_SIZE_RD ((rd + 1) % size)
    if len < 60 ∨ 9212 < len then t.bump g F.FH_SQ_DROP_CNT
    else
      match t.sendFrame p (s.rdBytes (s.rdLe d 5) len) with
      | none => t.bump g F.FH_SQ_DROP_CNT
      | some t => if ask then t.txStamp p id else t

def execFhFrameTransmit (p : Fin 16) (s : State) : Host.Outcome State Fault Refusal := .next (s.txNext p)

/-- A write of a ring index; an absent port ignores it. -/
def State.wrFhIdx (s : State) (p : Nat) (f : Fld) (v : Word) : State := if s.portPresent p then s.wf (pgFh p) f (f.of v) else s

def execFhTxrWr (a : Agent) (p : Fin 16) (v : Word) (s : State) : Host.Outcome State Fault Refusal :=
  .next (s.onReady a (pgFh p) F.FH_TXR_WR.off fun s => s.wrFhIdx p F.FH_TXR_WR v)

def execFhRxrRd (a : Agent) (p : Fin 16) (v : Word) (s : State) : Host.Outcome State Fault Refusal :=
  .next (s.onReady a (pgFh p) F.FH_RXR_RD.off fun s => s.wrFhIdx p F.FH_RXR_RD v)

/-- A write of FH_TXTS_POP. -/
def State.wrTxtsPop (s : State) (p : Nat) (v : Word) : State :=
  if s.portPresent p ∧ F.FH_TXTS_POP.of v = 1 then s.setTxts p ((s.fh p).txts.drop 1) else s

def execFhTxtsPop (a : Agent) (p : Fin 16) (v : Word) (s : State) : Host.Outcome State Fault Refusal :=
  .next (s.onReady a (pgFh p) F.FH_TXTS_POP.off fun s => s.wrTxtsPop p v)

/-- The idle frame of a port in HOLD, without its FCS (R426). -/
def State.idleFrame (s : State) (p : Nat) : Bytes :=
  beBytes 6 0x0180C200000E ++ beBytes 6 (s.rf (pgFh p) F.FH_MAC_HI * 2 ^ 32 + s.rf (pgFh p) F.FH_MAC_LO) ++ beBytes 2 0x88B5 ++ zeros 46

def State.holdIdle (s : State) (p : Nat) : State :=
  if s.portRuns p && s.bit (pgFh p) F.FH_STAT_HOLD then
    match s.sendFrame p (s.idleFrame p) with
    | some s => s
    | none => s.bump (pgFh p) F.FH_SQ_DROP_CNT
  else s

/-! ### Indirect space (R424) -/

/-- A word of a key or a salt. -/
def macIsKey (i : Nat) : Bool :=
  (decide (0x0100 ≤ i) && decide (i < 0x0180) && decide (i % 0x20 < 0xB)) ||
    (decide (0x1000 ≤ i) && decide (i < 0x2000) && decide (0x10 ≤ i % 0x100) && decide (i % 0x100 < 0x50) && decide (i % 0x10 < 0xB))

/-- An address that holds a word. -/
def macDefined (i : Nat) : Bool :=
  decide (i < 4) || (decide (0x0100 ≤ i) && decide (i < 0x0180) && decide (i % 0x20 < 0xF)) ||
    (decide (0x1000 ≤ i) && decide (i < 0x2000) &&
      (decide (i % 0x100 < 4) || (decide (0x10 ≤ i % 0x100) && decide (i % 0x100 < 0x50) && decide (i % 0x10 < 0xE))))

/-- Writable bits of a word. -/
def macMask (i : Nat) : Nat :=
  if i = 3 then 3
  else if i < 0x1000 then (if i % 0x20 = 0xE ∧ 0x100 ≤ i then 1 else 0xFFFFFFFF)
  else if i % 0x100 = 3 then 0x3FFFFFFF
  else if 0x10 ≤ i % 0x100 ∧ i % 0x10 = 0xD then 1
  else 0xFFFFFFFF

/-- An indirect read: keys and salts read 0. -/
def fhIndRead (s : State) (p i : Nat) : Option Word :=
  if macDefined i then some (if macIsKey i then 0 else BitVec.ofNat 32 ((s.fh p).mac i)) else none

/-- An indirect write: keys and salts by the security core alone. -/
def fhIndWrite (s : State) (a : Agent) (p i : Nat) (v : Word) : Option State :=
  if !macDefined i then none
  else if macIsKey i && a ≠ .fw 0 then some ((s.raise (pgFh p) F.FH_ERR_STAT_KEY_DENIED).raise (pgFh p) F.IND_STAT_IND_ERR)
  else some (s.setFh p ((s.fh p).putMac i (v.toNat &&& macMask i)))

end Sys2Proof.Machine
end

