-- ==== Sys2Proof/Machine/Shroud.lean ====
section
/-! DEFINITION. Shroud links (R427 to R434). -/

namespace Sys2Proof.Machine

/-! ### Keys (R429, R430, R535) -/

def ShrSt.key (x : ShrSt) (slot : Nat) : Nat := (List.range 8).foldl (fun v k => v + (Tab.at x.keys (16 * slot + k) (0 : Word)).toNat * 2 ^ (32 * k)) 0

def ShrSt.salt (x : ShrSt) (slot : Nat) : Nat := (Tab.at x.keys (16 * slot + 8) (0 : Word)).toNat

/-- Slots 0 and 1 transmit, 2 and 3 receive. -/
def ShrSt.holds (x : ShrSt) (slot : Nat) : Bool := Tab.at x.held slot false

/-- A new key in a slot: its CTR starts at 0 (R429). -/
def ShrSt.fill (x : ShrSt) (slot : Nat) (key : Bytes) : ShrSt :=
  let ws := (List.range 9).foldl (fun t k => Tab.set t (16 * slot + k) (0 : Word) (BitVec.ofNat 32 (leNat (slice key (4 * k) 4)))) x.keys
  { x with keys := ws, held := Tab.set x.held slot false true, ctrTx := Tab.set x.ctrTx slot 0 0, ctrRx := Tab.set x.ctrRx slot none none }

def ShrSt.clearSlot (x : ShrSt) (slot : Nat) : ShrSt :=
  { x with keys := Tab.clear x.keys (16 * slot) (16 * slot + 9), held := Tab.set x.held slot false false
           ctrRx := Tab.set x.ctrRx slot none none }

/-- "JM640 SHROUD". -/
def shroudLabel : Bytes := [0x4A, 0x4D, 0x36, 0x34, 0x30, 0x20, 0x53, 0x48, 0x52, 0x4F, 0x55, 0x44]

/-- Key and salt of a direction and issue (R535). -/
def ShrSt.issueKey (x : ShrSt) (dir n : Nat) : Bytes := Config.hkdf x.secret [] (shroudLabel ++ [BitVec.ofNat 8 dir] ++ leBytes 4 n) 36

/-- Direction 0 is that in which the lower position sends. -/
def State.shrDir (s : State) (l : Nat) : Nat := if s.rankPos < s.rf (pgShr l) F.SHR_STAT_PEER_POS then 0 else 1

/-- Transmit slot in use. -/
def State.txSlot (s : State) (l : Nat) : Nat := s.rf (pgShr l) F.SHR_STAT_KEY_SLOT

/-- SHR_CTR_TX follows the slot in use. -/
def State.setCtrTx (s : State) (l slot c : Nat) : State :=
  let s := s.setShr l { s.shr l with ctrTx := Tab.set (s.shr l).ctrTx slot 0 c }
  if slot = s.txSlot l then (s.wf (pgShr l) F.SHR_CTR_TX_LO c).wf (pgShr l) F.SHR_CTR_TX_HI (c / 2 ^ 32) else s

def State.setShrState (s : State) (l v : Nat) : State := s.wf (pgShr l) F.SHR_STAT_STATE v

/-! ### Up and down (R432) -/

/-- Whether EN lets the link train. -/
def State.shrEn (s : State) (l : Nat) : Bool := s.bit (pgShr l) F.SHR_CTRL_EN && s.works (pgShr l) && !s.shutting (pgShr l)

/-- The answers of processor reads that a link has lost. -/
def State.loseReads (s : State) : List ShrRead → State
  | [] => s
  | r :: rs => State.loseReads (s.answer (zeros (64 * r.n)) true) rs

/-- The link goes DOWN: frames are lost, outstanding reads end as zeros tagged POISON, and it trains again while EN is 1. -/
def State.shrDown (s : State) (l : Nat) : State :=
  let x := s.shr l
  let was := s.shrUp l
  if s.shrState l = 0 then s
  else
    let lost := (x.wait.map (·.lines)).sum + (x.unacked.map fun u => u.2.1.lines).sum
    let s := s.setShr l { x with wait := [], unacked := [], reads := [], fails := [], nextSeq := 0, lastSeq := 0, oldRx := none }
    let s := (s.setShrState l (s.shrEn l).toNat).wf (pgShr l) F.SHR_STAT_PEER_VALID 0
    let s := if was then s.fault (pgShr l) F.SHR_ERR_STAT_LINK_DOWN 7 else s
    (s.shrLost l lost).loseReads x.reads

def execShroudLinkDown (l : Fin 8) (s : State) : Host.Outcome State Fault Refusal := .next (s.shrDown l)

/-- A write of SHR_CTRL: EN = 1 starts training, EN = 0 stops the link. -/
def State.wrShrCtrl (s : State) (l : Nat) (v : Word) : State :=
  let g := pgShr l
  let s := (s.wf g F.SHR_CTRL_EN (F.SHR_CTRL_EN.of v)).wf g F.SHR_CTRL_SPARE_EN (F.SHR_CTRL_SPARE_EN.of v)
  if F.SHR_CTRL_EN.of v = 0 then s.shrDown l
  else if s.shrState l = 0 ∧ s.shrEn l then s.setShrState l 1 else s

def execShrCtrl (a : Agent) (l : Fin 8) (v : Word) (s : State) : Host.Outcome State Fault Refusal :=
  .next (s.onReady a (pgShr l) F.SHR_CTRL_EN.off fun s => s.wrShrCtrl l v)

def execShroudTrainingDone (l : Fin 8) (s : State) : Host.Outcome State Fault Refusal :=
  .next (if s.shrState l = 1 ∧ s.shrEn l then s.setShrState l 2 else s)

/-- The link is UP under issue 0 in every slot (R432, R535). -/
def State.shrKeyed (s : State) (l pos : Nat) (secret : Bytes) : State :=
  let s := (s.wf (pgShr l) F.SHR_STAT_PEER_POS pos).wf (pgShr l) F.SHR_STAT_PEER_VALID 1
  let d := s.shrDir l
  let x := { s.shr l with secret := secret, txIssue := 0, rxIssue := 0, rxSlot := 0, oldRx := none, nextSeq := 0, lastSeq := 0 }
  let tx := x.issueKey d 0
  let rx := x.issueKey (1 - d) 0
  let x := (((x.fill 0 tx).fill 1 tx).fill 2 rx).fill 3 rx
  (((s.setShr l x).wf (pgShr l) F.SHR_STAT_KEY_SLOT 0).setCtrTx l 0 0).setShrState l 3

/-! ### Sending (R428 to R431) -/

/-- Header of a frame: what the tag authenticates. -/
def shrHeader (f : ShrFrame) : Bytes :=
  leBytes 16 (f.ctr.toNat + f.type.toNat * 2 ^ 64 + f.key.toNat * 2 ^ 68 + f.payload.length / 16 * 2 ^ 72 + f.seq.toNat * 2 ^ 80
    + f.ack.toNat * 2 ^ 96 + f.dst.val * 2 ^ 112 + f.src.val * 2 ^ 116)

/-- A frame is encrypted under a transmit slot and leaves. CTR running out takes the link DOWN. -/
def State.shrSeal (s : State) (l slot seq : Nat) (m : ShrMsg) : State :=
  let x := s.shr l
  let g := pgShr l
  let c := Tab.at x.ctrTx slot 0
  if 2 ^ 64 - 2 ^ 16 ≤ c then (s.fault g F.SHR_ERR_STAT_KEY_EXHAUSTED 7).shrDown l
  else
    let f : ShrFrame := { ctr := BitVec.ofNat 64 c, type := BitVec.ofNat 4 m.kind, key := slot % 2 = 1, seq := BitVec.ofNat 16 seq
                          ack := BitVec.ofNat 16 x.lastSeq, dst := Fin.ofNat 16 m.dst, src := Fin.ofNat 16 m.src, payload := m.body, gcmTag := 0 }
    let r := Config.gcmSeal (x.key slot) (x.salt slot * 2 ^ 64 + c) (shrHeader f) m.body
    let s : State := { s with out := s.out ++ [Out.shroud l { f with payload := r.1, gcmTag := r.2 }] }
    let s := (s.setCtrTx l slot (c + 1)).tally g F.SHR_FRAMES_TX_LO 1
    let s := if c + 1 = 2 ^ max 32 (min 56 (s.rf g F.SHR_REKEY)) then s.raise g F.SHR_ERR_STAT_REKEY_DUE else s
    if 2 ^ 64 - 2 ^ 16 ≤ c + 1 then (s.fault g F.SHR_ERR_STAT_KEY_EXHAUSTED 7).shrDown l else s

/-- Slot under which a message goes: a key switch under the key that it leaves (R430). -/
def State.msgSlot (s : State) (l : Nat) (m : ShrMsg) (again : Bool) : Nat :=
  if m.kind = 5 && again then 1 - s.txSlot l else s.txSlot l

/-- An idle frame (R432, R426). -/
def State.shrIdle (s : State) (l : Nat) : State :=
  s.shrSeal l (s.txSlot l) 0 { kind := 0, dst := s.rf (pgShr l) F.SHR_STAT_PEER_POS, src := s.rankPos, body := [] }

/-- The first sending of a frame: one that carries data or a key switch takes a SEQ and waits for its acknowledgement. -/
def State.shrFirst (s : State) (l : Nat) (m : ShrMsg) : State :=
  if m.kind = 4 then s.shrSeal l (s.txSlot l) 0 m
  else
    let q := ((s.shr l).nextSeq + 1) % 65536
    let s := s.setShr l { s.shr l with nextSeq := q, unacked := (s.shr l).unacked ++ [(q, m, 1)] }
    let s := s.shrSeal l (s.txSlot l) q m
    if m.kind = 5 ∧ s.shrUp l then
      let n := 1 - s.txSlot l
      (s.wf (pgShr l) F.SHR_STAT_KEY_SLOT n).setCtrTx l n 0
    else s

/-- The oldest frame that waits is sent, or an idle frame where none does or the link holds. -/
def State.shrSend (s : State) (l : Nat) : State :=
  let x := s.shr l
  if s.shrState l ≠ 3 ∨ !s.works (pgShr l) then s
  else
    match x.wait with
    | m :: ms => if x.hold then s.shrIdle l else (s.setShr l { x with wait := ms }).shrFirst l m
    | [] => s.shrIdle l

def execShroudFrameSend (l : Fin 8) (s : State) : Host.Outcome State Fault Refusal := .next (s.shrSend l)

/-- A frame is sent again under a new CTR. -/
def State.shrAgain (s : State) (l : Nat) (u : Nat × ShrMsg × Nat) : State :=
  if s.shrState l ≠ 3 then s
  else
    let x := s.shr l
    let s := s.setShr l { x with unacked := x.unacked.map fun w => if w.1 = u.1 then (u.1, u.2.1, u.2.2 + 1) else w }
    (s.bump (pgShr l) F.SHR_RETRY_CNT).shrSeal l (s.msgSlot l u.2.1 true) u.1 u.2.1

/-- A frame has waited 1 µs for its acknowledgement: it is sent again, and after eight sends the link goes DOWN. -/
def State.shrRetry (s : State) (l seq : Nat) : State :=
  match (s.shr l).unacked.find? fun u => decide (u.1 = seq) with
  | none => s
  | some u => if s.shrState l ≠ 3 || (s.shr l).hold then s else if 8 ≤ u.2.2 then s.shrDown l else s.shrAgain l u

def execShroudRetryTimeout (l : Fin 8) (seq : BitVec 16) (s : State) : Host.Outcome State Fault Refusal := .next (s.shrRetry l seq.toNat)

/-- After REKEY_DUE the next issue goes into the other slot, and a key-switch frame goes first (R430, R443). -/
def State.shrInstall (s : State) (l : Nat) : State :=
  let x := s.shr l
  if s.shrUp l && s.bit (pgShr l) F.SHR_ERR_STAT_REKEY_DUE && !x.wait.any fun m => decide (m.kind = 5) then
    let n := x.txIssue + 1
    let y := x.fill (1 - s.txSlot l) (x.issueKey (s.shrDir l) n)
    let m : ShrMsg := { kind := 5, dst := s.rf (pgShr l) F.SHR_STAT_PEER_POS, src := s.rankPos, body := [] }
    s.setShr l { y with txIssue := n, wait := m :: x.wait }
  else s

def execShroudKeyInstall (l : Fin 8) (s : State) : Host.Outcome State Fault Refusal := .next (s.shrInstall l)

/-! ### Receiving (R429 to R434) -/

/-- A tag that fails: more than 16 within 1 ms take the link DOWN. -/
def State.shrTagFail (s : State) (l : Nat) : State :=
  let g := pgShr l
  let x := s.shr l
  let now := s.tbNs 0
  let ts := now :: x.fails.filter fun t => decide (now < t + 1000000)
  let s := (s.bump g F.SHR_AUTH_FAIL_CNT).setShr l { x with fails := ts }
  if 16 < ts.length then (s.fault g F.SHR_ERR_STAT_AUTH_FAIL 7).shrDown l else s

/-- The lines of a payload after its request word. -/
def payloadLines (bs : Bytes) : Nat → List TaggedLine
  | 0 => []
  | n + 1 => { data := bs.take 64, tag := BitVec.ofNat 64 (leNat (slice bs 64 8)) } :: payloadLines (bs.drop 72) n

/-- A read response reaches the processor that waits for it; one without lines says that the peer refused. -/
def State.shrAnswer (s : State) (l : Nat) (id : Nat) (ls : List TaggedLine) : State :=
  let x := s.shr l
  match x.reads.find? fun r => decide (r.id = id) with
  | none => s
  | some r =>
    let s := s.setShr l { x with reads := x.reads.filter fun q => decide (q.id ≠ id) }
    if ls = [] then (s.windowClosed r.agent r.addr).answer (ones (64 * r.n)) false
    else s.answer (ls.flatMap (·.data)) (ls.any fun t => Tag.poison t.tag)

/-- A frame in clear for this device: a write, a read request, or a read response. -/
def State.shrDeliver (s : State) (l kind src : Nat) (body : Bytes) : State :=
  let q := Config.requestFields (BitVec.ofNat 128 (leNat (body.take 16)))
  let n := min q.2.1 3
  let acc (ls : Option (List TaggedLine)) : RemoteAccess :=
    { src := Fin.ofNat 16 src, tenant := Fin.ofNat 8 q.2.2.2, offset := BitVec.ofNat 36 q.1, n := n, lines := ls }
  if kind = 1 then (s.remoteServe l (acc (some (payloadLines (body.drop 16) n)))).1
  else if kind = 2 then
    let r := s.remoteServe l (acc none)
    let ls := if r.2.all Option.isNone then [] else r.2.map fun o => o.getD { data := ones 64, tag := 0 }
    let m : ShrMsg := { kind := 3, dst := src, src := s.rankPos, body := linePayload (Config.requestWord q.1 ls.length q.2.2.1 q.2.2.2) ls }
    if 8 ≤ r.1.routeOf src then r.1 else r.1.shrQueue (r.1.routeOf src) m
  else s.shrAnswer l q.2.2.1 (payloadLines (body.drop 16) n)

/-- A frame for another position goes on along its route, under the keys of that link (R433). -/
def State.shrForward (s : State) (kind dst src : Nat) (body : Bytes) : State :=
  let q := Config.requestFields (BitVec.ofNat 128 (leNat (body.take 16)))
  if 8 ≤ s.routeOf dst then s
  else s.shrQueue (s.routeOf dst) { kind := kind, dst := dst, src := src, body := body, lines := if kind = 1 then min q.2.1 3 else 0 }

/-- The peer switches to its next key: the other slot takes the next issue, and the slot left is kept for 1 ms (R430). -/
def State.shrSwitch (s : State) (l : Nat) : State :=
  let x := s.shr l
  let n := x.rxIssue + 1
  let y := x.fill (3 - x.rxSlot) (x.issueKey (1 - s.shrDir l) n)
  s.setShr l { y with rxIssue := n, oldRx := some x.rxSlot, rxSlot := 1 - x.rxSlot }

/-- Whether a SEQ lies at or before another, in the 16-bit circle. -/
def seqLe (a b : Nat) : Bool := decide ((b + 65536 - a) % 65536 < 32768)

/-- A frame that passed its tag: the acknowledgement that it carries, then what it asks, in SEQ order. -/
def State.shrAccept (s : State) (l : Nat) (f : ShrFrame) (body : Bytes) : State :=
  let x := s.shr l
  let s := (s.tally (pgShr l) F.SHR_FRAMES_RX_LO 1).setShr l { x with unacked := x.unacked.filter fun u => !seqLe u.1 f.ack.toNat }
  let kind := f.type.toNat
  if kind = 0 ∨ kind = 4 then s
  else
    let ack : ShrMsg := { kind := 4, dst := s.rf (pgShr l) F.SHR_STAT_PEER_POS, src := s.rankPos, body := [] }
    let y := s.shr l
    let owed := if y.wait = [] then { y with wait := [ack] } else y
    if f.seq.toNat = (x.lastSeq + 1) % 65536 then
      let s := s.setShr l { owed with lastSeq := f.seq.toNat }
      if kind = 5 then s.shrSwitch l
      else if f.dst.val = s.rankPos then s.shrDeliver l kind f.src body
      else s.shrForward kind f.dst f.src body
    else if seqLe f.seq.toNat x.lastSeq then s.setShr l owed
    else s

/-- A frame arrives. -/
def State.shrRx (s : State) (l : Nat) (f : ShrFrame) : State :=
  let g := pgShr l
  let x := s.shr l
  let slot := 2 + f.key.toNat
  let old := Tab.at x.ctrRx slot none
  if !s.shrUp l || !s.works g then s
  else if 6 ≤ f.type.toNat then s.bump g F.SHR_AUTH_FAIL_CNT
  else if (match old with | some c => decide (f.ctr.toNat ≤ c) | none => false) then s.bump g F.SHR_REPLAY_CNT
  else if !x.holds slot then s.shrTagFail l
  else
    match Config.gcmOpen (x.key slot) (x.salt slot * 2 ^ 64 + f.ctr.toNat) (shrHeader f) f.payload f.gcmTag with
    | none => s.shrTagFail l
    | some body => (s.setShr l { x with ctrRx := Tab.set x.ctrRx slot none (some f.ctr.toNat) }).shrAccept l f body

def execShroudFrameReceive (l : Fin 8) (fr : ShrFrame) (s : State) : Host.Outcome State Fault Refusal := .next (s.shrRx l fr)

/-- 1 ms after a switch the receiver clears the old slot. -/
def execShroudOldKeyExpire (l : Fin 8) (s : State) : Host.Outcome State Fault Refusal :=
  .next (match (s.shr l).oldRx with
    | none => s
    | some k => s.setShr l { (s.shr l).clearSlot (2 + k) with oldRx := none })

/-! ### Lanes (R427) -/

/-- A lane fails: the first is replaced by the spare, where SPARE_EN lets it; another takes the link DOWN. -/
def State.shrLane (s : State) (l lane : Nat) : State :=
  let g := pgShr l
  let x := s.shr l
  if !s.shrUp l || x.lanes.contains lane then s
  else
    let s := (s.raise g F.SHR_ERR_STAT_LANE_FAIL).setShr l { x with lanes := x.lanes ++ [lane] }
    if s.bit g F.SHR_CTRL_SPARE_EN ∧ x.lanes = [] then s.setShrState l 4 else s.shrDown l

def execShroudLaneFail (l : Fin 8) (lane : BitVec 2) (s : State) : Host.Outcome State Fault Refusal := .next (s.shrLane l lane.toNat)

/-- The remap ends: a key switch goes first, then the held frames are sent again (R427, R443). -/
def State.shrRemapped (s : State) (l : Nat) : State :=
  let g := pgShr l
  if s.shrState l ≠ 4 then s
  else
    let s := ((s.setShrState l 3).wf g F.SHR_STAT_SPARE_USED 1).wf g F.SHR_STAT_SPARE_FOR ((s.shr l).lanes.headD 0)
    let held := (s.shr l).unacked
    let s := match (s.shr l).wait with
      | m :: _ => if m.kind = 5 then s.shrSend l else s
      | [] => s
    if (s.shr l).hold then s else held.foldl (fun s u => s.shrAgain l u) s

def execShroudRemapDone (l : Fin 8) (s : State) : Host.Outcome State Fault Refusal := .next (s.shrRemapped l)

/-! ### Requests and rank (R433) -/

/-- A span of lines in pieces of three, each a frame of its own (R428). -/
def State.remoteSpan (s : State) (agent a tenant : Nat) : Nat → Nat → Option (List TaggedLine) → State
  | 0, _, _ => s
  | k + 1, n, ls =>
    if n = 0 then s
    else
      let m := min n 3
      let r := s.remoteSend agent a tenant m (ls.map (·.take 3))
      let t := match r.2, ls with
        | .refused, none => r.1.answer (ones (64 * m)) false
        | .lost, none => r.1.answer (zeros (64 * m)) true
        | _, _ => r.1
      State.remoteSpan t agent (a + 192) tenant k (n - m) (ls.map (·.drop 3))

def State.remoteAccess (s : State) (agent a tenant n : Nat) (ls : Option (List TaggedLine)) : State :=
  let n := match ls with
    | some xs => xs.length
    | none => n
  s.remoteSpan agent (a / 64 * 64) tenant n n ls

/-- The access of a processor. -/
def execShroudRemoteAccess (addr : BitVec 40) (tenant : Fin 8) (n : Nat) (lines : Option (List TaggedLine)) (s : State) :
    Host.Outcome State Fault Refusal := .next (s.remoteAccess 0 addr.toNat tenant n lines)

def State.wrRank (s : State) (v : Word) : State :=
  if (List.range 8).all fun l => decide (s.shrState l = 0) then s.wf (pgShr 0) F.SHR_RANK (F.SHR_RANK.of v)
  else s.raise (pgShr 0) F.SHR_ERR_STAT_RANK_BUSY

def execShrRank (a : Agent) (v : Word) (s : State) : Host.Outcome State Fault Refusal :=
  .next (s.onReady a (pgShr 0) F.SHR_RANK.off fun s => s.wrRank v)

/-! ### Idle frames in HOLD (R426, R432) -/

def execHoldIdleFrame (i : Fin 24) (s : State) : Host.Outcome State Fault Refusal :=
  .next (if i.val < 16 then s.holdIdle i
    else if (s.shr (i - 16)).hold && s.shrState (i - 16) = 3 && s.works (pgShr (i - 16)) then s.shrIdle (i - 16) else s)

/-! ### Indirect space (R445) -/

def shrDefined (i : Nat) : Bool := decide (i < 64) && decide (i % 16 < 9)

def shrIndRead (_s : State) (_l i : Nat) : Option Word := if shrDefined i then some 0 else none

/-- Key words by the security core; a slot holds a key once its salt is written. The page has no KEY_DENIED, so that another agent's write is
ignored and sets IND_ERR. -/
def shrIndWrite (s : State) (a : Agent) (l i : Nat) (v : Word) : Option State :=
  if !shrDefined i then none
  else if a ≠ .fw 0 then none
  else
    let x := s.shr l
    let x := { x with keys := Tab.set x.keys i 0 v }
    if i % 16 < 8 then some (s.setShr l x)
    else
      let x := { x with held := Tab.set x.held (i / 16) false true, ctrTx := Tab.set x.ctrTx (i / 16) 0 0, ctrRx := Tab.set x.ctrRx (i / 16) none none }
      some (s.setShr l x)

end Sys2Proof.Machine
end

