-- ==== Sys2Proof/Machine/Modules.lean ====
section
/-! DEFINITION. The PCIe link, TDISP and IDE (R437, R438, R446), and the optical modules (R439 to R442). -/

namespace Sys2Proof.Machine

/-! ### PCIe -/

/-- The link comes up; interrupts held while it was down are delivered to the host (R479). -/
def State.pcieUp (s : State) (gen width : Nat) : State :=
  let s := ((s.wf pgPcie F.PCI_STAT_GEN gen).wf pgPcie F.PCI_STAT_WIDTH width).wf pgPcie F.PCI_STAT_LINK_UP 1
  { s with out := s.out ++ s.pci.held.map (Out.interrupt 1), pci := { s.pci with held := [] } }

def execPcieLinkUp (gen : BitVec 3) (width : BitVec 5) (s : State) : Host.Outcome State Fault Refusal :=
  .next (if s.works pgPcie then s.pcieUp gen.toNat width.toNat else s)

def State.pcieDown (s : State) : State :=
  if s.bit pgPcie F.PCI_STAT_LINK_UP then
    (((s.wf pgPcie F.PCI_STAT_GEN 0).wf pgPcie F.PCI_STAT_WIDTH 0).wf pgPcie F.PCI_STAT_LINK_UP 0).raise pgPcie F.PCI_ERR_STAT_LINK_DOWN
  else s

def execPcieLinkDown (s : State) : Host.Outcome State Fault Refusal := .next s.pcieDown

def State.setTdisp (s : State) (v : Nat) : State := s.wf pgPcie F.PCI_STAT_TDISP v

def execTdispLockInterface (s : State) : Host.Outcome State Fault Refusal := .next (if s.tdisp = 0 then s.setTdisp 1 else s)

def execTdispStartInterface (s : State) : Host.Outcome State Fault Refusal :=
  .next (if s.tdisp = 1 ∧ !s.pci.stopping then s.setTdisp 2 else s)

/-- A locked interface moves to ERROR (R438). -/
def State.tdispError (s : State) : State :=
  if s.tdisp = 1 ∨ s.tdisp = 2 then (s.setTdisp 3).fault pgPcie F.PCI_ERR_STAT_TDISP_ERROR 7 else s

/-- STOP_INTERFACE; it waits for the partitions formed while the interface was locked. -/
def execStopInterface (s : State) : Host.Outcome State Fault Refusal :=
  .next (if s.tdisp = 0 then s else ({ s with pci := { s.pci with stopping := true } } : State).tdispStop)

/-- Whether an IDE stream is secure: 0 the link stream, 1 to 4 the selective streams. -/
def State.ideSecure (s : State) (i : Nat) : Bool :=
  if i = 0 then s.bit pgPcie F.PCI_STAT_LINK_IDE else (s.rf pgPcie F.PCI_STAT_SEL_IDE).testBit (i - 1)

def State.setIde (s : State) (i : Nat) (on : Bool) : State :=
  if i = 0 then s.wf pgPcie F.PCI_STAT_LINK_IDE on.toNat
  else
    let v := s.rf pgPcie F.PCI_STAT_SEL_IDE
    s.wf pgPcie F.PCI_STAT_SEL_IDE (if v.testBit (i - 1) = on then v else v ^^^ 2 ^ (i - 1))

/-- The security core programs a stream's keys (R437). -/
def execIdeKmKeyProgramming (stream : Fin 5) (s : State) : Host.Outcome State Fault Refusal := .next (s.setIde stream true)

/-- A TLP that fails its integrity check (R437). -/
def State.ideFail (s : State) (i : Nat) : State :=
  (((s.setIde i false).fault pgPcie F.PCI_ERR_STAT_IDE_FAIL 7).bump pgPcie F.PCI_IDE_FAIL_CNT).tdispError

/-! ### Modules -/

def State.modSt (s : State) (m : Nat) : ModSt := Tab.at s.mods m {}
def State.setMod (s : State) (m : Nat) (x : ModSt) : State := { s with mods := Tab.set s.mods m {} x }

def LifeEntry.isOf (e : LifeEntry) (i : ModIdent) : Bool := e.oui = i.oui.toNat && e.part = i.part && e.serial = i.serial

def State.lifeOf (s : State) (m : Nat) : Option LifeEntry := (s.modSt m).ident.bind fun i => s.mgmt.life.find? fun e => e.isOf i

def LifeEntry.hours (e : LifeEntry) : Nat := e.tenths / 36000

/-- The entry seen least recently. -/
def oldestLife (es : List LifeEntry) : Option LifeEntry :=
  es.foldl (fun b e => match b with
    | some x => if e.seen < x.seen then some e else b
    | none => some e) none

/-- A module's entry is found or made (R440). -/
def State.lifeSeen (s : State) (m : Nat) (i : ModIdent) : State :=
  let now := s.tbNs 0
  let es := s.mgmt.life
  match es.find? fun e => e.isOf i with
  | some _ => s.setMgmt { s.mgmt with life := es.map fun e => if e.isOf i then { e with seen := now } else e }
  | none =>
    let e : LifeEntry := { oui := i.oui.toNat, part := i.part, serial := i.serial, seen := now }
    if es.length < 64 then s.setMgmt { s.mgmt with life := es ++ [e] }
    else
      let rest := match oldestLife es with
        | some x => es.erase x
        | none => es
      (s.setMgmt { s.mgmt with life := rest ++ [e] }).modFlag (pgMod m) F.MOD_ERR_STAT_LIFE_FULL

/-- Hours and prediction of the module that is seated. -/
def State.showLife (s : State) (m : Nat) : State :=
  match s.lifeOf m with
  | some e => s.wf (pgMod m) F.MOD_LIFE_HOURS e.hours
  | none => s

/-- A module is seated. -/
def State.modInsert (s : State) (m : Nat) (i : ModIdent) : State :=
  let g := pgMod m
  let s := (s.wf g F.MOD_STAT_PRESENT 1).modFlag g F.MOD_ERR_STAT_INSERTED
  if !i.cmisOk then (s.setMod m {}).modFlag g F.MOD_ERR_STAT_CMIS_UNSUP
  else (((s.setMod m { ident := some i }).lifeSeen m i).wf g F.MOD_EOL_HOURS 0xFFFFFFFF).showLife m

def execModuleInsert (m : Fin 16) (ident : ModIdent) (s : State) : Host.Outcome State Fault Refusal := .next (s.modInsert m ident)

/-- The life table goes to flash (R440). -/
def State.lifeSave (s : State) : State := s.setMgmt { s.mgmt with lifeFlash := s.mgmt.life }

def State.modRemove (s : State) (m : Nat) : State :=
  let g := pgMod m
  let s := ((s.wf g F.MOD_STAT_PRESENT 0).wf g F.MOD_STAT_READY 0).wf g F.MOD_STAT_TX_ON 0
  ((s.modFlag g F.MOD_ERR_STAT_REMOVED).setMod m {}).lifeSave

def execModuleRemove (m : Fin 16) (s : State) : Host.Outcome State Fault Refusal := .next (s.modRemove m)

def execLifeTableSave (s : State) : Host.Outcome State Fault Refusal := .next (if s.mgmt.up then s.lifeSave else s)

/-- A tenth of a second with the transmitters on; the first 24 hours give the reference bias. -/
def LifeEntry.tick (e : LifeEntry) (bias : Nat) : LifeEntry :=
  if e.tenths < 864000 then { e with tenths := e.tenths + 1, biasSum := e.biasSum + bias, biasN := e.biasN + 1 }
  else { e with tenths := e.tenths + 1 }

/-- A poll of an enabled cage. -/
def State.modPoll (s : State) (m : Nat) (r : ModReading) : State :=
  let g := pgMod m
  match (s.modSt m).ident with
  | none => s
  | some i =>
    if !s.bit g F.MOD_CFG_EN || !s.mgmt.up || !s.works g then s
    else if !r.ok then (s.modFlag g F.MOD_ERR_STAT_IO_FAIL).bump g F.MOD_IO_FAIL_CNT
    else
      let top := r.bias.foldl (fun b x => max b x.toNat) 0
      let s := ((s.wf g F.MOD_TEMP r.temp.toNat).wf g F.MOD_VCC r.vcc.toNat).wf g F.MOD_BIAS_MAX top
      let s := (s.wf g F.MOD_STAT_READY r.ready.toNat).wf g F.MOD_STAT_TX_ON r.txOn.toNat
      let s := s.setMod m { ident := some i, bias := r.bias, tx := r.txPower, rx := r.rxPower }
      let s := if r.alarm then s.modFlag g F.MOD_ERR_STAT_ALARM else s
      let s := if r.txOn then s.setMgmt { s.mgmt with life := s.mgmt.life.map fun e => if e.isOf i then e.tick top else e } else s
      s.showLife m

def execModulePoll (m : Fin 16) (r : ModReading) (s : State) : Host.Outcome State Fault Refusal := .next (s.modPoll m r)

/-- Predicted remaining hours (R441). -/
def eolHours (rated life ref pct now prev : Nat) : Nat :=
  let byAge := rated - life
  let limit := ref * pct / 100
  if life < 336 then byAge
  else if limit ≤ now then 0
  else if now ≤ prev then byAge
  else min byAge ((limit - now) * 168 / (now - prev))

/-- The prediction after another 24 hours of transmitter time. -/
def State.eol (s : State) (m now prev : Nat) : State :=
  let g := pgMod m
  match s.lifeOf m with
  | none => s
  | some e =>
    if e.tenths < 864000 then s
    else
      let h := eolHours (s.rf g F.MOD_RATED_HOURS) e.hours (e.biasSum / max 1 e.biasN) (s.rf g F.MOD_EOL_CFG_BIAS_EOL_PCT) now prev
      let s := s.wf g F.MOD_EOL_HOURS h
      if h < s.rf g F.MOD_EOL_CFG_EOL_WARN_KH * 1000 then s.modFlag g F.MOD_ERR_STAT_EOL_WARN else s

def execEolUpdate (m : Fin 16) (now prev : BitVec 16) (s : State) : Host.Outcome State Fault Refusal :=
  .next (s.eol m now.toNat prev.toNat)

/-- A write of MOD_PATH_DLY_PS computes the fibre length (R442). -/
def State.wrPathDly (s : State) (m : Nat) (v : Word) : State :=
  let g := pgMod m
  let s := s.wf g F.MOD_PATH_DLY_PS v.toNat
  let fixed := s.rf g F.MOD_FIXED_PS
  let per := if s.rf g F.MOD_FIBRE_PS_M = 0 then 4900 else s.rf g F.MOD_FIBRE_PS_M
  if v.toNat < fixed then
    let s := s.wf g F.MOD_FIBRE_DM 0
    if rneDiv ((fixed - v.toNat) * 10) per = 0 then s else s.modFlag g F.MOD_ERR_STAT_FIBRE_NEG
  else
    let dm := rneDiv ((v.toNat - fixed) * 10) per
    s.wf g F.MOD_FIBRE_DM (if dm < 2 ^ 32 then dm else (Config.fibreLong dm).toNat)

def execModPathDlyPs (a : Agent) (m : Fin 16) (v : Word) (s : State) : Host.Outcome State Fault Refusal :=
  .next (s.onReady a (pgMod m) F.MOD_PATH_DLY_PS.off fun s => s.wrPathDly m v)

/-- Identity and lane readings (R447). -/
def modIndRead (s : State) (m i : Nat) : Option Word :=
  let x := s.modSt m
  let ident (f : ModIdent → Bytes) (k : Nat) : Option Word := some (match x.ident with
    | some d => BitVec.ofNat 32 (leNat (slice (f d) (4 * k) 4))
    | none => 0)
  let lane (l : List (BitVec 16)) (k : Nat) : Option Word := some (BitVec.ofNat 32 ((l.getD k 0).toNat))
  if i < 4 then ident (·.vendor) i
  else if i = 4 then ident (fun d => leBytes 3 d.oui.toNat) 0
  else if i < 9 then ident (·.part) (i - 5)
  else if i < 13 then ident (·.serial) (i - 9)
  else if i < 15 then ident (·.date) (i - 13)
  else if 0x20 ≤ i ∧ i < 0x28 then lane x.bias (i - 0x20)
  else if 0x28 ≤ i ∧ i < 0x30 then lane x.tx (i - 0x28)
  else if 0x30 ≤ i ∧ i < 0x38 then lane x.rx (i - 0x30)
  else none

end Sys2Proof.Machine
end

