-- ==== Sys2Proof/Machine/Subst.lean ====
section
/-! DEFINITION. The cluster control page: fatal conditions, the FENCE command, and the steps of a spare substitution (R558 to R568). -/

namespace Sys2Proof.Machine

def execHandshakeTimeout (f : Fin 64) (s : State) : Host.Outcome State Fault Refusal := .next (s.fatal f 1)

def execFloeFatal (f : Fin 64) (cause : FatalCause) (s : State) : Host.Outcome State Fault Refusal :=
  .next (s.fatal f (match cause with
    | .router => 2
    | .supply => 3))

/-- FENCE for a floe that is fenced or LOST is ignored (R564). -/
def State.fenceCmd (s : State) (f : Nat) : State :=
  if s.floeIsolated f then s.raise (pgCc (f / 8)) F.CC_ERR_STAT_FENCE_DENIED else s.fence f 4 0

def execFence (a : Agent) (c : Fin 8) (j : Fin 8) (s : State) : Host.Outcome State Fault Refusal :=
  .next (s.onReady a (pgCc c) F.CC_CMD_FENCE.off fun s => s.fenceCmd (8 * c + j))

/-- The floe that a cluster's substitution names. -/
def State.substFloe (s : State) (c : Nat) : Nat := 8 * c + s.rf (pgCc c) F.CC_STAT_SUBST_FLOE

/-- The spare answers for the logical identity: a floe of no partition is READY at once, the others wait for RESTORE (R561, R564). -/
def State.spareMapped (s : State) (c : Nat) : State :=
  let x := s.cluster c
  if x.phase ≠ .fenced then s
  else if (s.floePart (s.substFloe c)).isNone then s.endSubst c
  else s.setCluster c { x with phase := .mapped }

def execSpareMapDone (c : Fin 8) (s : State) : Host.Outcome State Fault Refusal := .next (s.spareMapped c)

/-- RESTORE starts the restore of the substitution in progress, and is ignored otherwise (R568). -/
def State.restoreCmd (s : State) (c : Nat) : State :=
  let x := s.cluster c
  if x.phase = .mapped then s.setCluster c { x with phase := .restoring } else s

def execRestore (a : Agent) (c : Fin 8) (s : State) : Host.Outcome State Fault Refusal :=
  .next (s.onReady a (pgCc c) F.CC_CMD_RESTORE.off fun s => s.restoreCmd c)

/-- The restore engine has run the image: the substitution ends, or the image stops it (R562, R563). -/
def State.restored (s : State) (c : Nat) : State :=
  let x := s.cluster c
  let f := s.substFloe c
  if x.phase ≠ .restoring then s
  else
    match s.restoreImage f (((s.floePart f).map s.partTenant).getD 0) with
    | some t => t.endSubst c
    | none =>
      let s := s.fault (pgCc c) F.CC_ERR_STAT_SUBST_FAIL 3
      ((s.wf (pgCc c) F.CC_STAT_SUBST 0).setCluster c { s.cluster c with phase := .idle }).loseFloe f

def execRestoreComplete (c : Fin 8) (s : State) : Host.Outcome State Fault Refusal := .next (s.restored c)

/-- A write of CC_CMD. -/
def State.wrCcCmd (s : State) (c : Nat) (v : Word) : State :=
  let s := if F.CC_CMD_RESTORE.of v = 1 then s.restoreCmd c else s
  if F.CC_CMD_FENCE.of v = 1 then s.fenceCmd (8 * c + F.CC_CMD_FLOE.of v) else s

/-! ### Indirect addresses (R568) -/

def State.ccIndRead (s : State) (c i : Nat) : Word :=
  let x := s.cluster c
  if i < 0x10 then Tab.at x.bases i 0 else if 0x100 ≤ i ∧ i ≤ 0x116 then Tab.at x.record i 0 else 0

def State.ccIndWrite (s : State) (c i : Nat) (v : Word) : State :=
  let x := s.cluster c
  if i < 0x10 ∧ (s.floePart (8 * c + i / 2)).isNone then
    let v := if i % 2 = 0 then BitVec.ofNat 32 (bits v.toNat 31 6 * 64) else BitVec.ofNat 32 (bits v.toNat 7 0)
    s.setCluster c { x with bases := Tab.set x.bases i 0 v }
  else s

end Sys2Proof.Machine
end

