-- ==== Sys2Proof/Machine/Shutdown.lean ====
section
/-! DEFINITION. Enable, shutdown and soft reset (R475 to R477), and the status that registers show of a unit's state. -/

namespace Sys2Proof.Machine

/-! ### Busy (R477) -/

/-- The region at the head of a floe's walk is being read out (R127). -/
def State.readingOut (s : State) (f : Nat) : Option Region :=
  match (s.floe f).exec with
  | some x =>
    match x.regions with
    | r :: _ => if x.phase = .work ∧ (x.share f).rk = 0 ∧ (r.nextMerge x.g f).isNone then some r else none
    | [] => none
  | none => none

def State.merging (s : State) (f : Nat) : Bool :=
  match (s.floe f).exec with
  | some x =>
    match x.regions with
    | r :: _ => x.phase = .work && (r.nextMerge x.g f).isSome
    | [] => false
  | none => false

/-- The macro-instruction whose pass runs. -/
def State.passing (s : State) (f : Nat) : Option Macro := (s.floe f).exec.bind fun x => if x.phase = .work ∧ x.passOn then some x.g else none

def State.rimeBusy (s : State) (f : Nat) : Bool := (s.passing f).isSome || (s.readingOut f).isSome

/-- A kernel holds Brash from the start of its preload. -/
def State.kernelRuns (s : State) (f : Nat) : Bool := (s.floe f).core.phase = .preload || (s.floe f).core.phase = .running

def State.composing (s : State) : Bool := s.hals.any fun e => e.2.compose.isSome

/-- BUSY of a page. -/
def State.pageBusy (s : State) (g : Nat) : Bool :=
  match pageOf g with
  | some (.floe, f) => (s.floe f).core.phase ≠ .idle
  | some (.gaff, f) => (s.floe f).exec.isSome
  | some (.brash, f) => s.kernelRuns f || (s.floe f).core.gaffHolds
  | some (.spar, f) => (s.floe f).spar.phase ≠ .idle
  | some (.rime, f) => s.rimeBusy f
  | some (.fmem, f) => s.bit (pgFmem f) F.FMEM_STAT_SCRUBBING
  | some (.cc, c) => (s.cluster c).phase ≠ .idle
  | some (.hal, h) => s.bit (pgHal h) F.HAL_STAT_ACTIVE || s.bit (pgHal h) F.HAL_STAT_CANCELLING
  | some (.mst0, _) => s.bit (pgMst 0) F.MST_STAT_ACTIVE
  | some (.mor0, _) => s.mor.slots ≠ []
  | some (.serac, e) => (s.ser e).run.isSome
  | some (.firn, k) => s.bit (pgFirn k) F.FIRN_STAT
  | some (.drc, n) => s.bit (pgDrc n) F.DRC_STAT_REMAPPING
  | some (.det, _) => s.composing
  | some (.pg, _) => s.pgs.any fun e => e.2.pulse.isSome
  | some (.snap, _) => s.bit pgSnap F.SNAP_STAT_BUSY
  | some (.shr, l) => (s.shr l).unacked ≠ []
  | some (.sec, _) => s.bit pgSec F.SEC_KREQ_CMD_KREQ_BUSY
  | _ => false

/-- The work that a shutdown waits for: what BUSY says, but for the array, which runs its macro-instruction to the end (R132), and the
Masthead, whose last issued entry reaches its worst-case end by the event itself (R365). -/
def State.pageWork (s : State) (g : Nat) : Bool :=
  match pageOf g with
  | some (.rime, f) => (s.floe f).exec.isSome
  | some (.mst0, _) => false
  | _ => s.pageBusy g

/-! ### Soft reset (R475 and the reset rules of the chapters) -/

/-- Offsets whose fields a soft reset keeps: what shows a state that it does not touch, and what the chapters name. -/
def keptOffsets : PageType → List Nat
  | .sys => [0x040, 0x044, 0x048, 0x050, 0x068]
  | .cc => [0x048]
  | .fmem => [0x044]
  | .mor0 => [0x044]
  | .drc => [0x044, 0x048]
  | .snap => [0x044]
  | .fh => [0x044]
  | .pcie => [0x040]
  | .modl => [0x044, 0x058]
  | .mgmt => [0x048, 0x050, 0x054]
  | .mpwr => [0x048, 0x050]
  | _ => []

/-- Pages whose soft reset clears flags and counters alone (R410, R514, R536). -/
def flagsOnly : PageType → Bool
  | .tb | .ts | .sec | .fwld | .fwctl | .fwpm => true
  | _ => false

/-- Flags and counters of a page return to their reset values; a live counter with them. -/
def State.clearFlags (s : State) (g : Nat) : State :=
  let rows : List FieldRow := match pageOf g with
    | some (t, _) => (rows_hdr ++ blockRows t).filter fun r => decide (r.acc = .w1c ∨ r.acc = .rc)
    | none => []
  let s : State := rows.foldl (fun (s : State) (r : FieldRow) => (List.range r.n).foldl (fun (s : State) i =>
    let off := r.off + i * max r.stride 4
    s.setWord g off (putBits (s.word g off) r.hi r.lo r.reset)) s) s
  { s with live := s.live.filter fun e => decide (e.1 / 1024 ≠ g) }

/-- What a soft reset does besides the page's fields, before they are reset. -/
def State.resetBefore (s : State) (g : Nat) : State :=
  match pageOf g with
  | some (.gaff, f) =>
    (match (s.floe f).glatch with
    | some l => (s.setFloe f { s.floe f with glatch := none }).fault g F.GAFF_ERR_STAT_ISSUE_OVERRUN 4 0 (macroOf l.word).id
    | none => s)
  | some (.rime, f) => s.setFloe f { s.floe f with rime := {}, cbs := [] }
  | some (.mst0, _) => (s.setMst { s.mst with active := none, staged := none, check := none }).mstStat
  | some (.mst1, _) => s.setMst { s.mst with drain := [], scrub := [] }
  | some (.mst2, _) => s.setMst { s.mst with heads := [], runs := [] }
  | some (.pg, _) => { ((List.finRange 8).foldl (fun s k => s.freeUnit (.gen k)) s) with pgs := [] }
  | some (.cap, _) => { s with caps := [], capLast := [] }
  | some (.fwin, n) => { s with winPend := s.winPend.filter fun e => decide (e.1 / 8 ≠ n) }
  | some (.fh, p) => (s.portDown p).setFh p { s.fh p with txts := [] }
  | some (.shr, l) => s.shrDown l
  | some (.cfgi, _) => { s with cfgi := { sweep := s.cfgi.sweep.map fun w => { w with compare := false, capture := false } } }
  | _ => s

/-- What it does after them. -/
def State.resetAfter (s : State) (g : Nat) : State :=
  match pageOf g with
  | some (.hal, h) =>
    let x := s.hal h
    let t := s.setHal h { compose := x.compose }
    match x.shadow with
    | some d => t.fault g F.HAL_ERR_STAT_OVERRUN 4 0 (dXferId d.word)
    | none => t
  | some (.serac, e) =>
    let x := s.ser e
    (s.setSer e { x with jobs := [] }).bumpN g F.SER_DISCARD_CNT x.jobs.length
  | some (.fh, p) =>
    let quad := if p % 4 = 0 then (List.range 4).map fun i => p + i else [p]
    quad.foldl (fun s q => s.wf (pgFh q) F.FH_STAT_PRESENT (portInMode q (s.quadMode q)).toNat) (s.wf g F.FH_STAT_SPEED 0)
  | some (.mst0, _) => s.mstStat
  | some (.modl, m) => s.showLife m
  | _ => s

/-- The reset takes effect: fields at their reset values, EN at 0, READY kept, IRQ_STAT bit 31 set. -/
def State.softReset (s : State) (g : Nat) : State :=
  let pend := s.rf g F.PAGE_STAT_PENDING_EN
  let ready := s.rf g F.PAGE_STAT_READY
  let t := match pageOf g with
    | some (t, _) =>
      if flagsOnly t then s.clearFlags g
      else
        let s := (s.resetBefore g).resetPage g fun off => (keptOffsets t).contains off
        (s.resetAfter g).wf g F.PAGE_STAT_READY ready
    | none => s
  let t := ((t.wf g F.PAGE_CTRL_EN 0).wf g F.PAGE_STAT_SRST_PEND 0).wf g F.PAGE_STAT_SHUTTING 0
  (t.wf g F.PAGE_STAT_PENDING_EN pend).irq g 31

/-! ### PAGE_CTRL (R475) -/

/-- EN becomes 1: a link that software has enabled trains again (R432). -/
def State.pageOn (s : State) (g : Nat) : State :=
  let s := (s.wf g F.PAGE_CTRL_EN 1).wf g F.PAGE_STAT_PENDING_EN 0
  match pageOf g with
  | some (.shr, l) => if s.shrState l = 0 ∧ s.shrEn l then s.setShrState l 1 else s
  | _ => s

/-- EN is written. -/
def State.wrPageEn (s : State) (g : Nat) (en : Bool) : State :=
  if en then (if s.shutting g then s.wf g F.PAGE_STAT_PENDING_EN 1 else s.pageOn g)
  else if s.bit g F.PAGE_STAT_PENDING_EN then s.wf g F.PAGE_STAT_PENDING_EN 0
  else if s.enabled g then (s.wf g F.PAGE_CTRL_EN 0).wf g F.PAGE_STAT_SHUTTING (s.pageBusy g).toNat
  else s

/-- SRST is written as 1. -/
def State.wrSrst (s : State) (g : Nat) : State :=
  if s.bit g F.PAGE_STAT_SRST_PEND then s
  else if s.shutting g || s.pageBusy g then
    ((s.wf g F.PAGE_CTRL_EN 0).wf g F.PAGE_STAT_SRST_PEND 1).wf g F.PAGE_STAT_SHUTTING 1
  else s.softReset g

/-- A write of PAGE_CTRL: SRST first, then EN. -/
def State.wrPageCtrl (s : State) (g : Nat) (v : Word) : State :=
  let s := if F.PAGE_CTRL_SRST.of v = 1 then s.wrSrst g else s
  s.wrPageEn g (decide (F.PAGE_CTRL_EN.of v = 1))

/-- The work in progress has completed. -/
def State.shutDone (s : State) (g : Nat) : State :=
  if !s.shutting g || s.pageWork g then s
  else
    let s := (s.wf g F.PAGE_STAT_SHUTTING 0)
    let s := if s.bit g F.PAGE_STAT_SRST_PEND then s.softReset g else s
    if s.bit g F.PAGE_STAT_PENDING_EN then s.pageOn g else s

/-- A page number that a command names, where a page stands there. -/
def State.atPage (s : State) (agent g : Nat) (off : Nat) (k : State → State) : State :=
  if (pageOf g).isSome then k s else s.unmapped agent (regAddr g off) true

def execSrst (a : Agent) (g : BitVec 16) (s : State) : Host.Outcome State Fault Refusal :=
  .next (s.atPage (agentCode a) g.toNat F.PAGE_CTRL_EN.off fun s => s.wrPageCtrl g.toNat 2)

def execPageCtrlEn (a : Agent) (g : BitVec 16) (en : Bool) (s : State) : Host.Outcome State Fault Refusal :=
  .next (s.atPage (agentCode a) g.toNat F.PAGE_CTRL_EN.off fun s => s.wrPageCtrl g.toNat (if en then 1 else 0))

def execShutdownComplete (g : BitVec 16) (s : State) : Host.Outcome State Fault Refusal := .next (s.shutDone g.toNat)

/-- Firmware takes an engine out of service by EN of its page (R566). -/
def execSeracEngineFence (e : Fin 8) (s : State) : Host.Outcome State Fault Refusal := .next (s.wrPageEn (pgSer e) false)

/-! ### Status fields that a read composes -/

def faultFlags : PageType → List Fld
  | .sys => [F.SYS_ERR_STAT_LOADER_BAD]
  | .sysFab => [F.SYS_FAB_ERR_STAT_UNMAPPED]
  | .cfgi => [F.CFG_ERR_STAT]
  | .floe => [F.FLOE_ERR_STAT_NATIVE_OVERRUN, F.FLOE_ERR_STAT_NATIVE_ILLEGAL, F.FLOE_ERR_STAT_NATIVE_OOB, F.FLOE_ERR_STAT_KSTART_OVERRUN]
  | .gaff => [F.GAFF_ERR_STAT_OPC_ILLEGAL, F.GAFF_ERR_STAT_WING_BAD, F.GAFF_ERR_STAT_SHAPE_EXCEEDS, F.GAFF_ERR_STAT_WC_EXCEEDS,
      F.GAFF_ERR_STAT_WC_OVERRUN, F.GAFF_ERR_STAT_ISSUE_OVERRUN, F.GAFF_QNT_STAT_STALE_FAULT, F.GAFF_QNT_STAT_CB_MISSING,
      F.GAFF_QNT_STAT_FMT_ILLEGAL]
  | .spar => [F.SPAR_ERR_STAT_SPAR_OVERRUN, F.SPAR_ERR_STAT_SPAR_ILLEGAL, F.SPAR_ERR_STAT_SPAR_OOB, F.SPAR_ERR_STAT_KSTART_OVERRUN,
      F.SPAR_ERR_STAT_HOLDOFF_OVER, F.SPAR_ERR_STAT_IMEM_UE]
  | .rime => [F.RIME_ERR_STAT_CELL_PAR]
  | .fmem => [F.FMEM_ERR_STAT_SP_UE, F.FMEM_ERR_STAT_WB_UE, F.FMEM_ERR_STAT_ACC_UE, F.FMEM_ERR_STAT_SPM_UE, F.FMEM_ERR_STAT_TAG_UE,
      F.FMEM_ERR_STAT_WIN_DENIED, F.FMEM_ERR_STAT_WB_COLLIDE]
  | .cc => [F.CC_ERR_STAT_SUBST_FAIL, F.CC_ERR_STAT_FLOE_LOST, F.CC_ERR_STAT_FLOE_FATAL]
  | .hal => [F.HAL_ERR_STAT_OVERRUN, F.HAL_ERR_STAT_DESC_BAD, F.HAL_ERR_STAT_TENANT_MISMATCH]
  | .mst0 => [F.MST_ERR_STAT_DATA_LATE]
  | .mor0 => [F.MOR_ERR_STAT_BUF_FULL]
  | .mor1 => [F.REC_STAT_REPLAY_BAD]
  | .serac => [F.SER_ERR_STAT_JOB_BAD, F.SER_ERR_STAT_IN_OVERRUN, F.SER_ERR_STAT_OUT_OVERRUN, F.SER_ERR_STAT_MEM_UE]
  | .firn => [F.FIRN_ERR_STAT_UE]
  | .drc => [F.DRC_ERR_STAT_UE, F.DRC_ERR_STAT_SPARE_EMPTY, F.DRC_ERR_STAT_REMAP_LOST]
  | .shr => [F.SHR_ERR_STAT_LINK_DOWN, F.SHR_ERR_STAT_AUTH_FAIL, F.SHR_ERR_STAT_KEY_EXHAUSTED]
  | .pcie => [F.PCI_ERR_STAT_TDISP_ERROR, F.PCI_ERR_STAT_IDE_FAIL]
  | .fwld => [F.FWLD_ERR_STAT_LOAD_BAD, F.FWLD_ERR_STAT_UPD_ROLLBACK, F.FWLD_ERR_STAT_WDT_RESTART]
  | .sec => [F.SEC_ERR_STAT_RECORD_BAD, F.SEC_ERR_STAT_ID_FAIL, F.SEC_ERR_STAT_PEER_REJECT]
  | _ => []

/-- A read of PAGE_STAT. -/
def State.pageStat (s : State) (t : PageType) (g : Nat) : List (Fld × Nat) :=
  [(F.PAGE_STAT_BUSY, (s.pageBusy g).toNat), (F.PAGE_STAT_FAULT, ((faultFlags t).any fun f => s.bit g f).toNat)]

def State.gaffStat (s : State) (f : Nat) : List (Fld × Nat) :=
  let x := s.floe f
  let m := x.exec.map fun e => macroOf e.word
  [(F.GAFF_STAT_BUSY, x.exec.isSome.toNat), (F.GAFF_STAT_LATCHED, x.glatch.isSome.toNat), (F.GAFF_STAT_MERGING, (s.merging f).toNat),
   (F.GAFF_STAT_DEFERRED, x.deferred.isSome.toNat), (F.GAFF_STAT_OPC, (m.map (·.opc)).getD 0),
   (F.GAFF_STAT_MEMBER, (m.map fun m => if m.wing = 0 then 0 else f - m.lead).getD 0)]

def State.rimeStat (s : State) (f : Nat) : List (Fld × Nat) :=
  let p := s.passing f
  let is (k : Macro → Bool) : Nat := ((p.map k).getD false).toNat
  [(F.RIME_STAT_BUSY, (s.rimeBusy f).toNat), (F.RIME_STAT_TRANSPOSED, is fun m => m.opc = 4), (F.RIME_STAT_COMPLEX, is (·.cplx)),
   (F.RIME_STAT_M, (p.map (·.mW)).getD 0), (F.RIME_STAT_A, (p.map (·.aW)).getD 0),
   (F.RIME_STAT_SHADOW_LOADED, (((s.floe f).exec.map (·.loaded)).getD false).toNat), (F.RIME_STAT_CONJ, is (·.conj)),
   (F.RIME_STAT_SPLIT, (((s.floe f).exec.map fun x => (macroOf x.word).split).getD false).toNat),
   (F.RIME_STAT_READOUT_BANK, ((s.readingOut f).map fun r => r.base / 16384).getD 0)]

def State.coreStat (s : State) (f : Nat) : List (Fld × Nat) :=
  let c := (s.floe f).core
  [(F.FLOE_KSTAT_BUSY, (decide (c.phase ≠ .idle)).toNat), (F.FLOE_KSTAT_PRELOAD, (decide (c.phase = .preload)).toNat),
   (F.FLOE_KSTAT_WAIT_BRASH, (decide (c.phase = .waitBrash)).toNat), (F.FLOE_KSTAT_POISON_LATCH, c.latch.toNat), (F.FLOE_KSTAT_PC, c.lastPc)]

def State.brashStat (s : State) (f : Nat) : List (Fld × Nat) :=
  let c := (s.floe f).core
  [(F.BRASH_STAT_BUSY, (s.kernelRuns f || c.gaffHolds).toNat), (F.BRASH_STAT_OWNER, if c.gaffHolds then 2 else (s.kernelRuns f).toNat),
   (F.BRASH_STAT_VL, c.vl)]

def State.sparStat (s : State) (f : Nat) : List (Fld × Nat) :=
  let x := (s.floe f).spar
  [(F.SPAR_STAT_BUSY, (decide (x.phase ≠ .idle)).toNat), (F.SPAR_STAT_PRELOAD, (decide (x.phase = .preload)).toNat),
   (F.SPAR_STAT_IN_HANDLER, x.inHandler.toNat), (F.SPAR_STAT_IN_REP, x.rep.isSome.toNat), (F.SPAR_STAT_POISON_LATCH, x.latch.toNat),
   (F.SPAR_STAT_PC, x.lastPc)]

/-! ### Interrupt lines (R478, R479) -/

/-- A page drives its line. -/
def State.line (s : State) (g : Nat) : Bool := (s.word g 0x010 &&& ~~~(s.word g 0x014)) ≠ 0

/-- Pages that the route table sends to a vector. -/
def State.routed (s : State) (v : Nat) : List Nat := (s.iagg.routes.filter fun e => decide (e.2 % 64 = v) && e.2.testBit 7).map (·.1)

def State.pendingVec (s : State) (v : Nat) : Bool := (s.routed v).any s.line

/-- Pending vectors of a half. -/
def State.pendingWord (s : State) (half : Nat) : Nat :=
  ((List.range 32).map fun j => (s.pendingVec (32 * half + j)).toNat * 2 ^ j).foldl (· + ·) 0

/-- Registers of the page hold what the unit's state says. -/
def State.statusFields (s : State) (t : PageType) (i g off : Nat) : List (Fld × Nat) :=
  if off = 0x00C then s.pageStat t g
  else
    match t, off with
    | .gaff, 0x044 => s.gaffStat i
    | .rime, 0x044 => s.rimeStat i
    | .floe, 0x048 => s.coreStat i
    | .brash, 0x040 => s.brashStat i
    | .spar, 0x044 => s.sparStat i
    | .det, 0x044 => [(F.DET_STAT, s.composing.toNat)]
    | .iagg, 0x040 => [(F.IAGG_PEND_LO, s.pendingWord 0)]
    | .iagg, 0x044 => [(F.IAGG_PEND_HI, s.pendingWord 1)]
    | .mgmt, 0x048 => [(F.MGMT_STAT_MAIN_UP, s.mainUp.toNat)]
    | .mgmt, 0x050 => [(F.MGMT_VER, s.bankVer s.bank)]
    | .mgmt, 0x054 => [(F.MGMT_LOG_SEQ, s.mgmt.seq)]
    | _, _ => []

/-- The word of a register with its status fields as they stand. -/
def State.shownWord (s : State) (g off : Nat) : Word :=
  match pageOf g with
  | some (t, i) => (s.statusFields t i g off).foldl (fun w e => putBits w e.1.hi e.1.lo e.2) (s.word g off)
  | none => s.word g off

end Sys2Proof.Machine
end

