-- ==== Sys2Proof/Machine/Mgmt.lean ====
section
/-! DEFINITION. The management subsystem: power-up of the controller, sensors, load detection, operating points, the snapshot trigger, log
access, MCTP and PLDM, and its own image (R539 to R555). -/

namespace Sys2Proof.Machine

/-! ### The controller (R539, R540) -/

/-- Pages that the controller serves. -/
def mgmtPages : List Nat := [pgMgmt, pgMpwr] ++ (List.range 16).map pgMod

/-- The controller is ready: its pages are READY and the sprint is allowed again. -/
def State.mgmtUp (s : State) : State :=
  let s := s.setMgmt { s.mgmt with up := true, activating := false, started := s.ticks }
  (mgmtPages.foldl (fun s g => s.wf g F.PAGE_STAT_READY 1) s).wf pgMpwr F.MPWR_STAT_SPRINT_INHIBIT 0

/-- Generators and capture inputs of the controller's class are disarmed and freed (R410). -/
def State.freeMgmtUnits (s : State) : State :=
  let s := (List.finRange 8).foldl (fun (s : State) g => if s.unitOwn (.gen g) = 2 then s.freeUnit (.gen g) else s) s
  (List.finRange 2).foldl (fun (s : State) c =>
    if s.unitOwn (.cap c) = 2 then { s.freeUnit (.cap c) with caps := Tab.set s.caps c [] [] } else s) s

/-- The controller stops, at MGMT_RST_N or for a restart. -/
def State.mgmtDown (s : State) : State :=
  let s := mgmtPages.foldl (fun s g => s.wf g F.PAGE_STAT_READY 0) s
  let s := (s.wf pgMpwr F.MPWR_STAT_SPRINT_INHIBIT 1).freeMgmtUnits
  s.setMgmt { s.mgmt with up := false, buffer := [] }

/-- The controller verifies its image and is ready; a new image records its start (R551). -/
def State.mgmtBoot (s : State) (imageOk : Bool) : State :=
  if s.pwr.mgmtRst || s.mgmt.up || !imageOk then s
  else
    let new := s.mgmt.activating
    let s := s.mgmtUp
    if new then (s.setMgmt { s.mgmt with staged := false }).logOwn 0xFFFF 8 [0, s.bankVer s.bank] else s

def execMgmtStart (imageOk : Bool) (s : State) : Host.Outcome State Fault Refusal := .next (s.mgmtBoot imageOk)

/-! ### Sensors (R541, R542) -/

/-- Thermal, voltage, current and power sensors of R541. -/
def isThermal (i : Nat) : Bool := decide (i < 0x30)
def isVoltage (i : Nat) : Bool := decide (0x40 ≤ i) && decide (i < 0x58)
def isCurrent (i : Nat) : Bool := decide (0x60 ≤ i) && decide (i < 0x66)
def isPower (i : Nat) : Bool := decide (0x70 ≤ i) && decide (i < 0x76)
def isSensor (i : Nat) : Bool := isThermal i || isVoltage i || isCurrent i || isPower i

/-- Sensors on standby power. -/
def isStandby (i : Nat) : Bool := [0x2E, 0x2F, 0x54, 0x55, 0x64].contains i

/-- Nominal millivolts of a voltage monitor (R571). -/
def nominalMv (i : Nat) : Nat :=
  if i < 0x48 then 750 else if i < 0x4C then 1100 else if i < 0x4E then 850 else if i < 0x50 then 1200 else if i < 0x52 then 800
  else if i = 0x53 ∨ i = 0x57 then 3300 else if i = 0x54 then 800 else 1800

/-- A reading; none for UNAVAIL. -/
def State.sensor (s : State) (i : Nat) : Option (BitVec 16) :=
  if !s.mainUp && !isStandby i then none else Tab.at s.mgmt.sensors i none

/-- How far a reading is beyond a threshold, times 100; negative where it has not reached it. -/
def beyond (i : Nat) (v : BitVec 16) (thr : Nat) : Int :=
  if isThermal i then 100 * (v.toInt - sInt 16 thr)
  else if isVoltage i then 100 * ((((v.toNat : Int) - nominalMv i).natAbs : Int) - thr)
  else 100 * ((v.toNat : Int) - thr)

/-- What a reading must return by before a threshold can be crossed again, times 100: 2 °C, or 1 % of nominal. -/
def hysteresis (i : Nat) : Int := if isThermal i then 51200 else if isVoltage i then (nominalMv i : Int) else 1

/-- A reading as it is told outside the controller's firmware (R530). -/
def State.shownSensor (s : State) (i : Nat) : Option (BitVec 16) :=
  if s.confidential then (s.sensor i).map fun _ => match Tab.at s.sec.coarse i none with
    | some w => w.setWidth 16
    | none => 0xFFFF
  else s.sensor i

/-- A PLDM event goes to the event receiver, where one is set (R550). -/
def State.pldmEvent (s : State) (fields : Bytes) : State :=
  if s.mgmt.receiver = 0 then s
  else { s with out := s.out ++ [.message (Config.encodeMessage 0x020A ([BitVec.ofNat 8 s.mgmt.receiver] ++ fields))] }

/-- A reading against one of its thresholds, `k` 0 for warning and 1 for critical. -/
def State.threshold (s : State) (i : Nat) (v : BitVec 16) (k : Nat) : State :=
  let key := 2 * i + k
  let thr := (Tab.at s.mgmt.thresholds key (0 : Word)).toNat % 65536
  let was := Tab.at s.mgmt.crossed key false
  let set (s : State) (b : Bool) : State := s.setMgmt { s.mgmt with crossed := Tab.set s.mgmt.crossed key false b }
  if thr = 0 then set s false
  else
    let d := beyond i v thr
    if was then (if d ≤ -hysteresis i then set s false else s)
    else if 0 ≤ d then
      let s := (set s true).raise pgMgmt F.MGMT_ERR_STAT_THRESH
      let shown := ((s.shownSensor i).map (·.toNat)).getD 0
      (s.logOwn 0xFFFF 3 [i, k, shown]).pldmEvent ([BitVec.ofNat 8 i, BitVec.ofNat 8 k] ++ leBytes 2 shown)
    else s

/-- The hottest thermal reading and its sensor. -/
def State.hottest (s : State) : Option (Int × Nat) :=
  (List.range 0x30).foldl (fun b i =>
    match s.sensor i, b with
    | some v, some (t, j) => if t < v.toInt then some (v.toInt, i) else some (t, j)
    | some v, none => some (v.toInt, i)
    | none, b => b) none

/-- MGMT_T_HOT. -/
def State.showHot (s : State) : State :=
  match s.hottest with
  | some (t, i) => (s.wf pgMgmt F.MGMT_T_HOT_TEMP (lowBits 16 t)).wf pgMgmt F.MGMT_T_HOT_SENSOR i
  | none => s

/-- A sensor is sampled. -/
def State.sample (s : State) (i : Nat) (v : BitVec 16) : State :=
  if !s.mgmt.up || !isSensor i || (!s.mainUp && !isStandby i) then s
  else
    let s := s.setMgmt { s.mgmt with sensors := Tab.set s.mgmt.sensors i none (some v) }
    ((if isThermal i then s.showHot else s).threshold i v 0).threshold i v 1

def execSensorSample (index : BitVec 7) (v : BitVec 16) (s : State) : Host.Outcome State Fault Refusal := .next (s.sample index.toNat v)

/-- Round a ratio to a multiple of `m`, ties to the even multiple (R49). -/
def roundTo (n : Int) (d m : Nat) : Int :=
  let q := (rneDiv n.natAbs (max 1 d * m) : Int) * m
  if n < 0 then -q else q

/-- Nominal millivolts of a rail (R571). -/
def railNominal (r : Nat) : Nat := if r = 0 then 750 else if r = 1 then 1100 else if r = 3 then 800 else Config.railMv r

/-- A window mean as it is told: 2 °C, 10 mV, or 5 W, currents as power at nominal voltage; 0x80 is T_hot and 0x81 the package power. -/
def coarseOf (i : Nat) (n : Int) (d : Nat) : Word :=
  let v : Int :=
    if isThermal i || i = 0x80 then roundTo n d 512
    else if isVoltage i then roundTo n d 10
    else if isCurrent i then roundTo (n * railNominal (i - 0x60)) (d * 1000) 500
    else roundTo n d 500
  BitVec.ofNat 32 (lowBits 16 v)

/-- A coarsening window ends (R530). -/
def State.telemetry (s : State) (means : List (Nat × Int × Nat)) : State :=
  if !s.confidential then s
  else
    let t : Tab (Option Word) := means.foldl (fun t e => Tab.set t e.1 none (some (coarseOf e.1 e.2.1 e.2.2))) []
    { s with sec := { s.sec with coarse := t } }

def execTelemetryWindow (means : List (Nat × Int × Nat)) (s : State) : Host.Outcome State Fault Refusal := .next (s.telemetry means)

/-- A coarsened register: its last window, or all ones before one has ended. -/
def State.coarseReg (s : State) (i fine : Nat) : Nat :=
  if s.confidential then ((Tab.at s.sec.coarse i none).map (·.toNat)).getD 0xFFFF else fine

/-! ### Load detection (R543) -/

/-- The pin rests at its inactive level and no pulse of its generator falls within 200 µs. -/
def State.pinRests (s : State) (p : Nat) : Bool :=
  s.pgs.all fun e =>
    let x := e.2
    !(x.func = 1 && x.pin = p) ||
      (x.pulse.isNone && (!s.pgArmed e.1 || decide ((s.timeBase x.tb).count + 200000 ≤ x.next)))

def State.loadDetect (s : State) (pins : List (Fin 8 × Fin 5)) : State :=
  if !s.mgmt.up || !s.mainUp || !s.bit pgMgmt F.MGMT_CTRL_LOADDET_EN then s
  else pins.foldl (fun s e =>
    let v := s.rf pgMgmt F.MGMT_PIN_LOAD
    let k := 3 * e.1.val
    let old := bits v (k + 2) k
    if !s.pinRests e.1 then s
    else
      let s := if 3 ≤ e.2.val then s.raise pgMgmt F.MGMT_ERR_STAT_PIN_FAULT else s
      if old = e.2.val then s
      else
        let what := [e.1.val, e.2.val]
        let s := s.wf pgMgmt F.MGMT_PIN_LOAD (v - old * 2 ^ k + e.2.val * 2 ^ k)
        s.log 0xFFFF (Config.ownKind 0).toNat (Config.logSeverity (Config.ownKind 0).toNat what).val
          (Config.logData (Config.ownKind 0).toNat what)) s

def execLoadDetectTest (pins : List (Fin 8 × Fin 5)) (s : State) : Host.Outcome State Fault Refusal := .next (s.loadDetect pins)

/-! ### Operating points (R544 to R546) -/

def State.point (s : State) : Nat := s.rf pgMpwr F.MPWR_STAT_POINT

/-- Best point allowed; 6 and 7 act as 5. -/
def State.opMax (s : State) : Nat := min 5 (s.rf pgMpwr F.MPWR_OP_MAX)

/-- Package power in 10 mW: the sum of the six rail powers. -/
def State.pkgPower (s : State) : Nat := (List.range 6).foldl (fun n k => n + ((s.sensor (0x70 + k)).map (·.toNat)).getD 0) 0

/-- Effective cap in W, and whether the PLDM cap alone is the least. -/
def State.cap (s : State) : Nat × Bool :=
  let own := min 240 (s.rf pgMpwr F.MPWR_CAP)
  let pldm := s.rf pgMpwr F.MPWR_PLDM_CAP
  if pldm ≠ 0 ∧ pldm < own then (pldm, true) else (own, false)

/-- T_lim in °C: the grade of a valid record decides. -/
def State.tLim (s : State) : Int :=
  if s.bit pgSec F.SEC_ID_STAT_RECORD_VALID && s.bit pgSec F.SEC_RECORD_INFO_GRADE then 105 else 95

/-- U of a point, in W. -/
def allowance (p : Nat) : Nat := if p ≤ 2 then 20 else if p ≤ 4 then 15 else 10

/-- One step of the operating point (R546). -/
def State.opStep (s : State) (new reason : Nat) : State :=
  let s := ((s.wf pgMpwr F.MPWR_STAT_POINT new).wf pgMpwr F.MPWR_STAT_REASON reason).wf pgFwpm F.FWPM_STAT_PENDING 1
  let s := (s.raise pgMpwr F.MPWR_ERR_STAT_OP_CHANGED).bump pgMpwr F.MPWR_OP_CHG_CNT
  let p := s.coarseReg 0x81 (s.rf pgMpwr F.MPWR_PKG_PWR)
  let t := s.coarseReg 0x80 (s.rf pgMgmt F.MGMT_T_HOT_TEMP)
  (s.logOwn 0xFFFF 4 [p, t, reason]).pldmEvent ([BitVec.ofNat 8 new, BitVec.ofNat 8 reason] ++ leBytes 2 p ++ leBytes 2 t)

/-- A step down, remembered for the 100 ms of R545. -/
def State.opDown (s : State) (reason : Nat) : State :=
  (s.setMgmt { s.mgmt with lastDown := s.ticks, overCap := 0, unmet := false }).opStep (s.point + 1) reason

/-- The evaluation of R545. -/
def State.evaluate (s : State) : State :=
  if !s.mgmt.up || !s.mainUp then s
  else
    let pw := s.pkgPower
    let s := s.wf pgMpwr F.MPWR_PKG_PWR pw
    let pt := s.point
    let (c, pldm) := s.cap
    let hot := sInt 16 (s.rf pgMgmt F.MGMT_T_HOT_TEMP)
    let isOver := decide (c * 100 < pw)
    let n := if pt = 5 ∧ isOver then s.mgmt.overCap + 1 else 0
    let s := s.setMgmt { s.mgmt with overCap := n, unmet := s.mgmt.unmet && decide (n ≠ 0) }
    if pt < s.opMax then s.opDown 3
    else if pt < 5 ∧ (s.tLim - 3) * 256 ≤ hot then s.opDown 2
    else if pt < 5 ∧ isOver then s.opDown (if pldm then 4 else 1)
    else if pt = 5 ∧ 10 ≤ n then
      if s.mgmt.unmet then s
      else (((s.setMgmt { s.mgmt with unmet := true }).raise pgMpwr F.MPWR_ERR_STAT_CAP_UNMET).bump pgMpwr F.MPWR_CAP_UNMET_CNT)
    else if pt = 5 ∧ (s.tLim - 1) * 256 ≤ hot then s.raise pgMpwr F.MPWR_ERR_STAT_THERM_LIMIT
    else if pt ≠ 0 ∧ pw + allowance pt * 100 + 1000 ≤ c * 100 ∧ hot < (s.tLim - 8) * 256 ∧ s.opMax < pt ∧ s.mgmt.lastDown + 62500000 ≤ s.ticks then
      (s.setMgmt { s.mgmt with overCap := 0, unmet := false }).opStep (pt - 1) 0
    else s

def execOpEvaluate (s : State) : Host.Outcome State Fault Refusal := .next s.evaluate

/-- The power-management component applies the clock of the point in force. -/
def execFwpmApply (s : State) : Host.Outcome State Fault Refusal :=
  .next (if s.fwRuns 1 && s.bit pgFwpm F.FWPM_STAT_PENDING then
      ((s.wf pgFwpm F.FWPM_STAT_APPLIED s.point).wf pgFwpm F.FWPM_STAT_PENDING 0).bump pgFwpm F.FWPM_APPLY_CNT
    else s)

/-- A change that waited 1 ms. -/
def execApplyLate (s : State) : Host.Outcome State Fault Refusal :=
  .next (if s.bit pgFwpm F.FWPM_STAT_PENDING then s.raise pgFwpm F.FWPM_ERR_STAT else s)

/-! ### The snapshot trigger (R547) -/

def State.snapGen (s : State) : Fin 8 := Fin.ofNat 8 (s.rf pgMgmt F.MGMT_CTRL_SNAP_GEN)

/-- Strobe generators of the controller but for `keep` are disarmed and released. -/
def State.snapRelease (s : State) (keep : Option (Fin 8)) : State :=
  (List.finRange 8).foldl (fun (s : State) g =>
    if some g ≠ keep ∧ s.unitOwn (.gen g) = 2 ∧ s.pgArmed g ∧ (s.pg g).func = 2 then s.freeUnit (.gen g) else s) s

/-- Whether the generator runs as the controller armed it. -/
def State.snapRuns (s : State) (g : Fin 8) : Bool :=
  s.unitOwn (.gen g) = 2 && s.pgArmed g && (s.pg g).func = 2 && decide ((s.pg g).period = s.rf pgMgmt F.MGMT_SNAP_PERIOD)

/-- The configuration that the controller writes: FUNC 2 on time base 0, from the next whole second. -/
def State.snapConfig (s : State) (g : Fin 8) : State :=
  let sec := (s.timeBase 0).sec + 1
  let s := ((s.wf pgPg (F.PG_CFG_TB g) 0).wf pgPg (F.PG_CFG_PERIODIC g) 1).wf pgPg (F.PG_CFG_FUNC g) 2
  let s := (s.wf pgPg (F.PG_PERIOD g) (s.rf pgMgmt F.MGMT_SNAP_PERIOD)).wf pgPg (F.PG_START_NS g) 0
  (s.wf pgPg (F.PG_START_SEC_LO g) (sec % 2 ^ 32)).wf pgPg (F.PG_START_SEC_HI g) (sec / 2 ^ 32)

/-- The controller's check every 100 ms. -/
def State.snapCheck (s : State) : State :=
  let g := s.snapGen
  if !s.mgmt.up || !s.mainUp || !s.bit pgMgmt F.MGMT_CTRL_SNAP_EN || s.snapRuns g then s
  else
    let conflict (s : State) : State := s.raise pgMgmt F.MGMT_ERR_STAT_SNAP_CONFLICT
    let s := s.snapRelease (some g)
    if !s.ready pgPg then conflict s
    else
      let s := s.claimUnit .mgmt (.gen g)
      if s.unitOwn (.gen g) ≠ 2 then conflict s
      else
        let s := ((s.disarmUnit (.gen g)).snapConfig g).pgArm g
        if s.pgArmed g then s else conflict s

def execSnapTriggerCheck (s : State) : Host.Outcome State Fault Refusal := .next s.snapCheck

/-- A write of MGMT_CTRL: clearing SNAP_EN disarms and releases the generator. -/
def State.wrMgmtCtrl (s : State) (v : Word) : State :=
  let was := s.bit pgMgmt F.MGMT_CTRL_SNAP_EN
  let s := ((s.wf pgMgmt F.MGMT_CTRL_SNAP_EN (F.MGMT_CTRL_SNAP_EN.of v)).wf pgMgmt F.MGMT_CTRL_SNAP_GEN (F.MGMT_CTRL_SNAP_GEN.of v)).wf
    pgMgmt F.MGMT_CTRL_LOADDET_EN (F.MGMT_CTRL_LOADDET_EN.of v)
  if was && !s.bit pgMgmt F.MGMT_CTRL_SNAP_EN then s.snapRelease none else s

/-! ### The log (R548, R549) -/

/-- Firmware forwards a record through the intake. -/
def execLogIntake (r : LogIn) (s : State) : Host.Outcome State Fault Refusal :=
  .next (s.log r.source.toNat r.kind.toNat r.severity.val r.data)

def execLogFlashWrite (failures : Fin 3) (s : State) : Host.Outcome State Fault Refusal := .next (s.logFlush failures)

/-- The oldest record of a queue goes to the log (R32, R557); the component that owns the queue forwards it. -/
def State.forward (s : State) (q : Nat) : State :=
  let k := if q < 8 then 3 + q else if q = 8 then 2 else 0
  match Tab.at s.faultQ q [] with
  | r :: rs =>
    if k ≠ 0 ∧ !s.fwRuns k then s
    else
      let s := { s with faultQ := Tab.set s.faultQ q [] rs }
      s.logOwn r.source 1 [r.offset, r.bit, r.cls, r.lost, r.tag.toNat, r.id, r.detail, r.time]
  | [] => s

def execFaultRecordForward (q : Fin 10) (s : State) : Host.Outcome State Fault Refusal := .next (s.forward q)

/-- A write of MGMT_LOG_RD presents a record at the log words. -/
def execMgmtLogRd (a : Agent) (v : Word) (s : State) : Host.Outcome State Fault Refusal :=
  .next (s.onReady a pgMgmt F.MGMT_LOG_RD.off fun s => s.wf pgMgmt F.MGMT_LOG_RD v.toNat)

/-- Word `k` of the record presented. -/
def State.logWord (s : State) (k : Nat) : Word :=
  match s.logShown (s.rf pgMgmt F.MGMT_LOG_RD) with
  | some b => BitVec.ofNat 32 (leNat (slice b (4 * k) 4))
  | none => 0xFFFFFFFF

/-- The indirect space of MGMT (R552). -/
def mgmtIndRead (s : State) (i : Nat) : Option Word :=
  if isSensor i then some (match s.shownSensor i with
    | some v => v.setWidth 32
    | none => 0x80000000)
  else if 0x100 ≤ i ∧ i < 0x200 ∧ isSensor ((i - 0x100) / 2) then some (Tab.at s.mgmt.thresholds (i - 0x100) 0)
  else if 0x10000 ≤ i ∧ i < 0x10008 then some (s.logWord (i - 0x10000))
  else none

/-- An indirect write: thresholds alone. -/
def mgmtIndWrite (s : State) (i : Nat) (v : Word) : Option State :=
  if 0x100 ≤ i ∧ i < 0x200 ∧ isSensor ((i - 0x100) / 2) then
    some (s.setMgmt { s.mgmt with thresholds := Tab.set s.mgmt.thresholds (i - 0x100) 0 (v &&& 0xFFFF) })
  else none

/-! ### MCTP and PLDM (R550) -/

/-- A message that the controller sends. -/
def State.reply (s : State) (code : Nat) (fields : Bytes) : State :=
  { s with out := s.out ++ [.message (Config.encodeMessage code fields)] }

/-- Static address (R550). -/
def State.mgmtAddr (s : State) : Nat := 0x60 + s.rf pgSys F.SYS_STRAP_MGMT_ADDR

def State.mctp (s : State) (r : MctpReq) : State :=
  if !s.mgmt.up then s
  else match r with
    | .discover => s.reply 0x0001 [BitVec.ofNat 8 s.mgmtAddr]
    | .setEid e => (s.setMgmt { s.mgmt with eid := e.toNat }).reply 0x0002 [e]
    | .getEid => s.reply 0x0003 [BitVec.ofNat 8 s.mgmt.eid]

def execMctpControl (r : MctpReq) (s : State) : Host.Outcome State Fault Refusal := .next (s.mctp r)

/-- A PLDM response; completion code 0 for success, 1 for a reading or an effecter that is not there. -/
def State.pldm (s : State) (r : PldmReq) : State :=
  if !s.mgmt.up then s
  else match r with
    | .readSensor i =>
      if !isSensor i.toNat then s.reply 0x0211 [1]
      else match s.shownSensor i.toNat with
        | some v => s.reply 0x0211 ([0] ++ leBytes 2 v.toNat)
        | none => s.reply 0x0211 [2]
    | .readPower => s.reply 0x0211 ([0] ++ leBytes 2 (s.coarseReg 0x81 (s.rf pgMpwr F.MPWR_PKG_PWR)))
    | .readStatePoint => s.reply 0x0221 [0, BitVec.ofNat 8 s.point]
    | .readStatePin p => s.reply 0x0221 [0, BitVec.ofNat 8 (bits (s.rf pgMgmt F.MGMT_PIN_LOAD) (3 * p.val + 2) (3 * p.val))]
    | .setCap w => (s.wf pgMpwr F.MPWR_PLDM_CAP w.toNat).reply 0x0231 [0]
    | .setOpMax p => (s.wf pgMpwr F.MPWR_OP_MAX p.toNat).reply 0x0231 [0]
    | .setEventReceiver e => (s.setMgmt { s.mgmt with receiver := e.toNat }).reply 0x0204 [0]

def execPldmMessage (r : PldmReq) (s : State) : Host.Outcome State Fault Refusal := .next (s.pldm r)

/-- Eight records from a SEQ; all ones for one that is no longer retained. -/
def execLogReadRequest (seq : Word) (s : State) : Host.Outcome State Fault Refusal :=
  .next (if s.mgmt.up then
      s.reply 0x7E00 ((List.range 8).flatMap fun k => (s.logShown (seq.toNat + k)).getD (ones 32)) else s)

/-! ### The controller's own image (R551) -/

/-- Whether the signature pair at the end of bytes verifies under the image-signing keys of the record (R515, R518). -/
def imageKeysOk (record msg sig : Bytes) : Bool :=
  Config.rsaOk (slice record 88 388) msg (sig.take 384) && Config.slhOk (slice record 476 48) msg (slice sig 384 16224)

/-- The record in force, where it is valid. -/
def State.validRecord (s : State) : Option Bytes := if s.bit pgSec F.SEC_ID_STAT_RECORD_VALID then Config.record else none

/-- A PLDM update is written to the inactive bank and verified. -/
def State.mgmtUpdate (s : State) (image : Bytes) (version : Nat) : State :=
  if !s.mgmt.up then s
  else
    let n := image.length - 16608
    let ok : Bool := match s.validRecord with
      | some r => decide (16608 ≤ image.length) && imageKeysOk r (image.take n) (image.drop n) && decide (leNat (slice r 84 4) ≤ version)
      | none => false
    let s := s.setMgmt { s.mgmt with banks := Tab.set s.mgmt.banks (1 - s.bank) none (some version), staged := ok }
    if ok then s.reply 0x0512 [0] else (s.raise pgMgmt F.MGMT_ERR_STAT_UPD_BAD).reply 0x0512 [1]

def execPldmFirmwareUpdate (image : Bytes) (version : Word) (s : State) : Host.Outcome State Fault Refusal :=
  .next (s.mgmtUpdate image version.toNat)

/-- The controller restarts on the new bank. -/
def execActivateFirmware (s : State) : Host.Outcome State Fault Refusal :=
  .next (if !s.mgmt.up then s
    else if !s.mgmt.staged then s.reply 0x051A [1]
    else
      let s := ((s.reply 0x051A [0]).mgmtDown).wf pgMgmt F.MGMT_STAT_BANK (1 - s.bank)
      s.setMgmt { s.mgmt with activating := true })

/-- A new image that has not reported ready is abandoned for the old bank. -/
def execMgmtUpdateRollback (s : State) : Host.Outcome State Fault Refusal :=
  .next (if !s.mgmt.activating || s.pwr.mgmtRst then s
    else
      let s := ((s.wf pgMgmt F.MGMT_STAT_BANK (1 - s.bank)).setMgmt { s.mgmt with staged := false }).mgmtUp
      (s.raise pgMgmt F.MGMT_ERR_STAT_UPD_ROLLBACK).logOwn 0xFFFF 8 [1, s.bankVer s.bank])

end Sys2Proof.Machine
end

