-- ==== Sys2Proof/Machine/Security.lean ====
section
/-! DEFINITION. Identity and the configuration record, attestation over SPDM, confidential mode, DRAM granules, key requests and the
authentication of Shroud links (R515 to R538). -/

namespace Sys2Proof.Machine

def State.setSec (s : State) (x : SecSt) : State := { s with sec := x }

/-! ### Identity and record (R516 to R519) -/

/-- A record that verifies under the manufacturing keys and binds to this device. -/
def recordOk (r : Bytes) : Bool :=
  let sig := leNat (slice r 540 4)
  decide (sig + 16608 ≤ r.length) && Config.rsaOk Config.mfgRsa (r.take sig) (slice r sig 384) &&
    Config.slhOk Config.mfgSlh (r.take sig) (slice r (sig + 384) 16224) && decide (slice r 8 48 = Config.devKeyHash)

/-- The clusters of which the repair map fences a floe, and its row repairs: channel, bank, row, spare. -/
def State.applyRepair (s : State) (r : Bytes) : State :=
  let m := Config.repairMap r
  let s := m.1.foldl (fun s f => (s.wf (pgCc (f / 8 % 8)) F.CC_STAT_FACTORY_FENCE 1).wf (pgCc (f / 8 % 8)) F.CC_STAT_SPARE_AVAIL 0) s
  m.2.foldl (fun s e =>
    let x := s.drc (e.1 % 64)
    s.setDrc (e.1 % 64) { x with remap := Tab.set x.remap (256 * e.2.1 + e.2.2.2) 0 (e.2.2.1 % 16384 + 2 ^ 15) }) s

/-- The record is checked (R519). -/
def State.checkRecord (s : State) : State :=
  match Config.record with
  | some r =>
    if recordOk r && s.bit pgSec F.SEC_ID_STAT_ID_VALID then
      let s := (s.wf pgSec F.SEC_ID_STAT_RECORD_VALID 1).wf pgSec F.SEC_ID_STAT_RECORD_VER (leNat (slice r 4 2))
      let s := (s.wf pgSec F.SEC_RECORD_INFO_GRADE (leNat (slice r 56 1) % 2)).wf pgSec F.SEC_RECORD_INFO_STEPPING (leNat (slice r 57 1))
      (s.wf pgFwld F.FW_MIN_VER (leNat (slice r 80 4))).applyRepair r
    else s.fault pgSec F.SEC_ERR_STAT_RECORD_BAD 9
  | none => s.fault pgSec F.SEC_ERR_STAT_RECORD_BAD 9

/-- Derivation and the check of the record end (R516, R517). -/
def State.deriveId (s : State) : State :=
  (if Config.identityOk then s.wf pgSec F.SEC_ID_STAT_ID_VALID 1 else s.fault pgSec F.SEC_ERR_STAT_ID_FAIL 9).checkRecord

/-! ### SPDM (R520 to R523) -/

def SecSt.conn (x : SecSt) : Transport → SpdmConn
  | .doe => x.doe
  | .mctp => x.mctp

def State.setConn (s : State) (tr : Transport) (c : SpdmConn) : State :=
  match tr with
  | .doe => s.setSec { s.sec with doe := c }
  | .mctp => s.setSec { s.sec with mctp := c }

/-- Response codes (DSP0274). -/
def spdmVersion : Nat := 0x04
def spdmCapabilities : Nat := 0x61
def spdmAlgorithms : Nat := 0x63
def spdmDigests : Nat := 0x01
def spdmCertificate : Nat := 0x02
def spdmChallengeAuth : Nat := 0x03
def spdmMeasurements : Nat := 0x60
def spdmKeyExchange : Nat := 0x64
def spdmFinish : Nat := 0x65
def spdmEndSession : Nat := 0x6C
def spdmVendor : Nat := 0x7E
def spdmError : Nat := 0x7F

/-- Error codes (DSP0274). -/
def errInvalid : Nat := 0x01
def errBusy : Nat := 0x03
def errUnexpected : Nat := 0x04
def errUnspecified : Nat := 0x05
def errNotReady : Nat := 0x42

/-- A message leaves toward the requester. -/
def State.tell (s : State) (code : Nat) (fields : Bytes) : State :=
  { s with out := s.out ++ [.message (Config.encodeMessage code fields)] }

def State.spdmErr (s : State) (e : Nat) : State := s.tell spdmError [BitVec.ofNat 8 e]

/-- The transport carries requests: DOE always, MCTP through a running management controller. -/
def State.carries (s : State) : Transport → Bool
  | .doe => true
  | .mctp => s.mgmt.up

/-- An SPDM request. Without an identity it is answered with an error (R517); one that comes before the connection stands at `stage`, as
unexpected. A request breaks the row of a signed response and its COSIGN (R522). -/
def State.spdm (s : State) (tr : Transport) (stage : Nat) (k : State → SpdmConn → State) : State :=
  if !s.carries tr then s
  else if !s.bit pgSec F.SEC_ID_STAT_ID_VALID then s.spdmErr errUnspecified
  else if (s.sec.conn tr).stage < stage then s.spdmErr errUnexpected
  else
    let c := { s.sec.conn tr with signed := none }
    k (s.setConn tr c) c

/-- A response, with it and its request in the transcript. -/
def State.spdmAnswer (s : State) (tr : Transport) (c : SpdmConn) (request : Bytes) (code : Nat) (fields : Bytes) : State :=
  (s.setConn tr { c with transcript := c.transcript ++ request ++ Config.encodeMessage code fields }).tell code fields

/-- Versions 1.2 and 1.3; the connection starts anew. -/
def execGetVersion (tr : Transport) (s : State) : Host.Outcome State Fault Refusal :=
  .next (s.spdm tr 0 fun s _ => s.spdmAnswer tr { stage := 1 } [0x10, 0x84, 0, 0] spdmVersion [0x12, 0x13])

def execGetCapabilities (tr : Transport) (s : State) : Host.Outcome State Fault Refusal :=
  .next (s.spdm tr 1 fun s c => s.spdmAnswer tr { c with stage := max 2 c.stage } [0x12, 0xE1, 0, 0] spdmCapabilities [])

/-- The algorithms of R520. -/
def execNegotiateAlgorithms (tr : Transport) (s : State) : Host.Outcome State Fault Refusal :=
  .next (s.spdm tr 2 fun s c => s.spdmAnswer tr { c with stage := 3 } [0x12, 0xE3, 0, 0] spdmAlgorithms [])

/-- Digest of the chain of slot 0. -/
def execGetDigests (tr : Transport) (s : State) : Host.Outcome State Fault Refusal :=
  .next (s.spdm tr 3 fun s c => s.spdmAnswer tr c [0x12, 0x81, 0, 0] spdmDigests ([1] ++ sha384 Config.rsaChain))

/-- A portion of the RSA chain in slot 0. -/
def State.certificate (s : State) (tr : Transport) (slot offset len : Nat) : State :=
  s.spdm tr 3 fun s c =>
    if slot ≠ 0 ∨ Config.rsaChain.length ≤ offset then s.spdmErr errInvalid
    else s.spdmAnswer tr c ([0x12, 0x82, BitVec.ofNat 8 slot, 0] ++ leBytes 2 offset ++ leBytes 2 len) spdmCertificate
        (slice Config.rsaChain offset (min len (Config.rsaChain.length - offset)))

def execGetCertificate (tr : Transport) (slot : BitVec 8) (offset len : BitVec 16) (s : State) : Host.Outcome State Fault Refusal :=
  .next (s.certificate tr slot.toNat offset.toNat len.toNat)

/-- A signed response: its RSA signature covers the transcript hash, which a COSIGN that follows covers too (R522). -/
def State.spdmSigned (s : State) (tr : Transport) (c : SpdmConn) (request : Bytes) (code : Nat) (fields : Bytes) : State :=
  let t := c.transcript ++ request ++ Config.encodeMessage code fields
  let h := Config.transcriptHash t
  let sig := Config.rsaSign h s.fresh
  ({ s.setConn tr { c with transcript := t, signed := some h } with fresh := s.fresh + 1 } : State).tell code (fields ++ sig)

/-- Each attestation request counts (R523). -/
def State.attested (s : State) (tr : Transport) : State := if s.carries tr then s.bump pgSec F.SEC_ATT_CNT else s

def execChallenge (tr : Transport) (request : Bytes) (s : State) : Host.Outcome State Fault Refusal :=
  .next ((s.attested tr).spdm tr 3 fun s c =>
    let nonce := Config.random s.fresh 32
    ({ s with fresh := s.fresh + 1 } : State).spdmSigned tr c request spdmChallengeAuth (sha384 Config.rsaChain ++ nonce))

/-! ### Measurements (R524) -/

/-- The signed message of an image (R497). -/
def signedMessage (image : Bytes) : Bytes := image.take (leNat (slice image 76 4))

/-- The security segment of an image (R497). -/
def securitySegment (image : Bytes) : Bytes :=
  let n := leNat (slice image 6 2)
  match (List.range n).find? fun k => decide (leNat (slice image (128 + 16 * k) 1) = 0) with
  | some k => slice image (leNat (slice image 20 4) + leNat (slice image (132 + 16 * k) 4)) (leNat (slice image (136 + 16 * k) 4))
  | none => []

/-- Bindings of R525, cores first and the PCIe host last. -/
def State.bindings (s : State) : List Nat :=
  ((List.range 16).flatMap fun k => [s.rf pgSec (F.SEC_CORE_TENANT_BOUND k), s.rf pgSec (F.SEC_CORE_TENANT_TENANT k)]) ++
    [s.rf pgSec F.SEC_HOST_TENANT_BOUND, s.rf pgSec F.SEC_HOST_TENANT_TENANT]

/-- Indices of the measurement blocks. -/
def blockIndices : List Nat := [1, 2, 3, 4, 5, 6, 7] ++ (List.range 8).map (16 + ·)

/-- A measurement block. -/
def State.block (s : State) (i : Nat) : Bytes :=
  let staged := decide (s.rf pgFwld F.FWLD_STAT_STATE = 4)
  match i with
  | 1 => sha384 (Config.bootRom ++ securitySegment s.fw.image)
  | 2 => match Config.record with
    | some r => sha384 (r.take (leNat (slice r 540 4)))
    | none => zeros 48
  | 3 => sha384 (signedMessage s.fw.image)
  | 4 => if staged then sha384 (signedMessage s.fw.next) else zeros 48
  | 5 => sized 4 (Config.rawBlock 5 4 ([F.SEC_CONF_STAT_CONF_ACTIVE, F.SEC_CONF_STAT_DEBUG_LOCKED, F.SEC_CONF_STAT_CONF_TENANTS, F.SEC_DBG_CTRL_DBG_EN,
      F.SEC_DBG_CTRL_TRACE_EN, F.SEC_DBG_CTRL_STEP_EN].map (s.rf pgSec)))
  | 6 => sized 20 (Config.rawBlock 6 20 s.bindings)
  | 7 => leBytes 4 (match s.validRecord with
      | some r => leNat (slice r 4 4)
      | none => 0) ++ leBytes 4 (s.rf pgFwld F.FW_VER) ++ leBytes 4 (s.rf pgFwld F.FW_IFACE_VER)
  | n =>
    let p := n - 16
    sha384 (Config.rawBlock n 0 ([s.partState p, s.partTenant p, s.partGen p] ++ (s.pd p ++ s.baseWd p).map (·.toNat)))

/-- GET_MEASUREMENTS: byte 3 of the request names a block, 0xFF all of them, 0 their number. -/
def State.measure (s : State) (tr : Transport) (isSigned : Bool) (request : Bytes) : State :=
  (s.attested tr).spdm tr 3 fun s c =>
    let op := (request.getD 3 0).toNat
    let one (i : Nat) : Bytes := [BitVec.ofNat 8 i] ++ leBytes 2 (s.block i).length ++ s.block i
    let body : Option Bytes :=
      if op = 0 then some [BitVec.ofNat 8 blockIndices.length]
      else if op = 0xFF then some (blockIndices.flatMap one)
      else if blockIndices.contains op then some (one op)
      else none
    match body with
    | none => s.spdmErr errInvalid
    | some b => if isSigned then s.spdmSigned tr c request spdmMeasurements b else s.spdmAnswer tr c request spdmMeasurements b

def execGetMeasurements (tr : Transport) (signed : Bool) (request : Bytes) (s : State) : Host.Outcome State Fault Refusal :=
  .next (s.measure tr signed request)

/-! ### Sessions (R520, R521) -/

def State.session (s : State) (i : Nat) : Option SpdmSession := Tab.at s.sec.sessions i none

def State.setSession (s : State) (i : Nat) (x : Option SpdmSession) : State := s.setSec { s.sec with sessions := Tab.set s.sec.sessions i none x }

/-- The number of a session, or of an event that R521 orders. -/
def State.nextOrder (s : State) : State × Nat := (s.setSec { s.sec with order := s.sec.order + 1 }, s.sec.order + 1)

/-- KEY_EXCHANGE opens a session, at most four. -/
def State.openSession (s : State) (tr : Transport) (request : Bytes) : State :=
  s.spdm tr 3 fun s c =>
    match (List.range 4).find? fun i => (s.session i).isNone with
    | none => s.spdmErr errBusy
    | some i =>
      let (s, n) := s.nextOrder
      let s := s.setSession i (some { id := n, doe := decide (tr = .doe) })
      let fields := [BitVec.ofNat 8 i] ++ Config.random s.fresh 32 ++ Config.ephemeralKey s.fresh
      let s := { s with fresh := s.fresh + 1 }
      let t := c.transcript ++ request ++ Config.encodeMessage spdmKeyExchange fields
      let sig := Config.rsaSign (Config.transcriptHash t) s.fresh
      ({ s.setConn tr { c with transcript := t } with fresh := s.fresh + 1 } : State).tell spdmKeyExchange (fields ++ sig)

def execKeyExchange (tr : Transport) (request : Bytes) (s : State) : Host.Outcome State Fault Refusal := .next (s.openSession tr request)

def SpdmSession.transport (x : SpdmSession) : Transport := if x.doe then .doe else .mctp

/-- A request within a session. -/
def State.within (s : State) (i : Nat) (k : State → SpdmSession → State) : State :=
  match s.session i with
  | none => s.spdmErr errInvalid
  | some x => s.spdm x.transport 3 fun s _ => k s x

/-- FINISH completes a session; over DOE it takes the tenant of the PCIe host. -/
def State.finish (s : State) (i : Nat) : State :=
  s.within i fun s x =>
    if x.finished then s.spdmErr errUnexpected
    else
      let (s, n) := s.nextOrder
      (s.setSession i (some { x with finished := true, order := n, tenant := if x.doe then s.agentTenant .pcie else none })).tell spdmFinish []

def execFinish (session : Fin 4) (s : State) : Host.Outcome State Fault Refusal := .next (s.finish session)

def execEndSession (session : Fin 4) (s : State) : Host.Outcome State Fault Refusal :=
  .next (s.within session fun s _ => (s.setSession session none).tell spdmEndSession [])

/-- Some agent is bound to the tenant (R525). -/
def State.tenantBound (s : State) (t : Nat) : Bool :=
  decide (s.agentTenant .pcie = some t) || (List.finRange 16).any fun k => decide (s.agentTenant (.app k) = some t)

/-- TENANT_ATTACH. -/
def State.attach (s : State) (i t : Nat) : State :=
  s.within i fun s x =>
    if !x.finished || x.tenant.isSome || !s.tenantBound t then s.spdmErr errInvalid
    else
      let (s, n) := s.nextOrder
      (s.setSession i (some { x with tenant := some t, order := n })).tell spdmVendor [0x02]

def execTenantAttach (session : Fin 4) (tenant : Fin 8) (s : State) : Host.Outcome State Fault Refusal := .next (s.attach session tenant)

/-- The open session of a tenant whose FINISH or TENANT_ATTACH completed last (R521). -/
def State.sessionOf (s : State) (t : Nat) : Option SpdmSession :=
  (List.range 4).foldl (fun b i =>
    match s.session i, b with
    | some x, some y => if x.finished ∧ x.tenant = some t ∧ y.order < x.order then some x else some y
    | some x, none => if x.finished ∧ x.tenant = some t then some x else none
    | none, b => b) none

/-! ### COSIGN (R522) -/

/-- COSIGN directly after a signed response starts the SLH-DSA signature over the same hash. -/
def State.cosignReq (s : State) (tr : Transport) : State :=
  let h := (s.sec.conn tr).signed
  s.spdm tr 3 fun s c =>
    match h with
    | none => s.spdmErr errUnexpected
    | some h => (s.setConn tr { c with cosign := some h, ready := false }).spdmErr errNotReady

def execCosign (tr : Transport) (s : State) : Host.Outcome State Fault Refusal := .next (s.cosignReq tr)

def execCosignSignDone (tr : Transport) (s : State) : Host.Outcome State Fault Refusal :=
  .next (if (s.sec.conn tr).cosign.isSome then s.setConn tr { s.sec.conn tr with ready := true } else s)

/-- The signature and the SLH-DSA chain, once signing is done. -/
def State.respond (s : State) (tr : Transport) : State :=
  s.spdm tr 3 fun s c =>
    match c.cosign with
    | none => s.spdmErr errUnexpected
    | some h =>
      if c.ready then (s.setConn tr { c with cosign := none, ready := false }).tell spdmVendor ([0x01] ++ Config.slhSign h s.fresh ++ Config.slhChain)
      else s.spdmErr errNotReady

def execRespondIfReady (tr : Transport) (s : State) : Host.Outcome State Fault Refusal := .next (s.respond tr)

/-- The request that a relayed message carries, by its SPDM code (R550; DSP0274). Requests that stand only within a session, and codes that
R520 does not list, are unexpected. -/
def State.relay (s : State) (m : Bytes) : Host.Outcome State Fault Refusal :=
  let at2 (o : Nat) : BitVec 16 := BitVec.ofNat 16 (leNat (slice m o 2))
  match (m.getD 1 0).toNat with
  | 0x84 => execGetVersion .mctp s
  | 0xE1 => execGetCapabilities .mctp s
  | 0xE3 => execNegotiateAlgorithms .mctp s
  | 0x81 => execGetDigests .mctp s
  | 0x82 => execGetCertificate .mctp (m.getD 2 0) (at2 4) (at2 6) s
  | 0x83 => execChallenge .mctp m s
  | 0xE0 => execGetMeasurements .mctp ((m.getD 2 0).getLsbD 0) m s
  | 0xE4 => execKeyExchange .mctp m s
  | 0xFE => execCosign .mctp s
  | 0xFF => execRespondIfReady .mctp s
  | _ => .next (s.spdm .mctp 0 fun s _ => s.spdmErr errUnexpected)

def execSpdmRelay (request : Bytes) (s : State) : Host.Outcome State Fault Refusal := s.relay request

/-! ### Confidential mode (R527, R528) -/

def State.confTenants (s : State) : Nat := s.rf pgSec F.SEC_CONF_STAT_CONF_TENANTS

/-- GO in SEC_CONF_REQ. -/
def State.confReq (s : State) (a : Agent) : State :=
  match s.agentTenant a with
  | none => s.raise pgSec F.SEC_ERR_STAT_CONF_DENIED
  | some t =>
    if (List.range 16).any fun p => s.rf (pgFh p) F.FH_CTRL_TENANT = t && s.rf (pgFh p) F.FH_CTRL_MACSEC_MODE = 0 then
      s.raise pgSec F.SEC_ERR_STAT_CONF_DENIED
    else
      let was := s.confidential
      let s := s.wf pgSec F.SEC_CONF_STAT_CONF_TENANTS (s.confTenants ||| 2 ^ t)
      if was then s
      else
        let s := ((s.wf pgSec F.SEC_DBG_CTRL_DBG_EN 0).wf pgSec F.SEC_DBG_CTRL_TRACE_EN 0).wf pgSec F.SEC_DBG_CTRL_STEP_EN 0
        let s := (s.wf pgSec F.SEC_CONF_STAT_DEBUG_LOCKED 1).wf pgSec F.SEC_CONF_STAT_CONF_ACTIVE 1
        s.setSec { s.sec with coarse := [] }

/-- A write to the SEC page: one of the management controller is ignored (R538). -/
def State.secWrite (s : State) (a : Agent) (off : Nat) (k : State → State) : State :=
  s.onReady a pgSec off fun s => if a = .mgmt then s else k s

def execSecConfReq (a : Agent) (s : State) : Host.Outcome State Fault Refusal :=
  .next (s.secWrite a F.SEC_CONF_REQ.off fun s => s.confReq a)

/-- A write of SEC_DBG_CTRL. -/
def State.wrDbg (s : State) (v : Word) : State :=
  if s.confidential then s.raise pgSec F.SEC_ERR_STAT_DBG_DENIED
  else ((s.wf pgSec F.SEC_DBG_CTRL_DBG_EN (F.SEC_DBG_CTRL_DBG_EN.of v)).wf pgSec F.SEC_DBG_CTRL_TRACE_EN (F.SEC_DBG_CTRL_TRACE_EN.of v)).wf
    pgSec F.SEC_DBG_CTRL_STEP_EN (F.SEC_DBG_CTRL_STEP_EN.of v)

def execSecDbgCtrl (a : Agent) (v : Word) (s : State) : Host.Outcome State Fault Refusal :=
  .next (s.secWrite a F.SEC_DBG_CTRL_DBG_EN.off fun s => s.wrDbg v)

/-! ### Granules (R529) -/

def State.setGran (s : State) (g : Nat) (x : Granule) : State := { s with grans := Tab.set s.grans g {} x }

def Granule.word (x : Granule) : Word := BitVec.ofNat 32 (x.tenant % 8 + 8 * x.owned.toNat + 2 ^ 29 * x.zeroing.toNat)

/-- A granule that R529 protects. -/
def State.granHeld (s : State) (x : Granule) : Bool := s.confidential && x.owned && s.confTenants.testBit x.tenant

/-- A write of a granule's owner entry; none for an agent that may not write it. -/
def State.wrGranule (s : State) (a : Agent) (g : Nat) (v : Word) : Option State :=
  if !agentIsFw a then none
  else
    let x := s.granule g
    let t := bits v.toNat 2 0
    let own := v.getLsbD 3
    if x.zeroing then some s
    else if s.granHeld x then
      if v.getLsbD 30 then
        if (List.range 8).all fun p => decide (s.partState p = 0) || decide (s.partTenant p ≠ x.tenant) then some (s.setGran g { x with zeroing := true })
        else some s
      else if t = x.tenant ∧ own = x.owned then some s
      else some (s.raise pgSec F.SEC_ERR_STAT_DRAM_DENIED)
    else some (s.setGran g { x with tenant := t, owned := own })

/-- A write to an indirect address that its agent may not make. -/
def State.indDenied (s : State) (g : Nat) : State := s.raise g F.IND_STAT_IND_ERR

def execGranuleRelease (a : Agent) (g : Fin 512) (s : State) : Host.Outcome State Fault Refusal :=
  .next (s.secWrite a F.IND_DATA.off fun s => (s.wrGranule a g ((s.granule g).word ||| 0x40000000)).getD (s.indDenied pgSec))

/-- The zeroing ends: the granule reads zeros and its entry is 0. -/
def State.granZeroed (s : State) (g : Nat) : State :=
  let x := s.granule g
  if !x.zeroing then s
  else
    let s := s.setGran g {}
    let lo := g * 0x400_0000
    { s.zeroMem lo (lo + 0x400_0000) with dramPoison := Tab.clear s.dramPoison (lo / 64) ((lo + 0x400_0000) / 64) }

def execGranuleZeroDone (g : Fin 512) (s : State) : Host.Outcome State Fault Refusal := .next (s.granZeroed g)

/-! ### Key requests (R534) -/

/-- GO in SEC_KREQ_CMD. -/
def State.kreqGo (s : State) (a : Agent) : State :=
  if s.bit pgSec F.SEC_KREQ_CMD_KREQ_BUSY then s.raise pgSec F.SEC_ERR_STAT_KREQ_BAD
  else
    let addr := s.rf pgSec F.SEC_KREQ_HI * 2 ^ 32 + s.rf pgSec F.SEC_KREQ_LO * 64
    (s.wf pgSec F.SEC_KREQ_CMD_KREQ_BUSY 1).setSec { s.sec with kreq := some (s.agentTenant a, addr) }

def execKeyRequest (a : Agent) (s : State) : Host.Outcome State Fault Refusal :=
  .next (s.secWrite a F.SEC_KREQ_CMD_GO.off fun s => s.kreqGo a)

/-- A record whose fields are not those of the table. -/
def keyMalformed (r : Bytes) : Bool :=
  let b (i : Nat) : Nat := (r.getD i 0).toNat
  let kind := b 0
  let target := decide (kind ≠ 3) && decide (15 < b 1)
  let sc := decide (kind = 2) && decide (15 < b 3)
  let rsvd := slice r 5 3 ≠ zeros 3 || slice r 73 55 ≠ zeros 55
  let clear := decide (b 4 = 0) && (slice r 60 12 ≠ zeros 12 || (kind = 3 && slice r 48 12 ≠ zeros 12))
  kind = 0 || decide (3 < kind) || target || decide (3 < b 2) || sc || decide (1 < b 4) || rsvd || clear

/-- The label "JM640 KWK". -/
def kwkLabel : Bytes := [0x4A, 0x4D, 0x36, 0x34, 0x30, 0x20, 0x4B, 0x57, 0x4B]

/-- The key and salt of a record: 44 bytes, or none where it is wrapped and does not unwrap under the requester's session. -/
def State.keyOf (s : State) (r : Bytes) (tenant : Option Nat) : Option Bytes :=
  if (r.getD 4 0).toNat = 0 then some (slice r 16 44)
  else
    match tenant.bind s.sessionOf with
    | none => none
    | some x =>
      match Config.keyUnwrap (Config.hkdf (Config.exportSecret x.id) [] kwkLabel 32) (slice r 16 56) with
      | some k => if slice k 44 4 = zeros 4 then some (k.take 44) else none
      | none => none

/-- Words of a run of bytes to consecutive places of a table. -/
def putWords (t : Tab Word) (i : Nat) (bs : Bytes) : Tab Word :=
  (List.range ((bs.length + 3) / 4)).foldl (fun t k => Tab.set t (i + k) 0 (BitVec.ofNat 32 (leNat (slice bs (4 * k) 4)))) t

/-- A key goes to its association, or to the rank PSK. -/
def State.installKey (s : State) (r key : Bytes) : State :=
  let p := (r.getD 1 0).toNat
  let an := (r.getD 2 0).toNat
  let x := s.fh p
  match (r.getD 0 0).toNat with
  | 1 => s.setFh p { x with macsec := putWords (putWords x.macsec (txAssoc an) (key.take 44)) (txAssoc an + 0xC) (slice r 8 8) }
  | 2 =>
    let i := rxAssoc (r.getD 3 0).toNat an
    s.setFh p { x with macsec := putWords (putWords x.macsec i (key.take 44)) (i + 0xB) (slice r 8 8) }
  | _ => s.setSec { s.sec with words := putWords s.sec.words 0x200 (key.take 32) }

/-- STATUS of a request: a port of a confidential tenant takes wrapped keys from that tenant alone. -/
def State.keyDenied (s : State) (r : Bytes) (tenant : Option Nat) : Bool :=
  let t := s.rf (pgFh (r.getD 1 0).toNat) F.FH_CTRL_TENANT
  (r.getD 0 0).toNat ≠ 3 && s.confTenants.testBit t && !(decide (tenant = some t) && decide ((r.getD 4 0).toNat = 1))

/-- The security core ends the request: it installs or refuses the key, clears the key bytes and writes STATUS. -/
def State.keyDone (s : State) : State :=
  match s.sec.kreq with
  | none => s
  | some (tenant, addr) =>
    let s := (s.wf pgSec F.SEC_KREQ_CMD_KREQ_BUSY 0).setSec { s.sec with kreq := none }
    if !(decide (addr + 128 ≤ dramSize) && s.chanReady addr) then (s.unmapped 1 addr false).raise pgSec F.SEC_ERR_STAT_KREQ_BAD
    else
      let r := s.rdBytes addr 128
      let poisoned := s.dramPoisonAt addr || s.dramPoisonAt (addr + 64)
      let (s, status) :=
        if poisoned || keyMalformed r then (s, 4)
        else if s.keyDenied r tenant then (s, 2)
        else match s.keyOf r tenant with
          | some k => (s.installKey r k, 1)
          | none => (s, 3)
      let s := s.wrBytes (addr + 16) (zeros 56 ++ [BitVec.ofNat 8 status])
      if status = 1 then s.bump pgSec F.SEC_KEY_CNT else s.raise pgSec F.SEC_ERR_STAT_KREQ_BAD

def execKeyRequestDone (s : State) : Host.Outcome State Fault Refusal := .next s.keyDone

/-! ### Shroud authentication (R535) -/

/-- Bytes of an allow-list entry, and whether it is valid. -/
def State.allowed (s : State) (h : BitVec 384) : Bool :=
  (List.range 16).any fun e =>
    let w (k : Nat) : Word := Tab.at s.sec.words (0x100 + 16 * e + k) 0
    (w 12).getLsbD 0 && decide ((List.range 12).flatMap (fun k => leBytes 4 (w k).toNat) = leBytes 48 h.toNat)

/-- What an end sends: chains, position and ephemeral key. -/
def helloBytes (chains : Bytes) (pos : Nat) (pub : Bytes) : Bytes := chains ++ [BitVec.ofNat 8 pos] ++ pub

/-- The peer passes every step. -/
def State.peerOk (s : State) (p : PeerHello) (h : Bytes) : Bool :=
  let keys := Config.chainKeys p.chains
  Config.chainOk p.chains p.devKeyHash && (!s.bit pgSec F.SEC_CTRL_ALLOW_EN || s.allowed p.devKeyHash) &&
    Config.rsaOk keys.1 h (p.signature.take 384) && Config.slhOk keys.2 h (slice p.signature 384 16224)

/-- The exchange of a link in AUTH ends. -/
def State.authenticate (s : State) (l : Nat) (p : PeerHello) : State :=
  if s.shrState l ≠ 2 || !s.shrEn l || !s.bit pgSec F.SEC_ID_STAT_ID_VALID then s
  else
    let mine := helloBytes (Config.rsaChain ++ Config.slhChain) s.rankPos (Config.ephemeralKey s.fresh)
    let theirs := helloBytes p.chains p.pos p.pubKey
    let h := if s.rankPos < p.pos.val then Config.linkTranscript mine theirs else Config.linkTranscript theirs mine
    let s := { s with fresh := s.fresh + 1 }
    if s.peerOk p h then
      let psk := if s.bit pgSec F.SEC_CTRL_PSK_EN then (List.range 8).flatMap fun k => leBytes 4 (Tab.at s.sec.words (0x200 + k) (0 : Word)).toNat else []
      s.shrKeyed l p.pos (Config.hkdf (leBytes 48 p.sharedSecret.toNat ++ psk) h [] 48)
    else
      let s := s.setShrState l 1
      (s.fault pgSec F.SEC_ERR_STAT_PEER_REJECT 9).bump pgSec F.SEC_PEER_REJECT_CNT

def execShroudAuth (l : Fin 8) (peer : PeerHello) (s : State) : Host.Outcome State Fault Refusal := .next (s.authenticate l peer)

/-! ### The indirect space of SEC (R537) -/

def secWordDefined (i : Nat) : Bool := decide (0x100 ≤ i) && decide (i < 0x200) && decide (i % 16 < 13)

/-- The rank PSK reads 0, as keys do (R424). -/
def secIndRead (s : State) (i : Nat) : Option Word :=
  if secWordDefined i then some (Tab.at s.sec.words i 0)
  else if 0x200 ≤ i ∧ i < 0x208 then some 0
  else if 0x400 ≤ i ∧ i < 0x600 then some (s.granule (i - 0x400)).word
  else none

def secIndWrite (s : State) (a : Agent) (i : Nat) (v : Word) : Option State :=
  if secWordDefined i then
    match a with
    | .app _ | .pcie => some (s.setSec { s.sec with words := Tab.set s.sec.words i 0 (if i % 16 = 12 then v &&& 1 else v) })
    | _ => none
  else if 0x200 ≤ i ∧ i < 0x208 then
    (if a = .fw 0 then some (s.setSec { s.sec with words := Tab.set s.sec.words i 0 v }) else none)
  else if 0x400 ≤ i ∧ i < 0x600 then s.wrGranule a (i - 0x400) v
  else none

end Sys2Proof.Machine
end

