-- ==== Sys2Proof/Machine/Firmware.lean ====
section
/-! DEFINITION. The firmware as the device shows it: loading and live update, restarts and health, the emulated registers behind their trap
unit, driver loss and the servo's STEP (R491 to R514). -/

namespace Sys2Proof.Machine

/-! ### Access codes (R13) -/

/-- What a write leaves in a word, field by field: RW stores, W1C clears, W1S sets, and the rest stays. -/
def writtenWord (rows : List FieldRow) (old v : Word) : Word :=
  rows.foldl (fun w r =>
    let x := bits v.toNat r.hi r.lo
    let o := bits w.toNat r.hi r.lo
    match r.acc with
    | .rw => putBits w r.hi r.lo x
    | .w1c => putBits w r.hi r.lo (o - (o &&& x))
    | .w1s => putBits w r.hi r.lo (o ||| x)
    | .ro | .wo | .rc => w) old

/-- A write to a register that has no behaviour of its own. -/
def State.plainWrite (s : State) (g off : Nat) (v : Word) : State := s.setWord g off (writtenWord (rowsAt g off) (s.word g off) v)

/-- What a read returns of a word: WO fields read 0. -/
def readWord (rows : List FieldRow) (w : Word) : Word :=
  rows.foldl (fun w r => if r.acc = .wo then putBits w r.hi r.lo 0 else w) w

/-- RC fields of a register return to 0 after a read. -/
def State.clearRead (s : State) (g off : Nat) : State :=
  if (rowsAt g off).any fun r => decide (r.acc = .rc) then
    s.setWord g off ((rowsAt g off).foldl (fun w r => if r.acc = .rc then putBits w r.hi r.lo 0 else w) (s.word g off))
  else s

/-! ### Components (R491 to R496) -/

def State.setFw (s : State) (x : FwSt) : State := { s with fw := x }

def State.setHealth (s : State) (k : Nat) (h : Health) : State := s.setFw { s.fw with health := Tab.set s.fw.health k {} h }

def State.fwldState (s : State) : Nat := s.rf pgFwld F.FWLD_STAT_STATE
def State.setFwld (s : State) (v : Nat) : State := s.wf pgFwld F.FWLD_STAT_STATE v
def State.pooled (s : State) : Bool := s.bit pgFwld F.FWLD_TOPO

/-- Restarts of an entry within the last second. -/
def State.restarts (s : State) (h : Health) : List Nat := h.restarts.filter fun t => decide (s.ticks < t + 625000000)

/-- A component is stopped to restart, or halted at its third restart within a second. -/
def State.restart (s : State) (k cause : Nat) : State :=
  let h := s.health k
  if h.state = 0 ∨ h.state = 3 then s
  else
    let ts := s.ticks :: s.restarts h
    let s := (s.bump pgFwld F.FW_RESTART_CNT).fault pgFwld F.FWLD_ERR_STAT_WDT_RESTART 8
    if 3 ≤ ts.length then (s.setHealth k { state := 3, restarts := ts, cause := cause }).post pgFwld fldNone 8 0 0
    else s.setHealth k { state := 2, restarts := ts, cause := cause }

/-! ### Emulated pages (R501 to R503) -/

def pgEmu (i : Nat) : Nat := 0xB000 + i

/-- Owner of an emulated page. -/
def emuOwner (i : Nat) : Nat := if i = 0 then 0 else if i = 1 then 2 else 1

/-- The owner serves its page: the security component but for a restart, the others while they run outside a handoff. -/
def State.served (s : State) (i : Nat) : Bool :=
  if i = 0 then decide ((s.health 0).state < 2) else s.fwRuns (emuOwner i) && decide (s.fwldState ≠ 5)

/-! ### The image (R497, R498) -/

/-- Whether an address range is readable DRAM, and what it reads. -/
def State.imageReadable (s : State) (a n : Nat) : Bool :=
  decide (a + n ≤ dramSize) && (List.range (ceilDiv n 64)).all fun i => !s.dramPoisonAt (a + 64 * i) && s.chanReady (a + 64 * i)

/-- Bytes of a range; outside DRAM all ones. -/
def State.imageBytes (s : State) (a n : Nat) : Bytes :=
  (List.range n).map fun i => if a + i < dramSize ∧ s.chanReady (a + i) then s.rdByte (a + i) else 0xFF

/-- Segment entry `k`: class, topology mask, reserved bytes, offset, length. -/
def segment (im : Bytes) (k : Nat) : Nat × Nat × Nat × Nat × Nat :=
  let b := 128 + 16 * k
  (leNat (slice im b 1), leNat (slice im (b + 1) 1), leNat (slice im (b + 2) 2), leNat (slice im (b + 4) 4), leNat (slice im (b + 8) 4))

/-- Check 1 of R498. -/
def imageShape (im : Bytes) : Bool :=
  let n := leNat (slice im 6 2)
  let bodyOff := leNat (slice im 20 4)
  let bodyLen := leNat (slice im 24 4)
  decide (leNat (slice im 0 4) = 0x52504641) && decide (leNat (slice im 4 2) = 1) && decide (1 ≤ n) && decide (n ≤ 16) &&
    decide (leNat (slice im 18 1) < 4) && decide (slice im 19 1 = zeros 1) && decide (slice im 80 48 = zeros 48) &&
    decide (128 + 16 * n ≤ im.length) && decide (bodyOff % 64 = 0) && decide (bodyOff + bodyLen ≤ im.length) &&
    decide (leNat (slice im 76 4) + 16608 ≤ im.length) &&
    (List.range n).all fun k =>
      let (_, _, rsvd, off, len) := segment im k
      decide (rsvd = 0) && decide (off + len ≤ bodyLen)

/-- Check 3: the topology and every class it needs. -/
def imageTopo (im : Bytes) (pooled : Bool) : Bool :=
  let has (c : Nat) : Bool := (List.range (leNat (slice im 6 2))).any fun k =>
    let (cls, mask, _, _, _) := segment im k
    decide (cls = c) && mask.testBit pooled.toNat
  (leNat (slice im 18 1)).testBit pooled.toNat && ([0, 1, 2, 3] ++ if pooled then [4] else []).all has

/-- Cause of an image's first failed check, 0 for none (R498). -/
def State.imageCause (s : State) (im : Bytes) (readable update : Bool) : Nat :=
  let sig := leNat (slice im 76 4)
  let msg := im.take sig
  if !imageShape im then 1
  else if leNat (slice im 8 4) < s.rf pgFwld F.FW_MIN_VER then 2
  else if !imageTopo im s.pooled then 3
  else if sha384 (slice im (leNat (slice im 20 4)) (leNat (slice im 24 4))) ≠ slice im 28 48 then 4
  else
    match s.validRecord with
    | none => 5
    | some r =>
      if !Config.rsaOk (slice r 88 388) msg (slice im sig 384) then 5
      else if !Config.slhOk (slice r 476 48) msg (slice im (sig + 384) 16224) then 6
      else if !readable then 7
      else if update && decide (leNat (slice s.fw.image 14 2) < leNat (slice im 16 2)) then 8
      else 0

/-- The image at FWLD_SRC is copied and checked; the outcome shows when the checks have ended. -/
def State.takeImage (s : State) (update : Bool) : State :=
  let a := s.rf pgFwld F.FWLD_SRC_HI * 2 ^ 32 + s.rf pgFwld F.FWLD_SRC_LO * 64
  let n := s.rf pgFwld F.FWLD_LEN
  if n < 256 ∨ 16 * 2 ^ 20 < n then s.setFw { s.fw with next := [], nextCause := 1, updating := update }
  else
    let im := s.imageBytes a n
    s.setFw { s.fw with next := im, nextCause := s.imageCause im (s.imageReadable a n) update, updating := update }

/-- LOAD (R498, R499). -/
def State.loadCmd (s : State) : State :=
  if s.fwldState ≠ 0 then s.raise pgFwld F.FWLD_ERR_STAT_LOAD_BUSY
  else
    let s := (s.setFwld 1).setFw { s.fw with topoLocked := true }
    s.takeImage false

/-- UPDATE (R505, R507): in RUNNING, or in STAGED, whose image it replaces. -/
def State.updateCmd (s : State) : State :=
  if s.fwldState = 3 ∨ s.fwldState = 4 then s.takeImage true else s.raise pgFwld F.FWLD_ERR_STAT_LOAD_BUSY

/-- The image that runs from now on. -/
def State.runImage (s : State) : State :=
  let im := s.fw.next
  let s := s.setFw { s.fw with image := im, next := [], updating := false }
  let s := (s.wf pgFwld F.FW_VER (leNat (slice im 8 4))).wf pgFwld F.FW_IFACE_VER (leNat (slice im 12 2))
  let s := (List.range 11).foldl (fun s k => s.setHealth k { s.health k with state := 1, restarts := [] }) s
  (s.setHealth 11 { s.health 11 with state := s.pooled.toNat }).setFwld 3

/-- The checks end. -/
def State.loadDone (s : State) : State :=
  let c := s.fw.nextCause
  if s.fw.updating then
    let s := s.setFw { s.fw with updating := false }
    if c = 0 then s.setFwld 4
    else (((s.setFw { s.fw with next := [] }).setFwld 3).wf pgFwld F.FWLD_STAT_CAUSE c).raise pgFwld F.FWLD_ERR_STAT_UPD_BAD
  else if s.fwldState = 1 ∨ s.fwldState = 2 then
    if c = 0 then s.runImage
    else (((s.setFw { s.fw with next := [] }).setFwld 0).wf pgFwld F.FWLD_STAT_CAUSE c).fault pgFwld F.FWLD_ERR_STAT_LOAD_BAD 8 0 0 (some c)
  else s

def execFwLoadDone (s : State) : Host.Outcome State Fault Refusal := .next s.loadDone

/-! ### FWCTL (R504, R508 to R510) -/

/-- A command of FWCTL_CMD (R509). -/
def State.fwctlCmd (s : State) (v : Word) : State :=
  let seq := F.FWCTL_CMD_SEQ.of v
  let c := F.FWCTL_CMD_CMD.of v
  if F.FWCTL_CMD_GO.of v = 0 ∨ seq = s.rf pgFwctl F.FWCTL_STAT_LAST_SEQ then s
  else if c = 0 ∨ c = 3 then s.raise pgFwctl F.FWCTL_ERR_STAT_CMD_BAD
  else
    let s := s.wf pgFwctl F.FWCTL_STAT_LAST_SEQ seq
    match c, s.fwState with
    | 1, 0 => s.park
    | 1, 3 => s.setFw { s.fw with detachHeld := true }
    | 2, 1 => s.setFw { s.fw with resumeHeld := true }
    | 2, 2 => s.resumeFrom
    | _, _ => s

/-- A write of FWCTL_IND_LOCK (R504): RELEASE first. -/
def State.wrIndLock (s : State) (v : Word) : State :=
  let s := if F.FWCTL_IND_LOCK_RELEASE.of v = 1 then s.wf pgFwctl F.FWCTL_IND_LOCK_HELD 0 else s
  let s := s.wf pgFwctl F.FWCTL_IND_LOCK_PAGE (F.FWCTL_IND_LOCK_PAGE.of v)
  if F.FWCTL_IND_LOCK_ACQUIRE.of v = 1 then s.wf pgFwctl F.FWCTL_IND_LOCK_HELD 1 else s

/-- The servo's STEP: time base 0 moves by the measured offset, toward the master (R510). -/
def State.servoStep (s : State) : State :=
  let d : Int := -sInt 32 (s.rf pgFwctl F.FWCTL_PTP_OFS)
  let sec := lowBits 48 (d / 1000000000)
  let g := pgTb 0
  let s := (s.wf g F.TB_STEP_SEC_HI (sec / 2 ^ 32)).wf g F.TB_STEP_SEC_LO (sec % 2 ^ 32)
  let s := (s.wf g F.TB_STEP_NS (d % 1000000000).toNat).wf g F.TB_STEP_FRAC 0
  s.wrTbStep 0 (BitVec.ofNat 32 (2 ^ F.TB_STEP_CMD_GO.lo + 2 ^ F.TB_STEP_CMD_MODE.lo))

/-- A write of FWCTL_PTP. -/
def State.wrPtp (s : State) (v : Word) : State :=
  let s := s.wf pgFwctl F.FWCTL_PTP_SERVO_EN (F.FWCTL_PTP_SERVO_EN.of v)
  if F.FWCTL_PTP_STEP_REQ.of v = 1 then s.servoStep else s

/-- A write that its owner applies. -/
def State.emuApply (s : State) (i off : Nat) (v : Word) : State :=
  match i, off with
  | 0, 0x040 =>
    let s := if F.FWLD_CMD_LOAD.of v = 1 then s.loadCmd else s
    if F.FWLD_CMD_UPDATE.of v = 1 then s.updateCmd else s
  | 0, 0x050 => if s.fw.topoLocked then s.raise pgFwld F.FWLD_ERR_STAT_TOPO_LOCKED else s.plainWrite pgFwld off v
  | 1, 0x040 => (s.plainWrite pgFwctl off v).setFw { s.fw with lease := s.tbNs 0 }
  | 1, 0x048 => s.fwctlCmd v
  | 1, 0x054 => s.wrIndLock v
  | 1, 0x058 => s.wrPtp v
  | _, _ => s.plainWrite (pgEmu i) off v

/-- A command after which its owner writes a checkpoint (R495). -/
def emuCommand (i off : Nat) : Bool := (i = 0 && off = 0x040) || (i = 1 && off = 0x048)

def State.emuQueue (s : State) (i : Nat) : List (Nat × Word) := Tab.at s.fw.queue i []
def State.setQueue (s : State) (i : Nat) (q : List (Nat × Word)) : State := s.setFw { s.fw with queue := Tab.set s.fw.queue i [] q }
def State.emuTrapped (s : State) (i : Nat) : List (Nat × Option Word) := Tab.at s.fw.trapped i []
def State.setTrapped (s : State) (i : Nat) (q : List (Nat × Option Word)) : State := s.setFw { s.fw with trapped := Tab.set s.fw.trapped i [] q }

/-- A running owner takes a write: it stays queued until a checkpoint covers it (R502). The boot ROM, before an image runs, keeps none. -/
def State.emuTake (s : State) (i off : Nat) (v : Word) : State :=
  let q := s.emuQueue i
  let q := if 8 ≤ q.length then [] else q
  let s := s.setQueue i (q ++ [(off, v)])
  let s := s.emuApply i off v
  if emuCommand i off || !s.fwRuns (emuOwner i) then s.setQueue i [] else s

/-- A write past the header, at its trap unit. -/
def State.emuPost (s : State) (i off : Nat) (v : Word) : State :=
  let q := s.emuQueue i
  if s.emuTrapped i = [] ∧ s.served i then s.emuTake i off v
  else if s.emuTrapped i = [] ∧ q.length < 8 ∧ s.fwldState ≠ 5 then s.setQueue i (q ++ [(off, v)])
  else s.setTrapped i (s.emuTrapped i ++ [(off, some v)])

/-- A write to an emulated register before the page is READY is handled under R42. -/
def State.emuWrite (s : State) (a : Agent) (i off : Nat) (v : Word) : State :=
  s.onReady a (pgEmu i) off fun s => s.emuPost i off v

/-- A read of an emulated register by a running owner. -/
def State.emuGet (s : State) (i off : Nat) : State :=
  let w := readWord (rowsAt (pgEmu i) off) (s.shownWord (pgEmu i) off)
  (s.clearRead (pgEmu i) off).answer (leBytes 4 w.toNat) false

/-- A read past the header. -/
def State.emuRead (s : State) (a : Agent) (i off : Nat) : State :=
  if !s.ready (pgEmu i) then (s.unmapped (agentCode a) (regAddr (pgEmu i) off) false).answer (ones 4) false
  else if s.emuTrapped i = [] ∧ s.served i then s.emuGet i off
  else s.setTrapped i (s.emuTrapped i ++ [(off, none)])

/-- A resumed owner applies what its last checkpoint does not cover, and then serves what has waited (R502, R506). -/
def State.emuServe (s : State) (i : Nat) : State :=
  if !s.served i then s
  else
    let q := s.emuQueue i
    let w := s.emuTrapped i
    let s := (s.setQueue i []).setTrapped i []
    let s := q.foldl (fun s e => s.emuTake i e.1 e.2) s
    w.foldl (fun s e => match e.2 with
      | some v => s.emuTake i e.1 v
      | none => s.emuGet i e.1) s

/-- The oldest access that waits is not served in time (R501). -/
def State.emuLate (s : State) (i : Nat) : State :=
  match s.emuTrapped i with
  | [] => s
  | (_, w) :: rest =>
    let s := (s.setTrapped i rest).irq (pgEmu i) 29
    if w.isSome then s else s.answer (ones 4) false

def execEmuTimeout (i : Fin 3) (s : State) : Host.Outcome State Fault Refusal := .next (s.emuLate i)

/-! ### Commands of FWLD and FWCTL -/

def execLoad (a : Agent) (s : State) : Host.Outcome State Fault Refusal := .next (s.emuWrite a 0 0x040 1)

def execUpdate (a : Agent) (s : State) : Host.Outcome State Fault Refusal := .next (s.emuWrite a 0 0x040 2)

def execFwldTopo (a : Agent) (v : Word) (s : State) : Host.Outcome State Fault Refusal := .next (s.emuWrite a 0 0x050 v)

def execFwctlHeartbeat (a : Agent) (v : Word) (s : State) : Host.Outcome State Fault Refusal := .next (s.emuWrite a 1 0x040 v)

/-- The scheduler component finds that no heartbeat has come within the lease. -/
def execLeaseExpire (s : State) : Host.Outcome State Fault Refusal :=
  .next (if s.fwRuns 2 && decide (s.fwState = 0) then
      ((s.raise pgFwctl F.FWCTL_ERR_STAT_LEASE_EXPIRED).bump pgFwctl F.FWCTL_LEASE_CNT).park
    else s)

/-- The word of a command with its SEQ. -/
def fwctlWord (cmd seq : Nat) : Word := BitVec.ofNat 32 (2 ^ 31 + seq * 256 + cmd)

def execDetach (a : Agent) (seq : BitVec 8) (s : State) : Host.Outcome State Fault Refusal := .next (s.emuWrite a 1 0x048 (fwctlWord 1 seq.toNat))

def execResume (a : Agent) (seq : BitVec 8) (s : State) : Host.Outcome State Fault Refusal := .next (s.emuWrite a 1 0x048 (fwctlWord 2 seq.toNat))

def execAcquire (a : Agent) (page : BitVec 16) (s : State) : Host.Outcome State Fault Refusal :=
  .next (s.emuWrite a 1 0x054 (BitVec.ofNat 32 (2 ^ 31 + page.toNat)))

def execIndLockRelease (a : Agent) (s : State) : Host.Outcome State Fault Refusal :=
  .next (s.emuWrite a 1 0x054 (BitVec.ofNat 32 (2 ^ 30 + s.rf pgFwctl F.FWCTL_IND_LOCK_PAGE)))

/-- A lock that has been held for 10 ms. -/
def execIndLockTimeout (s : State) : Host.Outcome State Fault Refusal :=
  .next (if s.fwRuns 2 && s.bit pgFwctl F.FWCTL_IND_LOCK_HELD then
      (s.wf pgFwctl F.FWCTL_IND_LOCK_HELD 0).raise pgFwctl F.FWCTL_ERR_STAT_IND_LOCK_TIMEOUT
    else s)

def execStepReq (a : Agent) (s : State) : Host.Outcome State Fault Refusal :=
  .next (s.emuWrite a 1 0x058 (BitVec.ofNat 32 (2 + s.rf pgFwctl F.FWCTL_PTP_SERVO_EN)))

/-- The new image is abandoned for the old one (R507). -/
def State.rollback (s : State) : State :=
  if s.fwldState ≠ 5 then s
  else
    let s := (List.range 10).foldl (fun s i => s.setHealth (i + 1) { s.health (i + 1) with state := 1, cause := 4 }) s
    let s := (s.setFw { s.fw with next := [] }).setFwld 3
    (((s.fault pgFwld F.FWLD_ERR_STAT_UPD_ROLLBACK 8).emuServe 0).emuServe 1).emuServe 2

/-! ### Restarts (R493 to R496) -/

/-- The watchdog of a core: the security core's, or any in the distributed topology. -/
def execFwWatchdogExpire (k : Fin 11) (s : State) : Host.Outcome State Fault Refusal :=
  .next (if k ≠ 0 ∧ s.pooled then s else if s.fwldState = 5 then s.rollback else s.restart k 1)

/-- The real-time kernel stops one component. -/
def execComponentProgressMiss (k : Fin 11) (domainFault : Bool) (s : State) : Host.Outcome State Fault Refusal :=
  .next (if k = 0 ∨ !s.pooled then s else s.restart k (if domainFault then 2 else 3))

/-- The watchdog over the complex: components 1 to 10 restart. -/
def State.complexExpire (s : State) : State :=
  if !s.pooled then s
  else if s.fwldState = 5 then s.rollback
  else if (s.health 11).state ≠ 1 then s
  else
    let s := s.setHealth 11 { state := 2, restarts := s.ticks :: s.restarts (s.health 11), cause := 1 }
    (List.range 10).foldl (fun s i => s.restart (i + 1) 1) s

def execComplexWatchdogExpire (s : State) : Host.Outcome State Fault Refusal := .next s.complexExpire

/-- A restarted component has reconciled its checkpoint and serves its page again. -/
def State.restartDone (s : State) (k : Nat) : State :=
  if (s.health k).state ≠ 2 then s
  else
    let s := s.setHealth k { s.health k with state := 1 }
    let s := if (s.health 11).state = 2 ∧ (List.range 10).all fun i => decide ((s.health (i + 1)).state ≠ 2) then
        s.setHealth 11 { s.health 11 with state := 1 } else s
    ((List.range 3).filter fun i => decide (emuOwner i = k)).foldl (fun s i => s.emuServe i) s

def execFwRestartDone (k : Fin 11) (s : State) : Host.Outcome State Fault Refusal := .next (s.restartDone k)

/-- A running component's checkpoint covers the writes that it has applied. -/
def execCheckpoint (k : Fin 11) (s : State) : Host.Outcome State Fault Refusal :=
  .next (if s.fwRuns k then ((List.range 3).filter fun i => decide (emuOwner i = k.val)).foldl (fun s i => s.setQueue i []) s else s)

/-! ### Live update (R506, R507) -/

/-- The conditions that a handoff boundary meets. -/
def State.mayHandoff (s : State) : Bool :=
  decide (s.fwldState = 4) && !s.fw.updating && s.clusters.all (fun e => decide (e.2.phase = .idle)) && s.mst.check.isNone &&
    (List.range 8).all (fun p => decide (s.partState p ≠ 2) && decide (s.partState p ≠ 4)) &&
    (decide (s.fwState = 0) || decide (s.fwState = 2))

def execHandoffStart (s : State) : Host.Outcome State Fault Refusal := .next (if s.mayHandoff then s.setFwld 5 else s)

/-- The new components have resumed. -/
def execHandoffDone (s : State) : Host.Outcome State Fault Refusal :=
  .next (if s.fwldState ≠ 5 then s
    else ((((s.runImage).bump pgFwld F.FW_UPD_CNT).emuServe 0).emuServe 1).emuServe 2)

def execUpdateRollback (s : State) : Host.Outcome State Fault Refusal := .next s.rollback

/-! ### Health (R511) -/

/-- An entry of the health table. -/
def fwldIndRead (s : State) (i : Nat) : Option Word :=
  if 12 ≤ i then none
  else
    let h := s.health i
    let hosted := s.pooled && decide (i ≠ 0)
    some (BitVec.ofNat 32 (h.state + 8 * hosted.toNat + 256 * min 255 (s.restarts h).length + 65536 * h.cause))

end Sys2Proof.Machine
end

