-- ==== Sys2Proof/Machine/Indirect.lean ====
section
/-! DEFINITION. Indirect access (R471 to R473): what every page reaches through IND_ADDR and IND_DATA, accesses that wait, and the limit of
R472. -/

namespace Sys2Proof.Machine

/-! ### What the floe's pages reach -/

/-- Codebook slots (R111). -/
def rimeIndRead (s : State) (f i : Nat) : Option Word :=
  let j := i / 0x1000
  let k := i % 0x1000
  if 8 ≤ j ∨ 128 ≤ k then none
  else if !s.bit (pgRime f) (F.RIME_CB_SLOT_VALID j) then some 0
  else
    let c := ((s.floe f).cb j).codes
    some (BitVec.ofNat 32 ((c.getD (2 * k) 0).toNat + 65536 * (c.getD (2 * k + 1) 0).toNat))

def smCode : SmKind → Nat
  | .f => 0
  | .i => 1
  | .q => 2

/-- Brash registers (R199). -/
def brashIndRead (s : State) (f i : Nat) : Option Word :=
  let c := s.core f
  if i < 0x1000 then some (BitVec.ofNat 32 (bits (Tab.at c.v (i / 128) 0).toNat (32 * (i % 128) + 31) (32 * (i % 128))))
  else if i < 0x1010 then
    let m := c.rsm ((i - 0x1000) / 2)
    some (if i % 2 = 0 then m.val else BitVec.ofNat 32 (m.poison.toNat + 2 * smCode m.kind))
  else if i = 0x1010 then some (BitVec.ofNat 32 c.vl)
  else if i = 0x1011 then
    some (BitVec.ofNat 32 (((List.range 32).map fun n => (Tab.at c.vPoison n false).toNat * 2 ^ n).foldl (· + ·) 0))
  else none

/-- Scalar registers (R199). -/
def coreIndRead (s : State) (f i : Nat) : Option Word := if i < 16 then some ((s.core f).rx i) else none

/-- Spar registers (R232). -/
def sparIndRead (s : State) (f i : Nat) : Option Word :=
  let p := s.spar f
  let w (n : Nat) : Option Word := some (BitVec.ofNat 32 n)
  if i < 8 then w (p.rt i)
  else if i = 0x10 then w p.a0.toNat
  else if i = 0x11 then w (p.a0.toNat / 2 ^ 32)
  else if i = 0x12 then w p.a1.toNat
  else if i = 0x13 then w (p.a1.toNat / 2 ^ 32)
  else if 0x20 ≤ i ∧ i < 0x28 then w (p.ptr (i - 0x20))
  else if 0x28 ≤ i ∧ i < 0x2C then w (Tab.at p.m (i - 0x28) 0)
  else if 0x2C ≤ i ∧ i < 0x30 then w (Tab.at p.b (i - 0x2C) 0)
  else if 0x30 ≤ i ∧ i < 0x34 then w (Tab.at p.l (i - 0x30) 0)
  else if i = 0x34 then w p.sr
  else none

/-- Window offset of the line whose tag an indirect address holds (R258). -/
def tagLine (i : Nat) : Option Nat :=
  if i < 0x2_0000 then some (64 * (i / 2))
  else if i < 0x2_8000 then some (0x40_0000 + 64 * ((i - 0x2_0000) / 2))
  else if 0x3_0000 ≤ i ∧ i < 0x3_0800 then some (0x59_0000 + 64 * ((i - 0x3_0000) / 2))
  else none

/-- A read of half a tag; the paths to a floe that is scrubbed are closed (R531). -/
def fmemIndRead (s : State) (f i : Nat) : Option Word :=
  (tagLine i).map fun off =>
    if s.floeClosed f then 0xFFFF_FFFF
    else BitVec.ofNat 32 (bits (s.tagAt (floeBase f + off)).toNat (32 * (i % 2) + 31) (32 * (i % 2)))

/-- A write of half a tag, by the rules of R246 for its region; the flag of the refusal, and none where nothing is written. -/
def State.fmemIndWrite (s : State) (a : Agent) (f i : Nat) (v : Word) : State × Bool :=
  match tagLine i with
  | none => (s, false)
  | some off =>
    if s.windowOk a f (regionOf f off) true then
      let t := (s.tagAt (floeBase f + off)).toNat
      let lo := 32 * (i % 2)
      (s.setTag (floeBase f + off) (BitVec.ofNat 64 (t - bits t (lo + 31) lo * 2 ^ lo + v.toNat * 2 ^ lo)), true)
    else (s.windowDeny f, false)

/-! ### Interrupt aggregation (R479) -/

/-- The lowest page whose line is high and goes to a vector. -/
def State.lowestPage (s : State) (v : Nat) : Option Nat := ((s.routed v).filter s.line).min?

def iaggIndRead (s : State) (i : Nat) : Option Word :=
  if i < 65536 then some (BitVec.ofNat 32 (Tab.at s.iagg.routes i 0))
  else if i < 65536 + 64 then some (match s.lowestPage (i - 65536) with
    | some g => BitVec.ofNat 32 (g + 2 ^ 31)
    | none => 0)
  else none

/-! ### Every page (R471) -/

/-- Pages whose indirect reads return all ones in confidential mode: as each page states, and the codebooks and tags of a partition's floe (R528). -/
def State.indHidden (s : State) (g : Nat) : Bool :=
  s.confidential && match pageOf g with
    | some (.floe, _) | some (.brash, _) | some (.spar, _) | some (.hal, _) | some (.serac, _) | some (.det, _) | some (.fh, _)
    | some (.shr, _) => true
    | some (.rime, f) | some (.fmem, f) => (s.floePart f).isSome
    | _ => false

/-- Register files that cannot be read while their unit is busy (R199, R232). -/
def State.indBusy (s : State) (g : Nat) : Bool :=
  match pageOf g with
  | some (.floe, _) | some (.brash, _) | some (.spar, _) => s.pageBusy g
  | _ => false

/-- The word at an indirect address; none where it is unpopulated. -/
def State.indWord (s : State) (g i : Nat) : Option Word :=
  match pageOf g with
  | some (.floe, f) => coreIndRead s f i
  | some (.brash, f) => brashIndRead s f i
  | some (.spar, f) => sparIndRead s f i
  | some (.rime, f) => rimeIndRead s f i
  | some (.fmem, f) => fmemIndRead s f i
  | some (.cc, c) => some (s.ccIndRead c i)
  | some (.hal, h) => halIndRead s h i
  | some (.mst0, _) => mstIndRead s i
  | some (.mor0, _) => morIndRead s i
  | some (.serac, e) => serIndRead s e i
  | some (.drc, n) => drcIndRead s n i
  | some (.det, _) => s.detIndRead i
  | some (.snap, _) => snapIndRead s i
  | some (.fh, p) => fhIndRead s p i
  | some (.shr, l) => shrIndRead s l i
  | some (.modl, m) => modIndRead s m i
  | some (.iagg, _) => iaggIndRead s i
  | some (.sec, _) => secIndRead s i
  | some (.mgmt, _) => mgmtIndRead s i
  | some (.fwld, _) => fwldIndRead s i
  | _ => none

/-- Sets IND_ERR (R471). -/
def State.indErr (s : State) (g : Nat) : State := s.raise g F.IND_STAT_IND_ERR

/-- A read at an indirect address: the word it returns. -/
def State.indRead (s : State) (g i : Nat) : State × Word :=
  if s.indHidden g then (s, 0xFFFF_FFFF)
  else
    match s.indWord g i with
    | none => (s.indErr g, 0xFFFF_FFFF)
    | some w => (s, if s.indBusy g then 0xFFFF_FFFF else w)

/-- A write at an indirect address; none where the address is unpopulated, read-only, or refused to the agent. -/
def State.indStore (s : State) (a : Agent) (g i : Nat) (v : Word) : Option State :=
  match pageOf g with
  | some (.cc, c) => if i < 0x10 then some (s.ccIndWrite c i v) else none
  | some (.mst0, _) => if i < 4096 then some (s.mstIndWrite i v) else none
  | some (.mor0, _) => s.morIndWrite i v
  | some (.drc, n) => s.drcIndWrite n i v
  | some (.det, _) => if detIndOk i then some (s.detIndWrite i v) else none
  | some (.fh, p) => fhIndWrite s a p i v
  | some (.shr, l) => shrIndWrite s a l i v
  | some (.iagg, _) =>
    if i < 65536 then some { s with iagg := { s.iagg with routes := Tab.set s.iagg.routes i 0 (v.toNat &&& 0xBF) } } else none
  | some (.sec, _) => secIndWrite s a i v
  | some (.mgmt, _) => mgmtIndWrite s i v
  | _ => none

/-- A write at an indirect address. -/
def State.indWrite (s : State) (a : Agent) (g i : Nat) (v : Word) : State :=
  match pageOf g with
  | some (.fmem, f) =>
    let r := s.fmemIndWrite a f i v
    if r.2 then r.1 else r.1.indErr g
  | _ => (s.indStore a g i v).getD (s.indErr g)

/-! ### Accesses that wait (R471, R472) -/

/-- The target serves accesses: its page is READY, and the owner of an emulated page serves it. -/
def State.indServes (s : State) (g : Nat) : Bool :=
  s.ready g && match pageOf g with
    | some (.fwld, i) | some (.fwctl, i) | some (.fwpm, i) => s.served i
    | _ => true

def State.indQueue (s : State) (g : Nat) : List IndAcc := Tab.at s.inds g []

/-- The accesses of a page that wait; BUSY shows one in progress. -/
def State.setInds (s : State) (g : Nat) (q : List IndAcc) : State :=
  ({ s with inds := Tab.set s.inds g [] q } : State).wf g F.IND_STAT_BUSY (!q.isEmpty).toNat

/-- An access is accepted: ADDR advances under AUTOINC. -/
def State.indAccept (s : State) (g : Nat) : State × Nat :=
  let i := s.rf g F.IND_ADDR_ADDR
  (if s.bit g F.IND_ADDR_AUTOINC then s.wf g F.IND_ADDR_ADDR ((i + 1) % 2 ^ 31) else s, i)

/-- The target serves an access to IND_DATA. -/
def State.indServe (s : State) (g : Nat) (x : IndAcc) (i : Nat) : State :=
  match x.v with
  | some v => s.indWrite x.agent g i v
  | none =>
    let r := s.indRead g i
    r.1.answer (leBytes 4 r.2.toNat) false

/-- Accesses take their turns until one is not served. -/
def State.indRun (s : State) (g : Nat) : List IndAcc → State
  | [] => s.setInds g []
  | x :: xs =>
    if x.off = F.IND_ADDR_ADDR.off then
      (match x.v with
      | some v => s.plainWrite g x.off v
      | none => s.answer (leBytes 4 (s.word g x.off).toNat) false).indRun g xs
    else
      let r := match x.addr with
        | some i => (s, i)
        | none => s.indAccept g
      if r.1.indServes g then (r.1.indServe g x r.2).indRun g xs
      else r.1.setInds g ({ x with addr := some r.2 } :: xs)

/-- An access to IND_ADDR or IND_DATA. -/
def State.indAccess (s : State) (a : Agent) (g off : Nat) (v : Option Word) : State :=
  s.indRun g (s.indQueue g ++ [{ agent := a, off := off, v := v }])

/-- An access that has not been served in 2 µs completes: a read returns ones, a write is dropped, and IND_ERR is set. -/
def State.indLate (s : State) (g : Nat) : State :=
  match s.indQueue g with
  | [] => s
  | x :: xs =>
    if s.indServes g then s.indRun g (x :: xs)
    else
      let s := s.indErr g
      (if x.v.isSome then s else s.answer (ones 4) false).indRun g xs

def execIndTimeout (g : BitVec 16) (s : State) : Host.Outcome State Fault Refusal := .next (s.indLate g.toNat)

end Sys2Proof.Machine
end

