-- ==== Sys2Proof/Machine/Resets.lean ====
section
/-! DEFINITION. Power, reset pins, readiness, boot and the thermal trip (R443, R489, R536, R540, R555, R569, R571 to R582, R589, R590). -/

namespace Sys2Proof.Machine

def State.setPwr (s : State) (x : PwrSt) : State := { s with pwr := x }

/-! ### What registers keep (R12) -/

/-- Registers on standby power and on the always-on rail that a PORST_N leaves: sampled straps and reset causes, the bank that runs, and what
shows the modules that are seated. -/
def porKeeps (g off : Nat) : Bool :=
  match pageOf g with
  | some (.sys, _) => off = 0x044 || off = 0x048
  | some (.modl, _) => off = 0x00C || (keptOffsets .modl).contains off
  | some (.mgmt, _) => off = 0x00C || off = 0x048
  | some (.mpwr, _) => off = 0x00C
  | _ => false

/-- Registers that the rules of their chapters keep through SYSRST_N (R410, R443, R462, R536, R555, R569, R590). -/
def sysKeeps (g off : Nat) : Bool :=
  match pageOf g with
  | some (.sys, _) => off = 0x044 || off = 0x048
  | some (.modl, _) | some (.mgmt, _) | some (.mpwr, _) => off = 0x00C || 0x040 ≤ off
  | some (.tb, _) => [0x00C, F.TB_INC_FRAC.off, F.TB_INC_NS.off, F.TB_JUMP_THR.off, F.TB_STAT_HOLDOVER.off].contains off
  | some (.ts, _) => off = 0x00C || (F.TS_CLK_CTRL.off ≤ off && off ≤ F.TS_MASTER_PORT_VALID.off)
  | some (.pg, _) | some (.cap, _) | some (.snap, _) => off = 0x00C
  | some (.pcie, _) => off = 0x00C || off = 0x040
  | some (.sec, _) => off = 0x040 || off = 0x044 || off = 0x048 || off = 0x054 || (0x060 ≤ off && off < 0x0A0)
  | some (.cc, _) => off = 0x048
  | some (.drc, _) => off = F.DRC_STAT_SPARES_MIN.off
  | some (.fwld, _) => off = F.FW_MIN_VER.off
  | _ => false

/-- Every register takes its reset value but for those kept; the live counters return to 0. -/
def State.resetRegs (s : State) (keep : Nat → Nat → Bool) : State :=
  { s with regs := s.regs.filter fun e => keep (e.1 / 1024) (e.1 % 1024 * 4), live := [] }

/-- Pages whose READY a main reset leaves. -/
def State.quiet (s : State) (gs : List Nat) : State :=
  gs.foldl (fun s g => ((s.wf g F.PAGE_STAT_SHUTTING 0).wf g F.PAGE_STAT_PENDING_EN 0).wf g F.PAGE_STAT_SRST_PEND 0) s

/-! ### State that both main resets clear -/

/-- Work in flight, queues, and every unit of the data plane and the control plane; firmware stops and its image is discarded (R499, R576). -/
def State.clearUnits (s : State) : State :=
  let s := { s with
    side := [], accSide := [], floes := [], runs := [], faultQ := [], faultLost := [], mst := {}, det := [], lastCopy := [], hals := [] }
  let s := { s with pgs := [], caps := [], capLast := [], snap := [], fhs := [], shrs := [], pci := {}, inds := [], iagg := {}, cfgi := {} }
  let s := { s with fw := {}, firn := [], firnOp := [], winPend := [], mor := {}, sers := [] }
  let s := s.setPwr { s.pwr with loader := [], loaderOk := true, cores := 0 }
  let lo := floeBase 0
  { s.zeroMem lo (lo + 0x4000_0000) with tags := Tab.clear s.tags (lo / 64) ((lo + 0x4000_0000) / 64) }

/-- Contents of DRAM and what belongs to them (R462, R529). -/
def State.clearDram (s : State) : State :=
  { s.zeroMem 0 dramSize with dramPoison := [], tags := Tab.clear s.tags 0 (dramSize / 64), drcs := [], grans := [] }

/-- The state that PORST_N leaves of the main domains; a brownout keeps the confidential mode (R573). -/
def State.porReset (s : State) (keepConf : Bool) : State :=
  let act := s.rf pgSec F.SEC_CONF_STAT_CONF_ACTIVE
  let ten := s.rf pgSec F.SEC_CONF_STAT_CONF_TENANTS
  let up := s.mgmt.up
  let s := ((s.resetRegs porKeeps).clearUnits.clearDram).quiet mgmtPages
  let s := { s with clusters := [], tb := [], tbHeld := [], sec := {} }
  let s := s.wf pgMpwr F.MPWR_STAT_SPRINT_INHIBIT (!up).toNat
  let s := s.setMgmt { s.mgmt with overCap := 0, unmet := false, lastDown := 0 }
  if keepConf then (s.wf pgSec F.SEC_CONF_STAT_CONF_ACTIVE act).wf pgSec F.SEC_CONF_STAT_CONF_TENANTS ten else s

/-- Every value of a table changed, in canonical form. -/
def mapTab {α : Type} [DecidableEq α] (d : α) (t : Tab α) (f : α → α) : Tab α :=
  (t.map fun e => (e.1, f e.2)).filter fun e => decide (e.2 ≠ d)

/-- The state that SYSRST_N leaves (R576): time bases, identity, record, confidential mode, fences, remaps and DRAM are kept. -/
def State.sysReset (s : State) : State :=
  let s := (s.resetRegs sysKeeps).clearUnits
  let s := s.quiet (mgmtPages ++ [pgPcie, pgTs, pgPg, pgCap, pgSnap] ++ (List.range 4).map pgTb)
  let s := (List.range 4).foldl (fun (s : State) i => s.setTb i { s.timeBase i with step := none }) { s with tbHeld := [] }
  let s := (s.wf pgPcie F.PCI_STAT_TDISP 0).wf pgPcie F.PCI_STAT_LINK_IDE 0
  let s := s.wf pgPcie F.PCI_STAT_SEL_IDE 0
  let s := (List.range 8).foldl (fun s c => s.wf (pgCc c) F.CC_STAT_SUBST 0) s
  let cs := mapTab {} s.clusters fun (e : ClusterSt) => ({ record := e.record } : ClusterSt)
  let ds := mapTab {} s.drcs fun (e : DrcSt) => ({ remap := e.remap } : DrcSt)
  let s : State := { s with clusters := cs, drcs := ds }
  s.setSec { s.sec with sessions := [], doe := {}, mctp := {}, kreq := none }

/-! ### PORST_N and SYSRST_N (R575 to R577) -/

def State.cause (s : State) (f : Fld) : State := s.wf pgSys f 1

def State.porAssert (s : State) : State :=
  let s := (s.porReset false).setPwr { s.pwr with porst := true, sysrst := false, brownout := false, loader := [], loaderOk := true, cores := 0 }
  s.cause F.SYS_RESET_CAUSE_POR

def execPorstNAssert (s : State) : Host.Outcome State Fault Refusal := .next (if s.pwr.porst then s else s.porAssert)

/-- The boot ROM starts on the loader by BOOTSRC (R578, R580). -/
def State.bootStart (s : State) : State :=
  let src := s.rf pgSys F.SYS_STRAP_BOOTSRC
  let s := s.wf pgSys F.SYS_BOOT_STAT_CAUSE 0
  s.wf pgSys F.SYS_BOOT_STAT_STATE (if src < 2 then 1 else if src = 2 then 0 else 5)

/-- The straps are sampled, the topology takes its strap, and the security core derives the identity and checks the record (R516, R578). -/
def State.coldStart (s : State) (fwtop : Bool) (bootsrc : BitVec 2) : State :=
  let s := (s.wf pgSys F.SYS_STRAP_FWTOP fwtop.toNat).wf pgSys F.SYS_STRAP_BOOTSRC bootsrc.toNat
  let s := s.wf pgFwld F.FWLD_TOPO fwtop.toNat
  (s.deriveId.setSec { s.deriveId.sec with derived := true }).bootStart

/-- PORST_N rises; a thermal trip ends with it once the main rails have returned (R582). -/
def State.porRelease (s : State) (fwtop : Bool) (bootsrc : BitVec 2) : State :=
  if !s.pwr.porst || s.pwr.railsDown then s
  else (s.setPwr { s.pwr with porst := false, trip := s.pwr.stopped }).coldStart fwtop bootsrc

def execPorstNRelease (fwtop : Bool) (bootsrc : BitVec 2) (s : State) : Host.Outcome State Fault Refusal := .next (s.porRelease fwtop bootsrc)

/-- SYSRST_N falls, outside a PORST_N and a brownout restart. -/
def State.sysAssert (s : State) (f : Fld) : State :=
  let s := s.sysReset
  (s.setPwr { s.pwr with sysrst := true }).cause f

def execSysrstNAssert (s : State) : Host.Outcome State Fault Refusal :=
  .next (if s.mainHeld then s else s.sysAssert F.SYS_RESET_CAUSE_SYSRST_PIN)

/-- The application complex boots again; the topology takes its strap. -/
def State.sysRelease (s : State) : State :=
  if !s.pwr.sysrst then s
  else
    let s := s.setPwr { s.pwr with sysrst := false }
    (s.wf pgFwld F.FWLD_TOPO (s.rf pgSys F.SYS_STRAP_FWTOP)).bootStart

def execSysrstNRelease (s : State) : Host.Outcome State Fault Refusal := .next s.sysRelease

/-- A write of SYS_RST_CMD (R589, R590). -/
def State.warmCmd (s : State) (a : Agent) (v : Word) : State :=
  if a = .mgmt ∨ s.mainHeld then s
  else if F.SYS_RST_CMD_KEY.of v ≠ 0xA5C3 then s.raise pgSys F.SYS_ERR_STAT_CMD_KEY_BAD
  else if F.SYS_RST_CMD_WARM.of v = 0 then s
  else (s.sysAssert F.SYS_RESET_CAUSE_WARM_CMD).sysRelease

def execWarm (a : Agent) (v : Word) (s : State) : Host.Outcome State Fault Refusal :=
  .next (s.onReady a pgSys F.SYS_RST_CMD_WARM.off fun s => s.warmCmd a v)

/-! ### MGMT_RST_N (R489, R540, R555) -/

/-- The management plane is reset: the point in force is kept, readings and sessions over MCTP are lost, a sweep ends. -/
def State.mgmtAssert (s : State) : State :=
  if s.pwr.mgmtRst then s
  else
    let point := s.rf pgMpwr F.MPWR_STAT_POINT
    let bank := s.bank
    let s := ((s.mgmtDown.resetPage pgMgmt fun _ => false).resetPage pgMpwr fun _ => false).wf pgMpwr F.MPWR_STAT_POINT point
    let s := (s.wf pgMpwr F.MPWR_STAT_SPRINT_INHIBIT 1).wf pgMgmt F.MGMT_STAT_BANK bank
    let s := (s.clearFlags pgCfgi).wf pgCfgi F.CFG_STAT_SWEEPING 0
    let s := { s with cfgi := { s.cfgi with sweep := none } }
    let s := s.setMgmt { s.mgmt with sensors := [], crossed := [], overCap := 0, unmet := false, eid := 0, receiver := 0, activating := false }
    let s := s.setSec { s.sec with mctp := {}, sessions := s.sec.sessions.filter fun e => (e.2.map (·.doe)).getD true }
    s.setPwr { s.pwr with mgmtRst := true }

def execMgmtRstNAssert (s : State) : Host.Outcome State Fault Refusal := .next s.mgmtAssert

def execMgmtRstNRelease (addr : BitVec 3) (s : State) : Host.Outcome State Fault Refusal :=
  .next (if s.pwr.mgmtRst then (s.setPwr { s.pwr with mgmtRst := false }).wf pgSys F.SYS_STRAP_MGMT_ADDR addr.toNat else s)

/-! ### PCIE_PERST_N (R443) -/

/-- The endpoint is reset as at PORST_N. -/
def State.pcieReset (s : State) : State := { s.resetPage pgPcie (fun _ => false) with pci := {} }

def execPciePerstN (asserted : Bool) (s : State) : Host.Outcome State Fault Refusal :=
  let t := s.setPwr { s.pwr with perst := asserted }
  .next (if asserted then t.pcieReset else t)

/-! ### Readiness (R581) -/

/-- Pages of a group. A floe's memory page reports READY with its initialisation (R247), and a floe that is LOST none (R560). -/
def State.groupPages (s : State) : ReadyGroup → List Nat
  | .device => [pgSys, pgFab, pgIagg, pgCfgi, pgDet]
  | .timing => (List.range 4).map pgTb ++ [pgTs, pgPg, pgCap, pgSnap]
  | .security => [pgSec, pgFwld]
  | .dataPath =>
    (((List.range 64).filter fun n => !s.floeFenced n).flatMap fun n => [0, 1, 2, 3, 4, 6].map (pgFloe n)) ++ (List.range 8).map pgCc
      ++ (List.range 16).map pgFirn ++ (List.range 128).map pgHal ++ (List.range 3).map pgMst ++ (List.range 2).map pgMor
      ++ (List.range 8).map pgSer ++ (List.range 16).map pgFh ++ (List.range 8).map pgShr
  | .dram => (List.range 64).map pgDrc
  | .pcie => [pgPcie]
  | .management => mgmtPages
  | .emulated i => [pgEmu i]

/-- Whether a group can finish its initialisation now. -/
def State.groupCan (s : State) : ReadyGroup → Bool
  | .management => s.mgmt.up
  | .pcie => !s.mainHeld && !s.pwr.perst
  | .emulated i => !s.mainHeld && (decide (i.val = 0) || s.served i)
  | _ => !s.mainHeld

/-- An emulated page of a loaded component starts from its reset values (R514). -/
def State.emuStart (s : State) (i : Nat) : State :=
  if i = 0 ∨ s.ready (pgEmu i) then s
  else
    let s := s.resetPage (pgEmu i) fun _ => false
    if i = 1 then s.setFw { s.fw with lease := s.tbNs 0 } else s

/-- The pages of a group become READY; the accesses that wait for them are served. -/
def State.blockReady (s : State) (gr : ReadyGroup) : State :=
  if !s.groupCan gr then s
  else
    let s := match gr with
      | .security => if s.sec.derived then s else s.deriveId.setSec { s.deriveId.sec with derived := true }
      | .emulated i => s.emuStart i
      | _ => s
    let gs := s.groupPages gr
    let s := gs.foldl (fun (s : State) g => s.wf g F.PAGE_STAT_READY 1) s
    (gs.filter fun g => s.indQueue g ≠ []).foldl (fun s g => s.indRun g (s.indQueue g)) s

def execBlockReady (g : ReadyGroup) (s : State) : Host.Outcome State Fault Refusal := .next (s.blockReady g)

/-! ### Supplies (R572, R573) -/

/-- A main supply leaves its tolerance while PORST_N is released. -/
def execBrownout (s : State) : Host.Outcome State Fault Refusal :=
  .next (if s.pwr.porst || s.pwr.brownout then s
    else
      let s := s.porReset true
      (s.setPwr { s.pwr with brownout := true, sysrst := false }).cause F.SYS_RESET_CAUSE_BROWNOUT)

def execBrownoutRestart (fwtop : Bool) (bootsrc : BitVec 2) (s : State) : Host.Outcome State Fault Refusal :=
  .next (if s.pwr.brownout && !s.pwr.railsDown then (s.setPwr { s.pwr with brownout := false }).coldStart fwtop bootsrc else s)

/-- The supplies rose out of order and are all in tolerance now. -/
def execSeqErr (s : State) : Host.Outcome State Fault Refusal := .next (s.cause F.SYS_RESET_CAUSE_SEQ_ERR)

/-- The main rails are in tolerance with PORST_N held. -/
def execMainRailsUp (s : State) : Host.Outcome State Fault Refusal :=
  .next (if s.pwr.railsDown && (s.pwr.porst || s.pwr.brownout) then s.setPwr { s.pwr with railsDown := false, stopped := false } else s)

/-- The main rails go, after PORST_N, a brownout or a thermal trip. -/
def execMainRailsDown (s : State) : Host.Outcome State Fault Refusal :=
  .next (if s.pwr.porst || s.pwr.brownout || s.pwr.trip then s.setPwr { s.pwr with railsDown := true } else s)

/-- The always-on rail is lost: what lies in flash is left, and every reset pin is held. -/
def State.powerLoss (s : State) : State :=
  let m : MgmtSt := { thresholds := s.mgmt.thresholds, flash := s.mgmt.flash, seq := s.mgmt.seq, banks := s.mgmt.banks, staged := s.mgmt.staged }
  { pending := s.pending
    ticks := s.ticks
    fresh := s.fresh
    nextXfer := s.nextXfer
    nextRun := s.nextRun
    rsp := s.rsp
    rspPoison := s.rspPoison
    out := s.out
    mgmt := { m with life := s.mgmt.lifeFlash, lifeFlash := s.mgmt.lifeFlash }
    pwr := { porst := true, mgmtRst := true, railsDown := true } }

def execStandbyPowerLoss (s : State) : Host.Outcome State Fault Refusal := .next s.powerLoss

/-! ### Thermal trip (R582) -/

/-- The trip stops the clocks of the main domains and asserts THERMTRIP_N; the controller records it. -/
def State.thermTrip (s : State) : State :=
  if s.pwr.trip then s
  else
    let s := (s.setPwr { s.pwr with trip := true, stopped := true }).cause F.SYS_RESET_CAUSE_THERMTRIP
    s.log 0xFFFF (Config.ownKind 1).toNat 3 (Config.logData (Config.ownKind 1).toNat [])

def execThermtrip (s : State) : Host.Outcome State Fault Refusal := .next s.thermTrip

/-! ### Boot (R579, R580, R589) -/

/-- Cause 1: MAGIC, lengths, ENTRY inside the body, and RSVD fields. -/
def loaderShape (im : Bytes) : Bool :=
  let body := leNat (slice im 8 4)
  let sig := leNat (slice im 64 4)
  decide (im.length ≤ 8 * 2 ^ 20) && decide (leNat (slice im 0 4) = 0x444C_4D4A) && decide (leNat (slice im 12 4) < body) &&
    decide (slice im 68 60 = zeros 60) && decide (128 + body ≤ sig) && decide (sig + 16608 ≤ im.length)

/-- Cause of a loader's first failed check, 0 for none. -/
def State.loaderCause (s : State) (im : Bytes) (readOk : Bool) : Nat :=
  match s.validRecord with
  | none => 6
  | some r =>
    let sig := leNat (slice im 64 4)
    if !loaderShape im then 1
    else if !readOk then 2
    else if sha384 (slice im 128 (leNat (slice im 8 4))) ≠ slice im 16 48 then 3
    else if !Config.rsaOk (slice r 88 388) (im.take 128) (slice im sig 384) then 4
    else if !Config.slhOk (slice r 476 48) (im.take 128) (slice im (sig + 384) 16224) then 5
    else 0

/-- GO in SYS_BOOT_CMD: with BOOTSRC 2 the loader is copied from DRAM. -/
def State.bootCmd (s : State) (v : Word) : State :=
  let st := s.rf pgSys F.SYS_BOOT_STAT_STATE
  let src := s.rf pgSys F.SYS_STRAP_BOOTSRC
  if F.SYS_BOOT_CMD.of v = 0 then s
  else if src < 2 ∧ st = 4 then s.bootStart
  else if src = 2 ∧ (st = 0 ∨ st = 4) then
    let a := s.rf pgSys F.SYS_BOOT_SRC_HI * 2 ^ 32 + s.rf pgSys F.SYS_BOOT_SRC_LO * 64
    let n := s.rf pgSys F.SYS_BOOT_LEN
    let s := if n ≤ 8 * 2 ^ 20 then s.setPwr { s.pwr with loader := s.imageBytes a n, loaderOk := s.imageReadable a n }
      else s.setPwr { s.pwr with loader := [], loaderOk := true }
    (s.wf pgSys F.SYS_BOOT_STAT_CAUSE 0).wf pgSys F.SYS_BOOT_STAT_STATE 1
  else s.raise pgSys F.SYS_ERR_STAT_BOOT_BUSY

def execSysBootCmd (a : Agent) (v : Word) (s : State) : Host.Outcome State Fault Refusal :=
  .next (s.onReady a pgSys F.SYS_BOOT_CMD.off fun s => s.bootCmd v)

/-- The fetch and the checks end: core 0 is released, or the loader is bad. -/
def State.bootDone (s : State) (image : Bytes) (readOk : Bool) : State :=
  let src := s.rf pgSys F.SYS_STRAP_BOOTSRC
  let st := s.rf pgSys F.SYS_BOOT_STAT_STATE
  if s.mainHeld || !(decide (st = 1) || (decide (st = 0) && decide (src < 2))) then s
  else
    let s := if src < 2 then s.setPwr { s.pwr with loader := image, loaderOk := readOk } else s
    let c := s.loaderCause s.pwr.loader s.pwr.loaderOk
    if c = 0 then (s.setPwr { s.pwr with cores := 1 }).wf pgSys F.SYS_BOOT_STAT_STATE 3
    else ((s.wf pgSys F.SYS_BOOT_STAT_STATE 4).wf pgSys F.SYS_BOOT_STAT_CAUSE c).fault pgSys F.SYS_ERR_STAT_LOADER_BAD 8 0 0 (some c)

def execBootFetchDone (image : Bytes) (readOk : Bool) (s : State) : Host.Outcome State Fault Refusal := .next (s.bootDone image readOk)

/-- Core 0 releases further cores. -/
def State.appStart (s : State) (a : Agent) (v : Word) : State :=
  if a = .app 0 then
    let m := s.rf pgSys F.SYS_APP_START ||| F.SYS_APP_START.of v
    (s.wf pgSys F.SYS_APP_START m).setPwr { s.pwr with cores := s.pwr.cores ||| (2 * m) }
  else s

def execSysAppStart (a : Agent) (v : Word) (s : State) : Host.Outcome State Fault Refusal :=
  .next (s.onReady a pgSys F.SYS_APP_START.off fun s => s.appStart a v)

/-! ### The timing clock -/

/-- One tick of the timing clock (R393). The time bases stand while PORST_N holds them or the main rails are down. -/
def State.idle (s : State) : State :=
  if s.pwr.porst || s.pwr.brownout || s.pwr.railsDown || s.pwr.stopped then { s with ticks := s.ticks + 1 } else s.advance 1

end Sys2Proof.Machine
end

