-- ==== Sys2Proof/Machine/RegModel.lean ====
section
/-! DEFINITION. The register model (R465 to R490): partial decode, what every register does when it is written or read, access sizes, the
address map (R41, R42), the PCIe host's requests (R438), interrupt delivery (R479), and the configuration sweep (R481 to R485). -/

namespace Sys2Proof.Machine

/-! ### Partial decode (R469) -/

def effOffset (g o : Nat) : Nat :=
  let w := ((pageOf g).map fun p => p.1.width).getD 0
  let e := o % 2 ^ (w + 2) / 4 * 4
  if isDefined g e then e else e % 32

/-! ### Configuration integrity (R481 to R485) -/

/-- GO in CRC_COMMIT. -/
def State.wrCrcCommit (s : State) (v : Word) : State :=
  if v.getLsbD 0 && !s.bit pgCfgi F.CFG_STAT_COMMIT_PEND then
    let sw := s.cfgi.sweep.map fun w => { w with compare := false, capture := false }
    let s : State := { s with cfgi := { s.cfgi with sweep := sw, drifted := false } }
    s.wf pgCfgi F.CFG_STAT_COMMIT_PEND 1
  else s

def execCrcCommit (a : Agent) (v : Word) (s : State) : Host.Outcome State Fault Refusal :=
  .next (s.onReady a pgCfgi 0x04C fun s => s.wrCrcCommit v)

/-- A write of CFG_CRC_REF. -/
def State.wrCrcRef (s : State) (v : Word) : State :=
  let sw := s.cfgi.sweep.map fun w => { w with compare := false, capture := false }
  let s : State := { s with cfgi := { sweep := sw } }
  ((s.wf pgCfgi F.CFG_CRC_REF v.toNat).wf pgCfgi F.CFG_STAT_REF_VALID 1).wf pgCfgi F.CFG_STAT_COMMIT_PEND 0

def execCfgCrcRef (a : Agent) (v : Word) (s : State) : Host.Outcome State Fault Refusal :=
  .next (s.onReady a pgCfgi F.CFG_CRC_REF.off fun s => s.wrCrcRef v)

/-- Every populated hardware page, in ascending page number. -/
def hwPages : List Nat :=
  (List.range 5) ++ ((List.range 64).flatMap fun n => (List.range 7).map (pgFloe n)) ++ (List.range 8).map pgCc ++ (List.range 128).map pgHal
    ++ (List.range 3).map pgMst ++ (List.range 2).map pgMor ++ (List.range 8).map pgSer ++ (List.range 16).map pgFirn
    ++ (List.range 64).map pgDrc ++ (List.range 4).map pgTb ++ [pgTs, pgPg, pgCap, pgSnap] ++ (List.range 16).map pgFh
    ++ (List.range 8).map pgShr ++ [pgPcie] ++ (List.range 16).map pgMod ++ [pgSec, pgMgmt, pgMpwr]

/-- The covered value of a register (R481): its RW fields as written, EN with PENDING_EN; reset values on a page that is not READY. -/
def State.covered (s : State) (g off : Nat) : Word :=
  let w := if s.ready g then s.word g off else regReset (regIdx g off)
  let c : Word := ((rowsAt g off).filter fun r => decide (r.acc = .rw)).foldl (fun c r => putBits c r.hi r.lo (bits w.toNat r.hi r.lo)) 0
  if off = F.PAGE_CTRL_EN.off ∧ s.bit g F.PAGE_STAT_PENDING_EN then c ||| 1 else c

def State.pageWords (s : State) (g : Nat) : Bytes := (cfgRegs g).flatMap fun off => leBytes 4 (s.covered g off).toNat

/-- A sweep may start: the controller runs, the fabric is powered, and SWEEP_EN is set. -/
def State.sweepCan (s : State) : Bool :=
  s.mgmt.up && !s.pwr.mgmtRst && s.mainUp && s.works pgCfgi && s.bit pgCfgi F.CFG_CTRL_SWEEP_EN && s.cfgi.sweep.isNone

/-- A reference that a sweep may be compared with (R484). -/
def State.comparable (s : State) : Bool :=
  s.bit pgCfgi F.CFG_STAT_REF_VALID && !s.bit pgCfgi F.CFG_CTRL_HOLD && !s.bit pgCfgi F.CFG_STAT_COMMIT_PEND

def State.sweepStart (s : State) : State :=
  if !s.sweepCan then s
  else
    let ws := hwPages.map fun g => (g, s.pageWords g)
    let w : SweepSt :=
      { crc := crc32c (ws.flatMap (·.2)), pages := ws.map fun p => (p.1, crc32c p.2), compare := s.comparable
        capture := s.bit pgCfgi F.CFG_STAT_COMMIT_PEND }
    ({ s with cfgi := { s.cfgi with sweep := some w } } : State).wf pgCfgi F.CFG_STAT_SWEEPING 1

def execCfgSweepStart (s : State) : Host.Outcome State Fault Refusal := .next s.sweepStart

/-- The lowest page whose check differs. -/
def driftPage : List (Nat × Word) → List (Nat × Word) → Option Nat
  | (g, c) :: xs, (_, d) :: ys => if c = d then driftPage xs ys else some g
  | _, _ => none

/-- A mismatch (R484). -/
def State.drift (s : State) (w : SweepSt) : State :=
  let s := (s.raise pgCfgi F.CFG_ERR_STAT).bump pgCfgi F.CFG_DRIFT_CNT
  let s := match driftPage w.pages s.cfgi.pages with
    | some g => (s.wf pgCfgi F.CFG_DRIFT_PAGE_PAGE g).wf pgCfgi F.CFG_DRIFT_PAGE_VALID 1
    | none => s.wf pgCfgi F.CFG_DRIFT_PAGE_VALID 0
  let s := if s.cfgi.drifted then s else s.post pgCfgi F.CFG_ERR_STAT 6 0 0 (some (s.word pgCfgi F.CFG_DRIFT_PAGE_PAGE.off).toNat)
  let s := if s.bit pgCfgi F.CFG_CTRL_FREEZE_EN then s.raise pgCfgi F.CFG_STAT_FROZEN else s
  { s with cfgi := { s.cfgi with drifted := true } }

def State.sweepEnd (s : State) : State :=
  match s.cfgi.sweep with
  | none => s
  | some w =>
    let s := ({ s with cfgi := { s.cfgi with sweep := none } } : State).wf pgCfgi F.CFG_STAT_SWEEPING 0
    let s := (s.wf pgCfgi F.CFG_CRC_LAST w.crc.toNat).bump pgCfgi F.CFG_SWEEP_CNT
    if w.capture && s.bit pgCfgi F.CFG_STAT_COMMIT_PEND then
      let s := ((s.wf pgCfgi F.CFG_CRC_REF w.crc.toNat).wf pgCfgi F.CFG_STAT_REF_VALID 1).wf pgCfgi F.CFG_STAT_COMMIT_PEND 0
      { s with cfgi := { pages := w.pages } }
    else if w.compare && s.comparable then
      if w.crc.toNat = s.rf pgCfgi F.CFG_CRC_REF then { s with cfgi := { s.cfgi with drifted := false } } else s.drift w
    else s

def execCfgSweepEnd (s : State) : Host.Outcome State Fault Refusal := .next s.sweepEnd

/-! ### Interrupt delivery (R479) -/

def State.vecEnabled (s : State) (v : Nat) : Bool := (s.word pgIagg (if v < 32 then F.IAGG_EN_LO.off else F.IAGG_EN_HI.off)).getLsbD (v % 32)

/-- Destination of a vector: 3 acts as 0. -/
def State.vecDest (s : State) (v : Nat) : Nat :=
  bits (s.rf pgIagg (F.IAGG_DEST (v / 16))) (v % 16 * 2 + 1) (v % 16 * 2) % 3

/-- A vector that is pending, enabled and armed is delivered and disarmed. MSI-X entries wait while the link is down. -/
def State.deliverVec (s : State) (v : Nat) : State :=
  if s.works pgIagg && s.pendingVec v && s.vecEnabled v && !Tab.at s.iagg.disarmed v false then
    let s := ({ s with iagg := { s.iagg with disarmed := Tab.set s.iagg.disarmed v false true } } : State).bump pgIagg F.IAGG_SENT_CNT
    if s.vecDest v = 1 ∧ !s.bit pgPcie F.PCI_STAT_LINK_UP then
      { s with pci := { s.pci with held := if s.pci.held.contains v then s.pci.held else s.pci.held ++ [v] } }
    else { s with out := s.out ++ [Out.interrupt (s.vecDest v) v] }
  else s

def execInterruptDeliver (v : Fin 64) (s : State) : Host.Outcome State Fault Refusal := .next (s.deliverVec v)

/-- A write of IAGG_EOI: a disarmed vector is armed, and delivered again at once where it is still pending and enabled. -/
def State.eoi (s : State) (v : Word) : State :=
  let k := F.IAGG_EOI_VECTOR.of v
  if F.IAGG_EOI_GO.of v = 1 ∧ Tab.at s.iagg.disarmed k false then
    ({ s with iagg := { s.iagg with disarmed := Tab.set s.iagg.disarmed k false false } } : State).deliverVec k
  else s

def execIaggEoi (a : Agent) (v : Word) (s : State) : Host.Outcome State Fault Refusal :=
  .next (s.onReady a pgIagg F.IAGG_EOI_GO.off fun s => s.eoi v)

/-! ### Writes of block registers -/

/-- The time-base page. -/
def State.tbPut (s : State) (i off : Nat) (v : Word) : State :=
  if off = F.TB_INC_FRAC.off then s.wrTbIncFrac i v
  else if off = F.TB_INC_NS.off then s.wrTbIncNs i v
  else if off = F.TB_ADJ.off then s.wrTbAdj i v
  else if off = F.TB_STEP_CMD_GO.off then s.wrTbStep i v
  else s.plainWrite (pgTb i) off v

/-- The generators' page: a unit's registers are its owner's. -/
def State.pgPut (s : State) (a : Agent) (off : Nat) (v : Word) : State :=
  let k : Fin 8 := Fin.ofNat 8 ((off - 0x040) / 32)
  if 0x140 ≤ off then s.plainWrite pgPg off v
  else if off % 32 = 0 then s.wrOwn a (.gen k) v
  else if off % 32 = 0x1C then s.asOwner a (.gen k) fun s => (s.plainWrite pgPg off v).wrPgCmd a k v
  else s.asOwner a (.gen k) fun s => s.plainWrite pgPg off v

/-- The capture inputs' page. -/
def State.capPut (s : State) (a : Agent) (off : Nat) (v : Word) : State :=
  let c : Fin 2 := Fin.ofNat 2 ((off - 0x040) / 32)
  if 0x080 ≤ off then s.plainWrite pgCap off v
  else if off % 32 = 0 then s.wrOwn a (.cap c) v
  else if off % 32 = 0x04 then s.asOwner a (.cap c) fun s => s.plainWrite pgCap off v
  else if off % 32 = 0x18 then (if v.getLsbD 0 then s.asOwner a (.cap c) fun s => s.capPop c else s)
  else s.plainWrite pgCap off v

/-- A port's page: a port that its quad's mode does not give takes no write. -/
def State.fhPut (s : State) (p off : Nat) (v : Word) : State :=
  if off = F.FH_CTRL_EN.off then s.wrFhCtrl p v
  else if off = F.FH_TXR_WR.off then s.wrFhIdx p F.FH_TXR_WR v
  else if off = F.FH_RXR_RD.off then s.wrFhIdx p F.FH_RXR_RD v
  else if off = F.FH_TXTS_POP.off then s.wrTxtsPop p v
  else if s.portPresent p then s.plainWrite (pgFh p) off v
  else s

/-- A link's page. -/
def State.shrPut (s : State) (l off : Nat) (v : Word) : State :=
  if off = F.SHR_CTRL_EN.off then s.wrShrCtrl l v
  else if off = F.SHR_RANK.off then s.wrRank v
  else if off = (F.SHR_WIN_CTRL_EN 0).off then s.wrWin (.dram (Fin.ofNat 16 (2 * l))) v
  else if off = (F.SHR_WIN_CTRL_EN 1).off then s.wrWin (.dram (Fin.ofNat 16 (2 * l + 1))) v
  else s.plainWrite (pgShr l) off v

/-- The Masthead's pages. -/
def State.mstPut (s : State) (t : PageType) (off : Nat) (v : Word) : State :=
  match t with
  | .mst0 =>
    if off = F.MST_TBL_COMMIT.off then s.wrCommit v
    else if off = F.MST_ADP_SWAP_GO.off then s.wrAdpSwap v
    else s.plainWrite (pgMst 0) off v
  | .mst1 =>
    let p := (off - 0x040) / 32
    if off % 32 = 0x1C then s.wrPartCmd p v else s.wrPartCfg p off (writtenWord (rowsAt (pgMst 1) off) 0 v)
  | _ =>
    let p := (off - 0x040) / 16
    if off % 16 = 0 then s.wrBeRing p false v
    else if off % 16 = 4 then s.wrBeRing p true v
    else if off % 16 = 8 then s.wrBeTail p v
    else if (F.MST_BE_HEAD_FLUSH p).of v = 1 then s.beFlush p
    else s

/-- Moraine's pages. -/
def State.morPut (s : State) (t : PageType) (off : Nat) (v : Word) : State :=
  match t with
  | .mor0 =>
    if off = F.MOR_ALLOC_PUSH0_SLOT.off then s.setMor { s.mor with stage := v }
    else if off = F.MOR_ALLOC_PUSH1_GO.off then s.wrAlloc v
    else if off = F.BAL_AC_POP.off then s.acPop v
    else s.plainWrite (pgMor 0) off v
  | _ =>
    if off = F.REC_CTRL_REC_EN.off then s.wrRecCtrl v
    else if off = F.ADP_START.off then s.wrAdpStart v
    else s.plainWrite (pgMor 1) off v

/-- The security page. -/
def State.secPut (s : State) (a : Agent) (off : Nat) (v : Word) : State :=
  if off = F.SEC_CONF_REQ.off then (if F.SEC_CONF_REQ.of v = 1 then s.confReq a else s)
  else if off = F.SEC_DBG_CTRL_DBG_EN.off then s.wrDbg v
  else if off = F.SEC_KREQ_CMD_GO.off then (if F.SEC_KREQ_CMD_GO.of v = 1 then s.kreqGo a else s)
  else s.plainWrite pgSec off v

/-- The digest composer's page. -/
def State.detPut (s : State) (off : Nat) (v : Word) : State :=
  if 0x080 ≤ off ∧ off % 16 ≠ 0x0C then s.wrDetRing ((off - 0x080) / 16) (off % 16 / 4) v else s.plainWrite pgDet off v

/-- What a write of a block register does. -/
def State.blockPut (s : State) (a : Agent) (t : PageType) (i g off : Nat) (v : Word) : State :=
  match t, off with
  | .sys, 0x04C => s.warmCmd a v
  | .sys, 0x054 => s.bootCmd v
  | .sys, 0x068 => s.appStart a v
  | .iagg, 0x060 => s.eoi v
  | .cfgi, 0x04C => s.wrCrcCommit v
  | .cfgi, 0x050 => s.wrCrcRef v
  | .floe, 0x044 => s.wrKstart i v
  | .gaff, 0x040 => s.wrGaffIssue i v
  | .spar, 0x040 => s.wrSparKstart i v
  | .spar, 0x050 => s.wrMbox i v
  | .fmem, 0x044 => if F.FMEM_STAT_SCRUB_PENDING.of v = 1 then s.scrubAsk i else s
  | .cc, 0x044 => s.wrCcCmd i v
  | .hal, 0x040 => s.wrHalArm i v
  | .serac, 0x080 => s.wrWsetClr i v
  | .firn, 0x044 => s.wrFirnOp i v
  | .drc, 0x044 => s.wrIw i v
  | .drc, 0x050 => s.wrRemapCmd i v
  | .ts, 0x040 => s.wrClkCtrl v
  | .ts, 0x048 => s.wrPtpCtrl v
  | .modl, 0x068 => s.wrPathDly i v
  | .mgmt, 0x040 => s.wrMgmtCtrl v
  | .det, _ => s.detPut off v
  | .fwin, _ => if off % 16 = 0x0C then s.wrWin (.floe (Fin.ofNat 64 i) (Fin.ofNat 8 ((off - 0x040) / 16))) v else s.plainWrite g off v
  | .mst0, _ | .mst1, _ | .mst2, _ => s.mstPut t off v
  | .mor0, _ | .mor1, _ => s.morPut t off v
  | .tb, _ => s.tbPut i off v
  | .pg, _ => s.pgPut a off v
  | .cap, _ => s.capPut a off v
  | .fh, _ => s.fhPut i off v
  | .shr, _ => s.shrPut i off v
  | .sec, _ => s.secPut a off v
  | _, _ => s.plainWrite g off v

/-- A write of a header register. -/
def State.headPut (s : State) (a : Agent) (g off : Nat) (v : Word) : State :=
  if off = F.PAGE_CTRL_EN.off then s.wrPageCtrl g v
  else if off = 0x018 then s.setWord g 0x010 (s.word g 0x010 ||| v)
  else if off = F.IND_ADDR_ADDR.off ∨ off = F.IND_DATA.off then s.indAccess a g off (some v)
  else s.plainWrite g off v

/-- A 32-bit write at a page offset (R469 to R471, R474, R538). -/
def State.regPut (s : State) (a : Agent) (g o : Nat) (v : Word) : State :=
  match pageOf g with
  | none => s.unmapped (agentCode a) (regAddr g o) true
  | some (t, i) =>
    let off := effOffset g o
    if t = .sec ∧ a = .mgmt then s
    else if off < 0x040 then s.headPut a g off v
    else if t.emulated then s.emuWrite a i off v
    else if s.ready g then s.blockPut a t i g off v
    else s.unmapped (agentCode a) (regAddr g o) true

/-- A write narrower than a register (R468). -/
def State.sizeBad (s : State) (a : Agent) (addr : Nat) : State :=
  ((s.fabAddr (agentCode a) addr true).bump pgFab F.SYS_FAB_SIZE_CNT).raise pgFab F.SYS_FAB_ERR_STAT_SIZE_BAD

/-- A write in register space at a natural alignment; a line is no register access. -/
def State.regWrite (s : State) (a : Agent) (r : Nat) (size : Size) (data : Bytes) : State :=
  let g := r / 0x1000
  let o := r % 0x1000
  let w (k : Nat) : Word := BitVec.ofNat 32 (leNat (slice data k 4))
  match size with
  | .b1 | .b2 => if (pageOf g).isSome then s.sizeBad a (regAddr g o) else s.unmapped (agentCode a) (regAddr g o) true
  | .b4 => s.regPut a g (o / 4 * 4) (w 0)
  | .b8 => (s.regPut a g (o / 8 * 8) (w 0)).regPut a g (o / 8 * 8 + 4) (w 4)
  | .line => s.unmapped (agentCode a) (regAddr g o) true

/-! ### Reads of block registers -/

/-- Partition owner of a page, or the tenant of a port (R528). -/
def State.pageTenant (s : State) (g : Nat) : Option Nat :=
  match pageOf g with
  | some (.floe, n) | some (.gaff, n) | some (.brash, n) | some (.spar, n) | some (.rime, n) | some (.fmem, n) | some (.fwin, n) =>
    s.floeTenant n
  | some (.hal, h) => (s.halPart h).map s.partTenant
  | some (.serac, e) => (s.serPart e).map s.partTenant
  | some (.fh, p) => some (s.rf (pgFh p) F.FH_CTRL_TENANT)
  | _ => none

/-- Registers that show counters, flags or status. -/
def showsState (g off : Nat) : Bool := (rowsAt g off).any fun r => decide (r.acc = .ro ∨ r.acc = .w1c ∨ r.acc = .rc)

/-- A read that confidential mode refuses (R464, R528). -/
def State.readHidden (s : State) (a : Agent) (g off : Nat) : Bool :=
  s.confidential && !agentIsFw a &&
    (match pageOf g with
    | some (.drc, _) => decide (F.DRC_RD_LINES_LO.off ≤ off)
    | _ =>
      match s.pageTenant g with
      | some t => showsState g off && decide (s.agentTenant a ≠ some t)
      | none => false)

/-- A read of a block register: the word and the state that the read leaves. -/
def State.blockGet (s : State) (a : Agent) (t : PageType) (i g off : Nat) : State × Word :=
  let w := readWord (rowsAt g off) (s.shownWord g off)
  match t with
  | .tb =>
    let h := s.tbHeldOf a i
    if off = F.TB_RD_NS.off then s.rdTbNs a i
    else if off = F.TB_RD_SEC_LO.off then (s, BitVec.ofNat 32 h.1)
    else if off = F.TB_RD_SEC_HI.off then (s, BitVec.ofNat 32 (h.1 / 2 ^ 32))
    else if off = F.TB_RD_FRAC.off then (s, BitVec.ofNat 32 h.2)
    else (s.clearRead g off, w)
  | .mgmt =>
    if off = F.MGMT_T_HOT_TEMP.off ∧ a ≠ .mgmt then
      (s, putBits w 15 0 (s.coarseReg 0x80 (s.rf pgMgmt F.MGMT_T_HOT_TEMP)))
    else (s.clearRead g off, w)
  | .mpwr =>
    if off = F.MPWR_PKG_PWR.off ∧ a ≠ .mgmt then (s, putBits w 15 0 (s.coarseReg 0x81 (s.rf pgMpwr F.MPWR_PKG_PWR)))
    else (s.clearRead g off, w)
  | _ => (s.clearRead g off, w)

def State.answerWord (s : State) (w : Word) : State := s.answer (leBytes 4 w.toNat) false

/-- A 32-bit read at a page offset; an access that waits answers later. -/
def State.regGet (s : State) (a : Agent) (g o : Nat) : State :=
  match pageOf g with
  | none => (s.unmapped (agentCode a) (regAddr g o) false).answer (ones 4) false
  | some (t, i) =>
    let off := effOffset g o
    if off < 0x040 then
      (if off = F.IND_ADDR_ADDR.off ∨ off = F.IND_DATA.off then s.indAccess a g off none
      else s.answerWord (readWord (rowsAt g off) (s.shownWord g off)))
    else if t.emulated then s.emuRead a i off
    else if !s.ready g then (s.unmapped (agentCode a) (regAddr g o) false).answer (ones 4) false
    else if s.readHidden a g off then s.answer (ones 4) false
    else
      let r := s.blockGet a t i g off
      r.1.answerWord r.2

/-- No answer stands. -/
def State.noAnswer (s : State) : State := { s with rsp := none, rspPoison := false }

/-- The answer, where one has come, cut to the bytes that the access addresses. -/
def State.cutAnswer (s : State) (o n : Nat) : State :=
  match s.rsp with
  | some bs => s.answer (slice bs o n) s.rspPoison
  | none => s

/-- A read in register space (R468). -/
def State.regRead (s : State) (a : Agent) (r : Nat) (size : Size) : State :=
  let g := r / 0x1000
  let o := r % 0x1000
  match size with
  | .b1 => (s.noAnswer.regGet a g (o / 4 * 4)).cutAnswer (o % 4) 1
  | .b2 => (s.noAnswer.regGet a g (o / 4 * 4)).cutAnswer (o % 4 / 2 * 2) 2
  | .b4 => s.noAnswer.regGet a g (o / 4 * 4)
  | .b8 =>
    let lo := s.noAnswer.regGet a g (o / 8 * 8)
    let hi := lo.noAnswer.regGet a g (o / 8 * 8 + 4)
    match lo.rsp, hi.rsp with
    | some x, some y => hi.answer (x ++ y) false
    | _, _ => hi
  | .line => (s.unmapped (agentCode a) (regAddr g o) false).answer (ones 64) false

/-! ### The address map (R41, R42) -/

/-- An access to DRAM by an agent (R251, R462, R529). -/
def State.dramAccess (s : State) (a : Agent) (adr : Nat) (acc : Access) (ecc : Ecc) : State :=
  match acc with
  | .read z =>
    let n := sizeBytes z
    let x := adr / n * n
    if !s.chanReady x then (s.unmapped (agentCode a) x false).answer (ones n) false
    else if !s.granOk (.agent a) x then s.granDeny.answer (ones n) false
    else
      let r := s.firnRead none x false false false ecc
      r.1.answer (r.1.rdBytes x n) r.2
  | .write z data =>
    let n := sizeBytes z
    let x := adr / n * n
    if !s.chanReady x then s.unmapped (agentCode a) x true
    else if !s.granOk (.agent a) x then s.granDeny
    else s.firnWrite x (sized n data) false false

/-- The line that a store to a remote aperture sends: the bytes of the line that it does not write are unstated. -/
def State.remoteLineOf (s : State) (o : Nat) (data : Bytes) : State × Bytes :=
  if data.length = 64 then (s, data)
  else
    let fill := fun i => Config.remoteFill s.fresh i
    ({ s with fresh := s.fresh + 1 }, (List.range 64).map fun i => if o ≤ i ∧ i < o + data.length then data.getD (i - o) 0 else fill i)

/-- A load or store to a remote aperture, by the line that holds it (R44, R433). -/
def State.apertureAccess (s : State) (a : Agent) (adr : Nat) (acc : Access) : State :=
  let tn := (s.agentTenant a).getD 0
  match acc with
  | .read z => (s.noAnswer.remoteAccess (agentCode a) adr tn 1 none).cutAnswer (adr % 64 / sizeBytes z * sizeBytes z) (sizeBytes z)
  | .write z data =>
    let n := sizeBytes z
    let r := s.remoteLineOf (adr % 64 / n * n) (sized n data)
    r.1.remoteAccess (agentCode a) adr tn 1 (some [{ data := r.2, tag := mkTag false false false 0 tn 0 0 0 0 }])

/-- An access outside what is populated (R42). -/
def State.nowhere (s : State) (a : Agent) (adr : Nat) (acc : Access) : State :=
  match acc with
  | .read z => (s.unmapped (agentCode a) adr false).answer (ones (sizeBytes z)) false
  | .write _ _ => s.unmapped (agentCode a) adr true

/-- Agents that the address map serves: the management controller reaches registers alone (R28), the host registers and DRAM (R47). -/
def mapServes (a : Agent) (p : Place) : Bool :=
  match a, p with
  | .mgmt, _ => false
  | .pcie, .dram => true
  | .pcie, _ => false
  | _, _ => true

/-- An access at a physical address. -/
def State.access (s : State) (a : Agent) (adr : Nat) (acc : Access) (ecc : Ecc) : State :=
  if 0x10_0000_0000 ≤ adr ∧ adr < 0x10_1000_0000 then
    match acc with
    | .read z => s.regRead a (adr - 0x10_0000_0000) z
    | .write z data => s.regWrite a (adr - 0x10_0000_0000) z data
  else if 0x18_0000_0000 ≤ adr ∧ adr < 0x18_4000_0000 then
    s.window a ((adr - 0x18_0000_0000) / 0x100_0000) ((adr - 0x18_0000_0000) % 0x100_0000) acc ecc
  else if !mapServes a (placeOf adr) then s.nowhere a adr acc
  else if adr < dramSize then s.dramAccess a adr acc ecc
  else if (remoteTarget adr).isSome then s.apertureAccess a adr acc
  else s.nowhere a adr acc

def execMemoryAccess (a : Agent) (addr : BitVec 40) (acc : Access) (ecc : Ecc) (s : State) : Host.Outcome State Fault Refusal :=
  .next (s.access a addr.toNat acc ecc)

/-- A write of a register (R13). -/
def execRegisterWrite (a : Agent) (addr : BitVec 40) (size : Size) (v : BitVec 64) (s : State) : Host.Outcome State Fault Refusal :=
  .next (s.access a addr.toNat (.write size (leBytes 8 v.toNat)) {})

/-- A read of a counter that clears it (R13, R77). -/
def execRcCounterRead (a : Agent) (addr : BitVec 40) (s : State) : Host.Outcome State Fault Refusal :=
  .next (s.access a addr.toNat (.read .b4) {})

def execIrqForce (a : Agent) (g : BitVec 16) (v : Word) (s : State) : Host.Outcome State Fault Refusal :=
  .next (s.regPut a g.toNat 0x018 v)

def execIndDataRead (a : Agent) (g : BitVec 16) (s : State) : Host.Outcome State Fault Refusal :=
  .next (s.noAnswer.regGet a g.toNat F.IND_DATA.off)

def execIndDataWrite (a : Agent) (g : BitVec 16) (v : Word) (s : State) : Host.Outcome State Fault Refusal :=
  .next (s.regPut a g.toNat F.IND_DATA.off v)

/-- An access to an emulated page beyond its header (R501); the header is the hardware's, as on every page (R466). -/
def execEmuAccess (a : Agent) (i : Fin 3) (off : BitVec 12) (acc : Access) (s : State) : Host.Outcome State Fault Refusal :=
  .next (s.access a (regAddr (pgEmu i.val) off.toNat) acc {})

/-! ### The PCIe host (R47, R438) -/

/-- Unsupported Request: a read completes with all ones, a posted write is dropped. -/
def State.pcieUr (s : State) (acc : Access) : State :=
  match acc with
  | .read z => (s.bump pgPcie F.PCI_UR_CNT).answer (ones (sizeBytes z)) false
  | .write _ _ => s

/-- A request in the window of a BAR. -/
def State.pcieTake (s : State) (r : PcieReq) : State :=
  if r.bar2 then s.access .pcie r.offset.toNat r.acc r.ecc
  else if r.offset.toNat < 0x1000_0000 then s.access .pcie (0x10_0000_0000 + r.offset.toNat) r.acc r.ecc
  else s.pcieUr r.acc

/-- Whether a request comes on a secure IDE stream with the T bit. -/
def State.trusted (s : State) (r : PcieReq) : Bool := r.tBit && (r.stream.map fun i => s.ideSecure i.val).getD false

/-- A request that reaches the endpoint, by the state of the interface. -/
def State.pcieAdmit (s : State) (r : PcieReq) : State :=
  if s.pci.stopping || decide (s.tdisp = 1) || decide (s.tdisp = 3) then s.pcieUr r.acc
  else if s.tdisp = 0 || s.trusted r then s.pcieTake r
  else ((s.raise pgPcie F.PCI_ERR_STAT_NON_IDE_DENIED).bump pgPcie F.PCI_NONIDE_CNT).pcieUr r.acc

def State.pcieReq (s : State) (r : PcieReq) : State :=
  if !s.ready pgPcie || !s.bit pgPcie F.PCI_STAT_LINK_UP then s
  else if !s.works pgPcie then (s.discardWork pgPcie 0).pcieUr r.acc
  else
    let s := s.tally pgPcie F.PCI_RX_TLP_LO 1
    match r.stream, r.integrityOk with
    | some i, false => s.ideFail i.val
    | _, _ => if r.lockEvent then s.tdispError else s.pcieAdmit r

def execPcieRequest (r : PcieReq) (s : State) : Host.Outcome State Fault Refusal := .next (s.pcieReq r)

end Sys2Proof.Machine
end

