-- ==== Sys2Proof/Machine/Dispatch.lean ====
section
/-! DEFINITION. One arm per command: the meaning it calls. -/

namespace Sys2Proof.Machine

def exec (i : Instr) (s : State) : Host.Outcome State Fault Refusal :=
  match i with
  | .registerWrite a addr size v => Sys2Proof.Machine.execRegisterWrite a addr size v s
  | .rcCounterRead a addr => Sys2Proof.Machine.execRcCounterRead a addr s
  | .memoryAccess a addr acc ecc => Sys2Proof.Machine.execMemoryAccess a addr acc ecc s
  | .faultRecordForward q => Sys2Proof.Machine.execFaultRecordForward q s
  | .mmul rx w => Sys2Proof.Machine.execMmul rx w s
  | .cmmul rx w => Sys2Proof.Machine.execCmmul rx w s
  | .bmmul rx w => Sys2Proof.Machine.execBmmul rx w s
  | .tmmul rx w => Sys2Proof.Machine.execTmmul rx w s
  | .attn rx w => Sys2Proof.Machine.execAttn rx w s
  | .conv1d rx w => Sys2Proof.Machine.execConv1d rx w s
  | .gather rx w => Sys2Proof.Machine.execGather rx w s
  | .combine rx w => Sys2Proof.Machine.execCombine rx w s
  | .quant rx w => Sys2Proof.Machine.execQuant rx w s
  | .dequant rx w => Sys2Proof.Machine.execDequant rx w s
  | .adaptStep rx w => Sys2Proof.Machine.execAdaptStep rx w s
  | .gaffIssue a f v => Sys2Proof.Machine.execGaffIssue a f v s
  | .latchedMacroStart f => Sys2Proof.Machine.execLatchedMacroStart f s
  | .wingSignalTimeout f => Sys2Proof.Machine.execWingSignalTimeout f s
  | .zeroDimComplete f => Sys2Proof.Machine.execZeroDimComplete f s
  | .tileLoadComplete f found => Sys2Proof.Machine.execTileLoadComplete f found s
  | .passEnd f par found => Sys2Proof.Machine.execPassEnd f par found s
  | .readoutComplete f found => Sys2Proof.Machine.execReadoutComplete f found s
  | .mergeRoundComplete f found sent => Sys2Proof.Machine.execMergeRoundComplete f found sent s
  | .shareComplete f cycles => Sys2Proof.Machine.execShareComplete f cycles s
  | .wcOverrun f => Sys2Proof.Machine.execWcOverrun f s
  | .gaffBrashAcquire f => Sys2Proof.Machine.execGaffBrashAcquire f s
  | .cbDeferredLoadApply f slot => Sys2Proof.Machine.execCbDeferredLoadApply f slot s
  | .vmov f o => Sys2Proof.Machine.execVmov f o s
  | .vand f o => Sys2Proof.Machine.execVand f o s
  | .vor f o => Sys2Proof.Machine.execVor f o s
  | .vxor f o => Sys2Proof.Machine.execVxor f o s
  | .vsel f o => Sys2Proof.Machine.execVsel f o s
  | .vbcs f o => Sys2Proof.Machine.execVbcs f o s
  | .vbcx f o => Sys2Proof.Machine.execVbcx f o s
  | .vsld f o => Sys2Proof.Machine.execVsld f o s
  | .vslu f o => Sys2Proof.Machine.execVslu f o s
  | .vadd f o => Sys2Proof.Machine.execVadd f o s
  | .vsub f o => Sys2Proof.Machine.execVsub f o s
  | .vmin f o => Sys2Proof.Machine.execVmin f o s
  | .vmax f o => Sys2Proof.Machine.execVmax f o s
  | .vabs f o => Sys2Proof.Machine.execVabs f o s
  | .vneg f o => Sys2Proof.Machine.execVneg f o s
  | .vcmp f o => Sys2Proof.Machine.execVcmp f o s
  | .vmul f o => Sys2Proof.Machine.execVmul f o s
  | .vfma f o => Sys2Proof.Machine.execVfma f o s
  | .vcmul f o => Sys2Proof.Machine.execVcmul f o s
  | .vcmulj f o => Sys2Proof.Machine.execVcmulj f o s
  | .vexp f o => Sys2Proof.Machine.execVexp f o s
  | .vrcp f o => Sys2Proof.Machine.execVrcp f o s
  | .vrsq f o => Sys2Proof.Machine.execVrsq f o s
  | .vcvt f o => Sys2Proof.Machine.execVcvt f o s
  | .vcbx f o => Sys2Proof.Machine.execVcbx f o s
  | .vcbq f o => Sys2Proof.Machine.execVcbq f o s
  | .vrsum f o => Sys2Proof.Machine.execVrsum f o s
  | .vrmax f o => Sys2Proof.Machine.execVrmax f o s
  | .vrmin f o => Sys2Proof.Machine.execVrmin f o s
  | .vramax f o => Sys2Proof.Machine.execVramax f o s
  | .vrcnt f o => Sys2Proof.Machine.execVrcnt f o s
  | .vrany f o => Sys2Proof.Machine.execVrany f o s
  | .vrall f o => Sys2Proof.Machine.execVrall f o s
  | .vld f o => Sys2Proof.Machine.execVld f o s
  | .vst f o => Sys2Proof.Machine.execVst f o s
  | .vldn f o => Sys2Proof.Machine.execVldn f o s
  | .vstn f o => Sys2Proof.Machine.execVstn f o s
  | .vgath f o => Sys2Proof.Machine.execVgath f o s
  | .vscat f o => Sys2Proof.Machine.execVscat f o s
  | .scalarAdd f o => Sys2Proof.Machine.execScalarAdd f o s
  | .scalarSub f o => Sys2Proof.Machine.execScalarSub f o s
  | .scalarAnd f o => Sys2Proof.Machine.execScalarAnd f o s
  | .scalarOr f o => Sys2Proof.Machine.execScalarOr f o s
  | .scalarXor f o => Sys2Proof.Machine.execScalarXor f o s
  | .sll f o => Sys2Proof.Machine.execSll f o s
  | .srl f o => Sys2Proof.Machine.execSrl f o s
  | .sra f o => Sys2Proof.Machine.execSra f o s
  | .slt f o => Sys2Proof.Machine.execSlt f o s
  | .sltu f o => Sys2Proof.Machine.execSltu f o s
  | .scalarMul f o => Sys2Proof.Machine.execScalarMul f o s
  | .scalarAddi f o => Sys2Proof.Machine.execScalarAddi f o s
  | .andi f o => Sys2Proof.Machine.execAndi f o s
  | .ori f o => Sys2Proof.Machine.execOri f o s
  | .lui f o => Sys2Proof.Machine.execLui f o s
  | .lw f o => Sys2Proof.Machine.execLw f o s
  | .sw f o => Sys2Proof.Machine.execSw f o s
  | .setvl f o => Sys2Proof.Machine.execSetvl f o s
  | .mvs f o => Sys2Proof.Machine.execMvs f o s
  | .beq f o => Sys2Proof.Machine.execBeq f o s
  | .bne f o => Sys2Proof.Machine.execBne f o s
  | .blt f o => Sys2Proof.Machine.execBlt f o s
  | .bge f o => Sys2Proof.Machine.execBge f o s
  | .bltu f o => Sys2Proof.Machine.execBltu f o s
  | .bgeu f o => Sys2Proof.Machine.execBgeu f o s
  | .j f o => Sys2Proof.Machine.execJ f o s
  | .bsz f o => Sys2Proof.Machine.execBsz f o s
  | .bsnz f o => Sys2Proof.Machine.execBsnz f o s
  | .bslt f o => Sys2Proof.Machine.execBslt f o s
  | .bsge f o => Sys2Proof.Machine.execBsge f o s
  | .kend f => Sys2Proof.Machine.execKend f s
  | .illegalInstruction f w => Sys2Proof.Machine.execIllegalInstruction f w s
  | .floeKstart a f v => Sys2Proof.Machine.execFloeKstart a f v s
  | .kernelPreloadStart f => Sys2Proof.Machine.execKernelPreloadStart f s
  | .kernelPreloadDone f => Sys2Proof.Machine.execKernelPreloadDone f s
  | .nativeOverrun f => Sys2Proof.Machine.execNativeOverrun f s
  | .pmov f o => Sys2Proof.Machine.execPmov f o s
  | .mpy f o => Sys2Proof.Machine.execMpy f o s
  | .mac f o => Sys2Proof.Machine.execMac f o s
  | .msu f o => Sys2Proof.Machine.execMsu f o s
  | .sparAdd f o => Sys2Proof.Machine.execSparAdd f o s
  | .sparSub f o => Sys2Proof.Machine.execSparSub f o s
  | .sparAnd f o => Sys2Proof.Machine.execSparAnd f o s
  | .sparOr f o => Sys2Proof.Machine.execSparOr f o s
  | .sparXor f o => Sys2Proof.Machine.execSparXor f o s
  | .sparMin f o => Sys2Proof.Machine.execSparMin f o s
  | .sparMax f o => Sys2Proof.Machine.execSparMax f o s
  | .sparAbs f o => Sys2Proof.Machine.execSparAbs f o s
  | .sparNeg f o => Sys2Proof.Machine.execSparNeg f o s
  | .sparAddi f o => Sys2Proof.Machine.execSparAddi f o s
  | .ldi f o => Sys2Proof.Machine.execLdi f o s
  | .ldp f o => Sys2Proof.Machine.execLdp f o s
  | .ldm f o => Sys2Proof.Machine.execLdm f o s
  | .ldb f o => Sys2Proof.Machine.execLdb f o s
  | .ldl f o => Sys2Proof.Machine.execLdl f o s
  | .movp f o => Sys2Proof.Machine.execMovp f o s
  | .movt f o => Sys2Proof.Machine.execMovt f o s
  | .movh f o => Sys2Proof.Machine.execMovh f o s
  | .movl f o => Sys2Proof.Machine.execMovl f o s
  | .mova f o => Sys2Proof.Machine.execMova f o s
  | .clr f o => Sys2Proof.Machine.execClr f o s
  | .adda f o => Sys2Proof.Machine.execAdda f o s
  | .suba f o => Sys2Proof.Machine.execSuba f o s
  | .ash f o => Sys2Proof.Machine.execAsh f o s
  | .sparExp f o => Sys2Proof.Machine.execSparExp f o s
  | .norm f o => Sys2Proof.Machine.execNorm f o s
  | .movs f o => Sys2Proof.Machine.execMovs f o s
  | .sparB f target => Sys2Proof.Machine.execSparB f target s
  | .bz f target => Sys2Proof.Machine.execBz f target s
  | .bnz f target => Sys2Proof.Machine.execBnz f target s
  | .bn f target => Sys2Proof.Machine.execBn f target s
  | .bnn f target => Sys2Proof.Machine.execBnn f target s
  | .bv f target => Sys2Proof.Machine.execBv f target s
  | .rep f lenM1 count => Sys2Proof.Machine.execRep f lenM1 count s
  | .rept f lenM1 t => Sys2Proof.Machine.execRept f lenM1 t s
  | .setie f ie mask => Sys2Proof.Machine.execSetie f ie mask s
  | .reti f => Sys2Proof.Machine.execReti f s
  | .sparEnd f => Sys2Proof.Machine.execSparEnd f s
  | .nop f => Sys2Proof.Machine.execNop f s
  | .sparKstart a f v => Sys2Proof.Machine.execSparKstart a f v s
  | .sparPreloadDone f imemUe => Sys2Proof.Machine.execSparPreloadDone f imemUe s
  | .sparKernelEnd f => Sys2Proof.Machine.execSparKernelEnd f s
  | .sparOverrun f => Sys2Proof.Machine.execSparOverrun f s
  | .sparMbox a f v => Sys2Proof.Machine.execSparMbox a f v s
  | .tick f => Sys2Proof.Machine.execTick f s
  | .sparIrqAccept f => Sys2Proof.Machine.execSparIrqAccept f s
  | .scratchpadAccess f port line op ecc => Sys2Proof.Machine.execScratchpadAccess f port line op ecc s
  | .patrolScrubTurn f ecc => Sys2Proof.Machine.execPatrolScrubTurn f ecc s
  | .floeMemInitDone f => Sys2Proof.Machine.execFloeMemInitDone f s
  | .windowAccess a f off acc ecc => Sys2Proof.Machine.execWindowAccess a f off acc ecc s
  | .scrubRequest a f => Sys2Proof.Machine.execScrubRequest a f s
  | .scrubStart f => Sys2Proof.Machine.execScrubStart f s
  | .scrubEnd f => Sys2Proof.Machine.execScrubEnd f s
  | .firnRead tenant addr pin wline ecc => Sys2Proof.Machine.execFirnRead tenant addr pin wline ecc s
  | .firnWrite addr data wline => Sys2Proof.Machine.execFirnWrite addr data wline s
  | .firnInvalidate a sl tenant => Sys2Proof.Machine.execFirnInvalidate a sl tenant s
  | .firnUnpin a sl tenant => Sys2Proof.Machine.execFirnUnpin a sl tenant s
  | .firnInvalidateUnpin a sl tenant => Sys2Proof.Machine.execFirnInvalidateUnpin a sl tenant s
  | .firnWalkEnd sl => Sys2Proof.Machine.execFirnWalkEnd sl s
  | .remoteFloeAccess link r => Sys2Proof.Machine.execRemoteFloeAccess link r s
  | .fwinCtrl a w v => Sys2Proof.Machine.execFwinCtrl a w v s
  | .windowCloseComplete w => Sys2Proof.Machine.execWindowCloseComplete w s
  | .halArmGo a h => Sys2Proof.Machine.execHalArmGo a h s
  | .halCancel a h => Sys2Proof.Machine.execHalCancel a h s
  | .halCancelAll a h => Sys2Proof.Machine.execHalCancelAll a h s
  | .descActivate h => Sys2Proof.Machine.execDescActivate h s
  | .halLineDeliver h ecc peer => Sys2Proof.Machine.execHalLineDeliver h ecc peer s
  | .halTransferComplete h cycles => Sys2Proof.Machine.execHalTransferComplete h cycles s
  | .halZeroRowComplete h => Sys2Proof.Machine.execHalZeroRowComplete h s
  | .cancelEnd h cycles => Sys2Proof.Machine.execCancelEnd h cycles s
  | .fronthaulFrameReceive p fr => Sys2Proof.Machine.execFronthaulFrameReceive p fr s
  | .partnerRetire p => Sys2Proof.Machine.execPartnerRetire p s
  | .slotOpen c => Sys2Proof.Machine.execSlotOpen c s
  | .slotClose c => Sys2Proof.Machine.execSlotClose c s
  | .allocPush a v => Sys2Proof.Machine.execAllocPush a v s
  | .balAcPop a v => Sys2Proof.Machine.execBalAcPop a v s
  | .adpStart a v => Sys2Proof.Machine.execAdpStart a v s
  | .adpSampleEmit => Sys2Proof.Machine.execAdpSampleEmit s
  | .replaySlot c => Sys2Proof.Machine.execReplaySlot c s
  | .seracInputLine e data tag => Sys2Proof.Machine.execSeracInputLine e data tag s
  | .seracJobStart e => Sys2Proof.Machine.execSeracJobStart e s
  | .ldpc e memUe => Sys2Proof.Machine.execLdpc e memUe s
  | .polar e memUe => Sys2Proof.Machine.execPolar e memUe s
  | .tbCheck e memUe => Sys2Proof.Machine.execTbCheck e memUe s
  | .wsetLoad e memUe => Sys2Proof.Machine.execWsetLoad e memUe s
  | .seracJobEnd e cycles => Sys2Proof.Machine.execSeracJobEnd e cycles s
  | .seracRecordRead e => Sys2Proof.Machine.execSeracRecordRead e s
  | .serWsetClr a e v => Sys2Proof.Machine.execSerWsetClr a e v s
  | .tableCommit a v => Sys2Proof.Machine.execTableCommit a v s
  | .tableVerifyEnd => Sys2Proof.Machine.execTableVerifyEnd s
  | .tableActivate => Sys2Proof.Machine.execTableActivate s
  | .periodBoundary => Sys2Proof.Machine.execPeriodBoundary s
  | .stepRealign => Sys2Proof.Machine.execStepRealign s
  | .issueMacro n => Sys2Proof.Machine.execIssueMacro n s
  | .issueNkern n => Sys2Proof.Machine.execIssueNkern n s
  | .issueSkern n => Sys2Proof.Machine.execIssueSkern n s
  | .issueBal n => Sys2Proof.Machine.execIssueBal n s
  | .issueHal n => Sys2Proof.Machine.execIssueHal n s
  | .mstAdpSwap a v => Sys2Proof.Machine.execMstAdpSwap a v s
  | .mstBeTail a p v => Sys2Proof.Machine.execMstBeTail a p v s
  | .mstBeRingCfg a p size v => Sys2Proof.Machine.execMstBeRingCfg a p size v s
  | .flush a p => Sys2Proof.Machine.execFlush a p s
  | .beEvaluate => Sys2Proof.Machine.execBeEvaluate s
  | .beRequestEnd p slot stopped => Sys2Proof.Machine.execBeRequestEnd p slot stopped s
  | .beHalTimeout p slot => Sys2Proof.Machine.execBeHalTimeout p slot s
  | .form a p => Sys2Proof.Machine.execForm a p s
  | .drain a p => Sys2Proof.Machine.execDrain a p s
  | .kill a p => Sys2Proof.Machine.execKill a p s
  | .partitionDrained p => Sys2Proof.Machine.execPartitionDrained p s
  | .partitionClearStart p => Sys2Proof.Machine.execPartitionClearStart p s
  | .partitionFree p => Sys2Proof.Machine.execPartitionFree p s
  | .composeDigest h => Sys2Proof.Machine.execComposeDigest h s
  | .detRingCfg a t which v => Sys2Proof.Machine.execDetRingCfg a t which v s
  | .tbIncFrac a tb v => Sys2Proof.Machine.execTbIncFrac a tb v s
  | .tbIncNs a tb v => Sys2Proof.Machine.execTbIncNs a tb v s
  | .tbAdj a tb v => Sys2Proof.Machine.execTbAdj a tb v s
  | .slewComplete tb => Sys2Proof.Machine.execSlewComplete tb s
  | .tbStepRequest a tb v => Sys2Proof.Machine.execTbStepRequest a tb v s
  | .tbStepApply tb => Sys2Proof.Machine.execTbStepApply tb s
  | .tbRdNs a tb => Sys2Proof.Machine.execTbRdNs a tb s
  | .masterLost => Sys2Proof.Machine.execMasterLost s
  | .synceLost => Sys2Proof.Machine.execSynceLost s
  | .synceRelock => Sys2Proof.Machine.execSynceRelock s
  | .tsClkCtrl a v => Sys2Proof.Machine.execTsClkCtrl a v s
  | .claim a u => Sys2Proof.Machine.execClaim a u s
  | .release a u => Sys2Proof.Machine.execRelease a u s
  | .arm a g => Sys2Proof.Machine.execArm a g s
  | .disarm a g => Sys2Proof.Machine.execDisarm a g s
  | .pgFire g => Sys2Proof.Machine.execPgFire g s
  | .snapshotComplete => Sys2Proof.Machine.execSnapshotComplete s
  | .pinPulseEnd g => Sys2Proof.Machine.execPinPulseEnd g s
  | .captureEdge c falling => Sys2Proof.Machine.execCaptureEdge c falling s
  | .pop a c => Sys2Proof.Machine.execPop a c s
  | .fhCtrl a p v => Sys2Proof.Machine.execFhCtrl a p v s
  | .fhTxrWr a p v => Sys2Proof.Machine.execFhTxrWr a p v s
  | .fhFrameTransmit p => Sys2Proof.Machine.execFhFrameTransmit p s
  | .fhRxrRd a p v => Sys2Proof.Machine.execFhRxrRd a p v s
  | .fhTxtsPop a p v => Sys2Proof.Machine.execFhTxtsPop a p v s
  | .holdIdleFrame n => Sys2Proof.Machine.execHoldIdleFrame n s
  | .shroudTrainingDone l => Sys2Proof.Machine.execShroudTrainingDone l s
  | .shroudAuth l peer => Sys2Proof.Machine.execShroudAuth l peer s
  | .shroudFrameSend l => Sys2Proof.Machine.execShroudFrameSend l s
  | .shroudFrameReceive l fr => Sys2Proof.Machine.execShroudFrameReceive l fr s
  | .shroudRetryTimeout l seq => Sys2Proof.Machine.execShroudRetryTimeout l seq s
  | .shroudOldKeyExpire l => Sys2Proof.Machine.execShroudOldKeyExpire l s
  | .shroudLaneFail l lane => Sys2Proof.Machine.execShroudLaneFail l lane s
  | .shroudRemapDone l => Sys2Proof.Machine.execShroudRemapDone l s
  | .shroudLinkDown l => Sys2Proof.Machine.execShroudLinkDown l s
  | .shroudRemoteAccess addr tenant n lines => Sys2Proof.Machine.execShroudRemoteAccess addr tenant n lines s
  | .shrRank a v => Sys2Proof.Machine.execShrRank a v s
  | .pcieRequest r => Sys2Proof.Machine.execPcieRequest r s
  | .stopInterface => Sys2Proof.Machine.execStopInterface s
  | .moduleInsert m ident => Sys2Proof.Machine.execModuleInsert m ident s
  | .moduleRemove m => Sys2Proof.Machine.execModuleRemove m s
  | .modulePoll m r => Sys2Proof.Machine.execModulePoll m r s
  | .lifeTableSave => Sys2Proof.Machine.execLifeTableSave s
  | .eolUpdate m now prev => Sys2Proof.Machine.execEolUpdate m now prev s
  | .modPathDlyPs a m v => Sys2Proof.Machine.execModPathDlyPs a m v s
  | .dramRead addr wline ecc => Sys2Proof.Machine.execDramRead addr wline ecc s
  | .dramWrite addr data wline => Sys2Proof.Machine.execDramWrite addr data wline s
  | .dramPatrolRead ch found => Sys2Proof.Machine.execDramPatrolRead ch found s
  | .drcRemapCmd a ch v => Sys2Proof.Machine.execDrcRemapCmd a ch v s
  | .remapStart ch => Sys2Proof.Machine.execRemapStart ch s
  | .remapSwitch ch => Sys2Proof.Machine.execRemapSwitch ch s
  | .drcIw a ch v => Sys2Proof.Machine.execDrcIw a ch v s
  | .srst a g => Sys2Proof.Machine.execSrst a g s
  | .pageCtrlEn a g en => Sys2Proof.Machine.execPageCtrlEn a g en s
  | .shutdownComplete g => Sys2Proof.Machine.execShutdownComplete g s
  | .irqForce a g v => Sys2Proof.Machine.execIrqForce a g v s
  | .indDataRead a g => Sys2Proof.Machine.execIndDataRead a g s
  | .indDataWrite a g v => Sys2Proof.Machine.execIndDataWrite a g v s
  | .indTimeout g => Sys2Proof.Machine.execIndTimeout g s
  | .interruptDeliver v => Sys2Proof.Machine.execInterruptDeliver v s
  | .iaggEoi a v => Sys2Proof.Machine.execIaggEoi a v s
  | .cfgSweepStart => Sys2Proof.Machine.execCfgSweepStart s
  | .cfgSweepEnd => Sys2Proof.Machine.execCfgSweepEnd s
  | .crcCommit a v => Sys2Proof.Machine.execCrcCommit a v s
  | .cfgCrcRef a v => Sys2Proof.Machine.execCfgCrcRef a v s
  | .load a => Sys2Proof.Machine.execLoad a s
  | .update a => Sys2Proof.Machine.execUpdate a s
  | .fwLoadDone => Sys2Proof.Machine.execFwLoadDone s
  | .fwldTopo a v => Sys2Proof.Machine.execFwldTopo a v s
  | .fwWatchdogExpire k => Sys2Proof.Machine.execFwWatchdogExpire k s
  | .componentProgressMiss k domainFault => Sys2Proof.Machine.execComponentProgressMiss k domainFault s
  | .complexWatchdogExpire => Sys2Proof.Machine.execComplexWatchdogExpire s
  | .fwRestartDone k => Sys2Proof.Machine.execFwRestartDone k s
  | .checkpoint k => Sys2Proof.Machine.execCheckpoint k s
  | .emuAccess a n off acc => Sys2Proof.Machine.execEmuAccess a n off acc s
  | .emuTimeout n => Sys2Proof.Machine.execEmuTimeout n s
  | .handoffStart => Sys2Proof.Machine.execHandoffStart s
  | .handoffDone => Sys2Proof.Machine.execHandoffDone s
  | .updateRollback => Sys2Proof.Machine.execUpdateRollback s
  | .fwctlHeartbeat a v => Sys2Proof.Machine.execFwctlHeartbeat a v s
  | .leaseExpire => Sys2Proof.Machine.execLeaseExpire s
  | .detach a seq => Sys2Proof.Machine.execDetach a seq s
  | .resume a seq => Sys2Proof.Machine.execResume a seq s
  | .acquire a page => Sys2Proof.Machine.execAcquire a page s
  | .indLockRelease a => Sys2Proof.Machine.execIndLockRelease a s
  | .indLockTimeout => Sys2Proof.Machine.execIndLockTimeout s
  | .stepReq a => Sys2Proof.Machine.execStepReq a s
  | .getVersion tr => Sys2Proof.Machine.execGetVersion tr s
  | .getCapabilities tr => Sys2Proof.Machine.execGetCapabilities tr s
  | .negotiateAlgorithms tr => Sys2Proof.Machine.execNegotiateAlgorithms tr s
  | .getDigests tr => Sys2Proof.Machine.execGetDigests tr s
  | .getCertificate tr slot offset len => Sys2Proof.Machine.execGetCertificate tr slot offset len s
  | .challenge tr request => Sys2Proof.Machine.execChallenge tr request s
  | .getMeasurements tr signed request => Sys2Proof.Machine.execGetMeasurements tr signed request s
  | .keyExchange tr request => Sys2Proof.Machine.execKeyExchange tr request s
  | .finish session => Sys2Proof.Machine.execFinish session s
  | .endSession session => Sys2Proof.Machine.execEndSession session s
  | .cosign tr => Sys2Proof.Machine.execCosign tr s
  | .cosignSignDone tr => Sys2Proof.Machine.execCosignSignDone tr s
  | .respondIfReady tr => Sys2Proof.Machine.execRespondIfReady tr s
  | .tenantAttach session tenant => Sys2Proof.Machine.execTenantAttach session tenant s
  | .secConfReq a => Sys2Proof.Machine.execSecConfReq a s
  | .secDbgCtrl a v => Sys2Proof.Machine.execSecDbgCtrl a v s
  | .granuleRelease a g => Sys2Proof.Machine.execGranuleRelease a g s
  | .granuleZeroDone g => Sys2Proof.Machine.execGranuleZeroDone g s
  | .keyRequest a => Sys2Proof.Machine.execKeyRequest a s
  | .keyRequestDone => Sys2Proof.Machine.execKeyRequestDone s
  | .telemetryWindow means => Sys2Proof.Machine.execTelemetryWindow means s
  | .mgmtStart imageOk => Sys2Proof.Machine.execMgmtStart imageOk s
  | .sensorSample index v => Sys2Proof.Machine.execSensorSample index v s
  | .loadDetectTest pins => Sys2Proof.Machine.execLoadDetectTest pins s
  | .opEvaluate => Sys2Proof.Machine.execOpEvaluate s
  | .fwpmApply => Sys2Proof.Machine.execFwpmApply s
  | .applyLate => Sys2Proof.Machine.execApplyLate s
  | .snapTriggerCheck => Sys2Proof.Machine.execSnapTriggerCheck s
  | .logIntake r => Sys2Proof.Machine.execLogIntake r s
  | .logFlashWrite failures => Sys2Proof.Machine.execLogFlashWrite failures s
  | .mgmtLogRd a v => Sys2Proof.Machine.execMgmtLogRd a v s
  | .mctpControl r => Sys2Proof.Machine.execMctpControl r s
  | .pldmMessage r => Sys2Proof.Machine.execPldmMessage r s
  | .spdmRelay request => Sys2Proof.Machine.execSpdmRelay request s
  | .logReadRequest seq => Sys2Proof.Machine.execLogReadRequest seq s
  | .pldmFirmwareUpdate image version => Sys2Proof.Machine.execPldmFirmwareUpdate image version s
  | .activateFirmware => Sys2Proof.Machine.execActivateFirmware s
  | .mgmtUpdateRollback => Sys2Proof.Machine.execMgmtUpdateRollback s
  | .handshakeTimeout f => Sys2Proof.Machine.execHandshakeTimeout f s
  | .floeFatal f cause => Sys2Proof.Machine.execFloeFatal f cause s
  | .fence a c j => Sys2Proof.Machine.execFence a c j s
  | .spareMapDone c => Sys2Proof.Machine.execSpareMapDone c s
  | .restore a c => Sys2Proof.Machine.execRestore a c s
  | .restoreComplete c => Sys2Proof.Machine.execRestoreComplete c s
  | .seracEngineFence e => Sys2Proof.Machine.execSeracEngineFence e s
  | .porstNAssert => Sys2Proof.Machine.execPorstNAssert s
  | .porstNRelease fwtop bootsrc => Sys2Proof.Machine.execPorstNRelease fwtop bootsrc s
  | .sysrstNAssert => Sys2Proof.Machine.execSysrstNAssert s
  | .sysrstNRelease => Sys2Proof.Machine.execSysrstNRelease s
  | .warm a v => Sys2Proof.Machine.execWarm a v s
  | .mgmtRstNAssert => Sys2Proof.Machine.execMgmtRstNAssert s
  | .mgmtRstNRelease addr => Sys2Proof.Machine.execMgmtRstNRelease addr s
  | .pciePerstN asserted => Sys2Proof.Machine.execPciePerstN asserted s
  | .blockReady g => Sys2Proof.Machine.execBlockReady g s
  | .brownout => Sys2Proof.Machine.execBrownout s
  | .brownoutRestart fwtop bootsrc => Sys2Proof.Machine.execBrownoutRestart fwtop bootsrc s
  | .seqErr => Sys2Proof.Machine.execSeqErr s
  | .thermtrip => Sys2Proof.Machine.execThermtrip s
  | .sysBootCmd a v => Sys2Proof.Machine.execSysBootCmd a v s
  | .bootFetchDone image readOk => Sys2Proof.Machine.execBootFetchDone image readOk s
  | .sysAppStart a v => Sys2Proof.Machine.execSysAppStart a v s
  | .fhLinkUp p => Sys2Proof.Machine.execFhLinkUp p s
  | .fhLinkDown p => Sys2Proof.Machine.execFhLinkDown p s
  | .pcieLinkUp gen width => Sys2Proof.Machine.execPcieLinkUp gen width s
  | .pcieLinkDown => Sys2Proof.Machine.execPcieLinkDown s
  | .tdispLockInterface => Sys2Proof.Machine.execTdispLockInterface s
  | .tdispStartInterface => Sys2Proof.Machine.execTdispStartInterface s
  | .ideKmKeyProgramming stream => Sys2Proof.Machine.execIdeKmKeyProgramming stream s
  | .shrCtrl a l v => Sys2Proof.Machine.execShrCtrl a l v s
  | .shroudKeyInstall l => Sys2Proof.Machine.execShroudKeyInstall l s
  | .dramFrameStart ch => Sys2Proof.Machine.execDramFrameStart ch s
  | .timingPllLocked => Sys2Proof.Machine.execTimingPllLocked s
  | .mainRailsUp => Sys2Proof.Machine.execMainRailsUp s
  | .mainRailsDown => Sys2Proof.Machine.execMainRailsDown s
  | .standbyPowerLoss => Sys2Proof.Machine.execStandbyPowerLoss s

end Sys2Proof.Machine
end

