-- ==== Sys2Proof/Safety.lean ====
section
/-! DEFINITION. What a sound state is: the canonical forms of the sparse tables, and the ranges that the specification gives to time bases,
fault queues and counters. Every step keeps it, and the state at the release of PORST_N has it. -/

namespace Sys2Proof.Machine

/-- The canonical form of the byte memory: rising addresses, and no byte that an unlisted address reads as. -/
def Memory.wf (m : Tab Byte) : Bool := Tab.wf (fun _ => 0) m

/-- The canonical form of the register file: rising keys, and no word at its reset value. -/
def Registers.wf (t : Tab Word) : Bool := Tab.wf regReset t

/-- A time base lies in the ranges of R392. -/
def TimeBase.inRange (t : TimeBase) : Prop := t.sec < 2 ^ 48 ∧ t.ns < 1000000000 ∧ t.frac < 2 ^ 32

/-- A sound state: canonical memory, registers, tags, poison marks and side stores; time bases in range (R392); fault queues of at most 1,024
records, and LOST at most 0xFFFF (R557); live counters of 64 bits (R134). -/
structure State.Sound (s : State) : Prop where
  mem : Memory.wf s.mem = true
  regs : Registers.wf s.regs = true
  tags : Tab.wf (fun _ => (0 : Tag)) s.tags = true
  marks : Tab.wf (fun _ => false) s.dramPoison = true
  side : Tab.wf (fun _ => ({} : SideSlot)) s.side = true
  accSide : Tab.wf (fun _ => false) s.accSide = true
  bases : ∀ i, (s.timeBase i).inRange
  queues : ∀ q, (Tab.at s.faultQ q []).length ≤ 1024
  lost : ∀ q, Tab.at s.faultLost q 0 ≤ 0xFFFF
  live : ∀ k, Tab.at s.live k 0 < 2 ^ 64

end Sys2Proof.Machine
end

