-- ==== Sys2Proof/WellFormed.lean ====
section
/-! DEFINITION. Which commands are well formed: their payloads have the length that the rule gives, their counts stay within a line's words, and the
pages that they name exist. The machine runs a command that is not well formed too: it cuts or fills a payload and takes an unpopulated page as
R42 says. -/

namespace Sys2Proof.Machine

/-- The data of a write has the size of the access (R246, R468). -/
def Access.wf : Access → Bool
  | .read _ => true
  | .write z d => d.length = sizeBytes z

/-- A line has eight words: no more of them are corrected or rebuilt (R240, R241). -/
def Ecc.wf (e : Ecc) : Bool := e.ce + e.wlc ≤ 8

/-- A line of 64 bytes (R33). -/
def lineWf (bs : Bytes) : Bool := bs.length = 64

/-- Lines of 64 bytes, as many as the access counts, at least one (R428). -/
def linesWf (n : Nat) (ls : Option (List TaggedLine)) : Bool :=
  1 ≤ n && (ls.all fun ls => decide (ls.length = n) && ls.all fun l => lineWf l.data)

/-- Bytes of a write stay within the line (R236). -/
def SpOp.wf : SpOp → Bool
  | .read => true
  | .write off d _ => off.toNat + d.length ≤ 64

/-- The fields of a module's identity (R440). -/
def ModIdent.wf (m : ModIdent) : Bool :=
  m.vendor.length = 16 && m.part.length = 16 && m.serial.length = 16 && m.date.length = 8

/-- A well-formed command. -/
def Instr.wf : Instr → Bool
  | .memoryAccess _ _ acc ecc => Access.wf acc && Ecc.wf ecc
  | .tileLoadComplete _ found | .passEnd _ _ found | .readoutComplete _ found => found.all fun e => Ecc.wf e.2
  | .mergeRoundComplete _ found sent => (found ++ sent).all fun e => Ecc.wf e.2
  | .scratchpadAccess _ _ _ op ecc => SpOp.wf op && Ecc.wf ecc
  | .patrolScrubTurn _ ecc => Ecc.wf ecc
  | .windowAccess _ _ _ acc ecc => Access.wf acc && Ecc.wf ecc
  | .firnRead _ _ _ _ ecc => Ecc.wf ecc
  | .firnWrite addr data _ => addr.toNat % 64 + data.length ≤ 64
  | .remoteFloeAccess _ r => linesWf r.n r.lines && Ecc.wf r.ecc
  | .halLineDeliver _ ecc peer => Ecc.wf ecc && peer.all fun p => lineWf p.line.data
  | .seracInputLine _ data _ => lineWf data
  | .shroudRemoteAccess _ _ n lines => linesWf n lines
  | .moduleInsert _ ident => ModIdent.wf ident
  | .dramRead _ _ ecc => Ecc.wf ecc
  | .dramWrite addr data _ => addr.toNat % 64 + data.length ≤ 64
  | .dramPatrolRead _ found => found.all Ecc.wf
  | .pcieRequest r => Access.wf r.acc && Ecc.wf r.ecc
  | .emuAccess _ _ _ acc => Access.wf acc
  | .srst _ g => (pageOf g.toNat).isSome
  | .pageCtrlEn _ g _ => (pageOf g.toNat).isSome
  | .shutdownComplete g => (pageOf g.toNat).isSome
  | .irqForce _ g _ => (pageOf g.toNat).isSome
  | .indDataRead _ g => (pageOf g.toNat).isSome
  | .indDataWrite _ g _ => (pageOf g.toNat).isSome
  | .indTimeout g => (pageOf g.toNat).isSome
  | .telemetryWindow means => means.all fun e => decide (0 < e.2.2)
  | .loadDetectTest pins => (pins.map (·.1)).dedup.length = pins.length
  | _ => true

end Sys2Proof.Machine
end

