-- ==== Sys2Proof/Certificates/Slice0/Obligations.lean ====
section
/-! DEFINITION. The statements for the provers, in the order of the blocks of the spec. -/

namespace Sys2Proof.Machine

/-- Every byte of memory outside `[lo, hi)` is unchanged. -/
def BytesKept (s t : State) (lo hi : Nat) : Prop := ∀ x, x < lo ∨ hi ≤ x → t.rdByte x = s.rdByte x

/-- A counter of 32 bits rises by one, up to its largest value (R77). -/
def Counts (s t : State) (g : Nat) (c : Fld) : Prop := t.rf g c = min (s.rf g c + 1) 0xFFFFFFFF

/-- Memory and tags are unchanged. -/
def DataKept (s t : State) : Prop := t.mem = s.mem ∧ t.tags = s.tags

/-- The command completes, with the facts given about its next state. -/
def Gives (i : Instr) (s : State) (p : State → Prop) : Prop := ∃ t, exec i s = .next t ∧ p t

/-- The answer to a read: its bytes, and whether they carry POISON. -/
def Answers (t : State) (bs : Bytes) (poison : Bool) : Prop := t.rsp = some bs ∧ t.rspPoison = poison

end Sys2Proof.Machine

namespace Sys2Proof.Machine

/-- `s` and `t` differ in the issue core of floe `f` alone: every other floe, every register, all memory and all tags are the same. -/
def OnlyCore (f : Nat) (s t : State) : Prop := t = s.setCore f (t.core f)

/-- A native kernel runs on floe `f`, and an instruction with these source and destination registers issues before WC_DECL. -/
def Issues (s : State) (f : Nat) (vs sms xs : List Nat) (u : KUnit) : Prop :=
  (s.core f).phase = .running ∧ (s.core f).issueAt vs sms xs u ≤ (s.core f).decl

/-- What a scalar operation does (R190, R191): its value goes to XD, X0 stays 0, and nothing else but issue times and the program counter
changes. -/
def ScalarResult (i : Fin 64 → ScalarArgs → Instr) (srcs : ScalarArgs → List Nat) (v : ScalarArgs → CoreSt → Word) : Prop :=
  ∀ (f : Fin 64) (o : ScalarArgs) (s : State), Issues s f [] [] (o.xd.toNat :: srcs o) .none →
    ∃ t, exec (i f o) s = .next t ∧ OnlyCore f s t ∧
      (∀ k, (t.core f).rx k = if k = o.xd.toNat ∧ k ≠ 0 then v o (s.core f) else (s.core f).rx k) ∧
      (t.core f).pc = (s.core f).pc + 1 ∧ (t.core f).v = (s.core f).v ∧ (t.core f).vPoison = (s.core f).vPoison ∧
      (t.core f).sm = (s.core f).sm ∧ (t.core f).vl = (s.core f).vl ∧ (t.core f).latch = (s.core f).latch

/-- A three-register scalar operation. -/
def ScalarRR (i : Fin 64 → ScalarArgs → Instr) (op : Word → Word → Word) : Prop :=
  ScalarResult i (fun o => [o.xa.toNat, o.xb.toNat]) fun o c => op (c.rx o.xa.toNat) (c.rx o.xb.toNat)

/-- A scalar operation on IMM12, sign-extended. -/
def ScalarRI (i : Fin 64 → ScalarArgs → Instr) (op : Word → Word → Word) : Prop :=
  ScalarResult i (fun o => [o.xa.toNat]) fun o c => op (c.rx o.xa.toNat) ((o.imm20.setWidth 12).signExtend 32)

end Sys2Proof.Machine

open Sys2Proof Sys2Proof.Machine in
/-- R191 (scalar operations), R190 (X0): the value goes to XD, and the frame. -/
def Obligations.ScalarOperations : Prop :=
  ScalarRR .scalarAdd (fun a b => a + b) ∧ ScalarRR .scalarSub (fun a b => a - b) ∧ ScalarRR .scalarAnd (fun a b => a &&& b) ∧
  ScalarRR .scalarOr (fun a b => a ||| b) ∧ ScalarRR .scalarXor (fun a b => a ^^^ b) ∧
  ScalarRR .sll (fun a b => a <<< (b.toNat % 32)) ∧ ScalarRR .srl (fun a b => a >>> (b.toNat % 32)) ∧
  ScalarRR .sra (fun a b => a.sshiftRight (b.toNat % 32)) ∧
  ScalarRR .slt (fun a b => if a.toInt < b.toInt then 1 else 0) ∧ ScalarRR .sltu (fun a b => if a.toNat < b.toNat then 1 else 0) ∧
  ScalarRR .scalarMul (fun a b => a * b) ∧
  ScalarRI .scalarAddi (fun a i => a + i) ∧ ScalarRI .andi (fun a i => a &&& i) ∧ ScalarRI .ori (fun a i => a ||| i) ∧
  ScalarResult .lui (fun _ => []) (fun o _ => o.imm20.setWidth 32 <<< 12)

namespace Sys2Proof.Machine

/-- A branch in a running kernel (R191): where it is taken and its target lies in the code, the program counter is the target; where it is not
taken, it is the next instruction; and nothing else changes but issue times. -/
def BranchResult (i : Fin 64 → BranchArgs → Instr) (sms : BranchArgs → List Nat) (xs : BranchArgs → List Nat) (ok : CoreSt → BranchArgs → Prop)
    (taken : CoreSt → BranchArgs → Prop) : Prop :=
  ∀ (f : Fin 64) (o : BranchArgs) (s : State), Issues s f [] (sms o) (xs o) .none → ok (s.core f) o →
    0 ≤ ((s.core f).pc : Int) + o.off.toInt → ((s.core f).pc : Int) + o.off.toInt < (s.core f).codeLen →
    ∃ t, exec (i f o) s = .next t ∧
      (taken (s.core f) o → ((t.core f).pc : Int) = (s.core f).pc + o.off.toInt) ∧ (¬ taken (s.core f) o → (t.core f).pc = (s.core f).pc + 1) ∧
      (∀ k, (t.core f).rx k = (s.core f).rx k) ∧ (t.core f).v = (s.core f).v ∧ (t.core f).sm = (s.core f).sm ∧
      (t.core f).vl = (s.core f).vl ∧ (t.core f).latch = (s.core f).latch ∧ (t.core f).phase = .running ∧
      t.mem = s.mem ∧ t.tags = s.tags ∧ t.regs = s.regs ∧ (∀ k : Nat, k ≠ f → t.floe k = s.floe k)

/-- A branch on two scalar registers. -/
def BranchRR (i : Fin 64 → BranchArgs → Instr) (cond : Word → Word → Prop) : Prop :=
  BranchResult i (fun _ => []) (fun o => [o.xa.toNat, o.xb.toNat]) (fun _ _ => True)
    fun c o => cond (c.rx o.xa.toNat) (c.rx o.xb.toNat)

/-- A branch on a summary register that carries no poison: bits [18:16] name it and bit [19] is 0. -/
def BranchSm (i : Fin 64 → BranchArgs → Instr) (cond : Word → Word → Prop) : Prop :=
  BranchResult i (fun o => [o.xb.toNat]) (fun o => [o.xa.toNat]) (fun c o => o.xb.toNat < 8 ∧ (c.rsm o.xb.toNat).poison = false)
    fun c o => cond (c.rsm o.xb.toNat).val (c.rx o.xa.toNat)

end Sys2Proof.Machine

open Sys2Proof Sys2Proof.Machine in
/-- R191 (branches), R190 (the field of a summary branch). R191: "A branch target outside 0 to CODE_LEN − 1 is illegal when the branch is taken", with R195. -/
def Obligations.Branches : Prop :=
  (BranchRR .beq (fun a b => a = b) ∧ BranchRR .bne (fun a b => a ≠ b) ∧ BranchRR .blt (fun a b => a.toInt < b.toInt) ∧
    BranchRR .bge (fun a b => b.toInt ≤ a.toInt) ∧ BranchRR .bltu (fun a b => a.toNat < b.toNat) ∧
    BranchRR .bgeu (fun a b => b.toNat ≤ a.toNat) ∧
    BranchResult .j (fun _ => []) (fun _ => []) (fun _ _ => True) (fun _ _ => True) ∧
    BranchSm .bsz (fun v _ => v = 0) ∧ BranchSm .bsnz (fun v _ => v ≠ 0) ∧ BranchSm .bslt (fun v a => v.toInt < a.toInt) ∧
    BranchSm .bsge (fun v a => a.toInt ≤ v.toInt)) ∧
  (∀ (f : Fin 64) (o : BranchArgs) (s : State), Issues s f [] [] [] .none →
      ((s.core f).pc + o.off.toInt < 0 ∨ (s.core f).codeLen ≤ ((s.core f).pc : Int) + o.off.toInt) →
      ∃ t, exec (.j f o) s = .next t ∧ (t.core f).phase = .idle ∧ t.bit (pgCore f) F.FLOE_ERR_STAT_NATIVE_ILLEGAL = true ∧
        t.rf (pgCore f) F.FLOE_KFAULT_CNT = min (s.rf (pgCore f) F.FLOE_KFAULT_CNT + 1) 0xFFFFFFFF ∧ ∀ k, (t.core f).rx k = (s.core f).rx k)

namespace Sys2Proof.Machine

/-- Scratchpad offset that a load or store of the issue core addresses: XA + IMM12, IMM12 sign-extended (R191). -/
def wordAt (c : CoreSt) (o : ScalarArgs) : Nat := (c.rx o.xa.toNat + (o.imm20.setWidth 12).signExtend 32).toNat

end Sys2Proof.Machine

open Sys2Proof Sys2Proof.Machine in
/-- R191, R188, R171, R174: loads, stores, SETVL and MVS of the issue core. -/
def Obligations.CoreLoadsStores : Prop :=
  ∀ (f : Fin 64) (o : ScalarArgs) (s : State),
    (Issues s f [] [] [o.xd.toNat, o.xa.toNat] .mem → s.inFloeAlloc f (wordAt (s.core f) o) 4 = true →
      ∃ t, exec (.lw f o) s = .next t ∧ OnlyCore f s t ∧
        ∀ k, (t.core f).rx k =
          if k = o.xd.toNat ∧ k ≠ 0 then BitVec.ofNat 32 (s.rdLe (floeBase f + wordAt (s.core f) o) 4) else (s.core f).rx k) ∧
    (Issues s f [] [] [o.xd.toNat, o.xa.toNat] .mem → s.inFloeAlloc f (wordAt (s.core f) o) 4 = false →
      ∃ t, exec (.lw f o) s = .next t ∧ t.bit (pgCore f) F.FLOE_ERR_STAT_NATIVE_OOB = true ∧ (t.core f).latch = true ∧
        (∀ k, (t.core f).rx k = if k = o.xd.toNat ∧ k ≠ 0 then 0 else (s.core f).rx k) ∧ t.mem = s.mem ∧ t.tags = s.tags) ∧
    (Issues s f [] [] [o.xa.toNat, o.xb.toNat] .mem → (s.core f).inOut (wordAt (s.core f) o) 4 = true → wordAt (s.core f) o + 4 ≤ 0x40_0000 →
      ∃ t, exec (.sw f o) s = .next t ∧ t.rdLe (floeBase f + wordAt (s.core f) o) 4 = ((s.core f).rx o.xb.toNat).toNat ∧
        (∀ x, x < floeBase f + wordAt (s.core f) o ∨ floeBase f + wordAt (s.core f) o + 4 ≤ x → t.rdByte x = s.rdByte x) ∧
        (∀ k, (t.core f).rx k = (s.core f).rx k) ∧ t.regs = s.regs) ∧
    (Issues s f [] [] [o.xa.toNat, o.xb.toNat] .mem →
      ((s.core f).inOut (wordAt (s.core f) o) 4 = false ∨ 0x40_0000 < wordAt (s.core f) o + 4) →
      ∃ t, exec (.sw f o) s = .next t ∧ t.bit (pgCore f) F.FLOE_ERR_STAT_NATIVE_OOB = true ∧ t.mem = s.mem ∧ t.tags = s.tags ∧
        ∀ k, (t.core f).rx k = (s.core f).rx k) ∧
    (Issues s f [] [] [o.xd.toNat, o.xa.toNat] .none →
      ∃ t, exec (.setvl f o) s = .next t ∧ OnlyCore f s t ∧ (t.core f).vl = min ((s.core f).rx o.xa.toNat).toNat 512 ∧
        ∀ k, (t.core f).rx k =
          if k = o.xd.toNat ∧ k ≠ 0 then BitVec.ofNat 32 (min ((s.core f).rx o.xa.toNat).toNat 512) else (s.core f).rx k) ∧
    (Issues s f [] [o.xb.toNat % 8] [o.xd.toNat] .none →
      ∃ t, exec (.mvs f o) s = .next t ∧ t.mem = s.mem ∧ t.tags = s.tags ∧
        (∀ k, (t.core f).rx k = if k = o.xd.toNat ∧ k ≠ 0 then ((s.core f).rsm (o.xb.toNat % 8)).val else (s.core f).rx k) ∧
        (t.core f).latch = ((s.core f).latch || ((s.core f).rsm (o.xb.toNat % 8)).poison) ∧ (t.core f).vl = (s.core f).vl)

open Sys2Proof Sys2Proof.Machine in
/-- R194, R195, R197, R40: start, preload, end, overrun and illegal instruction. -/
def Obligations.NativeKernelLife : Prop :=
  ∀ (f : Fin 64) (s : State),
    (∀ (a : Agent) (v : Word) (off : Nat), s.ready (pgCore f) = true → F.FLOE_KSTART_GO.of v = 1 → s.floePart f = none →
      s.works (pgCore f) = true → s.works (pgBrash f) = true → (s.core f).phase = .idle → off = F.FLOE_KSTART_OFFSET.of v / 64 * 64 →
      (readNatHdr s f off).ok s f off = true →
      ∃ t, exec (.floeKstart a f v) s = .next t ∧
        (t.core f).phase = (if (s.core f).gaffHolds then .waitBrash else .preload) ∧ (t.core f).hdr = off ∧
        (t.core f).entry = (readNatHdr s f off).entry ∧ (t.core f).decl = (readNatHdr s f off).decl ∧
        t.rf (pgCore f) F.FLOE_KHDR = off % 2 ^ 32 ∧ t.mem = s.mem ∧ t.tags = s.tags) ∧
    ((s.core f).phase = .waitBrash → (s.core f).gaffHolds = false →
      ∃ t, exec (.kernelPreloadStart f) s = .next t ∧ OnlyCore f s t ∧ (t.core f).phase = .preload) ∧
    ((s.core f).phase = .preload →
      ∃ t, exec (.kernelPreloadDone f) s = .next t ∧ OnlyCore f s t ∧ (t.core f).phase = .running ∧ (t.core f).pc = (s.core f).entry ∧
        (t.core f).vl = 512 ∧ (t.core f).v = [] ∧ (t.core f).vPoison = [] ∧ (t.core f).sm = [] ∧
        (∀ i, 1 ≤ i → i ≤ 7 → (t.core f).rx i = BitVec.ofNat 32 (s.rdLe (floeBase f + (s.core f).hdr + 32 + 4 * i) 4)) ∧
        (∀ i, 8 ≤ i → (t.core f).rx i = 0)) ∧
    ((s.core f).phase = .running → max (s.core f).next (s.core f).last ≤ (s.core f).decl →
      ∃ t, exec (.kend f) s = .next t ∧ (t.core f).phase = .idle ∧
        t.rf (pgCore f) F.FLOE_KCYC = max (s.core f).next (s.core f).last % 2 ^ 32 ∧
        t.rf (pgCore f) F.FLOE_KDONE_CNT = min (s.rf (pgCore f) F.FLOE_KDONE_CNT + 1) 0xFFFFFFFF ∧ t.mem = s.mem ∧ t.tags = s.tags) ∧
    ((s.core f).phase = .running →
      ∃ t, exec (.nativeOverrun f) s = .next t ∧ (t.core f).phase = .idle ∧ t.bit (pgCore f) F.FLOE_ERR_STAT_NATIVE_OVERRUN = true ∧
        t.rf (pgCore f) F.FLOE_KFAULT_CNT = min (s.rf (pgCore f) F.FLOE_KFAULT_CNT + 1) 0xFFFFFFFF ∧
        t.rf (pgCore f) F.FLOE_KCYC = (s.core f).decl % 2 ^ 32 ∧ t.mem = s.mem) ∧
    (∀ w : Word, (s.core f).phase = .running → (s.core f).next ≤ (s.core f).decl →
      ∃ t, exec (.illegalInstruction f w) s = .next t ∧ (t.core f).phase = .idle ∧ t.bit (pgCore f) F.FLOE_ERR_STAT_NATIVE_ILLEGAL = true ∧
        t.rf (pgCore f) F.FLOE_KFAULT_CNT = min (s.rf (pgCore f) F.FLOE_KFAULT_CNT + 1) 0xFFFFFFFF ∧ t.mem = s.mem)

namespace Sys2Proof.Machine

/-- Lane `k` of `w` bits of a vector register (R167). -/
def laneAt (w : Nat) (r : BitVec 4096) (k : Nat) : Nat := r.toNat / 2 ^ (w * k) % 2 ^ w

/-- Code of lane `k` of register `i` in the lanes of the instruction's format. -/
def CoreSt.lane (c : CoreSt) (o : VecArgs) (i k : Nat) : Nat := laneAt (laneBits o.f) (c.reg i) k

/-- What a vector instruction of floe `f` with destination `vd` leaves: the program counter moves by one, every other vector register with its
poison bit, every summary and scalar register and VL are as before, and so are all memory, all tags, the other floes, and every register
outside the Brash page. -/
def VecFrame (f : Nat) (vd : Nat) (s t : State) : Prop :=
  (t.core f).pc = (s.core f).pc + 1 ∧ (∀ i, i ≠ vd → (t.core f).reg i = (s.core f).reg i ∧ (t.core f).vp i = (s.core f).vp i) ∧
    (t.core f).sm = (s.core f).sm ∧ (t.core f).x = (s.core f).x ∧ (t.core f).vl = (s.core f).vl ∧
    t.mem = s.mem ∧ t.tags = s.tags ∧ (∀ k, k ≠ f → t.floe k = s.floe k) ∧
    (∀ g off, g ≠ pgBrash f → off < 4096 → t.word g off = s.word g off)

/-- A vector instruction that writes lane codes (R170, R171): the first n = min(VL, L) lanes take the operation's code, the others keep theirs,
and POISON of the sources goes to the destination. -/
def LaneResult (i : Fin 64 → VecArgs → Instr) (legal : VecArgs → Prop) (srcs xs : VecArgs → List Nat) (u : KUnit)
    (code : CoreSt → VecArgs → Nat → Nat → Nat) : Prop :=
  ∀ (f : Fin 64) (o : VecArgs) (s : State), legal o → o.f < 10 → Issues s f (o.vd.toNat :: srcs o) [] (xs o) u →
    ∃ t, exec (i f o) s = .next t ∧ VecFrame f o.vd.toNat s t ∧
      (∀ k, k < laneCount o.f → (t.core f).lane o o.vd.toNat k =
        if k < min (s.core f).vl (laneCount o.f) then code (s.core f) o (min (s.core f).vl (laneCount o.f)) k % 2 ^ laneBits o.f
        else (s.core f).lane o o.vd.toNat k) ∧
      (t.core f).vp o.vd.toNat = ((srcs o).any (s.core f).vp || (s.core f).vp o.vd.toNat)

/-- A vector instruction on two source registers, code by code. -/
def LaneRR (i : Fin 64 → VecArgs → Instr) (legal : VecArgs → Prop) (code : VecArgs → Nat → Nat → Nat → Nat) : Prop :=
  LaneResult i legal (fun o => [o.a, o.b]) (fun _ => []) .alu fun c o _ k => code o (c.lane o o.a k) (c.lane o o.b k) (c.lane o o.vd.toNat k)

/-- A vector instruction on two values, rounded once to the format (R177). -/
def ValueRR (i : Fin 64 → VecArgs → Instr) (op : Val → Val → Val) : Prop :=
  LaneResult i (fun o => o.arith = true) (fun o => [o.a, o.b]) (fun _ => []) .alu fun c o _ k =>
    (laneWr o.f o.sat (op (laneVal o.f (c.lane o o.a k)) (laneVal o.f (c.lane o o.b k)))).bits

/-- A vector instruction on one value, by its unit. -/
def ValueR (i : Fin 64 → VecArgs → Instr) (legal : VecArgs → Prop) (u : KUnit) (w : VecArgs → Nat → Wr) : Prop :=
  LaneResult i legal (fun o => [o.a]) (fun _ => []) u fun c o _ k => (w o (c.lane o o.a k)).bits

/-- A complex product (R179): whole complex values only, the second factor conjugated where `conj`. -/
def ComplexResult (i : Fin 64 → VecArgs → Instr) (conj : Bool) : Prop :=
  ∀ (f : Fin 64) (o : VecArgs) (s : State), o.f ∈ [0, 1, 2, 9] → Issues s f [o.vd.toNat, o.a, o.b] [] [] .alu →
    ∃ t, exec (i f o) s = .next t ∧ VecFrame f o.vd.toNat s t ∧
      (t.core f).vp o.vd.toNat = ((s.core f).vp o.a || (s.core f).vp o.b || (s.core f).vp o.vd.toNat) ∧
      (∀ k, k < laneCount o.f → min (s.core f).vl (laneCount o.f) / 2 * 2 ≤ k →
        (t.core f).lane o o.vd.toNat k = (s.core f).lane o o.vd.toNat k) ∧
      ∀ k, 2 * k + 1 < min (s.core f).vl (laneCount o.f) / 2 * 2 →
        let re (i : Nat) := laneVal o.f ((s.core f).lane o i (2 * k))
        let im (i : Nat) := laneVal o.f ((s.core f).lane o i (2 * k + 1))
        let bi := if conj then (im o.b).neg else im o.b
        (t.core f).lane o o.vd.toNat (2 * k) = (laneWr o.f o.sat (((re o.a).mul (re o.b)).add ((im o.a).mul bi).neg)).bits % 2 ^ laneBits o.f ∧
        (t.core f).lane o o.vd.toNat (2 * k + 1) = (laneWr o.f o.sat (((re o.a).mul bi).add ((im o.a).mul (re o.b)))).bits % 2 ^ laneBits o.f

end Sys2Proof.Machine

open Sys2Proof Sys2Proof.Machine in
/-- R176 (moves, logic, selects, broadcasts, slides), R180 (conditions), R170 and R171 (lanes and poison). -/
def Obligations.VectorMoves : Prop :=
  LaneResult .vmov (fun _ => True) (fun o => [o.a]) (fun _ => []) .alu (fun c o _ k => c.lane o o.a k) ∧
  LaneRR .vand (fun _ => True) (fun _ a b _ => a &&& b) ∧ LaneRR .vor (fun _ => True) (fun _ a b _ => a ||| b) ∧
  LaneRR .vxor (fun _ => True) (fun _ a b _ => a ^^^ b) ∧ LaneRR .vsel (fun _ => True) (fun _ a b d => if a = 0 then d else b) ∧
  LaneResult .vbcx (fun _ => True) (fun _ => []) (fun o => [o.vbHi]) .alu (fun c o _ _ => (c.rx o.vbHi).toNat) ∧
  LaneResult .vsld (fun _ => True) (fun o => [o.a]) (fun o => [o.vbHi]) .alu
    (fun c o n k => if k + (c.rx o.vbHi).toNat < n then c.lane o o.a (k + (c.rx o.vbHi).toNat) else 0) ∧
  LaneResult .vslu (fun _ => True) (fun o => [o.a]) (fun o => [o.vbHi]) .alu
    (fun c o _ k => if k < (c.rx o.vbHi).toNat then 0 else c.lane o o.a (k - (c.rx o.vbHi).toNat)) ∧
  LaneRR .vcmp (fun o => o.aux.toNat ≤ 6)
    (fun o a b _ => if vcond o.aux.toNat (laneVal o.f a) (laneVal o.f b) then 2 ^ laneBits o.f - 1 else 0) ∧
  ∀ (f : Fin 64) (o : VecArgs) (s : State), o.arith = true → o.f < 10 → Issues s f [o.vd.toNat] [o.aux.toNat % 8] [] .alu →
    ∃ t, exec (.vbcs f o) s = .next t ∧ VecFrame f o.vd.toNat s t ∧
      (∀ k, k < laneCount o.f → (t.core f).lane o o.vd.toNat k =
        if k < min (s.core f).vl (laneCount o.f) then (laneWr o.f o.sat ((s.core f).rsm (o.aux.toNat % 8)).value).bits % 2 ^ laneBits o.f
        else (s.core f).lane o o.vd.toNat k) ∧
      (t.core f).vp o.vd.toNat = (((s.core f).rsm (o.aux.toNat % 8)).poison || (s.core f).vp o.vd.toNat)

open Sys2Proof Sys2Proof.Machine in
/-- R177, R176 (VFMA), R178 (transcendentals), R179 (complex products). -/
def Obligations.VectorArithmetic : Prop :=
  ValueRR .vadd Val.add ∧ ValueRR .vsub (fun a b => a.add b.neg) ∧ ValueRR .vmin vmin ∧ ValueRR .vmax vmax ∧ ValueRR .vmul Val.mul ∧
  ValueR .vabs (fun o => o.arith = true) .alu (fun o a => laneWr o.f o.sat (laneVal o.f a).abs) ∧
  ValueR .vneg (fun o => o.arith = true) .alu (fun o a => laneWr o.f o.sat (laneVal o.f a).neg) ∧
  LaneResult .vfma (fun o => o.arith = true) (fun o => [o.a, o.b, o.vd.toNat]) (fun _ => []) .alu (fun c o _ k =>
    (laneWr o.f o.sat (((laneVal o.f (c.lane o o.a k)).mul (laneVal o.f (c.lane o o.b k))).add (laneVal o.f (c.lane o o.vd.toNat k)))).bits) ∧
  ValueR .vexp (fun o => o.flt = true) .trans (fun o a => vexpWr ((Fmt.ofCode o.f).getD .fp32) o.sat a (laneVal o.f a)) ∧
  ValueR .vrcp (fun o => o.flt = true) .trans (fun o a => vrcpWr ((Fmt.ofCode o.f).getD .fp32) o.sat (laneVal o.f a)) ∧
  ValueR .vrsq (fun o => o.flt = true) .trans (fun o a => vrsqWr ((Fmt.ofCode o.f).getD .fp32) o.sat a (laneVal o.f a)) ∧
  ComplexResult .vcmul false ∧ ComplexResult .vcmulj true

open Sys2Proof Sys2Proof.Machine in
/-- R181 (VCVT), R182 (VCBX), R183 (VCBQ). -/
def Obligations.VectorConversions : Prop :=
  ∀ (f : Fin 64) (o : VecArgs) (s : State),
    (o.arith = true → o.f < 10 → o.vbHi < 10 → o.vbHi ≠ 7 → o.vbHi ≠ 8 → laneCount o.vbHi ≤ laneCount o.f →
      o.aux.toNat % 4 < laneCount o.f / laneCount o.vbHi → Issues s f [o.vd.toNat, o.a] [] [] .alu →
      ∃ t, exec (.vcvt f o) s = .next t ∧ VecFrame f o.vd.toNat s t ∧
        ∀ k, k < laneCount o.vbHi → laneAt (laneBits o.vbHi) ((t.core f).reg o.vd.toNat) k =
          if k < min (s.core f).vl (laneCount o.vbHi) then
            (laneWr o.vbHi o.sat (laneVal o.f ((s.core f).lane o o.a (o.aux.toNat % 4 * laneCount o.vbHi + k)))).bits % 2 ^ laneBits o.vbHi
          else laneAt (laneBits o.vbHi) ((s.core f).reg o.vd.toNat) k) ∧
    (o.arith = true → o.f < 10 → o.vbHi < 10 → o.vbHi ≠ 7 → o.vbHi ≠ 8 → laneCount o.f < laneCount o.vbHi →
      o.aux.toNat % 4 < laneCount o.vbHi / laneCount o.f → Issues s f [o.vd.toNat, o.a] [] [] .alu →
      ∃ t, exec (.vcvt f o) s = .next t ∧ VecFrame f o.vd.toNat s t ∧
        ∀ k, k < laneCount o.vbHi → laneAt (laneBits o.vbHi) ((t.core f).reg o.vd.toNat) k =
          if o.aux.toNat % 4 * laneCount o.f ≤ k ∧ k < o.aux.toNat % 4 * laneCount o.f + min (s.core f).vl (laneCount o.f) then
            (laneWr o.vbHi o.sat (laneVal o.f ((s.core f).lane o o.a (k - o.aux.toNat % 4 * laneCount o.f)))).bits % 2 ^ laneBits o.vbHi
          else laneAt (laneBits o.vbHi) ((s.core f).reg o.vd.toNat) k) ∧
    (o.f = 7 ∨ o.f = 8 → Issues s f [o.vd.toNat, o.a, o.b] [] [] .alu →
      ∃ t, exec (.vcbx f o) s = .next t ∧ VecFrame f o.vd.toNat s t ∧
        ∀ k, k < 256 → laneAt 16 ((t.core f).reg o.vd.toNat) k =
          if k < (s.core f).vl then
            laneAt 16 ((s.core f).reg o.b)
              ((s.core f).lane o o.a (o.aux.toNat % 2 * 256 + k) % (if o.f = 8 then 16 else 256))
          else laneAt 16 ((s.core f).reg o.vd.toNat) k) ∧
    (o.flt = true → o.aux.toNat % 4 < 512 / laneCount o.f → Issues s f [o.vd.toNat, o.a, o.b] [] [] .alu →
      ∃ t, exec (.vcbq f o) s = .next t ∧ VecFrame f o.vd.toNat s t ∧
        ∀ k, k < 512 → laneAt 8 ((t.core f).reg o.vd.toNat) k =
          if o.aux.toNat % 4 * laneCount o.f ≤ k ∧ k < o.aux.toNat % 4 * laneCount o.f + min (s.core f).vl (laneCount o.f) then
            (codeCb (cbVals ((List.range (if o.aux.toNat / 4 % 2 = 1 then 16 else 256)).map (laneAt 16 ((s.core f).reg o.b))))
              (laneVal o.f ((s.core f).lane o o.a (k - o.aux.toNat % 4 * laneCount o.f))).quot).1 % 256
          else laneAt 8 ((s.core f).reg o.vd.toNat) k)

namespace Sys2Proof.Machine

/-- A reduction (R184): the summary register takes the value of the first n = min(VL, L) lanes with its kind and the poison of its source; every
other summary register, every vector and scalar register, all memory, all tags and the other floes are unchanged. -/
def ReduceResult (i : Fin 64 → VecArgs → Instr) (legal : VecArgs → Prop) (v : VecArgs → List Nat → Word × SmKind) : Prop :=
  ∀ (f : Fin 64) (o : VecArgs) (s : State), legal o → o.f < 10 → Issues s f [o.a] [o.aux.toNat % 8] [] .alu →
    ∃ t, exec (i f o) s = .next t ∧
      (∀ k, (t.core f).rsm k =
        if k = o.aux.toNat % 8 then
          { val := (v o ((List.range (min (s.core f).vl (laneCount o.f))).map ((s.core f).lane o o.a))).1
            poison := (s.core f).vp o.a
            kind := (v o ((List.range (min (s.core f).vl (laneCount o.f))).map ((s.core f).lane o o.a))).2 }
        else (s.core f).rsm k) ∧
      (t.core f).v = (s.core f).v ∧ (t.core f).vPoison = (s.core f).vPoison ∧ (t.core f).x = (s.core f).x ∧ (t.core f).vl = (s.core f).vl ∧
      (t.core f).pc = (s.core f).pc + 1 ∧ t.mem = s.mem ∧ t.tags = s.tags ∧ (∀ k, k ≠ f → t.floe k = s.floe k)

/-- The number of lanes that are not 0. -/
def nonzeroLanes (l : List Nat) : Nat := (l.filter fun x => decide (x ≠ 0)).length

end Sys2Proof.Machine

open Sys2Proof Sys2Proof.Machine in
/-- R184 (reductions), R172 (empty values), R169 and R170 (kind and poison). -/
def Obligations.VectorReductions : Prop :=
  ReduceResult .vrcnt (fun _ => True) (fun _ l => (BitVec.ofNat 32 (nonzeroLanes l), .i)) ∧
  ReduceResult .vrany (fun _ => True) (fun _ l => (if 0 < nonzeroLanes l then 1 else 0, .i)) ∧
  ReduceResult .vrall (fun _ => True) (fun _ l => (if nonzeroLanes l = l.length then 1 else 0, .i)) ∧
  ReduceResult .vrsum (fun o => o.arith = true)
    (fun o l => if 5 ≤ o.f then (BitVec.ofInt 32 ((l.map (laneInt o.f)).sum), if o.f = 9 then .q else .i) else ((sumLanes o l).1, .f)) ∧
  ReduceResult .vrmax (fun o => o.arith = true) (fun o l => ((extremeLanes o true l).1, smKindOf o.f)) ∧
  ReduceResult .vrmin (fun o => o.arith = true) (fun o l => ((extremeLanes o false l).1, smKindOf o.f)) ∧
  ReduceResult .vramax (fun o => o.arith = true) (fun o l => ((argMaxLane o l).1, .i))

namespace Sys2Proof.Machine

/-- Format code and destination of a vector load or store. -/
def CoreSt.mlane (c : CoreSt) (o : VMemArgs) (i k : Nat) : Nat := laneAt (laneBits o.f) (c.reg i) k

/-- Elements that a vector load or store moves (R171). -/
def CoreSt.elems (c : CoreSt) (o : VMemArgs) : Nat := min c.vl (laneCount o.f)

/-- Bytes of `[a, a + n)` lie in lines of the allocation (R188). -/
def InAllocLines (s : State) (f a n : Nat) : Prop := ∀ i, i < n → s.inFloeAlloc f ((a + i) / 64 * 64) 64 = true

/-- What a vector load leaves: no memory, no tag and no other register than VD changes. -/
def LoadFrame (f : Nat) (o : VMemArgs) (s t : State) : Prop :=
  (t.core f).pc = (s.core f).pc + 1 ∧ (∀ i, i ≠ o.vd.toNat → (t.core f).reg i = (s.core f).reg i ∧ (t.core f).vp i = (s.core f).vp i) ∧
    (t.core f).sm = (s.core f).sm ∧ (t.core f).x = (s.core f).x ∧ t.mem = s.mem ∧ t.tags = s.tags ∧ (∀ k, k ≠ f → t.floe k = s.floe k)

/-- What a vector store leaves: no register of the kernel changes. -/
def StoreFrame (f : Nat) (s t : State) : Prop :=
  (t.core f).pc = (s.core f).pc + 1 ∧ (t.core f).v = (s.core f).v ∧ (t.core f).vPoison = (s.core f).vPoison ∧
    (t.core f).sm = (s.core f).sm ∧ (t.core f).x = (s.core f).x ∧ (∀ k, k ≠ f → t.floe k = s.floe k)

/-- A nibble of memory: the low half of a byte first (R186). -/
def State.nibble (s : State) (a k : Nat) : Nat := (s.rdByte (a + k / 2)).toNat / 16 ^ (k % 2) % 16

end Sys2Proof.Machine

open Sys2Proof Sys2Proof.Machine in
/-- R186 (VLD, VST, VLDN, VSTN), R187 (VGATH, VSCAT), R188 (limits). -/
def Obligations.VectorMemory : Prop :=
  ∀ (f : Fin 64) (o : VMemArgs) (s : State), o.f < 10 →
    (o.f ≠ 6 → o.f ≠ 8 → Issues s f [o.vd.toNat] [] [o.xb.toNat] .mem →
      InAllocLines s f (vmemAddr (s.core f) o) ((s.core f).elems o * (laneBits o.f / 8)) →
      ∃ t, exec (.vld f o) s = .next t ∧ LoadFrame f o s t ∧
        ∀ k, k < laneCount o.f → (t.core f).mlane o o.vd.toNat k =
          if k < (s.core f).elems o then s.rdLe (floeBase f + vmemAddr (s.core f) o + k * (laneBits o.f / 8)) (laneBits o.f / 8)
          else (s.core f).mlane o o.vd.toNat k) ∧
    (o.f ≠ 6 → o.f ≠ 8 → Issues s f [o.vd.toNat] [] [o.xb.toNat] .mem → 0 < (s.core f).elems o →
      s.inFloeAlloc f (vmemAddr (s.core f) o / 64 * 64) 64 = false →
      ∃ t, exec (.vld f o) s = .next t ∧ LoadFrame f o s t ∧ t.bit (pgCore f) F.FLOE_ERR_STAT_NATIVE_OOB = true ∧
        (t.core f).vp o.vd.toNat = true) ∧
    (o.f = 6 ∨ o.f = 8 → Issues s f [o.vd.toNat] [] [o.xb.toNat] .mem →
      InAllocLines s f (vmemAddr (s.core f) o) (((s.core f).elems o + 1) / 2) →
      ∃ t, exec (.vldn f o) s = .next t ∧ LoadFrame f o s t ∧
        ∀ k, k < laneCount o.f → (t.core f).mlane o o.vd.toNat k =
          if k < (s.core f).elems o then laneCode o.f (s.nibble (floeBase f + vmemAddr (s.core f) o) k)
          else (s.core f).mlane o o.vd.toNat k) ∧
    (o.f ≠ 6 → o.f ≠ 8 → Issues s f [o.vd.toNat] [] [o.xb.toNat] .mem →
      (s.core f).inOut (vmemAddr (s.core f) o) ((s.core f).elems o * (laneBits o.f / 8)) = true →
      vmemAddr (s.core f) o + (s.core f).elems o * (laneBits o.f / 8) ≤ 0x40_0000 →
      ∃ t, exec (.vst f o) s = .next t ∧ StoreFrame f s t ∧
        (∀ k, k < (s.core f).elems o →
          t.rdLe (floeBase f + vmemAddr (s.core f) o + k * (laneBits o.f / 8)) (laneBits o.f / 8) = (s.core f).mlane o o.vd.toNat k) ∧
        ∀ x, (x < floeBase f + vmemAddr (s.core f) o ∨
          floeBase f + vmemAddr (s.core f) o + (s.core f).elems o * (laneBits o.f / 8) ≤ x) → t.rdByte x = s.rdByte x) ∧
    (o.f = 6 ∨ o.f = 8 → Issues s f [o.vd.toNat] [] [o.xb.toNat] .mem →
      (s.core f).inOut (vmemAddr (s.core f) o) (((s.core f).elems o + 1) / 2) = true →
      vmemAddr (s.core f) o + ((s.core f).elems o + 1) / 2 ≤ 0x40_0000 →
      ∃ t, exec (.vstn f o) s = .next t ∧ StoreFrame f s t ∧
        (∀ k, k < (s.core f).elems o →
          t.nibble (floeBase f + vmemAddr (s.core f) o) k = (narrowLane o ((s.core f).mlane o o.vd.toNat k)).bits % 16) ∧
        ∀ x, (x < floeBase f + vmemAddr (s.core f) o ∨ floeBase f + vmemAddr (s.core f) o + ((s.core f).elems o + 1) / 2 ≤ x) →
          t.rdByte x = s.rdByte x) ∧
    (o.f ≠ 6 → o.f ≠ 8 → o.off.toNat % 256 = 0 → Issues s f [o.vd.toNat, vmemIdx o] [] [o.xb.toNat] .mem →
      (∀ k, k < min ((s.core f).elems o) 128 → InAllocLines s f ((idxAddrs (s.core f) o 128).getD k 0) (laneBits o.f / 8)) →
      ∃ t, exec (.vgath f o) s = .next t ∧ LoadFrame f o s t ∧
        ∀ k, k < laneCount o.f → (t.core f).mlane o o.vd.toNat k =
          if k < min ((s.core f).elems o) 128 then s.rdLe (floeBase f + (idxAddrs (s.core f) o 128).getD k 0) (laneBits o.f / 8)
          else (s.core f).mlane o o.vd.toNat k) ∧
    (o.f ≠ 6 → o.f ≠ 8 → o.off.toNat % 256 = 0 → Issues s f [o.vd.toNat, vmemIdx o] [] [o.xb.toNat] .mem →
      (idxAddrs (s.core f) o (min ((s.core f).elems o) 128)).Nodup →
      (∀ a ∈ idxAddrs (s.core f) o (min ((s.core f).elems o) 128),
        (s.core f).inOut a (laneBits o.f / 8) = true ∧ a + laneBits o.f / 8 ≤ 0x40_0000) →
      ∃ t, exec (.vscat f o) s = .next t ∧ StoreFrame f s t ∧
        (∀ k, k < min ((s.core f).elems o) 128 →
          t.rdLe (floeBase f + (idxAddrs (s.core f) o 128).getD k 0) (laneBits o.f / 8) = (s.core f).mlane o o.vd.toNat k) ∧
        ∀ x, (∀ a ∈ idxAddrs (s.core f) o (min ((s.core f).elems o) 128), x < floeBase f + a ∨ floeBase f + a + laneBits o.f / 8 ≤ x) →
          t.rdByte x = s.rdByte x)

namespace Sys2Proof.Machine

/-- Spar of floe `f` runs a kernel that has not ended, and this instruction issues before WC_DECL (R218, R228). -/
def SparIssues (s : State) (f : Nat) : Prop :=
  (s.spar f).phase = .running ∧ (s.spar f).turn.map (·.1) ≠ some 0 ∧ (s.spar f).cyc ≤ (s.spar f).decl

/-- A value in the signed range of `w` bits and whether it was out of it: the nearer limit where SAT is 1, else the low bits (R61, R212, R213). -/
def inSigned (w : Nat) (sat : Bool) (v : Int) : Int × Bool :=
  if 2 ^ (w - 1) - 1 < v then (if sat then 2 ^ (w - 1) - 1 else sInt w (lowBits w v), true)
  else if v < -(2 ^ (w - 1)) then (if sat then -(2 ^ (w - 1)) else sInt w (lowBits w v), true)
  else (v, false)

/-- What every Spar instruction leaves outside the registers of R204: memory, tags, the other floes, and this floe's other units. -/
def SparFrame (f : Nat) (s t : State) : Prop :=
  t.mem = s.mem ∧ t.tags = s.tags ∧ t.floe f = { s.floe f with spar := t.spar f } ∧ ∀ k, k ≠ f → t.floe k = s.floe k

/-- An A-class instruction (R211): the data register RD, the accumulator that ACC selects and the flags take the values given where some are
given; the previous instruction's late writes take effect; every other register keeps its value. Flags are stated where no RETI returns. -/
def SparResult (i : Fin 64 → SparA → Instr) (d : SparSt → SparA → Option Int) (a : SparSt → SparA → Option Int)
    (fl : SparSt → SparA → Option (Int × Option Bool)) : Prop :=
  ∀ (f : Fin 64) (o : SparA) (s : State), SparIssues s f →
    ∃ t, exec (i f o) s = .next t ∧ SparFrame f s t ∧
      (∀ k, (t.spar f).rt k = match d (s.spar f) o with
        | some v => if k = o.rd.toNat then lowBits 16 v else (s.spar f).settle.rt k
        | none => (s.spar f).settle.rt k) ∧
      (∀ x, (t.spar f).acc x = match a (s.spar f) o with
        | some v => if x = o.acc then sInt 40 (lowBits 40 v) else (s.spar f).acc x
        | none => (s.spar f).acc x) ∧
      (t.spar f).p = (s.spar f).settle.p ∧ (t.spar f).m = (s.spar f).settle.m ∧ (t.spar f).b = (s.spar f).settle.b ∧
      (t.spar f).l = (s.spar f).settle.l ∧ (t.spar f).late = [] ∧
      ((s.spar f).turn = none →
        match fl (s.spar f) o with
        | some (v, ov) => (t.spar f).z = decide (v = 0) ∧ (t.spar f).n = decide (v < 0) ∧ (t.spar f).v = ov.getD (s.spar f).v
        | none => (t.spar f).z = (s.spar f).z ∧ (t.spar f).n = (s.spar f).n ∧ (t.spar f).v = (s.spar f).v)

/-- An instruction that writes T(RD) alone and sets no flag. -/
def SparMove (i : Fin 64 → SparA → Instr) (v : SparSt → SparA → Int) : Prop :=
  SparResult i (fun p o => some (v p o)) (fun _ _ => none) fun _ _ => none

/-- An instruction that writes T(RD) from an exact value in the 16-bit range under SAT, with Z, N and V (R213, R217). -/
def SparT (i : Fin 64 → SparA → Instr) (v : SparSt → SparA → Int) : Prop :=
  SparResult i (fun p o => some (inSigned 16 o.sat (v p o)).1) (fun _ _ => none)
    fun p o => some ((inSigned 16 o.sat (v p o)).1, some (inSigned 16 o.sat (v p o)).2)

/-- A bitwise operation: V is cleared (R217). -/
def SparBits (i : Fin 64 → SparA → Instr) (op : Nat → Nat → Nat) : Prop :=
  SparResult i (fun p o => some (op (p.rt o.ra.toNat % 2 ^ 16) (p.rt o.rb.toNat % 2 ^ 16) : Nat)) (fun _ _ => none)
    fun p o => some (sInt 16 (op (p.rt o.ra.toNat % 2 ^ 16) (p.rt o.rb.toNat % 2 ^ 16)), some false)

/-- An instruction that writes an accumulator from an exact value in the 40-bit range under SAT, with Z, N and V (R212). -/
def SparAcc (i : Fin 64 → SparA → Instr) (v : SparSt → SparA → Int) : Prop :=
  SparResult i (fun _ _ => none) (fun p o => some (inSigned 40 o.sat (v p o)).1)
    fun p o => some ((inSigned 40 o.sat (v p o)).1, some (inSigned 40 o.sat (v p o)).2)

end Sys2Proof.Machine

open Sys2Proof Sys2Proof.Machine in
/-- R211 (A class), R213 to R216 (values), R217 (flags), R219 (when results are seen). -/
def Obligations.SparData : Prop :=
  SparT .sparAdd (fun p o => p.ti o.ra.toNat + p.ti o.rb.toNat) ∧ SparT .sparSub (fun p o => p.ti o.ra.toNat - p.ti o.rb.toNat) ∧
  SparT .sparAbs (fun p o => (p.ti o.ra.toNat).natAbs) ∧ SparT .sparNeg (fun p o => -(p.ti o.ra.toNat)) ∧
  SparT .sparAddi (fun p o => p.ti o.ra.toNat + o.imm.toInt) ∧
  SparT .movh (fun p o => shiftDown o.rnd (p.acc o.acc) 16) ∧
  SparBits .sparAnd (fun a b => a &&& b) ∧ SparBits .sparOr (fun a b => a ||| b) ∧ SparBits .sparXor (fun a b => a ^^^ b) ∧
  SparResult .sparMin (fun p o => some (min (p.ti o.ra.toNat) (p.ti o.rb.toNat))) (fun _ _ => none)
    (fun p o => some (min (p.ti o.ra.toNat) (p.ti o.rb.toNat), none)) ∧
  SparResult .sparMax (fun p o => some (max (p.ti o.ra.toNat) (p.ti o.rb.toNat))) (fun _ _ => none)
    (fun p o => some (max (p.ti o.ra.toNat) (p.ti o.rb.toNat), none)) ∧
  SparMove .ldi (fun _ o => o.imm.toInt) ∧ SparMove .movt (fun p o => (p.ptr o.ra.toNat : Nat)) ∧
  SparMove .movl (fun p o => p.acc o.acc) ∧ SparMove .sparExp (fun p o => sparExpOf (p.acc o.acc)) ∧
  SparMove .movs (fun p o => if o.imm = 0 then (p.sr : Nat) else if o.imm = 1 then (p.cause : Nat) else if o.imm = 2 then (p.mbox.toNat : Nat) else 0) ∧
  SparResult .mova (fun _ _ => none) (fun p o => some (p.ti o.ra.toNat * 2 ^ 16)) (fun p o => some (p.ti o.ra.toNat * 2 ^ 16, none)) ∧
  SparResult .clr (fun _ _ => none) (fun _ _ => some 0) (fun _ _ => some (0, none)) ∧
  SparAcc .adda (fun p o => p.acc o.acc + p.acc (!o.acc)) ∧ SparAcc .suba (fun p o => p.acc o.acc - p.acc (!o.acc)) ∧
  SparAcc .ash (fun p o => if 0 ≤ sInt 6 o.imm.toNat then p.acc o.acc * 2 ^ (sInt 6 o.imm.toNat).toNat
    else shiftDown o.rnd (p.acc o.acc) (-(sInt 6 o.imm.toNat)).toNat) ∧
  SparResult .norm (fun p o => some (sparExpOf (p.acc o.acc)))
    (fun p o => some (if 0 ≤ sparExpOf (p.acc o.acc) then p.acc o.acc * 2 ^ (sparExpOf (p.acc o.acc)).toNat
      else shiftDown true (p.acc o.acc) (-(sparExpOf (p.acc o.acc))).toNat))
    (fun p o => some (if 0 ≤ sparExpOf (p.acc o.acc) then sInt 40 (lowBits 40 (p.acc o.acc * 2 ^ (sparExpOf (p.acc o.acc)).toNat))
      else shiftDown true (p.acc o.acc) (-(sparExpOf (p.acc o.acc))).toNat, none))

namespace Sys2Proof.Machine

/-- An instruction whose write is seen by the second instruction that follows (R219): nothing else changes but the program counter and the late
writes of the instruction before. -/
def SparLateResult (i : Fin 64 → SparA → Instr) (w : SparSt → SparA → SparLate) : Prop :=
  ∀ (f : Fin 64) (o : SparA) (s : State), SparIssues s f →
    ∃ t, exec (i f o) s = .next t ∧ SparFrame f s t ∧ (t.spar f).late = [w (s.spar f) o] ∧
      (∀ k, (t.spar f).rt k = (s.spar f).settle.rt k) ∧ (∀ x, (t.spar f).acc x = (s.spar f).acc x) ∧
      (t.spar f).p = (s.spar f).settle.p ∧ (t.spar f).m = (s.spar f).settle.m ∧ (t.spar f).b = (s.spar f).settle.b ∧
      (t.spar f).l = (s.spar f).settle.l

/-- A branch of Spar (R211, R219): two delay slots, then the target where the condition holds and the third following instruction else. -/
def SparBranchResult (i : Fin 64 → BitVec 14 → Instr) (cond : SparSt → Bool) : Prop :=
  ∀ (f : Fin 64) (target : BitVec 14) (s : State), SparIssues s f → (s.spar f).sheltered = false → (s.spar f).inCode target.toNat 1 = true →
    ∃ t, exec (i f target) s = .next t ∧ SparFrame f s t ∧ (t.spar f).pc = (s.spar f).pc + 1 ∧
      (t.spar f).turn = some (2, .jump (if cond (s.spar f) then target.toNat else (s.spar f).pc + 3)) ∧
      (∀ k, (t.spar f).rt k = (s.spar f).settle.rt k) ∧ (∀ x, (t.spar f).acc x = (s.spar f).acc x) ∧
      (t.spar f).p = (s.spar f).settle.p

end Sys2Proof.Machine

open Sys2Proof Sys2Proof.Machine in
/-- R211, R219 (delays), R220 (placement), R221 (repeat), R224 (RETI), R228 (END). -/
def Obligations.SparControl : Prop :=
  SparLateResult .ldp (fun _ o => .p o.rd.toNat o.imm.toNat) ∧ SparLateResult .ldm (fun _ o => .m (o.rd.toNat % 4) o.imm.toNat) ∧
  SparLateResult .ldb (fun _ o => .b (o.rd.toNat % 4) o.imm.toNat) ∧ SparLateResult .ldl (fun _ o => .l (o.rd.toNat % 4) o.imm.toNat) ∧
  SparLateResult .movp (fun p o => .p o.rd.toNat (p.rt o.ra.toNat)) ∧
  SparBranchResult .sparB (fun _ => true) ∧ SparBranchResult .bz (fun p => p.z) ∧ SparBranchResult .bnz (fun p => !p.z) ∧
  SparBranchResult .bn (fun p => p.n) ∧ SparBranchResult .bnn (fun p => !p.n) ∧ SparBranchResult .bv (fun p => p.v) ∧
  ∀ (f : Fin 64) (s : State), SparIssues s f →
    (∀ (lenM1 : BitVec 8) (count : BitVec 13), (s.spar f).sheltered = false → 1 ≤ count.toNat → count.toNat ≤ 4096 →
      (s.spar f).inCode ((s.spar f).pc + 1) (lenM1.toNat + 1) = true →
      ∃ t, exec (.rep f lenM1 count) s = .next t ∧ SparFrame f s t ∧ (t.spar f).pc = (s.spar f).pc + 1 ∧
        (t.spar f).rep = some ((s.spar f).pc + 1, (s.spar f).pc + (lenM1.toNat + 1), count.toNat)) ∧
    (∀ (lenM1 : BitVec 8) (r : BitVec 3), (s.spar f).sheltered = false → (s.spar f).rt r.toNat ≤ 4096 →
      (s.spar f).inCode ((s.spar f).pc + 1) (lenM1.toNat + 1) = true →
      ∃ t, exec (.rept f lenM1 r) s = .next t ∧ SparFrame f s t ∧
        (if (s.spar f).rt r.toNat = 0 then (t.spar f).rep = none ∧ (t.spar f).pc = (s.spar f).pc + 1 + (lenM1.toNat + 1)
        else (t.spar f).rep = some ((s.spar f).pc + 1, (s.spar f).pc + (lenM1.toNat + 1), (s.spar f).rt r.toNat) ∧
          (t.spar f).pc = (s.spar f).pc + 1)) ∧
    (∀ (ie : Bool) (mask : BitVec 3), (s.spar f).sheltered = false →
      ∃ t, exec (.setie f ie mask) s = .next t ∧ SparFrame f s t ∧ (t.spar f).ie = ie ∧ (t.spar f).en = mask ∧
        (t.spar f).pc = (s.spar f).pc + 1) ∧
    ((s.spar f).sheltered = false → ∃ t, exec (.reti f) s = .next t ∧ SparFrame f s t ∧ (t.spar f).turn = some (2, .reti) ∧
        (t.spar f).pc = (s.spar f).pc + 1) ∧
    ((s.spar f).sheltered = false → ∃ t, exec (.sparEnd f) s = .next t ∧ SparFrame f s t ∧ (t.spar f).turn = some (2, .stop) ∧
        (t.spar f).pc = (s.spar f).pc + 1) ∧
    (∃ t, exec (.nop f) s = .next t ∧ SparFrame f s t ∧ (t.spar f).late = [] ∧ (∀ k, (t.spar f).rt k = (s.spar f).settle.rt k) ∧
      (∀ x, (t.spar f).acc x = (s.spar f).acc x) ∧ (t.spar f).p = (s.spar f).settle.p)

namespace Sys2Proof.Machine

/-- What an M-class instruction does beside its slots (R211, R212): the accumulator that ACC selects takes the value in the 40-bit range under
SAT, with Z, N and V. With both slots off, memory and tags are unchanged; a slot that loads leaves its word as a late write to its data
register and post-modifies its pointer (R207, R219). -/
def SparMac (i : Fin 64 → SparM → Instr) (op : Option (Int → Int → Int)) : Prop :=
  ∀ (f : Fin 64) (o : SparM) (s : State), SparIssues s f → (o.x.en = true → o.x.st = false) → (o.y.en = true → o.y.st = false) →
    ∃ t, exec (i f o) s = .next t ∧ SparFrame f s t ∧
      (∀ x, (t.spar f).acc x = match op with
        | some g => if x = o.acc then (inSigned 40 o.sat (g ((s.spar f).acc o.acc)
            ((s.spar f).ti o.ta.toNat * (s.spar f).ti o.tb.toNat * (if o.frac then 2 else 1)))).1 else (s.spar f).acc x
        | none => (s.spar f).acc x) ∧
      (∀ k, (t.spar f).rt k = (s.spar f).settle.rt k) ∧
      (t.spar f).late =
        (if o.x.en then [.t o.x.t.toNat (s.rdLe (sparWord f ((s.spar f).ptr o.x.p.toNat)) 2)] else []) ++
        (if o.y.en then [.t o.y.t.toNat (s.rdLe (sparWord f ((s.spar f).ptr (4 + o.y.p.toNat))) 2)] else []) ∧
      ∀ k, k < 8 → (t.spar f).ptr k =
        if o.x.en ∧ k = o.x.p.toNat then (s.spar f).postMod k o.x.ms
        else if o.y.en ∧ k = 4 + o.y.p.toNat then (s.spar f).postMod k o.y.ms
        else (s.spar f).settle.ptr k

end Sys2Proof.Machine

open Sys2Proof Sys2Proof.Machine in
/-- R211, R212 (products and sums), R207 (slots and pointers), R219 (a load is seen by the second following instruction). -/
def Obligations.SparMultiply : Prop :=
  SparMac .pmov none ∧ SparMac .mpy (some fun _ p => p) ∧ SparMac .mac (some fun a p => a + p) ∧ SparMac .msu (some fun a p => a - p)

open Sys2Proof Sys2Proof.Machine in
/-- R207, R208, R229: a store through the X slot. -/
def Obligations.SparStores : Prop :=
  ∀ (f : Fin 64) (o : SparM) (s : State), SparIssues s f → o.x.en = true → o.x.st = true → o.y.en = false →
    ((s.spar f).inOut ((s.spar f).ptr o.x.p.toNat) = true →
      ∃ t, exec (.pmov f o) s = .next t ∧
        t.rdLe (sparWord f ((s.spar f).ptr o.x.p.toNat)) 2 = (s.spar f).rt o.x.t.toNat % 2 ^ 16 ∧
        (∀ x, x < sparWord f ((s.spar f).ptr o.x.p.toNat) ∨ sparWord f ((s.spar f).ptr o.x.p.toNat) + 2 ≤ x → t.rdByte x = s.rdByte x) ∧
        (t.spar f).ptr o.x.p.toNat = (s.spar f).postMod o.x.p.toNat o.x.ms ∧ t.regs = s.regs) ∧
    ((s.spar f).inOut ((s.spar f).ptr o.x.p.toNat) = false →
      ∃ t, exec (.pmov f o) s = .next t ∧ t.mem = s.mem ∧ t.tags = s.tags ∧ t.bit (pgSpar f) F.SPAR_ERR_STAT_SPAR_OOB = true ∧
        (t.spar f).ptr o.x.p.toNat = (s.spar f).postMod o.x.p.toNat o.x.ms)

open Sys2Proof Sys2Proof.Machine in
/-- R227, R228 (kernel), R222 to R225 (interrupts). -/
def Obligations.SparKernelLife : Prop :=
  ∀ (f : Fin 64) (s : State),
    (∀ (a : Agent) (v : Word) (off : Nat), s.ready (pgSpar f) = true → F.SPAR_KSTART_GO.of v = 1 → s.floePart f = none →
      s.works (pgSpar f) = true → (s.spar f).phase = .idle → off = F.SPAR_KSTART_OFFSET.of v % 32768 / 16 * 16 → (readSparHdr s f off).ok = true →
      ∃ t, exec (.sparKstart a f v) s = .next t ∧ (t.spar f).phase = .preload ∧ (t.spar f).hdr = off ∧
        (t.spar f).entry = (readSparHdr s f off).entry ∧ (t.spar f).decl = (readSparHdr s f off).decl ∧
        t.rf (pgSpar f) F.SPAR_HOLDOFF_MAX = 0 ∧ t.mem = s.mem ∧ t.tags = s.tags) ∧
    ((s.spar f).phase = .preload →
      ∃ t, exec (.sparPreloadDone f false) s = .next t ∧ (t.spar f).phase = .running ∧ (t.spar f).pc = (s.spar f).entry ∧ (t.spar f).cyc = 1 ∧
        (t.spar f).t = [] ∧ (t.spar f).a0 = 0 ∧ (t.spar f).a1 = 0 ∧ (t.spar f).p = [] ∧ (t.spar f).pend = 0 ∧
        (t.spar f).en = BitVec.ofNat 3 (readSparHdr s f (s.spar f).hdr).irq ∧ t.mem = s.mem ∧ t.tags = s.tags) ∧
    ((s.spar f).phase = .running → (s.spar f).turn = some (0, .stop) → (s.spar f).cyc + 1 ≤ (s.spar f).decl →
      ∃ t, exec (.sparKernelEnd f) s = .next t ∧ (t.spar f).phase = .idle ∧ (t.spar f).pend = 0 ∧
        t.rf (pgSpar f) F.SPAR_KCYC = ((s.spar f).cyc + 1) % 2 ^ 32 ∧
        t.rf (pgSpar f) F.SPAR_KDONE_CNT = min (s.rf (pgSpar f) F.SPAR_KDONE_CNT + 1) 0xFFFFFFFF ∧ t.mem = s.mem ∧ t.tags = s.tags) ∧
    ((s.spar f).phase = .running →
      ∃ t, exec (.sparOverrun f) s = .next t ∧ (t.spar f).phase = .idle ∧ t.bit (pgSpar f) F.SPAR_ERR_STAT_SPAR_OVERRUN = true ∧
        t.rf (pgSpar f) F.SPAR_KFAULT_CNT = min (s.rf (pgSpar f) F.SPAR_KFAULT_CNT + 1) 0xFFFFFFFF ∧ t.mem = s.mem) ∧
    (∀ (a : Agent) (v : Word), s.ready (pgSpar f) = true → (s.spar f).phase ≠ .idle → (s.spar f).pend.getLsbD 2 = false →
      ∃ t, exec (.sparMbox a f v) s = .next t ∧ SparFrame f s t ∧ (t.spar f).mbox = v.setWidth 16 ∧ (t.spar f).pend = (s.spar f).pend ||| 4#3 ∧
        t.regs = s.regs) ∧
    ((s.spar f).phase = .running → (s.spar f).tickPeriod ≠ 0 →
      ∃ t, exec (.tick f) s = .next t ∧ SparFrame f s t ∧
        (if (s.spar f).pend.getLsbD 0 then t.bit (pgSpar f) F.SPAR_ERR_STAT_IRQ_LOST = true ∧
          t.rf (pgSpar f) F.SPAR_IRQ_LOST_CNT = min (s.rf (pgSpar f) F.SPAR_IRQ_LOST_CNT + 1) 0xFFFFFFFF
        else (t.spar f).pend = (s.spar f).pend ||| 1#3)) ∧
    (∀ i, i < 3 → (s.spar f).phase = .running → (s.spar f).ie = true → (s.spar f).inHandler = false → (s.spar f).turn = none →
      (s.spar f).rep = none → (s.spar f).cyc ≤ (s.spar f).decl → (s.spar f).pend.getLsbD i = true → (s.spar f).en.getLsbD i = true →
      (∀ j, j < i → (s.spar f).pend.getLsbD j && (s.spar f).en.getLsbD j = false) →
      ∃ t, exec (.sparIrqAccept f) s = .next t ∧ (t.spar f).pc = (s.spar f).vec ∧ (t.spar f).ret = (s.spar f).pc ∧
        (t.spar f).retZ = (s.spar f).z ∧ (t.spar f).retN = (s.spar f).n ∧ (t.spar f).retV = (s.spar f).v ∧ (t.spar f).ie = false ∧
        (t.spar f).inHandler = true ∧ (t.spar f).pend.getLsbD i = false ∧ (t.spar f).cyc = (s.spar f).cyc + 3 ∧
        (∀ k, (t.spar f).rt k = (s.spar f).settle.rt k) ∧ t.mem = s.mem ∧ t.tags = s.tags)

namespace Sys2Proof.Machine

/-- A word that the Masthead delivers to an idle, working floe that is the only member of its wing, and that passes the checks of R142. -/
def Accepted (s : State) (rx : Nat) (m : Macro) : Prop :=
  s.works (pgGaff rx) = true ∧ (s.floe rx).exec = none ∧ m.wingOk = true ∧ m.members = [rx] ∧ (checkShare s m rx false).fails = false

/-- Whether the floe holds a deferred region (R152). -/
def hasRegion (x : FloeSt) : Bool :=
  match x.deferred with
  | some d => d.region.isSome
  | none => false

/-- Where an accepted share stands after its issue: an empty share or a zero dimension completes (R145, R147), tiles are walked, ATTN and
ADAPT_STEP wait for Brash, and GATHER and a conversion of a tensor have written their output. -/
def startPhase (s : State) (rx : Nat) (m : Macro) : GaffPhase :=
  if (checkShare s m rx false).idle then .zero
  else if m.fromRegion then (if hasRegion (s.floe rx) then .work else .zero)
  else if m.tiled then .work
  else if m.opc = 5 ∨ m.opc = 11 then .brash
  else .done

/-- What an opcode does at its issue to one member (R135, R136, R142): the share is in execution under a new run, and GAFF_WC_CYC holds
the worst case. The word's OPC field is the opcode's. -/
def GaffStarts (i : Fin 64 → BitVec 512 → Instr) (opc : Nat) : Prop :=
  ∀ (rx : Fin 64) (w : BitVec 512) (s : State), Accepted s rx (macroOf (withOpc w opc)) →
    ∃ t x, exec (i rx w) s = .next t ∧ (t.floe rx).exec = some x ∧ x.word = withOpc w opc ∧ x.run = some s.nextRun ∧
      x.phase = startPhase s rx (macroOf (withOpc w opc)) ∧ t.nextRun = s.nextRun + 1 ∧
      t.rf (pgGaff rx) F.GAFF_WC_CYC = (checkShare s (macroOf (withOpc w opc)) rx false).wc % 2 ^ 32

/-- What an opcode does where a check of R142 fails on its only member: nothing executes, and the refusal is counted with the ID. -/
def GaffRefuses (i : Fin 64 → BitVec 512 → Instr) (opc : Nat) : Prop :=
  ∀ (rx : Fin 64) (w : BitVec 512) (s : State), s.works (pgGaff rx) = true → (s.floe rx).exec = none →
    (macroOf (withOpc w opc)).wingOk = true → (macroOf (withOpc w opc)).members = [(rx : Nat)] →
    (checkShare s (macroOf (withOpc w opc)) rx false).fails = true →
    ∃ t, exec (i rx w) s = .next t ∧ (t.floe rx).exec = none ∧ t.mem = s.mem ∧ t.tags = s.tags ∧
      t.rf (pgGaff rx) F.GAFF_FAULT_CNT = min (s.rf (pgGaff rx) F.GAFF_FAULT_CNT + 1) 0xFFFFFFFF ∧
      t.rf (pgGaff rx) F.GAFF_FAULT_ID = (macroOf (withOpc w opc)).id % 2 ^ 32

/-- Address of the macro-instruction word that a write of GAFF_ISSUE names (R136). -/
def issueWordAt (f : Nat) (v : Word) : Nat := floeBase f + F.GAFF_ISSUE_OFFSET.of v / 64 * 64

end Sys2Proof.Machine

open Sys2Proof Sys2Proof.Machine in
/-- R135, R136, R142: the issue of each opcode that passes its checks; R142, R144: the refusal of each opcode. -/
def Obligations.GaffOpcodes : Prop :=
  (GaffStarts .mmul 1 ∧ GaffStarts .cmmul 2 ∧ GaffStarts .bmmul 3 ∧ GaffStarts .tmmul 4 ∧ GaffStarts .attn 5 ∧ GaffStarts .conv1d 6 ∧
    GaffStarts .gather 7 ∧ GaffStarts .combine 8 ∧ GaffStarts .quant 9 ∧ GaffStarts .dequant 10 ∧ GaffStarts .adaptStep 11) ∧
  GaffRefuses .mmul 1 ∧ GaffRefuses .cmmul 2 ∧ GaffRefuses .bmmul 3 ∧ GaffRefuses .tmmul 4 ∧ GaffRefuses .attn 5 ∧
  GaffRefuses .conv1d 6 ∧ GaffRefuses .gather 7 ∧ GaffRefuses .combine 8 ∧ GaffRefuses .quant 9 ∧ GaffRefuses .dequant 10 ∧
  GaffRefuses .adaptStep 11

open Sys2Proof Sys2Proof.Machine in
/-- R135 to R137: GAFF_ISSUE, the latch, and the time-out of a wing. -/
def Obligations.GaffIssueAndLatch : Prop :=
  ∀ (f : Fin 64) (s : State),
    (∀ (a : Agent) (v : Word), s.ready (pgGaff f) = true → F.GAFF_ISSUE_GO.of v = 1 →
      (s.floePart f = none → s.works (pgGaff f) = true → (s.floe f).exec.isSome = true → (s.floe f).glatch = none →
        ∃ t, exec (.gaffIssue a f v) s = .next t ∧
          (t.floe f).glatch = some { run := none, word := BitVec.ofNat 512 (s.rdLe (issueWordAt f v) 64), badWord := s.poisonAt (issueWordAt f v) } ∧
          (t.floe f).exec = (s.floe f).exec ∧ t.mem = s.mem ∧ t.tags = s.tags ∧ t.regs = s.regs) ∧
      (s.floePart f = none → s.works (pgGaff f) = true → (s.floe f).exec.isSome = true → (s.floe f).glatch.isSome = true →
        ∃ t, exec (.gaffIssue a f v) s = .next t ∧ t.floes = s.floes ∧ t.bit (pgGaff f) F.GAFF_ERR_STAT_ISSUE_OVERRUN = true ∧
          t.mem = s.mem ∧ t.tags = s.tags) ∧
      ((s.floePart f).isSome = true →
        ∃ t, exec (.gaffIssue a f v) s = .next t ∧ t.floes = s.floes ∧ t.bit (pgGaff f) F.GAFF_ERR_STAT_ISSUE_DENIED = true ∧
          t.mem = s.mem ∧ t.tags = s.tags)) ∧
    (∀ l r q, (s.floe f).exec = none → (s.floe f).glatch = some l → s.enabled (pgGaff f) = true → l.run = some r → s.run r = some q →
      (∃ k ∈ q.members, k ≠ (f : Nat) ∧ k ∉ q.started) →
      ∃ t, exec (.latchedMacroStart f) s = .next t ∧ (t.floe f).glatch = none ∧
        (t.floe f).exec = some { run := some r, word := l.word, badWord := l.badWord, geo := l.word, phase := .peers } ∧
        t.run r = some { q with started := q.started ++ [(f : Nat)] } ∧ t.mem = s.mem ∧ t.regs = s.regs) ∧
    (∀ x, (s.floe f).exec = some x → x.phase = .signal → s.signalled (macroOf x.word) = [((f : Nat), x)] →
      ∃ t, exec (.wingSignalTimeout f) s = .next t ∧ (t.floe f).exec = none ∧ t.bit (pgGaff f) F.GAFF_ERR_STAT_WING_BAD = true ∧
        t.rf (pgGaff f) F.GAFF_FAULT_CNT = min (s.rf (pgGaff f) F.GAFF_FAULT_CNT + 1) 0xFFFFFFFF ∧
        t.rf (pgGaff f) F.GAFF_FAULT_ID = (macroOf x.word).id % 2 ^ 32 ∧ t.mem = s.mem ∧ t.tags = s.tags)

namespace Sys2Proof.Machine

/-- The operands of the weight tile of pass `idx` (R115 to R121), as the codes in the half and the scales give them. -/
def tileOfPass (s : State) (f : Nat) (x : GaffExec) (idx : Nat) : Tile :=
  let p := passAt x.g (x.share f) idx
  let e := tileExt x.g (x.share f) p
  let c : WorkCtx := { s.ctxOf x with late := (s.ctxOf x).late ++ x.hits }
  tileOf (tileColumns (groupSize (readDesc s f (x.g.desc 1)).group) x.g.mW p.plane x.g.cplx
    (fun r k => s.tileWeight c f x.g (x.share f) p r k) e.1 e.2)

end Sys2Proof.Machine

open Sys2Proof Sys2Proof.Machine in
/-- R115, R126, R127, R150: the events of a share's walk. -/
def Obligations.GaffWalk : Prop :=
  ∀ (f : Fin 64) (s : State) (x : GaffExec), (s.floe f).exec = some x →
    (∀ idx, x.loading f = some idx →
      ∃ t, exec (.tileLoadComplete f []) s = .next t ∧ (t.floe f).rime.shadow = tileOfPass s f x idx ∧ t.mem = s.mem ∧ t.tags = s.tags) ∧
    (x.phase = .work → x.passOn = true →
      ∃ t y, exec (.passEnd f [] []) s = .next t ∧ (t.floe f).exec = some y ∧ y.pass = x.pass + 1 ∧ y.word = x.word ∧ y.run = x.run ∧
        t.tags = s.tags) ∧
    (∀ (y : GaffExec) (r q : Region) (rs : List Region) (k p : Nat), x.regions = r :: rs → r.nextMerge x.g f = some (k, p) → p ≠ (f : Nat) →
      (s.floe p).exec = some y → y.regions.find? (fun z => decide (z.visit = r.visit)) = some q → x.phase = .work → y.phase = .work →
      y.run = x.run → q.nextMerge y.g p = none → r.base + r.rows * x.g.regionPitch ≤ 32768 →
      ∃ t, exec (.mergeRoundComplete f [] []) s = .next t ∧
        ∀ a, a < 32768 →
          if r.base ≤ a ∧ a < r.base + r.rows * x.g.regionPitch then
            t.acc f a = sInt 96 (lowBits 96 (s.acc f a + s.acc p a)) ∧ t.accPoison f a = (s.accPoison f a || s.accPoison p a)
          else t.acc f a = s.acc f a ∧ t.accPoison f a = s.accPoison f a) ∧
    (∀ (r : Region) (rs : List Region), x.regions = r :: rs → x.phase = .work → (x.share f).rk = 0 → r.nextMerge x.g f = none →
      ∃ t y, exec (.readoutComplete f []) s = .next t ∧ (t.floe f).exec = some y ∧ y.regions = rs ∧ y.written = x.written + 1 ∧
        y.word = x.word ∧ y.run = x.run)

open Sys2Proof Sys2Proof.Machine in
/-- R136, R145, R147, R156, R197, R89: how a share ends, and what waited for it. -/
def Obligations.GaffCompletion : Prop :=
  ∀ (f : Fin 64) (s : State),
    (∀ x, (s.floe f).exec = some x →
      (x.phase = .zero →
        ∃ t, exec (.zeroDimComplete f) s = .next t ∧ (t.floe f).exec = none ∧ (t.floe f).core.gaffHolds = false ∧
          t.rf (pgGaff f) F.GAFF_DONE_CNT = min (s.rf (pgGaff f) F.GAFF_DONE_CNT + 1) 0xFFFFFFFF) ∧
      (∀ c : BitVec 32, x.phase = .done →
        ∃ t, exec (.shareComplete f c) s = .next t ∧ (t.floe f).exec = none ∧ (t.floe f).core.gaffHolds = false ∧
          t.rf (pgGaff f) F.GAFF_DONE_CNT = min (s.rf (pgGaff f) F.GAFF_DONE_CNT + 1) 0xFFFFFFFF) ∧
      (x.phase ≠ .signal → x.phase ≠ .peers → s.bit (pgCc (f / 8)) F.CC_CTRL_AUTO_FENCE = false →
        ∃ t, exec (.wcOverrun f) s = .next t ∧ (t.floe f).exec = none ∧ (t.floe f).core.gaffHolds = false ∧
          t.bit (pgGaff f) F.GAFF_ERR_STAT_WC_OVERRUN = true) ∧
      (x.phase = .brash → (s.floe f).core.phase = .idle →
        ∃ t y, exec (.gaffBrashAcquire f) s = .next t ∧ (t.floe f).exec = some y ∧ (t.floe f).core.gaffHolds = true ∧
          (y.phase = .done ∨ y.phase = .held ∧ (macroOf x.word).opc ≠ 5))) ∧
    (∀ (j : Fin 8) (l : CbLoad), ((s.floe f).cb j).wait = some l → s.cbInUse f j = false →
      ∃ t, exec (.cbDeferredLoadApply f j) s = .next t ∧
        (t.floe f).cb j = { codes := l.codes, poison := l.poison, wait := none } ∧ t.bit (pgRime f) (F.RIME_CB_SLOT_VALID j) = true ∧
        t.bit (pgRime f) (F.RIME_CB_SLOT_DEFERRED j) = false ∧ t.bit (pgRime f) (F.RIME_CB_SLOT_LOADING j) = false ∧
        t.rf (pgRime f) (F.RIME_CB_SLOT_CB_ID j) = l.id.toNat ∧ t.mem = s.mem ∧ t.tags = s.tags)

open Sys2Proof Sys2Proof.Machine in
/-- R236 to R238, R242, R243, R247: accesses at the scratchpad's ports, and the patrol. -/
def Obligations.FloeMemoryPorts : Prop :=
  ∀ (f : Fin 64) (p : SpPort) (line : BitVec 16) (s : State),
    (s.ready (pgFmem f) = true → s.floeClosed f = false →
      Gives (.scratchpadAccess f p line .read {}) s (fun t =>
        Answers t (s.rdBytes (floeBase f + 64 * line.toNat) 64) (s.poisonAt (floeBase f + 64 * line.toNat)) ∧ DataKept s t ∧ t.regs = s.regs) ∧
      (∀ w : Fin 8, s.bit (pgCc (f / 8)) F.CC_CTRL_AUTO_FENCE = false →
        Gives (.scratchpadAccess f p line .read { ue := some w }) s fun t =>
          Answers t (s.rdBytes (floeBase f + 64 * line.toNat) 64) true ∧ t.poisonAt (floeBase f + 64 * line.toNat) = true ∧
          t.bit (pgFmem f) F.FMEM_ERR_STAT_SP_UE = true ∧ Counts s t (pgFmem f) F.FMEM_UE_CNT ∧
          t.rf (pgFmem f) F.FMEM_ERR_ADDR = 64 * line.toNat + 8 * w ∧ t.mem = s.mem) ∧
      (∀ (d : Bytes) (g : Tag), d.length = 64 →
        Gives (.scratchpadAccess f p line (.write 0 d (some g)) {}) s fun t =>
          t.rdBytes (floeBase f + 64 * line.toNat) 64 = d ∧ t.tagAt (floeBase f + 64 * line.toNat) = g ∧ t.regs = s.regs ∧
          BytesKept s t (floeBase f + 64 * line.toNat) (floeBase f + 64 * line.toNat + 64)) ∧
      (∀ (o : BitVec 6) (d : Bytes), o.toNat % 8 = 0 → d.length % 8 = 0 → o.toNat + d.length ≤ 64 →
        Gives (.scratchpadAccess f p line (.write o d none) {}) s fun t =>
          t.rdBytes (floeBase f + 64 * line.toNat + o.toNat) d.length = d ∧ t.tags = s.tags ∧ t.regs = s.regs ∧
          BytesKept s t (floeBase f + 64 * line.toNat + o.toNat) (floeBase f + 64 * line.toNat + o.toNat + d.length))) ∧
    (s.ready (pgFmem f) = false →
      Gives (.scratchpadAccess f p line .read {}) s (fun t => Answers t (ones 64) false ∧ DataKept s t ∧
        t.bit pgFab F.SYS_FAB_ERR_STAT_UNMAPPED = true) ∧
      (∀ o d g, Gives (.scratchpadAccess f p line (.write o d g) {}) s fun t => DataKept s t ∧ t.bit pgFab F.SYS_FAB_ERR_STAT_UNMAPPED = true)) ∧
    (s.ready (pgFmem f) = true → s.works (pgFmem f) = true → s.bit (pgFmem f) F.FMEM_CTRL_PATROL_EN = true → s.floeClosed f = false →
      Gives (.patrolScrubTurn f {}) s fun t => (t.floe f).patrol = ((s.floe f).patrol + 1) % 67584 ∧ DataKept s t)

namespace Sys2Proof.Machine

/-- The floe window's memories hold zeros, every line of it the all-zero tag (R247, R248). -/
def WindowZero (t : State) (f : Nat) : Prop :=
  (∀ x, floeBase f ≤ x → x < floeBase f + 0x100_0000 → t.rdByte x = 0 ∧ t.tagAt x = 0) ∧ ∀ i, i < 32768 → t.accPoison f i = false

end Sys2Proof.Machine

open Sys2Proof Sys2Proof.Machine in
/-- R247, R248, R90. -/
def Obligations.FloeInitAndScrub : Prop :=
  ∀ (f : Fin 64) (s : State),
    (s.bit (pgFmem f) F.FMEM_STAT_INIT_DONE = false → s.mainHeld = false → s.floeFenced f = false →
      Gives (.floeMemInitDone f) s fun t => WindowZero t f ∧ t.bit (pgFmem f) F.FMEM_STAT_INIT_DONE = true ∧ t.ready (pgFmem f) = true ∧
        BytesKept s t (floeBase f) (floeBase f + 0x100_0000)) ∧
    (∀ a : Agent, s.ready (pgFmem f) = true →
      Gives (.scrubRequest a f) s fun t => t.bit (pgFmem f) F.FMEM_STAT_SCRUB_PENDING = true ∧
        t.bit (pgFmem f) F.FMEM_STAT_SCRUBBING = (s.bit (pgFmem f) F.FMEM_STAT_SCRUBBING || !s.floeBusy f) ∧ DataKept s t) ∧
    (s.bit (pgFmem f) F.FMEM_STAT_SCRUB_PENDING = true → s.floeBusy f = false →
      Gives (.scrubStart f) s fun t => t.bit (pgFmem f) F.FMEM_STAT_SCRUBBING = true ∧ DataKept s t) ∧
    (s.bit (pgFmem f) F.FMEM_STAT_SCRUBBING = true →
      Gives (.scrubEnd f) s fun t => WindowZero t f ∧ (t.floe f).core = {} ∧ (t.floe f).spar = {} ∧ (t.floe f).cbs = [] ∧
        BytesKept s t (floeBase f) (floeBase f + 0x100_0000) ∧
        (s.floePart f = none → t.bit (pgFmem f) F.FMEM_STAT_SCRUBBING = false ∧ t.bit (pgFmem f) F.FMEM_STAT_SCRUB_PENDING = false))

namespace Sys2Proof.Machine

/-- Bytes of an access size (R468). -/
def Size.count : Size → Nat
  | .b1 => 1
  | .b2 => 2
  | .b4 => 4
  | .b8 => 8
  | .line => 64

/-- Address of an access through a floe window, aligned to its size. -/
def windowAt (f : Nat) (off : BitVec 24) (z : Size) : Nat := floeBase f + off.toNat / Size.count z * Size.count z

/-- A window access that reaches a memory of the floe. -/
def InWindow (s : State) (a : Agent) (f : Nat) (off : BitVec 24) (z : Size) : Prop :=
  s.ready (pgFmem f) = true ∧ hasWindows a = true ∧ regionOf f (off.toNat / Size.count z * Size.count z) ≠ .none

end Sys2Proof.Machine

open Sys2Proof Sys2Proof.Machine in
/-- R246, R42: floe windows. R256, R257, R434. -/
def Obligations.FloeWindows : Prop :=
  (∀ (a : Agent) (f : Fin 64) (off : BitVec 24) (z : Size) (s : State),
      (InWindow s a f off z → s.windowOk a f (regionOf f (off.toNat / Size.count z * Size.count z)) false = true →
        Gives (.windowAccess a f off (.read z) {}) s fun t =>
          t.rsp = some (s.rdBytes (windowAt f off z) (Size.count z)) ∧ DataKept s t ∧ t.regs = s.regs) ∧
      (∀ d : Bytes, d.length = Size.count z → InWindow s a f off z →
        s.windowOk a f (regionOf f (off.toNat / Size.count z * Size.count z)) true = true →
        Gives (.windowAccess a f off (.write z d) {}) s fun t =>
          t.rdBytes (windowAt f off z) (Size.count z) = d ∧ BytesKept s t (windowAt f off z) (windowAt f off z + Size.count z) ∧ t.tags = s.tags) ∧
      (InWindow s a f off z → s.windowOk a f (regionOf f (off.toNat / Size.count z * Size.count z)) false = false →
        Gives (.windowAccess a f off (.read z) {}) s fun t =>
          Answers t (ones (Size.count z)) false ∧ DataKept s t ∧ t.bit (pgFmem f) F.FMEM_ERR_STAT_WIN_DENIED = true ∧
          Counts s t (pgFmem f) F.FMEM_WIN_DENY_CNT) ∧
      (∀ d : Bytes, InWindow s a f off z → s.windowOk a f (regionOf f (off.toNat / Size.count z * Size.count z)) true = false →
        Gives (.windowAccess a f off (.write z d) {}) s fun t =>
          DataKept s t ∧ t.bit (pgFmem f) F.FMEM_ERR_STAT_WIN_DENIED = true ∧ Counts s t (pgFmem f) F.FMEM_WIN_DENY_CNT) ∧
      (∀ d : Bytes, ¬ InWindow s a f off z →
        Gives (.windowAccess a f off (.read z) {}) s (fun t => Answers t (ones (Size.count z)) false ∧ DataKept s t ∧
          t.bit pgFab F.SYS_FAB_ERR_STAT_UNMAPPED = true) ∧
        Gives (.windowAccess a f off (.write z d) {}) s fun t => DataKept s t ∧ t.bit pgFab F.SYS_FAB_ERR_STAT_UNMAPPED = true)) ∧
  ((∀ (a : Agent) (w : WinRef) (v : Word) (s : State), s.ready (s.winRegs w).page = true → s.bit (s.winRegs w).page (s.winRegs w).closing = false →
      ((s.winRegs w).en.of v = 1 →
        Gives (.fwinCtrl a w v) s fun t => t.bit (s.winRegs w).page (s.winRegs w).en = winOk w (s.winRegs w) ∧
          (winOk w (s.winRegs w) = false → t.bit (s.winRegs w).page (s.winRegs w).bad = true) ∧
          t.rf (s.winRegs w).page (s.winRegs w).rd = (s.winRegs w).rd.of v ∧ t.rf (s.winRegs w).page (s.winRegs w).wr = (s.winRegs w).wr.of v ∧
          t.rf (s.winRegs w).page (s.winRegs w).tenant = (s.winRegs w).tenant.of v ∧ DataKept s t) ∧
      ((s.winRegs w).en.of v = 0 → s.bit (s.winRegs w).page (s.winRegs w).en = true →
        Gives (.fwinCtrl a w v) s fun t => t.bit (s.winRegs w).page (s.winRegs w).en = false ∧
          t.bit (s.winRegs w).page (s.winRegs w).closing = true ∧ DataKept s t)) ∧
    (∀ (w : WinRef) (s : State), s.bit (s.winRegs w).page (s.winRegs w).closing = true → Tab.at s.winPend (s.winRegs w).key false = false →
      Gives (.windowCloseComplete w) s fun t => t.bit (s.winRegs w).page (s.winRegs w).closing = false ∧
        t.bit (s.winRegs w).page (s.winRegs w).en = s.bit (s.winRegs w).page (s.winRegs w).en ∧ DataKept s t) ∧
    (∀ (k : Fin 8) (f : Fin 64) (r : RemoteAccess) (o : Nat) (s : State), r.offset.toNat = dramSize + f * 0x100_0000 + o → o < 0x100_0000 →
      o % 64 = 0 → r.ecc = {} →
      (r.lines = none → r.n = 1 → s.ready (pgFwin f) = true → s.floeClosed f = false →
        (∃ j : Fin 8, s.winAdmits (.floe f j) r.src r.tenant o false = true) →
        Gives (.remoteFloeAccess k r) s fun t => Answers t (s.rdBytes (floeBase f + o) 64) (s.poisonAt (floeBase f + o)) ∧ DataKept s t ∧
          Counts s t (pgFwin f) F.FWIN_RD_CNT) ∧
      (r.lines = none → r.n = 1 → (∀ j : Fin 8, s.winAdmits (.floe f j) r.src r.tenant o false = false) →
        Gives (.remoteFloeAccess k r) s fun t => Answers t (ones 64) false ∧ DataKept s t ∧ Counts s t (pgFwin f) F.FWIN_DENY_CNT) ∧
      (∀ l : TaggedLine, r.lines = some [l] → l.data.length = 64 → s.ready (pgFwin f) = true → s.floeClosed f = false →
        (∃ j : Fin 8, s.winAdmits (.floe f j) r.src r.tenant o true = true) → (s.floeTenant f = none ∨ s.floeTenant f = some (Tag.tenant l.tag)) →
        Gives (.remoteFloeAccess k r) s fun t => t.rdBytes (floeBase f + o) 64 = l.data ∧ t.tagAt (floeBase f + o) = l.tag ∧
          BytesKept s t (floeBase f + o) (floeBase f + o + 64) ∧ Counts s t (pgFwin f) F.FWIN_WR_CNT)))

open Sys2Proof Sys2Proof.Machine in
/-- R250 to R255. -/
def Obligations.FirnCache : Prop :=
  (∀ (tn : Option (Fin 8)) (a : BitVec 35) (pin wl : Bool) (s : State), s.chanReady (a.toNat / 64 * 64) = true →
    Gives (.firnRead tn a pin wl {}) s (fun t => t.rsp = some (s.rdBytes (a.toNat / 64 * 64) 64) ∧ DataKept s t) ∧
    (tn = none → Gives (.firnRead tn a pin wl {}) s fun t => t.rspPoison = s.dramPoisonAt (a.toNat / 64 * 64) ∧ t.firn = s.firn) ∧
    (∀ (k : Fin 8) (e : FirnWay), tn = some k → s.bit (pgFirn (firnSlice (a.toNat / 64 * 64))) F.FIRN_CTRL = true →
      (s.firnLines (firnKey (a.toNat / 64 * 64))).find? (fun e => decide (e.tag = firnTag (a.toNat / 64 * 64) ∧ e.tenant = (k : Nat))) = some e →
      Gives (.firnRead tn a pin wl {}) s fun t => t.rspPoison = e.poison) ∧
    (∀ (k : Fin 8) (w : Nat), tn = some k → s.bit (pgFirn (firnSlice (a.toNat / 64 * 64))) F.FIRN_CTRL = true →
      (s.firnLines (firnKey (a.toNat / 64 * 64))).find? (fun e => decide (e.tag = firnTag (a.toNat / 64 * 64) ∧ e.tenant = (k : Nat))) = none →
      pin = false → lruWay (s.firnLines (firnKey (a.toNat / 64 * 64))) ((List.range 12).filter fun w =>
        (s.cacheMask (firnSlice (a.toNat / 64 * 64)) k).testBit w && !s.isPinWay (firnSlice (a.toNat / 64 * 64)) w) = some w →
      Gives (.firnRead tn a pin wl {}) s fun t => t.rspPoison = s.dramPoisonAt (a.toNat / 64 * 64) ∧
        wayLine (t.firnLines (firnKey (a.toNat / 64 * 64))) w =
          some { way := w, tag := firnTag (a.toNat / 64 * 64), tenant := k, pinned := false, weight := wl,
                 poison := s.dramPoisonAt (a.toNat / 64 * 64) })) ∧
  (∀ (a : BitVec 35) (d : Bytes) (wl : Bool) (s : State), s.chanReady a.toNat = true → a.toNat % 64 + d.length ≤ 64 →
    Gives (.firnWrite a d wl) s fun t => t.rdBytes a.toNat d.length = d ∧ BytesKept s t a.toNat (a.toNat + d.length) ∧
      (d.length = 64 → t.dramPoisonAt a.toNat = false)) ∧
  (∀ (ag : Agent) (sl : Fin 16) (tn : Fin 8) (s : State), s.ready (pgFirn sl) = true → s.works (pgFirn sl) = true →
    (s.bit (pgFirn sl) F.FIRN_STAT = false →
      Gives (.firnInvalidate ag sl tn) s (fun t => t.bit (pgFirn sl) F.FIRN_STAT = true ∧ Tab.at t.firnOp sl none = some (1, (tn : Nat)) ∧ DataKept s t) ∧
      Gives (.firnUnpin ag sl tn) s (fun t => t.bit (pgFirn sl) F.FIRN_STAT = true ∧ Tab.at t.firnOp sl none = some (2, (tn : Nat)) ∧ DataKept s t) ∧
      Gives (.firnInvalidateUnpin ag sl tn) s
        (fun t => t.bit (pgFirn sl) F.FIRN_STAT = true ∧ Tab.at t.firnOp sl none = some (3, (tn : Nat)) ∧ DataKept s t)) ∧
    (s.bit (pgFirn sl) F.FIRN_STAT = true →
      Gives (.firnInvalidate ag sl tn) s (fun t => t.bit (pgFirn sl) F.FIRN_ERR_STAT_OP_OVERRUN = true ∧ t.firnOp = s.firnOp) ∧
      Gives (.firnUnpin ag sl tn) s (fun t => t.bit (pgFirn sl) F.FIRN_ERR_STAT_OP_OVERRUN = true ∧ t.firnOp = s.firnOp) ∧
      Gives (.firnInvalidateUnpin ag sl tn) s (fun t => t.bit (pgFirn sl) F.FIRN_ERR_STAT_OP_OVERRUN = true ∧ t.firnOp = s.firnOp))) ∧
  (∀ (sl : Fin 16) (kind tn : Nat) (s : State), Tab.at s.firnOp sl none = some (kind, tn) →
    Gives (.firnWalkEnd sl) s fun t => t.bit (pgFirn sl) F.FIRN_STAT = false ∧ Tab.at t.firnOp sl none = none ∧ DataKept s t ∧
      (∀ e ∈ t.firn, e.1 / 8192 = (sl : Nat) → ∀ y ∈ e.2, walkKeeps kind tn y = true) ∧
      t.firn.filter (fun e => decide (e.1 / 8192 ≠ (sl : Nat))) = s.firn.filter fun e => decide (e.1 / 8192 ≠ (sl : Nat)))

open Sys2Proof Sys2Proof.Machine in
/-- R453, R454, R456, R458, R459, R462. R460, R463. -/
def Obligations.DramChannels : Prop :=
  ((∀ (a : BitVec 35) (wl : Bool) (s : State), s.chanReady (a.toNat / 64 * 64) = true →
      Gives (.dramRead a wl {}) s (fun t =>
        Answers t (s.rdBytes (a.toNat / 64 * 64) 64) (s.dramPoisonAt (a.toNat / 64 * 64)) ∧ DataKept s t ∧ t.dramPoison = s.dramPoison) ∧
      (∀ w : Fin 8, s.dramPoisonAt (a.toNat / 64 * 64) = false →
        Gives (.dramRead a wl { ue := some w }) s fun t => Answers t (s.rdBytes (a.toNat / 64 * 64) 64) true ∧ DataKept s t ∧
          t.dramPoisonAt (a.toNat / 64 * 64) = true ∧ t.bit (pgDrc (chanOf (a.toNat / 64 * 64))) F.DRC_ERR_STAT_UE = true ∧
          Counts s t (pgDrc (chanOf (a.toNat / 64 * 64))) F.DRC_UE_CNT ∧
          t.rf (pgDrc (chanOf (a.toNat / 64 * 64))) F.DRC_ERR_ADDR = chanOff (a.toNat / 64 * 64) + 8 * w)) ∧
    (∀ (a : BitVec 35) (d : Bytes) (wl : Bool) (s : State), s.chanReady a.toNat = true → a.toNat % 64 + d.length ≤ 64 →
      Gives (.dramWrite a d wl) s fun t => t.rdBytes a.toNat d.length = d ∧ BytesKept s t a.toNat (a.toNat + d.length) ∧ t.tags = s.tags ∧
        (d.length = 64 → t.dramPoisonAt a.toNat = false)) ∧
    (∀ (a : BitVec 35) (d : Bytes) (wl : Bool) (e : Ecc) (s : State),
      (s.chanReady (a.toNat / 64 * 64) = false →
        Gives (.dramRead a wl e) s fun t => Answers t (ones 64) false ∧ DataKept s t ∧ t.bit pgFab F.SYS_FAB_ERR_STAT_UNMAPPED = true) ∧
      (s.chanReady a.toNat = false →
        Gives (.dramWrite a d wl) s fun t => DataKept s t ∧ t.bit pgFab F.SYS_FAB_ERR_STAT_UNMAPPED = true)) ∧
    (∀ (n : Fin 64) (s : State),
      (s.ready (pgDrc n) = true → s.works (pgDrc n) = true → s.bit (pgDrc n) F.DRC_CTRL_PATROL_EN = true →
        (s.drc n).patrol + max 1 (s.rf (pgDrc n) F.DRC_CTRL_PATROL_RATE) < 8388608 →
        Gives (.dramPatrolRead n []) s fun t =>
          (t.drc n).patrol = (s.drc n).patrol + max 1 (s.rf (pgDrc n) F.DRC_CTRL_PATROL_RATE) ∧ DataKept s t) ∧
      (Gives (.dramFrameStart n) s fun t => (t.drc n).refresh = ((s.drc n).refresh + 2) % 16416 ∧ (t.drc n).stepNext = none ∧ DataKept s t ∧
        ∀ v, (s.drc n).stepNext = some v → t.rf (pgDrc n) F.DRC_IW = v % 16) ∧
      (∀ (a : Agent) (v : Word), s.ready (pgDrc n) = true →
        (s.bit (pgMst 0) F.MST_STAT_ACTIVE = false → s.bit (pgMst 0) F.MST_STAT_STAGED = false →
          Gives (.drcIw a n v) s fun t => (t.drc n).stepNext = some (F.DRC_IW.of v) ∧ DataKept s t) ∧
        ((s.bit (pgMst 0) F.MST_STAT_ACTIVE || s.bit (pgMst 0) F.MST_STAT_STAGED) = true →
          Gives (.drcIw a n v) s fun t => t.drcs = s.drcs ∧ t.bit (pgDrc n) F.DRC_ERR_STAT_IW_BUSY = true ∧ DataKept s t)))) ∧
  (∀ (n : Fin 64) (s : State),
      (∀ (a : Agent) (v : Word), s.ready (pgDrc n) = true → s.works (pgDrc n) = true → F.DRC_REMAP_CMD_GO.of v = 1 →
        (∀ k, (s.drc n).busy = none → (s.drc n).spareFor (F.DRC_REMAP_CMD_BANK.of v) = some k →
          Gives (.drcRemapCmd a n v) s fun t => (t.drc n).busy = some (F.DRC_REMAP_CMD_BANK.of v * 16384 + F.DRC_REMAP_CMD_ROW.of v, k) ∧
            (t.drc n).remap = (s.drc n).remap ∧ t.bit (pgDrc n) F.DRC_STAT_REMAPPING = true ∧ DataKept s t) ∧
        ((s.drc n).busy = none → (s.drc n).spareFor (F.DRC_REMAP_CMD_BANK.of v) = none →
          Gives (.drcRemapCmd a n v) s fun t => t.drcs = s.drcs ∧ t.bit (pgDrc n) F.DRC_ERR_STAT_SPARE_EMPTY = true ∧ DataKept s t) ∧
        ((s.drc n).busy.isSome = true →
          Gives (.drcRemapCmd a n v) s fun t => t.drcs = s.drcs ∧ t.bit (pgDrc n) F.DRC_ERR_STAT_REMAP_BUSY = true ∧ DataKept s t)) ∧
      (∀ row q k, (s.drc n).queue = row :: q → (s.drc n).busy = none → (s.drc n).spareFor (row / 16384) = some k →
        Gives (.remapStart n) s fun t => (t.drc n).queue = q ∧ (t.drc n).busy = some (row, k) ∧ (t.drc n).remap = (s.drc n).remap ∧ DataKept s t) ∧
      (∀ row k, (s.drc n).busy = some (row, k) →
        Gives (.remapSwitch n) s fun t => (t.drc n).busy = none ∧
          Tab.at (t.drc n).remap (256 * (row / 16384) + k) 0 = row % 16384 + 2 ^ 15 ∧ Counts s t (pgDrc n) F.DRC_REMAP_CNT ∧
          t.bit (pgDrc n) F.DRC_ERR_STAT_REMAP_DONE = true ∧ DataKept s t))

namespace Sys2Proof.Machine

/-- Address of the next line on each side of a transfer without an index (R266, R268). -/
def nextSrc (x : HalSt) (w : BitVec 512) : Nat := dSrcBase w + 64 * (x.row * dSrcPitch w + x.line)
def nextDst (x : HalSt) (w : BitVec 512) : Nat := dDstBase w + 64 * (x.row * dDstPitch w + x.line)

/-- A scratchpad line of a floe that serves accesses: the floe is neither fenced nor closed for a scrub, and its memories are ready. -/
def OpenLine (s : State) (f a : Nat) : Prop :=
  placeOf a = .sp f ∧ a % 64 = 0 ∧ s.floeFenced f = false ∧ s.floeClosed f = false ∧ s.ready (pgFmem f) = true

end Sys2Proof.Machine

open Sys2Proof Sys2Proof.Machine in
/-- R266, R268, R271, R273: one line of a transfer from scratchpad to scratchpad. -/
def Obligations.HalyardLine : Prop :=
  ∀ (h : Fin 128) (f g : Nat) (w : BitVec 512) (s : State), (s.hal h).active = some { word := w } → (s.hal h).checked = true →
    (s.hal h).cancelling = false → (s.hal h).row < dCount w → dSrcKind w = 0 → dDstKind w = 0 → dIdxEn w = false → dSrcRec w = false →
    (s.hal h).srcTag = none → dScaled w = false → OpenLine s f (nextSrc (s.hal h) w) → OpenLine s g (nextDst (s.hal h) w) →
    Tag.tenant (s.tagAt (nextSrc (s.hal h) w)) = (s.hal h).tenant →
    (s.floeTenant g = none ∨ s.floeTenant g = some ((s.hal h).tenant)) →
    Gives (.halLineDeliver h {} none) s fun t =>
      t.rdBytes (nextDst (s.hal h) w) 64 = s.rdBytes (nextSrc (s.hal h) w) 64 ∧
      t.tagAt (nextDst (s.hal h) w) = setTenant (outTag (dTagT w) (s.hal h).tenant (some (s.tagAt (nextSrc (s.hal h) w)))
        (s.poisonAt (nextSrc (s.hal h) w))) (s.hal h).tenant ∧
      BytesKept s t (nextDst (s.hal h) w) (nextDst (s.hal h) w + 64) ∧ (t.hal h).done = (s.hal h).done + 1 ∧
      ((t.hal h).row, (t.hal h).line) =
        (if dRowLines w ≤ (s.hal h).line + 1 then ((s.hal h).row + 1, 0) else ((s.hal h).row, (s.hal h).line + 1))

open Sys2Proof Sys2Proof.Machine in
/-- R276 to R279, R292. R266, R279, R281. -/
def Obligations.HalyardArming : Prop :=
  (∀ (a : Agent) (h : Fin 128) (s : State),
      (s.ready (pgHal h) = true → s.bit (pgHal h) F.HAL_TENANT_PART = false → s.works (pgHal h) = true →
        ((s.hal h).active = none → (s.hal h).shadow = none →
          Gives (.halArmGo a h) s fun t => (t.hal h).active = some { word := s.halStage h } ∧ (t.hal h).shadow = none ∧
            (t.hal h).checked = false ∧ (t.hal h).row = 0 ∧ t.rf (pgHal h) F.HAL_XFER_ID = dXferId (s.halStage h) ∧ DataKept s t) ∧
        ((s.hal h).active.isSome = true →
          Gives (.halArmGo a h) s fun t => (t.hal h).shadow = some { word := s.halStage h } ∧ (t.hal h).active = (s.hal h).active ∧
            ((s.hal h).shadow.isSome = true → t.bit (pgHal h) F.HAL_ERR_STAT_OVERRUN = true ∧ Counts s t (pgHal h) F.HAL_OVERRUN_CNT) ∧
            DataKept s t)) ∧
      (∀ d, s.ready (pgHal h) = true → s.bit (pgHal h) F.HAL_TENANT_PART = false → (s.hal h).active = some d → (s.hal h).cancelling = false →
        (s.hal h).finished d.word = false →
        Gives (.halCancel a h) s (fun t => (t.hal h).cancelling = true ∧ (t.hal h).shadow = (s.hal h).shadow ∧ DataKept s t) ∧
        Gives (.halCancelAll a h) s fun t => (t.hal h).cancelling = true ∧ (t.hal h).shadow = none ∧
          ((s.hal h).shadow.isSome = true → Counts s t (pgHal h) F.HAL_OVERRUN_CNT) ∧ DataKept s t) ∧
      (s.ready (pgHal h) = true → s.bit (pgHal h) F.HAL_TENANT_PART = true →
        Gives (.halArmGo a h) s (fun t => t.hals = s.hals ∧ t.bit (pgHal h) F.HAL_ERR_STAT_ARM_DENIED = true) ∧
        Gives (.halCancel a h) s (fun t => t.hals = s.hals ∧ t.bit (pgHal h) F.HAL_ERR_STAT_ARM_DENIED = true) ∧
        Gives (.halCancelAll a h) s (fun t => t.hals = s.hals ∧ t.bit (pgHal h) F.HAL_ERR_STAT_ARM_DENIED = true)) ∧
      (∀ d, (s.hal h).active = none → (s.hal h).shadow = some d → s.works (pgHal h) = true → s.shutting (pgHal h) = false → d.ctx.work = none →
        Gives (.descActivate h) s fun t => (t.hal h).active = some d ∧ (t.hal h).shadow = none ∧ (t.hal h).checked = false ∧ DataKept s t) ∧
      (∀ d, (s.hal h).active = some d → (s.hal h).checked = false → (s.hal h).cancelling = false →
        (descCause h d.word = 0 → Gives (.descActivate h) s fun t => (t.hal h).active = some d ∧ (t.hal h).checked = true ∧ DataKept s t) ∧
        (descCause h d.word ≠ 0 →
          Gives (.descActivate h) s fun t => (t.hal h).active = none ∧ t.rf (pgHal h) F.HAL_BAD_CAUSE = descCause h d.word ∧
            t.bit (pgHal h) F.HAL_ERR_STAT_DESC_BAD = true ∧ Counts s t (pgHal h) F.HAL_BAD_CNT ∧ DataKept s t))) ∧
  (∀ (h : Fin 128) (s : State),
      (∀ (d : HalDesc) (c : BitVec 32), (s.hal h).active = some d → (s.hal h).cancelling = false →
        ((s.hal h).checked = true → dCount d.word ≠ 0 → dCount d.word ≤ (s.hal h).row → dDstRec d.word = false → dDgAppend d.word = false →
          dDstKind d.word ≠ 1 →
          Gives (.halTransferComplete h c) s fun t => (t.hal h).active = none ∧ (t.hal h).shadow = (s.hal h).shadow ∧
            Counts s t (pgHal h) F.HAL_DONE_CNT ∧ t.rf (pgHal h) F.HAL_LINES_DONE = (s.hal h).done % 2 ^ 32 ∧
            t.bit (pgHal h) F.HAL_STAT_ACTIVE = false ∧ DataKept s t) ∧
        (dCount d.word = 0 → descCause h d.word = 0 →
          Gives (.halZeroRowComplete h) s fun t => (t.hal h).active = none ∧ (t.hal h).shadow = (s.hal h).shadow ∧
            Counts s t (pgHal h) F.HAL_ZERO_CNT ∧ Counts s t (pgHal h) F.HAL_DONE_CNT ∧ DataKept s t)) ∧
      (∀ c : BitVec 32, (s.hal h).cancelling = true →
        Gives (.cancelEnd h c) s fun t => (t.hal h).active = none ∧ (t.hal h).cancelling = false ∧ (t.hal h).shadow = (s.hal h).shadow ∧
          t.bit (pgHal h) F.HAL_ERR_STAT_CANCELLED = true ∧ Counts s t (pgHal h) F.HAL_CANCEL_CNT ∧
          t.rf (pgHal h) F.HAL_LINES_DONE = (s.hal h).done % 2 ^ 32 ∧ DataKept s t))

open Sys2Proof Sys2Proof.Machine in
/-- R297, R301 to R305, R312. R313, R314, R319. -/
def Obligations.MoraineSlots : Prop :=
  ((∀ (c : Fin 64) (s : State), s.ready (pgMor 0) = true → s.works (pgMor 0) = true → s.shutting (pgMor 0) = false →
      s.slotStarts (s.mor.cell c).period = true → Tab.at s.mor.opened c none ≠ some (s.tbNs 0 / 2) → s.mor.wait = [] → (s.mor.cell c).mode = 1 →
      Gives (.slotOpen c) s fun t => ∃ x, t.mor.slots = s.mor.slots ++ [x] ∧ x.cell = (c : Nat) ∧ x.n = s.tbNs 0 / (s.mor.cell c).period ∧
        x.words = s.mor.cellWords c ∧ x.prbs = [] ∧ Tab.at t.mor.opened c none = some (s.tbNs 0 / 2) ∧
        t.rf (pgMor 0) F.MOR_STAT_OPEN_SLOTS = (s.mor.slots.length + 1) % 256 ∧ DataKept s t) ∧
    (∀ (c : Fin 64) (x : MorSlot) (s : State), s.mor.slots.find? (fun x => decide (x.cell = (c : Nat))) = some x →
      (cellOf x.words).closeAt x.n ≤ s.tbNs 0 → (∀ y ∈ s.mor.slots, closesBefore y x = false) →
      Gives (.slotClose c) s fun t => t.mor.slots = s.mor.slots.filter (fun y => decide (y.cell ≠ x.cell ∨ y.n ≠ x.n)) ∧
        Tab.at t.mor.closed c none = some (x.n % 65536) ∧ Tab.at t.mor.allocs (c * 65536 + x.n % 65536) none = none) ∧
    (∀ (a : Agent) (v : Word) (s : State), s.ready (pgMor 0) = true → F.MOR_ALLOC_PUSH1_GO.of v = 1 →
      (Tab.at s.mor.closed (F.MOR_ALLOC_PUSH0_CELL_IX.of s.mor.stage) none = none →
        Gives (.allocPush a v) s fun t =>
          Tab.at t.mor.allocs (F.MOR_ALLOC_PUSH0_CELL_IX.of s.mor.stage * 65536 + F.MOR_ALLOC_PUSH0_SLOT.of s.mor.stage) none =
            some (F.MOR_ALLOC_PUSH1_ALLOC_MASK.of v, F.MOR_ALLOC_PUSH1_FIRST_DMRS.of v) ∧ t.regs = s.regs ∧ DataKept s t) ∧
      (∀ k, Tab.at s.mor.closed (F.MOR_ALLOC_PUSH0_CELL_IX.of s.mor.stage) none = some k →
        slotDiff (F.MOR_ALLOC_PUSH0_SLOT.of s.mor.stage) k ≤ 0 →
        Gives (.allocPush a v) s fun t => t.mor = s.mor ∧ t.bit (pgMor 0) F.MOR_ERR_STAT_ALLOC_LATE = true ∧ DataKept s t)) ∧
    (∀ (p : Fin 256) (x : MorPartner) (s : State), Tab.at s.mor.partners p none = some x →
      x.last + 1000000 * max 1 (s.rf (pgMor 0) F.MOR_PARTNER_AGE) ≤ s.tbNs 0 →
      Gives (.partnerRetire p) s fun t => Tab.at t.mor.partners p none = none ∧ (∀ i, (t.mor.stream i).bound ≠ some (p : Nat)) ∧
        t.bit (pgMor 0) F.MOR_ERR_STAT_PARTNER_GONE = true ∧ DataKept s t) ∧
    (∀ (a : Agent) (v : Word) (s : State), s.ready (pgMor 0) = true →
      Gives (.balAcPop a v) s fun t => t.mor.acJobs = s.mor.acJobs.drop (F.BAL_AC_POP.of v) ∧
        t.rf (pgMor 0) F.BAL_AC_DEPTH_OCC = (s.mor.acJobs.length - F.BAL_AC_POP.of v) % 1024 ∧ DataKept s t)) ∧
  ((∀ (a : Agent) (v : Word) (s : State), s.ready (pgMor 1) = true → F.ADP_START.of v = 1 →
      (s.mor.epoch = none → s.mor.fill ≠ [] →
        Gives (.adpStart a v) s fun t => t.mor.keep = s.mor.fill ∧ t.mor.fill = [] ∧
          t.mor.epoch = some { epoch := s.rf (pgMor 1) F.ADP_EPOCH, seed := s.rf (pgMor 1) F.ADP_SEED, n := s.mor.fill.length } ∧
          t.bit (pgMor 1) F.REC_STAT_ADP_RUNNING = true) ∧
      (s.mor.epoch.isSome = true →
        Gives (.adpStart a v) s fun t => t.mor = s.mor ∧ t.bit (pgMor 1) F.REC_STAT_ADP_BUSY = true ∧ DataKept s t)) ∧
    (∀ (e : AdpRun) (s : State), s.mor.epoch = some e →
      Gives .adpSampleEmit s fun t => t.mor.epoch = (if e.n ≤ e.q + 1 then none else some { e with q := e.q + 1 }) ∧
        t.bit (pgMor 1) F.REC_STAT_ADP_RUNNING = decide (e.q + 1 < e.n) ∧ t.mor.keep = s.mor.keep ∧ DataKept s t) ∧
    (∀ (c : Fin 64) (line lines q : Nat) (outs : List StreamOut) (slot t0 : Nat) (s : State), s.mor.wait = [] → (s.mor.cell c).mode = 2 →
      s.works (pgMor 0) = true → (∀ x ∈ Tab.at s.mor.queues (s.mor.cell c).queue [], x.cell = (c : Nat) → unread x = false) →
      s.replayNext c (recLines s + 1) ((Tab.at s.mor.replay c none).getD (s.rf (pgMor 1) F.RPL_PTR, none)).1
        ((Tab.at s.mor.replay c none).getD (s.rf (pgMor 1) F.RPL_PTR, none)).2 = (s, .slot line lines q) →
      replayEntry s c line lines = some (outs, slot, t0) →
      Gives (.replaySlot c) s fun t =>
        Tab.at t.mor.replay c none = some ((line + 1 + lines) % max 1 (recLines s), some q) ∧
        (∃ x ∈ Tab.at t.mor.queues (s.mor.cell c).queue [], x.cell = (c : Nat) ∧ x.close = t0 ∧ x.lines = slotLines (s.mor.cell c) slot outs) ∧
        DataKept s t))

namespace Sys2Proof.Machine

/-- The parts of a TB_CHECK job (R332). -/
def tbParts (j : SerJob) (n : Nat) : List TaggedLine := (List.range n).map (partLine j)

end Sys2Proof.Machine

open Sys2Proof Sys2Proof.Machine in
/-- R324, R335, R337, R339, R342, R328. R328, R331, R332, R334, R338, R342. -/
def Obligations.SeracJobs : Prop :=
  (∀ (e : Fin 8) (s : State),
      (∀ (d : Bytes) (tag : Tag), d.length = 64 → s.works (pgSer e) = true →
        (s.bit (pgSer e) F.SER_CTRL = true → s.shutting (pgSer e) = false → (s.ser e).fill = none →
          ((s.ser e).jobs.length < 2 → (serHdr { lines := [{ data := d, tag := tag }] }).inLines ≤ 1 →
            Gives (.seracInputLine e d tag) s fun t => (t.ser e).jobs = (s.ser e).jobs ++ [{ lines := [{ data := d, tag := tag }] }] ∧
              (t.ser e).fill = none ∧ DataKept s t) ∧
          ((s.ser e).jobs.length < 2 → 1 < (serHdr { lines := [{ data := d, tag := tag }] }).inLines →
            Gives (.seracInputLine e d tag) s fun t => (t.ser e).jobs = (s.ser e).jobs ∧
              (t.ser e).fill = some { lines := [{ data := d, tag := tag }] } ∧ DataKept s t) ∧
          (2 ≤ (s.ser e).jobs.length →
            Gives (.seracInputLine e d tag) s fun t => t.sers = s.sers ∧ t.bit (pgSer e) F.SER_ERR_STAT_IN_OVERRUN = true ∧
              Counts s t (pgSer e) F.SER_DISCARD_CNT ∧ DataKept s t)) ∧
        (s.bit (pgSer e) F.SER_CTRL = false →
          Gives (.seracInputLine e d tag) s fun t => t.sers = s.sers ∧ Counts s t (pgSer e) F.SER_DISCARD_CNT ∧ DataKept s t)) ∧
      (∀ j js, (s.ser e).run = none → (s.ser e).jobs = j :: js → s.works (pgSer e) = true →
        Gives (.seracJobStart e) s fun t =>
          (t.ser e).run = some { job := j, cause := serCause (s.ser e).boundary j } ∧ (t.ser e).jobs = js ∧
          t.rf (pgSer e) F.SER_JOB_ID = (serHdr j).id ∧
          (serCause (s.ser e).boundary j ≠ 0 → t.bit (pgSer e) F.SER_ERR_STAT_JOB_BAD = true ∧
            t.rf (pgSer e) F.SER_BAD_CAUSE = serCause (s.ser e).boundary j) ∧ DataKept s t) ∧
      (∀ (r : SerRun) (rc : SerRec) (c : BitVec 32), (s.ser e).run = some r →
        (if r.cause = 0 then r.rec? else some (badRec (serHdr r.job) r.cause)) = some rc →
        Gives (.seracJobEnd e c) s fun t => (t.ser e).run = none ∧
          (t.ser e).out = (if (s.ser e).out.length < 4 then (s.ser e).out else (s.ser e).out.drop 1) ++ [rc] ∧
          (4 ≤ (s.ser e).out.length → t.bit (pgSer e) F.SER_ERR_STAT_OUT_OVERRUN = true) ∧ Counts s t (pgSer e) F.SER_JOB_CNT ∧ DataKept s t) ∧
      (∀ rc rest l, (s.ser e).out = rc :: rest → rc.lines[rc.next]? = some l →
        Gives (.seracRecordRead e) s fun t => Answers t l.data (Tag.poison l.tag) ∧
          (t.ser e).out = (if rc.lines.length ≤ rc.next + 1 then rest else { rc with next := rc.next + 1 } :: rest) ∧ DataKept s t) ∧
      (∀ (a : Agent) (v : Word), s.ready (pgSer e) = true →
        Gives (.serWsetClr a e v) s fun t => (t.ser e).clr = (s.ser e).clr ||| F.SER_WSET_CLR.of v ∧ (t.ser e).sets = (s.ser e).sets ∧ DataKept s t)) ∧
  (∀ (e : Fin 8) (s : State) (r : SerRun) (h : SerHdr),
      ((s.ser e).ready 1 = some (r, h) →
        Gives (.ldpc e false) s fun t => (∃ rc, (t.ser e).run = some { r with rec? := some rc }) ∧ (t.ser e).sets = (s.ser e).sets ∧
          t.rf (pgSer e) F.SER_CB_CNT = min (s.rf (pgSer e) F.SER_CB_CNT + h.b6) 0xFFFFFFFF ∧ DataKept s t) ∧
      ((s.ser e).ready 2 = some (r, h) →
        Gives (.polar e false) s fun t => (∃ rc, (t.ser e).run = some { r with rec? := some rc }) ∧ (t.ser e).sets = (s.ser e).sets ∧
          Counts s t (pgSer e) F.SER_CB_CNT ∧ DataKept s t) ∧
      ((s.ser e).ready 3 = some (r, h) → Tag.poison h.tag = false → (tbParts r.job h.b6).all (fun l => !Tag.poison l.tag) = true → h.tbCrc ≠ 0 →
        Gives (.tbCheck e false) s fun t => (t.ser e).run = some { r with rec? := some (mkRec h false
          { status := if !(tbParts r.job h.b6).all partOk then 2
                      else if tbCombine (tbGen h.tbCrc) ((tbParts r.job h.b6).map fun l => (leNat (slice l.data 12 3), leNat (slice l.data 8 4))) = 0
                        then 0 else 1
            ncb := h.b6 } []) } ∧ DataKept s t) ∧
      ((s.ser e).ready 4 = some (r, h) → Tag.poison h.tag = false → (jobLines r.job 1 (h.inLines - 1)).2 = false →
        Gives (.wsetLoad e false) s fun t => (∃ rc, (t.ser e).run = some { r with rec? := some rc }) ∧
          ((t.ser e).set h.wset).active = !((s.ser e).set h.wset).active ∧ ((t.ser e).set h.wset).owner = some (Tag.tenant h.tag) ∧
          ((t.ser e).set h.wset).loaded = true ∧ ((t.ser e).set h.wset).graph = bits h.flags 1 0 ∧
          Counts s t (pgSer e) F.SER_WSET_LOAD_CNT ∧ DataKept s t))

open Sys2Proof Sys2Proof.Machine in
/-- R381, R383, R391. -/
def Obligations.DigestComposer : Prop :=
  (∀ (h : Fin 128) (d : Compose) (s : State), (s.hal h).compose = some d → s.works pgDet = true → s.bit pgDet F.DET_CTRL = true →
    (∀ a, a = s.rf pgDet (F.DET_RING_BASE_HI (Tag.tenant d.tag)) * 2 ^ 32 + s.rf pgDet (F.DET_RING_BASE_LO (Tag.tenant d.tag)) * 128 +
        128 * s.rf pgDet (F.DET_RING_SIZE_WR (Tag.tenant d.tag)) →
      s.rf pgDet (F.DET_RING_SIZE_SIZE (Tag.tenant d.tag)) ≠ 0 →
      (s.rf pgDet (F.DET_RING_SIZE_WR (Tag.tenant d.tag)) + 1) % s.rf pgDet (F.DET_RING_SIZE_SIZE (Tag.tenant d.tag)) ≠
        s.rf pgDet (F.DET_RING_RD (Tag.tenant d.tag)) → a < dramSize → s.chanReady a = true →
      Gives (.composeDigest h) s fun t => (t.hal h).compose = none ∧ t.rdBytes a 64 = (s.digestRecord d).take 64 ∧
        t.rf pgDet (F.DET_RING_SIZE_WR (Tag.tenant d.tag)) =
          (s.rf pgDet (F.DET_RING_SIZE_WR (Tag.tenant d.tag)) + 1) % s.rf pgDet (F.DET_RING_SIZE_SIZE (Tag.tenant d.tag)) ∧
        Counts s t pgDet F.DET_REC_CNT) ∧
    (s.rf pgDet (F.DET_RING_SIZE_SIZE (Tag.tenant d.tag)) = 0 →
      Gives (.composeDigest h) s fun t => (t.hal h).compose = none ∧ t.bit pgDet F.DET_ERR_STAT_RING_FULL = true ∧
        Counts s t pgDet F.DET_DROP_CNT ∧ DataKept s t)) ∧
  (∀ (a : Agent) (k : Fin 8) (v : Word) (s : State), s.ready pgDet = true →
    Gives (.detRingCfg a k 0 v) s (fun t => t.rf pgDet (F.DET_RING_BASE_LO k) = (F.DET_RING_BASE_LO k).of v ∧
      t.rf pgDet (F.DET_RING_SIZE_WR k) = 0 ∧ t.rf pgDet (F.DET_RING_RD k) = 0 ∧ DataKept s t) ∧
    Gives (.detRingCfg a k 1 v) s (fun t => t.rf pgDet (F.DET_RING_BASE_HI k) = (F.DET_RING_BASE_HI k).of v ∧
      t.rf pgDet (F.DET_RING_SIZE_WR k) = 0 ∧ t.rf pgDet (F.DET_RING_RD k) = 0 ∧ DataKept s t) ∧
    Gives (.detRingCfg a k 2 v) s (fun t => t.rf pgDet (F.DET_RING_SIZE_SIZE k) = (F.DET_RING_SIZE_SIZE k).of v ∧
      t.rf pgDet (F.DET_RING_SIZE_WR k) = 0 ∧ t.rf pgDet (F.DET_RING_RD k) = 0 ∧ DataKept s t))

namespace Sys2Proof.Machine

/-- The port's next transmit descriptor (R420): address, frame address, length. -/
def txDesc (s : State) (p : Nat) : Nat := s.rf (pgFh p) F.FH_TXR_BASE * 256 + 32 * s.rf (pgFh p) F.FH_TXR_SIZE_RD
def txLen (s : State) (p : Nat) : Nat := s.rdLe (txDesc s p + 8) 2

/-- A frame that a running port without MACsec accepts, and that is not for Moraine or the firmware timing queue. -/
def PlainFrame (s : State) (p : Nat) (fr : RxFrame) : Prop :=
  s.portRuns p = true ∧ fr.fecOk = true ∧ fr.fcsOk = true ∧ 60 ≤ fr.data.length ∧ fr.data.length ≤ 9212 ∧ isPause fr.data = false ∧
    s.rf (pgFh p) F.FH_CTRL_MACSEC_MODE = 0

/-- The port may send the frame of its next descriptor. -/
def MaySend (s : State) (p : Nat) : Prop :=
  s.portRuns p = true ∧ s.shutting (pgFh p) = false ∧ s.bit (pgFh p) F.FH_STAT_HOLD = false ∧ s.rf (pgFh p) F.FH_TXR_SIZE_SIZE ≠ 0 ∧
    s.rf (pgFh p) F.FH_TXR_SIZE_RD ≠ s.rf (pgFh p) F.FH_TXR_WR

end Sys2Proof.Machine

open Sys2Proof Sys2Proof.Machine in
/-- R418 to R421, R426, R293. -/
def Obligations.FronthaulPorts : Prop :=
  ∀ (p : Fin 16) (s : State),
    (∀ (a : Agent) (v : Word), s.ready (pgFh p) = true →
      (s.portPresent p = true → s.confidential = false → F.FH_CTRL_QUAD_MODE.of v = s.rf (pgFh p) F.FH_CTRL_QUAD_MODE →
        F.FH_CTRL_MACSEC_MODE.of v < 2 →
        Gives (.fhCtrl a p v) s fun t => t.portEn p = decide (F.FH_CTRL_EN.of v = 1) ∧
          t.rf (pgFh p) F.FH_CTRL_MACSEC_MODE = F.FH_CTRL_MACSEC_MODE.of v ∧ t.rf (pgFh p) F.FH_CTRL_TENANT = F.FH_CTRL_TENANT.of v ∧
          t.rf (pgFh p) F.FH_CTRL_ANLT = F.FH_CTRL_ANLT.of v ∧ t.portUp p = (s.portUp p && decide (F.FH_CTRL_EN.of v = 1)) ∧ DataKept s t) ∧
      (s.portPresent p = false → Gives (.fhCtrl a p v) s fun t => t = s)) ∧
    (s.portPresent p = true → s.portEn p = true → s.works (pgFh p) = true → s.shutting (pgFh p) = false →
      Gives (.fhLinkUp p) s fun t => t.portUp p = true ∧ t.rf (pgFh p) F.FH_STAT_SPEED = s.quadMode p ∧ DataKept s t) ∧
    (s.portUp p = true →
      Gives (.fhLinkDown p) s fun t => t.portUp p = false ∧ t.bit (pgFh p) F.FH_ERR_STAT_LINK_DOWN = true ∧ DataKept s t) ∧
    (MaySend s p → s.rf (pgFh p) F.FH_CTRL_MACSEC_MODE = 0 → 60 ≤ txLen s p → txLen s p ≤ 9212 →
      (s.rdLe (txDesc s p + 10) 1).testBit 0 = false →
      Gives (.fhFrameTransmit p) s fun t => t.out = s.out ++ [Out.frame p (s.rdBytes (s.rdLe (txDesc s p) 5) (txLen s p))] ∧
        t.rf (pgFh p) F.FH_TXR_SIZE_RD = (s.rf (pgFh p) F.FH_TXR_SIZE_RD + 1) % s.rf (pgFh p) F.FH_TXR_SIZE_SIZE ∧ DataKept s t) ∧
    (MaySend s p → (txLen s p < 60 ∨ 9212 < txLen s p) →
      Gives (.fhFrameTransmit p) s fun t => t.out = s.out ∧ Counts s t (pgFh p) F.FH_SQ_DROP_CNT ∧
        t.rf (pgFh p) F.FH_TXR_SIZE_RD = (s.rf (pgFh p) F.FH_TXR_SIZE_RD + 1) % s.rf (pgFh p) F.FH_TXR_SIZE_SIZE) ∧
    (∀ fr : RxFrame, PlainFrame s p fr → innerType fr.data ≠ 0xAEFE → beAt fr.data 12 2 ≠ 0x88F7 → beAt fr.data 12 2 ≠ 0x8809 →
      (s.rf (pgFh p) F.FH_RXR_SIZE_SIZE ≠ 0 →
        (s.rf (pgFh p) F.FH_RXR_SIZE_WR + 1) % s.rf (pgFh p) F.FH_RXR_SIZE_SIZE ≠ s.rf (pgFh p) F.FH_RXR_RD →
        Gives (.fronthaulFrameReceive p fr) s fun t =>
          t.rf (pgFh p) F.FH_RXR_SIZE_WR = (s.rf (pgFh p) F.FH_RXR_SIZE_WR + 1) % s.rf (pgFh p) F.FH_RXR_SIZE_SIZE) ∧
      (s.rf (pgFh p) F.FH_RXR_SIZE_SIZE = 0 →
        Gives (.fronthaulFrameReceive p fr) s fun t => t.bit (pgFh p) F.FH_ERR_STAT_SQ_RX_FULL = true ∧
          Counts s t (pgFh p) F.FH_SQ_DROP_CNT ∧ DataKept s t)) ∧
    (∀ fr : RxFrame, s.portRuns p = true → fr.fecOk = true → fr.fcsOk = false →
      Gives (.fronthaulFrameReceive p fr) s fun t => Counts s t (pgFh p) F.FH_RX_DROP_CNT ∧ t.mor = s.mor ∧ DataKept s t) ∧
    (∀ (fr : RxFrame) (m : MorMsg), PlainFrame s p fr → innerType fr.data = 0xAEFE → parseFrame fr.data = .msg m → s.ready (pgMor 0) = true →
      s.works (pgMor 0) = true → s.shutting (pgMor 0) = false → s.bit (pgMor 0) F.MOR_CTRL_EN = true →
      s.mor.openEntry m p (s.tbNs 0) = none → s.mor.lookup m.eaxc m.vlan m.filter p = .none →
      Gives (.fronthaulFrameReceive p fr) s fun t => Counts s t (pgMor 0) F.MOR_UNKNOWN_CNT ∧ t.mor = s.mor ∧ DataKept s t) ∧
    (∀ (a : Agent) (v : Word), s.ready (pgFh p) = true → s.portPresent p = true →
      Gives (.fhTxrWr a p v) s (fun t => t.rf (pgFh p) F.FH_TXR_WR = F.FH_TXR_WR.of v ∧ DataKept s t) ∧
      Gives (.fhRxrRd a p v) s (fun t => t.rf (pgFh p) F.FH_RXR_RD = F.FH_RXR_RD.of v ∧ DataKept s t) ∧
      (F.FH_TXTS_POP.of v = 1 →
        Gives (.fhTxtsPop a p v) s fun t => (t.fh p).txts = (s.fh p).txts.drop 1 ∧
          t.bit (pgFh p) F.FH_TXTS_HDR_VALID = decide (1 < (s.fh p).txts.length) ∧ DataKept s t)) ∧
    (∀ i : Fin 24, (i : Nat) = p → s.portRuns p = true → s.bit (pgFh p) F.FH_STAT_HOLD = true → s.rf (pgFh p) F.FH_CTRL_MACSEC_MODE = 0 →
      Gives (.holdIdleFrame i) s fun t => t.out = s.out ++ [Out.frame p (s.idleFrame p)] ∧ DataKept s t)

namespace Sys2Proof.Machine

/-- Whether the transmit counter of the slot in use is far from running out (R430). -/
def CtrLow (s : State) (l : Nat) : Prop := Tab.at (s.shr l).ctrTx (s.txSlot l) 0 + 1 < 2 ^ 64 - 2 ^ 16

/-- The transcript hash of the exchange with a peer (R535). -/
def authHash (s : State) (p : PeerHello) : Bytes :=
  let mine := helloBytes (Config.rsaChain ++ Config.slhChain) s.rankPos (Config.ephemeralKey s.fresh)
  let theirs := helloBytes p.chains p.pos p.pubKey
  if s.rankPos < p.pos.val then Config.linkTranscript mine theirs else Config.linkTranscript theirs mine

end Sys2Proof.Machine

open Sys2Proof Sys2Proof.Machine in
/-- R427, R430, R432, R433, R443, R535. -/
def Obligations.ShroudLinkStates : Prop :=
  ∀ (l : Fin 8) (s : State),
    (∀ (a : Agent) (v : Word), s.ready (pgShr l) = true →
      (F.SHR_CTRL_EN.of v = 1 → s.shrState l = 0 → s.works (pgShr l) = true → s.shutting (pgShr l) = false →
        Gives (.shrCtrl a l v) s fun t => t.shrState l = 1 ∧ t.bit (pgShr l) F.SHR_CTRL_EN = true ∧
          t.rf (pgShr l) F.SHR_CTRL_SPARE_EN = F.SHR_CTRL_SPARE_EN.of v ∧ DataKept s t) ∧
      (F.SHR_CTRL_EN.of v = 0 →
        Gives (.shrCtrl a l v) s fun t => t.shrState l = 0 ∧ t.bit (pgShr l) F.SHR_CTRL_EN = false ∧ DataKept s t)) ∧
    (s.shrState l = 1 → s.shrEn l = true → Gives (.shroudTrainingDone l) s fun t => t.shrState l = 2 ∧ t.shrs = s.shrs ∧ DataKept s t) ∧
    (∀ p : PeerHello, s.shrState l = 2 → s.shrEn l = true → s.bit pgSec F.SEC_ID_STAT_ID_VALID = true →
      (s.peerOk p (authHash s p) = true →
        Gives (.shroudAuth l p) s fun t => t.shrState l = 3 ∧ t.rf (pgShr l) F.SHR_STAT_PEER_POS = p.pos ∧
          (∀ k, k < 4 → (t.shr l).holds k = true) ∧ t.rf (pgShr l) F.SHR_STAT_KEY_SLOT = 0 ∧ DataKept s t) ∧
      (s.peerOk p (authHash s p) = false →
        Gives (.shroudAuth l p) s fun t => t.shrState l = 1 ∧ t.shrs = s.shrs ∧ t.bit pgSec F.SEC_ERR_STAT_PEER_REJECT = true ∧
          Counts s t pgSec F.SEC_PEER_REJECT_CNT ∧ DataKept s t)) ∧
    (s.shrState l ≠ 0 →
      Gives (.shroudLinkDown l) s fun t => t.shrState l = (s.shrEn l).toNat ∧ t.bit (pgShr l) F.SHR_STAT_PEER_VALID = false ∧
        (t.shr l).wait = [] ∧ (t.shr l).unacked = [] ∧ (t.shr l).reads = [] ∧
        (s.shrUp l = true → t.bit (pgShr l) F.SHR_ERR_STAT_LINK_DOWN = true) ∧ DataKept s t) ∧
    (∀ lane : BitVec 2, s.shrUp l = true → lane.toNat ∉ (s.shr l).lanes →
      (s.bit (pgShr l) F.SHR_CTRL_SPARE_EN = true → (s.shr l).lanes = [] →
        Gives (.shroudLaneFail l lane) s fun t => t.shrState l = 4 ∧ (t.shr l).lanes = [lane.toNat] ∧
          t.bit (pgShr l) F.SHR_ERR_STAT_LANE_FAIL = true ∧ DataKept s t) ∧
      ((s.bit (pgShr l) F.SHR_CTRL_SPARE_EN = false ∨ (s.shr l).lanes ≠ []) →
        Gives (.shroudLaneFail l lane) s fun t => t.shrState l = (s.shrEn l).toNat ∧ t.bit (pgShr l) F.SHR_ERR_STAT_LANE_FAIL = true ∧
          t.bit (pgShr l) F.SHR_ERR_STAT_LINK_DOWN = true ∧ DataKept s t)) ∧
    (s.shrState l = 4 → (s.shr l).wait = [] → (s.shr l).unacked = [] →
      Gives (.shroudRemapDone l) s fun t => t.shrState l = 3 ∧ t.bit (pgShr l) F.SHR_STAT_SPARE_USED = true ∧
        t.rf (pgShr l) F.SHR_STAT_SPARE_FOR = (s.shr l).lanes.headD 0 % 4 ∧ t.shrs = s.shrs ∧ DataKept s t) ∧
    (s.shrUp l = true → s.bit (pgShr l) F.SHR_ERR_STAT_REKEY_DUE = true → (s.shr l).wait.any (fun m => decide (m.kind = 5)) = false →
      Gives (.shroudKeyInstall l) s fun t => (∃ m, m.kind = 5 ∧ (t.shr l).wait = m :: (s.shr l).wait) ∧
        (t.shr l).txIssue = (s.shr l).txIssue + 1 ∧ (t.shr l).holds (1 - s.txSlot l) = true ∧ t.regs = s.regs ∧ DataKept s t) ∧
    (∀ k, (s.shr l).oldRx = some k →
      Gives (.shroudOldKeyExpire l) s fun t => (t.shr l).oldRx = none ∧ (t.shr l).holds (2 + k) = false ∧ t.regs = s.regs ∧ DataKept s t) ∧
    (∀ (a : Agent) (v : Word), s.ready (pgShr 0) = true →
      ((∀ k, k < 8 → s.shrState k = 0) → Gives (.shrRank a v) s fun t => t.rankPos = F.SHR_RANK.of v ∧ DataKept s t) ∧
      ((∃ k, k < 8 ∧ s.shrState k ≠ 0) →
        Gives (.shrRank a v) s fun t => t.rankPos = s.rankPos ∧ t.bit (pgShr 0) F.SHR_ERR_STAT_RANK_BUSY = true ∧ DataKept s t))

open Sys2Proof Sys2Proof.Machine in
/-- R428 to R433, R44. -/
def Obligations.ShroudFrames : Prop :=
  ∀ (l : Fin 8) (s : State),
    (s.shrState l = 3 → s.works (pgShr l) = true → CtrLow s l →
      ((s.shr l).wait = [] →
        Gives (.shroudFrameSend l) s fun t => (∃ f : ShrFrame, f.type = 0 ∧ t.out = s.out ++ [Out.shroud l f]) ∧ DataKept s t) ∧
      (∀ m ms, (s.shr l).wait = m :: ms → (s.shr l).hold = false → m.kind < 4 →
        Gives (.shroudFrameSend l) s fun t =>
          (∃ f : ShrFrame, f.type = BitVec.ofNat 4 m.kind ∧ f.seq = BitVec.ofNat 16 ((s.shr l).nextSeq + 1) ∧ t.out = s.out ++ [Out.shroud l f]) ∧
          (t.shr l).wait = ms ∧ (t.shr l).unacked = (s.shr l).unacked ++ [(((s.shr l).nextSeq + 1) % 65536, m, 1)] ∧
          (t.shr l).nextSeq = ((s.shr l).nextSeq + 1) % 65536 ∧ DataKept s t)) ∧
    (∀ (q : BitVec 16) u, s.shrState l = 3 → (s.shr l).hold = false → (s.shr l).unacked.find? (fun u => decide (u.1 = q.toNat)) = some u →
      (u.2.2 < 8 → u.2.1.kind < 4 → CtrLow s l →
        Gives (.shroudRetryTimeout l q) s fun t => (∃ f, t.out = s.out ++ [Out.shroud l f]) ∧ Counts s t (pgShr l) F.SHR_RETRY_CNT ∧
          DataKept s t) ∧
      (8 ≤ u.2.2 →
        Gives (.shroudRetryTimeout l q) s fun t => t.shrState l = (s.shrEn l).toNat ∧ (t.shr l).unacked = [] ∧
          t.bit (pgShr l) F.SHR_ERR_STAT_LINK_DOWN = true ∧ DataKept s t)) ∧
    (∀ f : ShrFrame, s.shrUp l = true → s.works (pgShr l) = true → f.type.toNat < 6 →
      (∀ c, Tab.at (s.shr l).ctrRx (2 + f.key.toNat) none = some c → f.ctr.toNat ≤ c →
        Gives (.shroudFrameReceive l f) s fun t => Counts s t (pgShr l) F.SHR_REPLAY_CNT ∧ t.shrs = s.shrs ∧ DataKept s t) ∧
      (Tab.at (s.shr l).ctrRx (2 + f.key.toNat) none = none → (s.shr l).fails = [] → (s.shr l).holds (2 + f.key.toNat) = false →
        Gives (.shroudFrameReceive l f) s fun t => Counts s t (pgShr l) F.SHR_AUTH_FAIL_CNT ∧ DataKept s t) ∧
      (∀ body, Tab.at (s.shr l).ctrRx (2 + f.key.toNat) none = none → (s.shr l).holds (2 + f.key.toNat) = true → f.type = 0 →
        Config.gcmOpen ((s.shr l).key (2 + f.key.toNat)) ((s.shr l).salt (2 + f.key.toNat) * 2 ^ 64 + f.ctr.toNat) (shrHeader f) f.payload
          f.gcmTag = some body →
        Gives (.shroudFrameReceive l f) s fun t => Tab.at (t.shr l).ctrRx (2 + f.key.toNat) none = some f.ctr.toNat ∧
          (t.shr l).unacked = (s.shr l).unacked.filter (fun u => !seqLe u.1 f.ack.toNat) ∧ t.regs = s.regs ∧ DataKept s t)) ∧
    (∀ (a : BitVec 40) (tn : Fin 8) (n p o : Nat), remoteTarget (a.toNat / 64 * 64) = some (p, o) → p ≠ s.rankPos → s.routeOf p = l →
      s.shrUp l = true → 1 ≤ n → n ≤ 3 →
      Gives (.shroudRemoteAccess a tn n none) s (fun t =>
        (∃ m, m.kind = 2 ∧ m.dst = p ∧ (t.shr l).wait = (s.shr l).wait ++ [m]) ∧
        (∃ r, r.n = n ∧ r.addr = a.toNat / 64 * 64 ∧ (t.shr l).reads = (s.shr l).reads ++ [r]) ∧ t.regs = s.regs ∧ DataKept s t) ∧
      ∀ ls : List TaggedLine, ls.length = n →
        Gives (.shroudRemoteAccess a tn n (some ls)) s fun t =>
          (∃ m, m.kind = 1 ∧ m.dst = p ∧ m.lines = n ∧ (t.shr l).wait = (s.shr l).wait ++ [m]) ∧ (t.shr l).reads = (s.shr l).reads ∧
          t.regs = s.regs ∧ DataKept s t)

open Sys2Proof Sys2Proof.Machine in
/-- R437, R438, R479. -/
def Obligations.PcieInterface : Prop :=
  ∀ s : State,
    (∀ (g : BitVec 3) (w : BitVec 5), s.works pgPcie = true →
      Gives (.pcieLinkUp g w) s fun t => t.rf pgPcie F.PCI_STAT_GEN = g.toNat ∧ t.rf pgPcie F.PCI_STAT_WIDTH = w.toNat ∧
        t.bit pgPcie F.PCI_STAT_LINK_UP = true ∧ t.out = s.out ++ s.pci.held.map (Out.interrupt 1) ∧ t.pci.held = [] ∧ DataKept s t) ∧
    (s.bit pgPcie F.PCI_STAT_LINK_UP = true →
      Gives .pcieLinkDown s fun t => t.bit pgPcie F.PCI_STAT_LINK_UP = false ∧ t.rf pgPcie F.PCI_STAT_GEN = 0 ∧
        t.bit pgPcie F.PCI_ERR_STAT_LINK_DOWN = true ∧ DataKept s t) ∧
    (s.tdisp = 0 → Gives .tdispLockInterface s fun t => t.tdisp = 1 ∧ t.pci = s.pci ∧ DataKept s t) ∧
    (s.tdisp = 1 → s.pci.stopping = false → Gives .tdispStartInterface s fun t => t.tdisp = 2 ∧ t.pci = s.pci ∧ DataKept s t) ∧
    (s.tdisp ≠ 0 → s.pci.formed = [] → Gives .stopInterface s fun t => t.tdisp = 0 ∧ t.pci.stopping = false ∧ DataKept s t) ∧
    (s.tdisp ≠ 0 → s.pci.formed ≠ [] →
      Gives .stopInterface s fun t => t.tdisp = s.tdisp ∧ t.pci.stopping = true ∧ t.regs = s.regs ∧ DataKept s t) ∧
    (∀ k : Fin 5, Gives (.ideKmKeyProgramming k) s fun t => t.ideSecure k = true ∧
      (∀ j : Fin 5, j ≠ k → t.ideSecure j = s.ideSecure j) ∧ DataKept s t)

open Sys2Proof Sys2Proof.Machine in
/-- R439 to R442, R447. -/
def Obligations.OpticalModules : Prop :=
  ∀ (m : Fin 16) (s : State),
    (∀ i : ModIdent, i.cmisOk = true →
      Gives (.moduleInsert m i) s fun t => t.bit (pgMod m) F.MOD_STAT_PRESENT = true ∧ t.bit (pgMod m) F.MOD_ERR_STAT_INSERTED = true ∧
        (t.modSt m).ident = some i ∧ (∃ e ∈ t.mgmt.life, e.isOf i = true) ∧ t.rf (pgMod m) F.MOD_EOL_HOURS = 0xFFFFFFFF ∧ DataKept s t) ∧
    (∀ i : ModIdent, i.cmisOk = false →
      Gives (.moduleInsert m i) s fun t => t.bit (pgMod m) F.MOD_STAT_PRESENT = true ∧ t.bit (pgMod m) F.MOD_ERR_STAT_CMIS_UNSUP = true ∧
        (t.modSt m).ident = none ∧ DataKept s t) ∧
    Gives (.moduleRemove m) s (fun t => t.bit (pgMod m) F.MOD_STAT_PRESENT = false ∧ t.bit (pgMod m) F.MOD_STAT_READY = false ∧
      t.bit (pgMod m) F.MOD_STAT_TX_ON = false ∧ t.bit (pgMod m) F.MOD_ERR_STAT_REMOVED = true ∧ (t.modSt m).ident = none ∧
      t.mgmt.lifeFlash = s.mgmt.life ∧ DataKept s t) ∧
    (∀ (i : ModIdent) (r : ModReading), (s.modSt m).ident = some i → s.bit (pgMod m) F.MOD_CFG_EN = true → s.mgmt.up = true →
      s.works (pgMod m) = true →
      (r.ok = true →
        Gives (.modulePoll m r) s fun t => t.rf (pgMod m) F.MOD_TEMP = r.temp.toNat ∧ t.rf (pgMod m) F.MOD_VCC = r.vcc.toNat ∧
          t.rf (pgMod m) F.MOD_BIAS_MAX = r.bias.foldl (fun b x => max b x.toNat) 0 ∧ t.bit (pgMod m) F.MOD_STAT_READY = r.ready ∧
          t.bit (pgMod m) F.MOD_STAT_TX_ON = r.txOn ∧ (t.modSt m).tx = r.txPower ∧ (t.modSt m).rx = r.rxPower ∧ DataKept s t) ∧
      (r.ok = false →
        Gives (.modulePoll m r) s fun t => t.bit (pgMod m) F.MOD_ERR_STAT_IO_FAIL = true ∧ Counts s t (pgMod m) F.MOD_IO_FAIL_CNT ∧
          t.mods = s.mods ∧ DataKept s t)) ∧
    (s.mgmt.up = true → Gives .lifeTableSave s fun t => t.mgmt.lifeFlash = s.mgmt.life ∧ t.mgmt.life = s.mgmt.life ∧ t.regs = s.regs ∧ DataKept s t) ∧
    (∀ (e : LifeEntry) (now prev : BitVec 16), s.lifeOf m = some e → 864000 ≤ e.tenths →
      Gives (.eolUpdate m now prev) s fun t => t.rf (pgMod m) F.MOD_EOL_HOURS = eolHours (s.rf (pgMod m) F.MOD_RATED_HOURS) e.hours
        (e.biasSum / max 1 e.biasN) (s.rf (pgMod m) F.MOD_EOL_CFG_BIAS_EOL_PCT) now.toNat prev.toNat % 2 ^ 32 ∧ DataKept s t) ∧
    (∀ (a : Agent) (v : Word), s.ready (pgMod m) = true → s.rf (pgMod m) F.MOD_FIXED_PS ≤ v.toNat → s.rf (pgMod m) F.MOD_FIBRE_PS_M ≠ 0 →
      rneDiv ((v.toNat - s.rf (pgMod m) F.MOD_FIXED_PS) * 10) (s.rf (pgMod m) F.MOD_FIBRE_PS_M) < 2 ^ 32 →
      Gives (.modPathDlyPs a m v) s fun t => t.rf (pgMod m) F.MOD_PATH_DLY_PS = v.toNat ∧
        t.rf (pgMod m) F.MOD_FIBRE_DM = rneDiv ((v.toNat - s.rf (pgMod m) F.MOD_FIXED_PS) * 10) (s.rf (pgMod m) F.MOD_FIBRE_PS_M) ∧
        DataKept s t)

namespace Sys2Proof.Machine

/-- Address of the image that MST_TBL_BASE names (R367). -/
def tblBase (s : State) : Nat := s.rf (pgMst 0) F.MST_TBL_BASE_HI * 2 ^ 32 + s.rf (pgMst 0) F.MST_TBL_BASE_LO * 64

/-- The scheduled start of entry `i` issues it: it is of the kind given and has not issued in this period, schedule enable was 1 at the
period's start, its partition is LIVE in the table's generation, and no floe it needs is fenced (R353, R363). -/
def IssuesNow (s : State) (kind i : Nat) (tb : MstTable) (e : MstEntry) : Prop :=
  s.mst.active = some tb ∧ tb.entries[i]? = some e ∧ e.kind = kind ∧ i ∉ s.mst.issued ∧ s.bit (pgMst 0) F.MST_STAT_STEP_GAP = false ∧
    s.mst.en = true ∧ s.partState e.part = 1 ∧ s.partGen e.part = tb.gens.getD e.part 0 ∧
    ∀ u ∈ tb.units e, ∀ f, unitFloe u = some f → s.floeFenced f = false

end Sys2Proof.Machine

open Sys2Proof Sys2Proof.Machine in
/-- R344, R345, R350 to R352, R358: commits, activations and periods. -/
def Obligations.ScheduleTables : Prop :=
  ∀ s : State,
    (∀ (a : Agent) (v : Word), s.ready (pgMst 0) = true →
      (s.works (pgMst 0) = true → F.MST_TBL_COMMIT.of v = 1 → s.frozen = false →
        Gives (.tableCommit a v) s fun t => t.mst = { s.mst with check := some (parseTable s (tblBase s)), staged := none } ∧
          t.bit (pgMst 0) F.MST_STAT_VERIFYING = true ∧ t.bit (pgMst 0) F.MST_STAT_STAGED = false ∧ DataKept s t) ∧
      (s.works (pgMst 0) = true → F.MST_TBL_COMMIT.of v = 1 → s.frozen = true →
        Gives (.tableCommit a v) s fun t => t.mst = s.mst ∧ t.bit (pgMst 0) F.MST_ERR_STAT_ASSIGN_CONFLICT = true ∧ DataKept s t) ∧
      (F.MST_ADP_SWAP_GO.of v = 1 →
        Gives (.mstAdpSwap a v) s fun t => (∀ c, Tab.at t.mst.swap c false = (decide (c = F.MST_ADP_SWAP_CELL.of v) || Tab.at s.mst.swap c false)) ∧
          t.regs = s.regs ∧ DataKept s t)) ∧
    (∀ tb c i, s.mst.check = some (tb, c, i) →
      (c = 0 → (verifyTable s tb s.mst.active).1 = 0 →
        Gives .tableVerifyEnd s fun t => t.mst = { s.mst with check := none, staged := some tb } ∧
          t.bit (pgMst 0) F.MST_STAT_VERIFYING = false ∧ t.bit (pgMst 0) F.MST_STAT_STAGED = true ∧ DataKept s t) ∧
      (c ≠ 0 →
        Gives .tableVerifyEnd s fun t => t.mst = { s.mst with check := none } ∧ t.bit (pgMst 0) F.MST_ERR_STAT_COMMIT_BAD = true ∧
          t.rf (pgMst 0) F.MST_BAD_CAUSE_CAUSE = c % 16 ∧ t.rf (pgMst 0) F.MST_BAD_CAUSE_INDEX = i % 2 ^ 16 ∧ DataKept s t)) ∧
    (∀ tb, s.mst.staged = some tb → s.bit (pgMst 0) F.MST_STAT_STEP_GAP = false → s.works (pgMst 0) = true →
      s.shutting (pgMst 0) = false → s.fw.parkStep = 0 →
      Gives .tableActivate s fun t => t.mst.active = some tb ∧ t.mst.staged = none ∧ t.mst.issued = [] ∧
        t.mst.periodStart = s.tbNs 0 / tb.period * tb.period ∧ t.mst.en = s.bit (pgMst 0) F.MST_CTRL ∧
        t.bit (pgMst 0) F.MST_STAT_ACTIVE = true ∧ Counts s t (pgMst 0) F.MST_COMMIT_CNT ∧ t.rf (pgMst 0) F.MST_TBL_ID = tb.id % 2 ^ 32 ∧
        DataKept s t) ∧
    (∀ tb, s.mst.active = some tb →
      (s.bit (pgMst 0) F.MST_STAT_STEP_GAP = false →
        (s.mst.stepped = true →
          Gives .periodBoundary s fun t => t.bit (pgMst 0) F.MST_STAT_STEP_GAP = true ∧ t.mst = { s.mst with stepped := false } ∧ DataKept s t) ∧
        (s.mst.stepped = false → s.works (pgMst 0) = true → s.shutting (pgMst 0) = false →
          Gives .periodBoundary s fun t => t.mst.periodStart = s.mst.periodStart + tb.period ∧ t.mst.issued = [] ∧ t.mst.active = some tb ∧
            t.mst.en = s.bit (pgMst 0) F.MST_CTRL ∧ t.mst.swap = [] ∧ t.regs = s.regs ∧ DataKept s t)) ∧
      (s.bit (pgMst 0) F.MST_STAT_STEP_GAP = true →
        Gives .stepRealign s fun t => t.bit (pgMst 0) F.MST_STAT_STEP_GAP = false ∧ t.bit (pgMst 0) F.MST_ERR_STAT_STEP_REALIGN = true ∧
          t.mst.periodStart = s.tbNs 0 / tb.period * tb.period ∧ t.mst.active = some tb ∧ DataKept s t))

open Sys2Proof Sys2Proof.Machine in
/-- R353, R355, R356, R312: the issue of each kind of entry, and a skipped entry. -/
def Obligations.ScheduledIssue : Prop :=
  ∀ (i : Fin 16384) (tb : MstTable) (e : MstEntry) (s : State),
    (IssuesNow s 1 i tb e → e.target < 64 → Accepted s e.target (macroOf (tb.pay e)) →
      Gives (.issueMacro i) s fun t => (i : Nat) ∈ t.mst.issued ∧
        ∃ x, (t.floe e.target).exec = some x ∧ x.word = tb.pay e ∧ x.run = some s.nextRun) ∧
    (IssuesNow s 2 i tb e → e.target < 64 → s.works (pgCore e.target) = true → s.works (pgBrash e.target) = true →
      (s.floe e.target).core.phase = .idle →
      (readNatHdr s e.target (bits (tb.pay e).toNat 31 0 / 64 * 64)).ok s e.target (bits (tb.pay e).toNat 31 0 / 64 * 64) = true →
      Gives (.issueNkern i) s fun t => (i : Nat) ∈ t.mst.issued ∧ (t.floe e.target).core.hdr = bits (tb.pay e).toNat 31 0 / 64 * 64 ∧
        (t.floe e.target).core.phase = (if (s.floe e.target).core.gaffHolds then .waitBrash else .preload)) ∧
    (IssuesNow s 3 i tb e → e.target < 64 → s.works (pgSpar e.target) = true → (s.floe e.target).spar.phase = .idle →
      (readSparHdr s e.target (bits (tb.pay e).toNat 15 0 % 32768 / 16 * 16)).ok = true →
      Gives (.issueSkern i) s fun t => (i : Nat) ∈ t.mst.issued ∧ (t.floe e.target).spar.phase = .preload ∧
        (t.floe e.target).spar.hdr = bits (tb.pay e).toNat 15 0 % 32768 / 16 * 16) ∧
    (IssuesNow s 5 i tb e →
      (∀ j js, s.mor.sparJobs = j :: js → e.target < 64 → s.works (pgSpar e.target) = true → (s.floe e.target).spar.phase = .idle →
        (readSparHdr s e.target (bits (tb.pay e).toNat 15 0 % 32768 / 16 * 16)).ok = true →
        Gives (.issueBal i) s fun t => (i : Nat) ∈ t.mst.issued ∧ t.mor.sparJobs = js ∧ (t.floe e.target).spar.phase = .preload) ∧
      (s.mor.sparJobs = [] → Gives (.issueBal i) s fun t => (i : Nat) ∈ t.mst.issued ∧ t.floes = s.floes ∧ t.mst.works = s.mst.works)) ∧
    (IssuesNow s 4 i tb e → e.target < 128 → e.adpRel = false → s.works (pgHal e.target) = true → (s.hal e.target).active = none →
      (s.hal e.target).shadow = none →
      Gives (.issueHal i) s fun t => (i : Nat) ∈ t.mst.issued ∧ (∃ d, (t.hal e.target).active = some d ∧ d.word = tb.pay e) ∧
        (t.hal e.target).checked = false ∧ t.rf (pgHal e.target) F.HAL_XFER_ID = dXferId (tb.pay e)) ∧
    (s.mst.active = some tb → tb.entries[(i : Nat)]? = some e → (i : Nat) ∉ s.mst.issued → s.bit (pgMst 0) F.MST_STAT_STEP_GAP = false →
      s.partGen e.part ≠ tb.gens.getD e.part 0 → (∀ u ∈ tb.units e, ∀ f, unitFloe u = some f → s.floeFenced f = false) →
      (e.kind = 1 → Gives (.issueMacro i) s fun t => t.floes = s.floes ∧ Counts s t (pgMst 0) F.MST_SKIP_CNT ∧ DataKept s t) ∧
      (e.kind = 4 → Gives (.issueHal i) s fun t => t.hals = s.hals ∧ Counts s t (pgMst 0) F.MST_SKIP_CNT ∧ DataKept s t))

namespace Sys2Proof.Machine

/-- Nothing waits in any best-effort ring. -/
def RingsEmpty (s : State) : Prop := ∀ p, p < 8 → s.bePending p = 0 ∧ s.head p = none

/-- The ring that comes first in rotation holds one request, which has been read, and no other ring holds one (R361). -/
def OneRequest (s : State) (p : Nat) (r : BeReq) : Prop :=
  p = (s.mst.lastAdmit + 1) % 8 ∧ s.bePending p = 1 ∧ s.head p = some r ∧ s.beHead p < s.beSize p ∧ s.beTail p < s.beSize p ∧
    ∀ q, q < 8 → q ≠ p → s.bePending q = 0 ∧ s.head q = none

end Sys2Proof.Machine

open Sys2Proof Sys2Proof.Machine in
/-- R359 to R362. -/
def Obligations.BestEffort : Prop :=
  ∀ (p : Fin 8) (s : State),
    (∀ (a : Agent) (v : Word), s.ready (pgMst 2) = true →
      ((F.MST_BE_TAIL p).of v < s.beSize p →
        Gives (.mstBeTail a p v) s fun t => t.beTail p = (F.MST_BE_TAIL p).of v ∧ t.beHead p = s.beHead p ∧ DataKept s t) ∧
      (s.beSize p ≤ (F.MST_BE_TAIL p).of v →
        Gives (.mstBeTail a p v) s fun t => t.beTail p = s.beTail p ∧ t.bit (pgMst 0) F.MST_ERR_STAT_BE_TAIL_BAD = true ∧ t.mst = s.mst) ∧
      (s.bePending p = 0 → s.beRuns p = [] →
        Gives (.mstBeRingCfg a p true v) s (fun t => t.beSize p = (F.MST_BE_SIZE p).of v ∧ t.beHead p = 0 ∧ t.beTail p = 0 ∧ DataKept s t) ∧
        Gives (.mstBeRingCfg a p false v) s (fun t => t.rf (pgMst 2) (F.MST_BE_BASE p) = (F.MST_BE_BASE p).of v ∧ t.beHead p = 0 ∧
          t.beTail p = 0 ∧ t.beSize p = s.beSize p ∧ DataKept s t)) ∧
      (∀ b, s.bePending p ≠ 0 ∨ s.beRuns p ≠ [] →
        Gives (.mstBeRingCfg a p b v) s fun t => t.beSize p = s.beSize p ∧ t.rf (pgMst 2) (F.MST_BE_BASE p) = s.rf (pgMst 2) (F.MST_BE_BASE p) ∧
          t.bit (pgMst 0) F.MST_ERR_STAT_BE_TAIL_BAD = true ∧ t.mst = s.mst) ∧
      Gives (.flush a p) s (fun t => t.beHead p = s.beTail p ∧ t.beTail p = s.beTail p ∧ t.head p = none ∧ t.beRuns p = s.beRuns p)) ∧
    (∀ r, s.frozen = false → s.works (pgMst 0) = true → OneRequest s p r →
      (s.beFate p r = .bad → s.beSlot p (s.beHead p) + 12 < dramSize → s.chanReady (s.beSlot p (s.beHead p) + 12) = true →
        Gives .beEvaluate s fun t => t.beHead p = s.beTail p ∧ t.head p = none ∧ t.beRuns p = s.beRuns p ∧
          t.rdByte (s.beSlot p (s.beHead p) + 12) = 2 ∧ BytesKept s t (s.beSlot p (s.beHead p) + 12) (s.beSlot p (s.beHead p) + 13)) ∧
      (s.beFate p r = .takes →
        Gives .beEvaluate s fun t => t.beHead p = s.beTail p ∧ t.mst.lastAdmit = p ∧ Counts s t (pgMst 2) F.MST_BE_ADMIT_CNT ∧
          t.beRuns p = s.beRuns p ++ [{ slot := s.beHead p, req := r }]) ∧
      (s.beFate p r = .hold → Gives .beEvaluate s fun t => t = s)) ∧
    (∀ (k : BitVec 16) r, RingsEmpty s → (s.beRuns p).find? (fun x => decide (x.slot = k.toNat)) = some r →
      (s.beSlot p k.toNat + 12 < dramSize → s.chanReady (s.beSlot p k.toNat + 12) = true →
        Gives (.beRequestEnd p k false) s (fun t => t.beRuns p = (s.beRuns p).filter (fun x => decide (x.slot ≠ k.toNat)) ∧
          t.rdByte (s.beSlot p k.toNat + 12) = 1 ∧ BytesKept s t (s.beSlot p k.toNat + 12) (s.beSlot p k.toNat + 13)) ∧
        Gives (.beRequestEnd p k true) s (fun t => t.beRuns p = (s.beRuns p).filter (fun x => decide (x.slot ≠ k.toNat)) ∧
          t.rdByte (s.beSlot p k.toNat + 12) = 4 ∧ t.bit (pgMst 0) F.MST_ERR_STAT_BE_STOPPED = true ∧
          Counts s t (pgMst 2) F.MST_BE_STOP_CNT)) ∧
      (∀ d, r.req.kind = 4 → (s.hal r.req.target).active = some d → d.ctx.be = some (p.val, k.toNat) →
        (s.hal r.req.target).finished d.word = false →
        Gives (.beHalTimeout p k) s fun t => (t.hal r.req.target).cancelling = true ∧ t.mst = s.mst ∧ DataKept s t))

open Sys2Proof Sys2Proof.Machine in
/-- R363: the states of a partition: 0 FREE, 1 LIVE, 2 DRAINING, 3 DRAINED, 4 CLEARING. -/
def Obligations.Partitions : Prop :=
  ∀ (a : Agent) (p : Fin 8) (s : State),
    (s.ready (pgMst 1) = true →
      (s.partState p = 0 → s.mayForm p = true →
        Gives (.form a p) s fun t => t.partState p = 1 ∧ t.partGen p = (s.partGen p + 1) % 2 ^ 16 ∧ t.mst = s.mst ∧ DataKept s t) ∧
      ((s.partState p ≠ 0 ∨ s.mayForm p = false) →
        Gives (.form a p) s fun t => t.partState p = s.partState p ∧ t.partGen p = s.partGen p ∧
          t.bit (pgMst 0) F.MST_ERR_STAT_ASSIGN_CONFLICT = true ∧ t.mst = s.mst ∧ DataKept s t) ∧
      (s.partState p = 1 →
        Gives (.drain a p) s fun t => t.partState p = 2 ∧ Tab.at t.mst.drain p .none = .wait ∧ t.mst.active = s.mst.active ∧ DataKept s t) ∧
      (s.partState p ≠ 1 →
        Gives (.drain a p) s fun t => t.partState p = s.partState p ∧ t.bit (pgMst 0) F.MST_ERR_STAT_ASSIGN_CONFLICT = true ∧
          t.mst = s.mst ∧ DataKept s t) ∧
      ((s.partState p = 1 ∨ s.partState p = 2 ∨ s.partState p = 3) →
        Gives (.kill a p) s fun t => t.partState p = 4 ∧ t.beHead p = s.beTail p ∧ t.head p = none ∧
          ∀ h d, h < 128 → s.partHasHal p h = true → (s.hal h).active = some d → (s.hal h).finished d.word = false → (t.hal h).cancelling = true) ∧
      ((s.partState p = 0 ∨ s.partState p = 4) →
        Gives (.kill a p) s fun t => t.partState p = s.partState p ∧ t.bit (pgMst 0) F.MST_ERR_STAT_ASSIGN_CONFLICT = true ∧
          t.mst = s.mst ∧ t.hals = s.hals ∧ DataKept s t)) ∧
    (s.partState p = 2 → s.lagDone p = true → s.beRuns p = [] →
      Gives (.partitionDrained p) s fun t => t.partState p = 3 ∧ t.mst = s.mst ∧ DataKept s t) ∧
    (∀ f fs, s.partState p = 4 → s.partBusy p = false → Tab.at s.mst.scrub p none = none → s.partFloes p = f :: fs →
      Gives (.partitionClearStart p) s fun t => Tab.at t.mst.scrub p none = some fs ∧ t.floeClosed f = true ∧ t.partState p = 4 ∧ DataKept s t) ∧
    (s.partState p = 4 → Tab.at s.mst.scrub p none = some [] → (∀ f, f < 64 → s.partHasFloe p f = true → s.floeClosed f = false) →
      (∀ sl, sl < 16 → Tab.at s.firnOp sl none = none) →
      Gives (.partitionFree p) s fun t => t.partState p = 0 ∧ Tab.at t.mst.scrub p none = none ∧ DataKept s t)

open Sys2Proof Sys2Proof.Machine in
/-- R392 to R396, R398 to R401, R581. -/
def Obligations.TimeBases : Prop :=
  ∀ (a : Agent) (i : Fin 4) (s : State),
    (∀ v : Word, s.ready (pgTb i) = true →
      (s.holdover i = false →
        Gives (.tbIncFrac a i v) s (fun t => t.rf (pgTb i) F.TB_INC_FRAC = v.toNat ∧ t.tb = s.tb ∧ DataKept s t) ∧
        ((F.TB_INC_NS.of v = 1 ∨ F.TB_INC_NS.of v = 2) →
          Gives (.tbIncNs a i v) s fun t => t.tbInc i = F.TB_INC_NS.of v * 2 ^ 32 + s.rf (pgTb i) F.TB_INC_FRAC ∧
            (t.timeBase i).raw = (s.timeBase i).raw ∧ DataKept s t) ∧
        ((F.TB_INC_NS.of v = 0 ∨ 3 ≤ F.TB_INC_NS.of v) →
          Gives (.tbIncNs a i v) s fun t => t.tbInc i = s.tbInc i ∧ t.tb = s.tb ∧ t.bit (pgTb i) F.TB_ERR_STAT_INC_BAD = true) ∧
        (v.toInt.natAbs ≤ s.jumpThr i →
          Gives (.tbAdj a i v) s fun t => t.timeBase i = { s.timeBase i with slew := v.toInt * 2 ^ 32 } ∧ t.holdover i = false ∧
            t.bit (pgTb i) F.TB_STAT_SLEWING = decide (v ≠ 0) ∧ DataKept s t) ∧
        (s.jumpThr i < v.toInt.natAbs →
          Gives (.tbAdj a i v) s fun t => t.timeBase i = { s.timeBase i with slew := 0 } ∧ t.holdover i = true ∧
            t.bit (pgTb i) F.TB_ERR_STAT_JUMP_REFUSED = true ∧ Counts s t (pgTb i) F.TB_REFUSE_CNT ∧ DataKept s t)) ∧
      (s.holdover i = true →
        ∀ c, (c = Instr.tbIncFrac a i v ∨ c = Instr.tbIncNs a i v ∨ c = Instr.tbAdj a i v) →
          Gives c s fun t => t.tb = s.tb ∧ t.tbInc i = s.tbInc i ∧ t.bit (pgTb i) F.TB_ERR_STAT_WR_IGNORED = true ∧
            Counts s t (pgTb i) F.TB_IGNORED_CNT ∧ DataKept s t) ∧
      (F.TB_STEP_CMD_GO.of v = 1 → s.rf (pgTb i) F.TB_STEP_NS ≤ 999999999 →
        Gives (.tbStepRequest a i v) s fun t =>
          t.timeBase i = { s.timeBase i with
            step := some { offset := F.TB_STEP_CMD_MODE.of v = 1, sec := s.rf (pgTb i) F.TB_STEP_SEC_HI * 2 ^ 32 + s.rf (pgTb i) F.TB_STEP_SEC_LO,
                           ns := s.rf (pgTb i) F.TB_STEP_NS, frac := s.rf (pgTb i) F.TB_STEP_FRAC } } ∧
          t.bit (pgTb i) F.TB_STAT_STEP_PEND = true ∧ DataKept s t) ∧
      (F.TB_STEP_CMD_GO.of v = 1 → 999999999 < s.rf (pgTb i) F.TB_STEP_NS →
        Gives (.tbStepRequest a i v) s fun t => t.tb = s.tb ∧ t.bit (pgTb i) F.TB_ERR_STAT_STEP_BAD = true ∧ DataKept s t)) ∧
    (256 ≤ s.tbInc i →
      Gives (.slewComplete i) s fun t => (t.timeBase i).slew = 0 ∧ t.ticks = s.ticks + (s.timeBase i).slewTicks (s.tbInc i) ∧
        (t.timeBase i).raw = (((s.timeBase i).raw : Int) + (s.timeBase i).slewTicks (s.tbInc i) * s.tbInc i + (s.timeBase i).slew).toNat %
          (2 ^ 48 * 1000000000 * 2 ^ 32) ∧ DataKept s t) ∧
    (∀ st, (s.timeBase i).step = some st →
      Gives (.tbStepApply i) s fun t => t.timeBase i = { (s.timeBase i).stepped st with slew := 0, step := none } ∧ t.holdover i = false ∧
        t.bit (pgTb i) F.TB_ERR_STAT_STEPPED = true ∧ Counts s t (pgTb i) F.TB_STEP_CNT ∧
        ((i : Nat) = 0 → t.bit pgTs F.TS_MASTER_PORT_VALID = false ∧ (s.mst.active.isSome = true → t.mst.stepped = true)) ∧ DataKept s t) ∧
    (s.ready (pgTb i) = true →
      Gives (.tbRdNs a i) s fun t => Answers t (leBytes 4 (s.timeBase i).ns) false ∧
        t.tbHeldOf a i = ((s.timeBase i).sec, (s.timeBase i).frac) ∧ t.tb = s.tb ∧ t.regs = s.regs ∧ DataKept s t) ∧
    (s.bit pgTs F.TS_PTP_CTRL_TRACK_EN = true → s.bit pgTs F.TS_MASTER_PORT_VALID = true →
      Gives .masterLost s fun t => t.holdover 0 = true ∧ t.timeBase 0 = { s.timeBase 0 with slew := 0 } ∧
        t.bit (pgTb 0) F.TB_ERR_STAT_MASTER_LOST = true ∧ DataKept s t) ∧
    (s.rf pgTs F.TS_CLK_CTRL ≠ 0 →
      Gives .synceLost s fun t => t.bit pgTs F.TS_CLK_STAT_CLK_HOLDOVER = true ∧ t.bit pgTs F.TS_CLK_STAT_LOCKED = false ∧
        t.bit pgTs F.TS_ERR_STAT_SYNCE_LOST = true ∧ t.tb = s.tb ∧ DataKept s t) ∧
    (s.rf pgTs F.TS_CLK_CTRL = 0 → Gives .synceLost s fun t => t = s) ∧
    (s.bit pgTs F.TS_CLK_STAT_CLK_HOLDOVER = true →
      Gives .synceRelock s fun t => t.bit pgTs F.TS_CLK_STAT_CLK_HOLDOVER = false ∧ t.bit pgTs F.TS_CLK_STAT_LOCKED = true ∧ t.tb = s.tb ∧
        DataKept s t) ∧
    (∀ (a : Agent) (v : Word), s.ready pgTs = true →
      (F.TS_CLK_CTRL.of v ≤ 16 →
        Gives (.tsClkCtrl a v) s fun t => t.rf pgTs F.TS_CLK_CTRL = F.TS_CLK_CTRL.of v ∧ t.tb = s.tb ∧ DataKept s t) ∧
      (16 < F.TS_CLK_CTRL.of v →
        Gives (.tsClkCtrl a v) s fun t => t.rf pgTs F.TS_CLK_CTRL = s.rf pgTs F.TS_CLK_CTRL ∧ t.bit pgTs F.TS_ERR_STAT_SRC_BAD = true ∧
          DataKept s t)) ∧
    Gives .timingPllLocked s (fun t => t.bit pgTs F.TS_CLK_STAT_LOCKED = true ∧ t.tb = s.tb ∧ DataKept s t)

open Sys2Proof Sys2Proof.Machine in
/-- R402 to R408. -/
def Obligations.TimingUnits : Prop :=
  ∀ s : State,
    (∀ (a : Agent) (u : TimingUnit), s.ready (unitPage u) = true →
      ((s.unitOwn u = 0 ∨ s.unitOwn u = agentClass a) →
        Gives (.claim a u) s fun t => t.unitOwn u = agentClass a ∧ t.pgs = s.pgs ∧ DataKept s t) ∧
      (s.unitOwn u ≠ 0 → s.unitOwn u ≠ agentClass a →
        Gives (.claim a u) s (fun t => t.unitOwn u = s.unitOwn u ∧ t.bit (unitPage u) (unitConflict u) = true ∧ DataKept s t) ∧
        Gives (.release a u) s (fun t => t.unitOwn u = s.unitOwn u ∧ t.bit (unitPage u) (unitConflict u) = true ∧ DataKept s t)) ∧
      (s.unitOwn u = agentClass a →
        Gives (.release a u) s fun t => t.unitOwn u = 0 ∧ (∀ g, u = .gen g → t.pgArmed g = false) ∧ t.caps = s.caps ∧ DataKept s t)) ∧
    (∀ (a : Agent) (g : Fin 8), s.ready pgPg = true → s.unitOwn (.gen g) = agentClass a →
      (s.works pgPg = true → s.pgBad g (s.pgFromRegs g) = false → s.pgClash g (s.pgFromRegs g) = false →
        ((s.pgFromRegs g).periodic = true ∨ (s.timeBase (s.pgFromRegs g).tb).count ≤ (s.pgFromRegs g).start →
          Gives (.arm a g) s fun t => t.pgArmed g = true ∧
            t.pg g = { s.pgFromRegs g with next := (s.pgFromRegs g).firstAt (s.timeBase (s.pgFromRegs g).tb).count } ∧ DataKept s t) ∧
        ((s.pgFromRegs g).periodic = false → (s.pgFromRegs g).start < (s.timeBase (s.pgFromRegs g).tb).count →
          Gives (.arm a g) s fun t => t.pgArmed g = false ∧ t.bit pgPg (F.PG_CMD_MISSED g) = true ∧ DataKept s t)) ∧
      (s.works pgPg = true → s.pgBad g (s.pgFromRegs g) = true →
        Gives (.arm a g) s fun t => t.pgArmed g = s.pgArmed g ∧ t.bit pgPg (F.PG_CMD_CFG_BAD g) = true ∧ t.pgs = s.pgs ∧ DataKept s t) ∧
      Gives (.disarm a g) s (fun t => t.pgArmed g = false ∧ t.pgs = s.pgs ∧ DataKept s t)) ∧
    (∀ g : Fin 8, s.pgArmed g = true → s.works pgPg = true → (s.pg g).next ≤ (s.timeBase (s.pg g).tb).count →
      ((s.pg g).func < 2 →
        Gives (.pgFire g) s fun t => Counts s t pgPg (F.PG_FIRE_CNT g) ∧ t.pgArmed g = (s.pg g).periodic ∧
          ((s.pg g).periodic = true → (t.pg g).next = (s.pg g).next + (s.pg g).period) ∧
          ((s.pg g).func = 1 → (t.pg g).pulse = some ((s.pg g).pin, (s.pg g).low) ∧ t.bit pgPg (F.PG_CMD_PIN_ACTIVE g) = true) ∧ DataKept s t) ∧
      ((s.pg g).func = 2 → s.pwr.mgmtRst = false → s.works pgSnap = true →
        Gives (.pgFire g) s fun t => t.bit pgSnap F.SNAP_STAT_BUSY = true ∧ DataKept s t)) ∧
    (s.bit pgSnap F.SNAP_STAT_BUSY = true →
      Gives .snapshotComplete s fun t => t.bit pgSnap F.SNAP_STAT_BUSY = false ∧
        t.rf pgSnap F.SNAP_STAT_SEQ = (s.rf pgSnap F.SNAP_STAT_SEQ + 1) % 2 ^ 31 ∧ t.snap = s.snap ∧ DataKept s t) ∧
    (∀ g : Fin 8, Gives (.pinPulseEnd g) s fun t => (t.pg g).pulse = none ∧ t.bit pgPg (F.PG_CMD_PIN_ACTIVE g) = false ∧
      t.pgArmed g = s.pgArmed g ∧ DataKept s t) ∧
    (∀ (c : Fin 2) (fall : Bool), (s.rf pgCap (F.CAP_CFG_EDGE c)).testBit fall.toNat = true → s.works pgCap = true →
      s.unitOwn (.cap c) ≠ 0 →
      ((Tab.at s.capLast c 0 = 0 ∨ Tab.at s.capLast c 0 + 10 ≤ s.ticks) →
        ((Tab.at s.caps c []).length < 16 →
          Gives (.captureEdge c fall) s fun t => (∃ e, e.falling = fall ∧ Tab.at t.caps c [] = Tab.at s.caps c [] ++ [e]) ∧
            Counts s t pgCap (F.CAP_CNT c) ∧ t.rf pgCap (F.CAP_STAT_LEVEL c) = (Tab.at s.caps c []).length + 1 ∧ DataKept s t) ∧
        (16 ≤ (Tab.at s.caps c []).length →
          Gives (.captureEdge c fall) s fun t => t.caps = s.caps ∧ t.bit pgCap (F.CAP_STAT_OVF c) = true ∧ DataKept s t)) ∧
      (Tab.at s.capLast c 0 ≠ 0 → s.ticks + 1 ≤ Tab.at s.capLast c 0 + 10 →
        Gives (.captureEdge c fall) s fun t => t.caps = s.caps ∧ t.bit pgCap (F.CAP_STAT_GLITCH c) = true ∧ DataKept s t)) ∧
    (∀ (a : Agent) (c : Fin 2) e q, s.ready pgCap = true → s.unitOwn (.cap c) = agentClass a → Tab.at s.caps c [] = e :: q →
      q.length < 16 →
      Gives (.pop a c) s fun t => Tab.at t.caps c [] = q ∧ t.rf pgCap (F.CAP_STAT_LEVEL c) = q.length ∧ DataKept s t)

namespace Sys2Proof.Machine

/-- Address of a register (R465). -/
def regAt (g off : Nat) : BitVec 40 := BitVec.ofNat 40 (regAddr g off)

/-- A page whose registers the agent may write: it exists, and is not the security page with the management controller as agent (R538). -/
def MayWrite (a : Agent) (g : Nat) : Prop := ∃ t i, pageOf g = some (t, i) ∧ (t = .sec → a ≠ .mgmt)

/-- The access to IND_DATA of a page is served at once (R471, R472): none waits, and the target serves. -/
def IndServed (s : State) (g : Nat) : Prop := s.indQueue g = [] ∧ s.indServes g = true

end Sys2Proof.Machine

open Sys2Proof Sys2Proof.Machine in
/-- R41, R42, R468, R470 to R472, R478: accesses at physical addresses. -/
def Obligations.RegisterAccess : Prop :=
  ∀ (a : Agent) (g : BitVec 16) (s : State),
    (MayWrite a g.toNat →
      (∀ v : BitVec 64,
        Gives (.registerWrite a (regAt g.toNat 0x014) .b4 v) s (fun t => t.word g.toNat 0x014 = v.setWidth 32 ∧ DataKept s t) ∧
        Gives (.registerWrite a (regAt g.toNat 0x010) .b4 v) s (fun t => t.word g.toNat 0x010 = s.word g.toNat 0x010 &&& ~~~(v.setWidth 32) ∧
          DataKept s t)) ∧
      (∀ v : Word, Gives (.irqForce a g v) s fun t => t.word g.toNat 0x010 = s.word g.toNat 0x010 ||| v ∧
        t.word g.toNat 0x014 = s.word g.toNat 0x014 ∧ DataKept s t)) ∧
    (∀ (z : Size) (v : BitVec 64), (z = .b1 ∨ z = .b2) → (pageOf g.toNat).isSome = true →
      Gives (.registerWrite a (regAt g.toNat 0x014) z v) s fun t => t.word g.toNat 0x014 = s.word g.toNat 0x014 ∧
        t.bit pgFab F.SYS_FAB_ERR_STAT_SIZE_BAD = true ∧ Counts s t pgFab F.SYS_FAB_SIZE_CNT ∧ DataKept s t) ∧
    (∀ f : Fin 64, s.ready (pgGaff f) = true → s.confidential = false →
      Gives (.rcCounterRead a (regAt (pgGaff f) F.GAFF_DONE_CNT.off)) s fun t =>
        Answers t (leBytes 4 (s.rf (pgGaff f) F.GAFF_DONE_CNT)) false ∧ t.rf (pgGaff f) F.GAFF_DONE_CNT = 0 ∧ DataKept s t) ∧
    (∀ x : BitVec 40, a ≠ .mgmt → x.toNat < dramSize → x.toNat % 64 = 0 → s.chanReady x.toNat = true → s.granOk (.agent a) x.toNat = true →
      Gives (.memoryAccess a x (.read .line) {}) s (fun t => (∃ p, Answers t (s.rdBytes x.toNat 64) p) ∧ t.mem = s.mem) ∧
      ∀ bs : Bytes, bs.length = 64 →
        Gives (.memoryAccess a x (.write .line bs) {}) s fun t => t.rdBytes x.toNat 64 = bs ∧ BytesKept s t x.toNat (x.toNat + 64)) ∧
    (∀ (x : BitVec 40) (z : Size), placeOf x.toNat = .none → (x.toNat < 0x10_0000_0000 ∨ 0x18_4000_0000 ≤ x.toNat) → remoteTarget x.toNat = none →
      Gives (.memoryAccess a x (.read z) {}) s fun t => Answers t (ones (sizeBytes z)) false ∧
        t.bit pgFab F.SYS_FAB_ERR_STAT_UNMAPPED = true ∧ Counts s t pgFab F.SYS_FAB_UNMAP_CNT ∧ DataKept s t) ∧
    ((pageOf g.toNat).isSome = true → IndServed s g.toNat →
      (s.indHidden g.toNat = false → s.indBusy g.toNat = false → s.rf g.toNat F.IND_ADDR_ADDR < 2 ^ 31 →
        ∀ w, s.indWord g.toNat (s.rf g.toNat F.IND_ADDR_ADDR) = some w → (s.bit g.toNat F.IND_ADDR_AUTOINC = false) →
          Gives (.indDataRead a g) s fun t => Answers t (leBytes 4 w.toNat) false ∧ DataKept s t) ∧
      (∀ v, g.toNat = pgIagg → s.bit pgIagg F.IND_ADDR_AUTOINC = true → s.rf pgIagg F.IND_ADDR_ADDR < 65536 →
        Gives (.indDataWrite a g v) s fun t => Tab.at t.iagg.routes (s.rf pgIagg F.IND_ADDR_ADDR) 0 = v.toNat &&& 0xBF ∧
          t.rf pgIagg F.IND_ADDR_ADDR = s.rf pgIagg F.IND_ADDR_ADDR + 1 ∧ DataKept s t)) ∧
    (∀ x, (pageOf g.toNat).isSome = true → s.indQueue g.toNat = [x] → s.indServes g.toNat = false →
      Gives (.indTimeout g) s fun t => t.indQueue g.toNat = [] ∧ t.bit g.toNat F.IND_STAT_IND_ERR = true ∧
        t.bit g.toNat F.IND_STAT_BUSY = false ∧ (x.v = none → Answers t (ones 4) false) ∧ DataKept s t)

open Sys2Proof Sys2Proof.Machine in
/-- R475 to R477. -/
def Obligations.PagesAndResets : Prop :=
  ∀ (a : Agent) (g : BitVec 16) (s : State), (pageOf g.toNat).isSome = true →
    (s.shutting g.toNat = false →
      Gives (.pageCtrlEn a g true) s (fun t => t.enabled g.toNat = true ∧ t.bit g.toNat F.PAGE_STAT_PENDING_EN = false ∧ DataKept s t) ∧
      (s.bit g.toNat F.PAGE_STAT_PENDING_EN = false → s.enabled g.toNat = true →
        Gives (.pageCtrlEn a g false) s fun t => t.enabled g.toNat = false ∧ t.shutting g.toNat = s.pageBusy g.toNat ∧ DataKept s t)) ∧
    (s.shutting g.toNat = true →
      Gives (.pageCtrlEn a g true) s fun t => t.bit g.toNat F.PAGE_STAT_PENDING_EN = true ∧ t.enabled g.toNat = s.enabled g.toNat ∧ DataKept s t) ∧
    (s.bit g.toNat F.PAGE_STAT_SRST_PEND = false →
      (s.shutting g.toNat = false → s.pageBusy g.toNat = false →
        Gives (.srst a g) s fun t => t.enabled g.toNat = false ∧ t.shutting g.toNat = false ∧
          (t.word g.toNat 0x010).getLsbD 31 = true ∧ t.ready g.toNat = s.ready g.toNat ∧ DataKept s t) ∧
      ((s.shutting g.toNat = true ∨ s.pageBusy g.toNat = true) →
        Gives (.srst a g) s fun t => t.enabled g.toNat = false ∧ t.shutting g.toNat = true ∧
          t.bit g.toNat F.PAGE_STAT_SRST_PEND = true ∧ DataKept s t)) ∧
    (s.shutting g.toNat = true → s.pageWork g.toNat = false →
      (s.bit g.toNat F.PAGE_STAT_SRST_PEND = false →
        Gives (.shutdownComplete g) s fun t => t.shutting g.toNat = false ∧
          t.enabled g.toNat = (s.enabled g.toNat || s.bit g.toNat F.PAGE_STAT_PENDING_EN) ∧ DataKept s t) ∧
      (s.bit g.toNat F.PAGE_STAT_SRST_PEND = true →
        Gives (.shutdownComplete g) s fun t => t.shutting g.toNat = false ∧ t.bit g.toNat F.PAGE_STAT_SRST_PEND = false ∧
          t.enabled g.toNat = s.bit g.toNat F.PAGE_STAT_PENDING_EN ∧ (t.word g.toNat 0x010).getLsbD 31 = true ∧ DataKept s t))

open Sys2Proof Sys2Proof.Machine in
/-- R47, R438, R479. -/
def Obligations.InterruptsAndHost : Prop :=
  ∀ s : State,
    (∀ v : Fin 64, s.works pgIagg = true → s.pendingVec v = true → s.vecEnabled v = true → Tab.at s.iagg.disarmed v false = false →
      (s.vecDest v ≠ 1 ∨ s.bit pgPcie F.PCI_STAT_LINK_UP = true →
        Gives (.interruptDeliver v) s fun t => t.out = s.out ++ [Out.interrupt (s.vecDest v) v] ∧ Tab.at t.iagg.disarmed v false = true ∧
          Counts s t pgIagg F.IAGG_SENT_CNT ∧ DataKept s t) ∧
      (s.vecDest v = 1 → s.bit pgPcie F.PCI_STAT_LINK_UP = false →
        Gives (.interruptDeliver v) s fun t => t.out = s.out ∧ (v : Nat) ∈ t.pci.held ∧ Tab.at t.iagg.disarmed v false = true ∧ DataKept s t)) ∧
    (∀ v : Fin 64, (s.pendingVec v = false ∨ s.vecEnabled v = false) → Gives (.interruptDeliver v) s fun t => t = s) ∧
    (∀ (a : Agent) (v : Word), s.ready pgIagg = true → F.IAGG_EOI_GO.of v = 1 → s.pendingVec (F.IAGG_EOI_VECTOR.of v) = false →
      Gives (.iaggEoi a v) s fun t => Tab.at t.iagg.disarmed (F.IAGG_EOI_VECTOR.of v) false = false ∧ t.out = s.out ∧ t.regs = s.regs ∧
        DataKept s t) ∧
    (∀ r : PcieReq,
      (s.bit pgPcie F.PCI_STAT_LINK_UP = false → Gives (.pcieRequest r) s fun t => t = s) ∧
      (∀ z, s.ready pgPcie = true → s.bit pgPcie F.PCI_STAT_LINK_UP = true → s.works pgPcie = true → r.stream = none → r.lockEvent = false →
        r.acc = .read z →
        ((s.tdisp = 1 ∨ s.tdisp = 3) →
          Gives (.pcieRequest r) s fun t => Answers t (ones (sizeBytes z)) false ∧ Counts s t pgPcie F.PCI_UR_CNT ∧ DataKept s t) ∧
        (s.tdisp = 0 → s.pci.stopping = false → r.bar2 = true → z = .line → r.offset.toNat < dramSize → r.offset.toNat % 64 = 0 →
          s.chanReady r.offset.toNat = true → s.granOk (.agent .pcie) r.offset.toNat = true → 
          Gives (.pcieRequest r) s fun t => (∃ p, Answers t (s.rdBytes r.offset.toNat 64) p) ∧ t.mem = s.mem)))

open Sys2Proof Sys2Proof.Machine in
/-- R481 to R485. -/
def Obligations.ConfigurationIntegrity : Prop :=
  ∀ s : State,
    (∀ (a : Agent) (v : Word), s.ready pgCfgi = true →
      (v.getLsbD 0 = true → Gives (.crcCommit a v) s fun t => t.bit pgCfgi F.CFG_STAT_COMMIT_PEND = true ∧
        t.rf pgCfgi F.CFG_CRC_REF = s.rf pgCfgi F.CFG_CRC_REF ∧ DataKept s t) ∧
      Gives (.cfgCrcRef a v) s (fun t => t.rf pgCfgi F.CFG_CRC_REF = v.toNat ∧ t.bit pgCfgi F.CFG_STAT_REF_VALID = true ∧
        t.bit pgCfgi F.CFG_STAT_COMMIT_PEND = false ∧ t.cfgi.drifted = false ∧ DataKept s t)) ∧
    (s.sweepCan = true →
      Gives .cfgSweepStart s fun t => (∃ w, t.cfgi.sweep = some w ∧ w.crc = crc32c (hwPages.flatMap s.pageWords) ∧
        w.compare = s.comparable ∧ w.capture = s.bit pgCfgi F.CFG_STAT_COMMIT_PEND) ∧ t.bit pgCfgi F.CFG_STAT_SWEEPING = true ∧ DataKept s t) ∧
    (∀ w, s.cfgi.sweep = some w →
      Gives .cfgSweepEnd s fun t => t.cfgi.sweep = none ∧ t.bit pgCfgi F.CFG_STAT_SWEEPING = false ∧
        t.rf pgCfgi F.CFG_CRC_LAST = w.crc.toNat ∧ Counts s t pgCfgi F.CFG_SWEEP_CNT ∧
        (w.capture = true → s.bit pgCfgi F.CFG_STAT_COMMIT_PEND = true →
          t.rf pgCfgi F.CFG_CRC_REF = w.crc.toNat ∧ t.bit pgCfgi F.CFG_STAT_REF_VALID = true ∧ t.bit pgCfgi F.CFG_STAT_COMMIT_PEND = false) ∧
        (w.capture = false → w.compare = true → s.comparable = true →
          (w.crc.toNat = s.rf pgCfgi F.CFG_CRC_REF → t.cfgi.drifted = false ∧ t.frozen = s.frozen) ∧
          (w.crc.toNat ≠ s.rf pgCfgi F.CFG_CRC_REF → t.bit pgCfgi F.CFG_ERR_STAT = true ∧ Counts s t pgCfgi F.CFG_DRIFT_CNT ∧
            t.cfgi.drifted = true ∧ t.frozen = (s.frozen || s.bit pgCfgi F.CFG_CTRL_FREEZE_EN))) ∧ DataKept s t)

namespace Sys2Proof.Machine

/-- The owner of an emulated page serves it, the page is READY and nothing waits at its trap unit (R501, R502). -/
def EmuServed (s : State) (i : Nat) : Prop := s.ready (pgEmu i) = true ∧ s.emuTrapped i = [] ∧ s.served i = true

/-- No write waits for a component of the emulated pages. -/
def EmuQuiet (s : State) : Prop := ∀ i, i < 3 → s.emuQueue i = [] ∧ s.emuTrapped i = []

/-- The image that FWLD_SRC and FWLD_LEN name. -/
def srcAddr (s : State) : Nat := s.rf pgFwld F.FWLD_SRC_HI * 2 ^ 32 + s.rf pgFwld F.FWLD_SRC_LO * 64
def srcImage (s : State) : Bytes := s.imageBytes (srcAddr s) (s.rf pgFwld F.FWLD_LEN)

/-- The image stands aside with the cause of its first failed check, 0 for none. -/
def Taken (s t : State) (update : Bool) : Prop :=
  t.fw.updating = update ∧
    (256 ≤ s.rf pgFwld F.FWLD_LEN → s.rf pgFwld F.FWLD_LEN ≤ 16 * 2 ^ 20 →
      t.fw.next = srcImage s ∧ t.fw.nextCause = s.imageCause (srcImage s) (s.imageReadable (srcAddr s) (s.rf pgFwld F.FWLD_LEN)) update) ∧
    (s.rf pgFwld F.FWLD_LEN < 256 ∨ 16 * 2 ^ 20 < s.rf pgFwld F.FWLD_LEN → t.fw.nextCause = 1)

/-- A component that runs is stopped to restart, or halted where two restarts within a second stand before this one (R496). -/
def Restarted (s t : State) (k cause : Nat) : Prop :=
  (t.health k).state = (if (s.restarts (s.health k)).length < 2 then 2 else 3) ∧ (t.health k).cause = cause

/-- The new image was abandoned: the old one runs on (R507). -/
def RolledBack (s t : State) : Prop :=
  t.fwldState = 3 ∧ t.fw.image = s.fw.image ∧ t.fw.next = [] ∧ t.bit pgFwld F.FWLD_ERR_STAT_UPD_ROLLBACK = true ∧
    ∀ k, 1 ≤ k → k ≤ 10 → (t.health k).state = 1 ∧ (t.health k).cause = 4

end Sys2Proof.Machine

open Sys2Proof Sys2Proof.Machine in
/-- R497 to R500, R505 to R507: the states of FWLD: 0 EMPTY, 1 LOADING, 3 RUNNING, 4 STAGED, 5 HANDOFF. -/
def Obligations.FirmwareImage : Prop :=
  ∀ (a : Agent) (s : State),
    (EmuServed s 0 →
      (s.fwldState = 0 → Gives (.load a) s fun t => t.fwldState = 1 ∧ t.fw.topoLocked = true ∧ Taken s t false ∧ DataKept s t) ∧
      (s.fwldState ≠ 0 →
        Gives (.load a) s fun t => t.fwldState = s.fwldState ∧ t.bit pgFwld F.FWLD_ERR_STAT_LOAD_BUSY = true ∧ t.fw.next = s.fw.next ∧ DataKept s t) ∧
      ((s.fwldState = 3 ∨ s.fwldState = 4) → Gives (.update a) s fun t => t.fwldState = s.fwldState ∧ Taken s t true ∧ DataKept s t) ∧
      (s.fwldState ≠ 3 → s.fwldState ≠ 4 →
        Gives (.update a) s fun t => t.fwldState = s.fwldState ∧ t.bit pgFwld F.FWLD_ERR_STAT_LOAD_BUSY = true ∧ t.fw.next = s.fw.next ∧
          DataKept s t) ∧
      (∀ v : Word,
        (s.fw.topoLocked = false → Gives (.fwldTopo a v) s fun t => t.rf pgFwld F.FWLD_TOPO = F.FWLD_TOPO.of v ∧ DataKept s t) ∧
        (s.fw.topoLocked = true →
          Gives (.fwldTopo a v) s fun t => t.rf pgFwld F.FWLD_TOPO = s.rf pgFwld F.FWLD_TOPO ∧
            t.bit pgFwld F.FWLD_ERR_STAT_TOPO_LOCKED = true ∧ DataKept s t))) ∧
    (s.fw.updating = true →
      (s.fw.nextCause = 0 → Gives .fwLoadDone s fun t => t.fwldState = 4 ∧ t.fw.next = s.fw.next ∧ t.fw.image = s.fw.image ∧ DataKept s t) ∧
      (s.fw.nextCause ≠ 0 →
        Gives .fwLoadDone s fun t => t.fwldState = 3 ∧ t.fw.next = [] ∧ t.fw.image = s.fw.image ∧
          t.rf pgFwld F.FWLD_STAT_CAUSE = s.fw.nextCause % 16 ∧ t.bit pgFwld F.FWLD_ERR_STAT_UPD_BAD = true ∧ DataKept s t)) ∧
    (s.fw.updating = false → (s.fwldState = 1 ∨ s.fwldState = 2) →
      (s.fw.nextCause = 0 →
        Gives .fwLoadDone s fun t => t.fwldState = 3 ∧ t.fw.image = s.fw.next ∧ t.rf pgFwld F.FW_VER = leNat (slice s.fw.next 8 4) ∧
          (∀ k, k ≤ 10 → (t.health k).state = 1) ∧ DataKept s t) ∧
      (s.fw.nextCause ≠ 0 →
        Gives .fwLoadDone s fun t => t.fwldState = 0 ∧ t.fw.image = s.fw.image ∧ t.rf pgFwld F.FWLD_STAT_CAUSE = s.fw.nextCause % 16 ∧
          t.bit pgFwld F.FWLD_ERR_STAT_LOAD_BAD = true ∧ DataKept s t)) ∧
    (s.mayHandoff = true → Gives .handoffStart s fun t => t.fwldState = 5 ∧ t.fw = s.fw ∧ DataKept s t) ∧
    (s.mayHandoff = false → Gives .handoffStart s fun t => t = s) ∧
    (s.fwldState = 5 → EmuQuiet s →
      Gives .handoffDone s (fun t => t.fwldState = 3 ∧ t.fw.image = s.fw.next ∧ Counts s t pgFwld F.FW_UPD_CNT ∧
        (∀ k, k ≤ 10 → (t.health k).state = 1) ∧ DataKept s t) ∧
      Gives .updateRollback s (fun t => RolledBack s t ∧ DataKept s t))

open Sys2Proof Sys2Proof.Machine in
/-- R491 to R496, R502. -/
def Obligations.FirmwareComponents : Prop :=
  ∀ (k : Fin 11) (s : State),
    ((s.health k).state ≠ 0 → (s.health k).state ≠ 3 → s.fwldState ≠ 5 →
      (((k : Nat) = 0 ∨ s.pooled = false) →
        Gives (.fwWatchdogExpire k) s fun t => Restarted s t k 1 ∧ Counts s t pgFwld F.FW_RESTART_CNT ∧
          t.bit pgFwld F.FWLD_ERR_STAT_WDT_RESTART = true ∧ DataKept s t) ∧
      (∀ b : Bool, (k : Nat) ≠ 0 → s.pooled = true →
        Gives (.componentProgressMiss k b) s fun t => Restarted s t k (if b then 2 else 3) ∧ Counts s t pgFwld F.FW_RESTART_CNT ∧
          t.bit pgFwld F.FWLD_ERR_STAT_WDT_RESTART = true ∧ DataKept s t)) ∧
    (s.fwldState = 5 → EmuQuiet s → ((k : Nat) = 0 ∨ s.pooled = false) → Gives (.fwWatchdogExpire k) s fun t => RolledBack s t ∧ DataKept s t) ∧
    (s.pooled = true → s.fwldState ≠ 5 → (s.health 11).state = 1 →
      Gives .complexWatchdogExpire s fun t => (t.health 11).state = 2 ∧
        ((k : Nat) ≠ 0 → (s.health k).state ≠ 0 → (s.health k).state ≠ 3 → Restarted s t k 1) ∧ DataKept s t) ∧
    ((s.health k).state = 2 → EmuQuiet s →
      Gives (.fwRestartDone k) s fun t => (t.health k).state = 1 ∧ (∀ j, j < 11 → j ≠ (k : Nat) → t.health j = s.health j) ∧
        t.regs = s.regs ∧ DataKept s t) ∧
    (s.fwRuns k = true →
      Gives (.checkpoint k) s fun t => (∀ i, i < 3 → t.emuQueue i = if emuOwner i = k then [] else s.emuQueue i) ∧ t.regs = s.regs ∧ DataKept s t)

open Sys2Proof Sys2Proof.Machine in
/-- R501 to R504, R508 to R510. The states of FWCTL: 0 RUN, 1 PARKING, 2 PARKED, 3 RESUMING. -/
def Obligations.FirmwareControl : Prop :=
  ∀ (a : Agent) (s : State),
    (∀ (i : Fin 3) (off : BitVec 12), 0x040 ≤ off.toNat → off.toNat % 4 = 0 → effOffset (pgEmu i) off.toNat = off.toNat → s.ready (pgEmu i) = true →
      (s.emuTrapped i = [] → s.served i = true →
        Gives (.emuAccess a i off (.read .b4)) s fun t =>
          Answers t (leBytes 4 (readWord (rowsAt (pgEmu i) off.toNat) (s.shownWord (pgEmu i) off.toNat)).toNat) false ∧ DataKept s t) ∧
      (s.served i = false →
        Gives (.emuAccess a i off (.read .b4)) s fun t => t.rsp = none ∧ t.emuTrapped i = s.emuTrapped i ++ [(off.toNat, none)] ∧
          t.regs = s.regs ∧ DataKept s t)) ∧
    (∀ (i : Fin 3) o w rest, s.emuTrapped i = (o, w) :: rest →
      Gives (.emuTimeout i) s fun t => t.emuTrapped i = rest ∧ (t.word (pgEmu i) 0x010).getLsbD 29 = true ∧
        (w = none → Answers t (ones 4) false) ∧ DataKept s t) ∧
    (s.fwRuns 2 = true → s.fwState = 0 →
      Gives .leaseExpire s fun t => t.bit pgFwctl F.FWCTL_ERR_STAT_LEASE_EXPIRED = true ∧ Counts s t pgFwctl F.FWCTL_LEASE_CNT ∧
        t.fwState = (if s.mst.active.isSome then 1 else 2) ∧ DataKept s t) ∧
    (EmuServed s 1 →
      (∀ v : Word, Gives (.fwctlHeartbeat a v) s fun t => t.fw.lease = s.tbNs 0 ∧ t.fwState = s.fwState ∧ t.mst = s.mst ∧ DataKept s t) ∧
      (∀ q : BitVec 8, q.toNat ≠ s.rf pgFwctl F.FWCTL_STAT_LAST_SEQ →
        (s.fwState = 0 → s.mst.active = none →
          Gives (.detach a q) s fun t => t.fwState = 2 ∧ t.rf pgFwctl F.FWCTL_STAT_LAST_SEQ = q.toNat ∧ Counts s t pgFwctl F.FWCTL_PARK_CNT ∧
            t.fw.saved = none ∧ DataKept s t) ∧
        (∀ tb, s.fwState = 0 → s.mst.active = some tb →
          Gives (.detach a q) s fun t => t.fwState = 1 ∧ t.fw.saved = some tb ∧ t.mst.check = some (tb.only (·.lag), 0, 0) ∧
            t.mst.active = some tb ∧ DataKept s t) ∧
        (s.fwState = 2 → s.fw.saved = none → Gives (.resume a q) s fun t => t.fwState = 0 ∧ t.mst = s.mst ∧ DataKept s t) ∧
        (∀ tb, s.fwState = 2 → s.fw.saved = some tb →
          Gives (.resume a q) s fun t => t.fwState = 3 ∧ t.mst.check = some (tb, 0, 0) ∧ DataKept s t)) ∧
      (∀ q : BitVec 8, q.toNat = s.rf pgFwctl F.FWCTL_STAT_LAST_SEQ →
        Gives (.detach a q) s (fun t => t.fwState = s.fwState ∧ t.mst = s.mst ∧ t.regs = s.regs) ∧
        Gives (.resume a q) s (fun t => t.fwState = s.fwState ∧ t.mst = s.mst ∧ t.regs = s.regs)) ∧
      (∀ page : BitVec 16, Gives (.acquire a page) s fun t => t.bit pgFwctl F.FWCTL_IND_LOCK_HELD = true ∧
        t.rf pgFwctl F.FWCTL_IND_LOCK_PAGE = page.toNat ∧ DataKept s t) ∧
      Gives (.indLockRelease a) s (fun t => t.bit pgFwctl F.FWCTL_IND_LOCK_HELD = false ∧
        t.rf pgFwctl F.FWCTL_IND_LOCK_PAGE = s.rf pgFwctl F.FWCTL_IND_LOCK_PAGE ∧ DataKept s t) ∧
      Gives (.stepReq a) s (fun t => (∃ st, (t.timeBase 0).step = some st ∧ st.offset = true ∧ st.frac = 0 ∧ st.ns < 1000000000 ∧
        sInt 48 st.sec * 1000000000 + st.ns = -sInt 32 (s.rf pgFwctl F.FWCTL_PTP_OFS)) ∧ DataKept s t)) ∧
    (s.fwRuns 2 = true → s.bit pgFwctl F.FWCTL_IND_LOCK_HELD = true →
      Gives .indLockTimeout s fun t => t.bit pgFwctl F.FWCTL_IND_LOCK_HELD = false ∧ t.bit pgFwctl F.FWCTL_ERR_STAT_IND_LOCK_TIMEOUT = true ∧
        DataKept s t)

namespace Sys2Proof.Machine

/-- A request that the device takes: its transport carries it, the identity is valid, and the connection stands at the stage or past it
(R517, R520). -/
def Heard (s : State) (tr : Transport) (stage : Nat) : Prop :=
  s.carries tr = true ∧ s.bit pgSec F.SEC_ID_STAT_ID_VALID = true ∧ stage ≤ (s.sec.conn tr).stage

/-- One message leaves the device. -/
def Says (s t : State) (code : Nat) (fields : Bytes) : Prop := t.out = s.out ++ [Out.message (Config.encodeMessage code fields)]

/-- An answer of the device that joins the transcript; nothing but the connection changes. -/
def Told (s t : State) (tr : Transport) (stage : Nat) (request : Bytes) (code : Nat) (fields : Bytes) : Prop :=
  Says s t code fields ∧ (t.sec.conn tr).stage = stage ∧
    (t.sec.conn tr).transcript = (s.sec.conn tr).transcript ++ request ++ Config.encodeMessage code fields ∧ t.regs = s.regs ∧ DataKept s t

end Sys2Proof.Machine

open Sys2Proof Sys2Proof.Machine in
/-- R516, R517, R520 to R524. -/
def Obligations.SpdmAttestation : Prop :=
  ∀ (tr : Transport) (s : State),
    (Heard s tr 0 →
      Gives (.getVersion tr) s fun t => Says s t spdmVersion [0x12, 0x13] ∧ (t.sec.conn tr).stage = 1 ∧
        (t.sec.conn tr).transcript = [0x10, 0x84, 0, 0] ++ Config.encodeMessage spdmVersion [0x12, 0x13] ∧ t.regs = s.regs ∧ DataKept s t) ∧
    (Heard s tr 1 → Gives (.getCapabilities tr) s fun t => Told s t tr (max 2 (s.sec.conn tr).stage) [0x12, 0xE1, 0, 0] spdmCapabilities []) ∧
    (Heard s tr 2 → Gives (.negotiateAlgorithms tr) s fun t => Told s t tr 3 [0x12, 0xE3, 0, 0] spdmAlgorithms []) ∧
    (Heard s tr 3 →
      Gives (.getDigests tr) s (fun t =>
        Told s t tr (s.sec.conn tr).stage [0x12, 0x81, 0, 0] spdmDigests ([1] ++ sha384 Config.rsaChain)) ∧
      (∀ off len : BitVec 16, off.toNat < Config.rsaChain.length →
        Gives (.getCertificate tr 0 off len) s fun t =>
          Told s t tr (s.sec.conn tr).stage ([0x12, 0x82, 0, 0] ++ leBytes 2 off.toNat ++ leBytes 2 len.toNat) spdmCertificate
            (slice Config.rsaChain off.toNat (min len.toNat (Config.rsaChain.length - off.toNat)))) ∧
      (∀ rq : Bytes, Gives (.challenge tr rq) s fun t =>
        ∃ f h n, f = sha384 Config.rsaChain ++ n ∧
          h = Config.transcriptHash ((s.sec.conn tr).transcript ++ rq ++ Config.encodeMessage spdmChallengeAuth f) ∧
          (t.sec.conn tr).signed = some h ∧ (∃ k, Says s t spdmChallengeAuth (f ++ Config.rsaSign h k)) ∧
          Counts s t pgSec F.SEC_ATT_CNT ∧ DataKept s t) ∧
      (∀ (rq : Bytes) (i : Nat), (rq.getD 3 0).toNat = i → i ∈ blockIndices →
        Gives (.getMeasurements tr false rq) s (fun t =>
          Says s t spdmMeasurements ([BitVec.ofNat 8 i] ++ leBytes 2 (s.block i).length ++ s.block i) ∧ (t.sec.conn tr).signed = none ∧
          Counts s t pgSec F.SEC_ATT_CNT ∧ DataKept s t) ∧
        Gives (.getMeasurements tr true rq) s fun t =>
          ∃ h k, (t.sec.conn tr).signed = some h ∧
            Says s t spdmMeasurements ([BitVec.ofNat 8 i] ++ leBytes 2 (s.block i).length ++ s.block i ++ Config.rsaSign h k) ∧
            Counts s t pgSec F.SEC_ATT_CNT ∧ DataKept s t) ∧
      (∀ h, (s.sec.conn tr).signed = some h →
        Gives (.cosign tr) s fun t => (t.sec.conn tr).cosign = some h ∧ (t.sec.conn tr).ready = false ∧
          Says s t spdmError [BitVec.ofNat 8 errNotReady] ∧ t.regs = s.regs ∧ DataKept s t) ∧
      (∀ h, (s.sec.conn tr).cosign = some h →
        ((s.sec.conn tr).ready = true →
          Gives (.respondIfReady tr) s fun t => (t.sec.conn tr).cosign = none ∧
            (∃ k, Says s t spdmVendor ([0x01] ++ Config.slhSign h k ++ Config.slhChain)) ∧ t.regs = s.regs ∧ DataKept s t) ∧
        ((s.sec.conn tr).ready = false →
          Gives (.respondIfReady tr) s fun t => (t.sec.conn tr).cosign = some h ∧ Says s t spdmError [BitVec.ofNat 8 errNotReady])) ∧
      (∀ rq : Bytes, (∃ i, i < 4 ∧ s.session i = none) →
        Gives (.keyExchange tr rq) s fun t => (∃ i x, i < 4 ∧ s.session i = none ∧ t.session i = some x ∧ x.finished = false ∧
          x.transport = tr ∧ ∀ j, j ≠ i → t.session j = s.session j) ∧ t.out.length = s.out.length + 1 ∧ t.regs = s.regs ∧ DataKept s t)) ∧
    (∀ h, (s.sec.conn tr).cosign = some h →
      Gives (.cosignSignDone tr) s fun t => (t.sec.conn tr).ready = true ∧ (t.sec.conn tr).cosign = some h ∧ t.out = s.out ∧ DataKept s t) ∧
    (s.carries tr = true → s.bit pgSec F.SEC_ID_STAT_ID_VALID = true → (s.sec.conn tr).stage < 3 →
      Gives (.getDigests tr) s fun t => Says s t spdmError [BitVec.ofNat 8 errUnexpected] ∧ t.sec = s.sec ∧ t.regs = s.regs) ∧
    (s.carries tr = true → s.bit pgSec F.SEC_ID_STAT_ID_VALID = false →
      Gives (.getVersion tr) s fun t => Says s t spdmError [BitVec.ofNat 8 errUnspecified] ∧ t.sec = s.sec ∧ t.regs = s.regs) ∧
    (∀ (i : Fin 4) (x : SpdmSession), s.session i = some x → x.transport = tr → Heard s tr 3 →
      Gives (.endSession i) s (fun t => t.session i = none ∧ Says s t spdmEndSession [] ∧ t.regs = s.regs ∧ DataKept s t) ∧
      (x.finished = false →
        Gives (.finish i) s fun t => (∃ y, t.session i = some y ∧ y.finished = true ∧ y.id = x.id ∧
          y.tenant = (if x.doe then s.agentTenant .pcie else none)) ∧ Says s t spdmFinish [] ∧ t.regs = s.regs ∧ DataKept s t) ∧
      (∀ tn : Fin 8, x.finished = true → x.tenant = none → s.tenantBound tn = true →
        Gives (.tenantAttach i tn) s fun t => (∃ y, t.session i = some y ∧ y.finished = true ∧ y.tenant = some (tn : Nat)) ∧
          Says s t spdmVendor [0x02] ∧ t.regs = s.regs ∧ DataKept s t))

open Sys2Proof Sys2Proof.Machine in
/-- R527 to R529, R534, R538. -/
def Obligations.ConfidentialMode : Prop :=
  ∀ (a : Agent) (s : State),
    (s.ready pgSec = true → a ≠ .mgmt →
      (∀ tn, s.agentTenant a = some tn → tn < 8 →
        (∀ p, p < 16 → s.rf (pgFh p) F.FH_CTRL_TENANT = tn → s.rf (pgFh p) F.FH_CTRL_MACSEC_MODE ≠ 0) →
        Gives (.secConfReq a) s fun t => t.confTenants = s.confTenants ||| 2 ^ tn ∧
          (s.confidential = false → t.confidential = true ∧ t.bit pgSec F.SEC_DBG_CTRL_DBG_EN = false ∧
            t.bit pgSec F.SEC_DBG_CTRL_TRACE_EN = false ∧ t.bit pgSec F.SEC_DBG_CTRL_STEP_EN = false ∧
            t.bit pgSec F.SEC_CONF_STAT_DEBUG_LOCKED = true) ∧ DataKept s t) ∧
      (s.agentTenant a = none →
        Gives (.secConfReq a) s fun t => t.confTenants = s.confTenants ∧ t.confidential = s.confidential ∧
          t.bit pgSec F.SEC_ERR_STAT_CONF_DENIED = true ∧ DataKept s t) ∧
      (∀ v : Word,
        (s.confidential = false →
          Gives (.secDbgCtrl a v) s fun t => t.rf pgSec F.SEC_DBG_CTRL_DBG_EN = F.SEC_DBG_CTRL_DBG_EN.of v ∧
            t.rf pgSec F.SEC_DBG_CTRL_TRACE_EN = F.SEC_DBG_CTRL_TRACE_EN.of v ∧ t.rf pgSec F.SEC_DBG_CTRL_STEP_EN = F.SEC_DBG_CTRL_STEP_EN.of v ∧
            DataKept s t) ∧
        (s.confidential = true →
          Gives (.secDbgCtrl a v) s fun t => t.rf pgSec F.SEC_DBG_CTRL_DBG_EN = s.rf pgSec F.SEC_DBG_CTRL_DBG_EN ∧
            t.bit pgSec F.SEC_ERR_STAT_DBG_DENIED = true ∧ DataKept s t)) ∧
      (∀ (g : Fin 512),
        (agentIsFw a = true → (s.granule g).zeroing = false → s.granHeld (s.granule g) = true →
          (∀ p, p < 8 → s.partState p = 0 ∨ s.partTenant p ≠ (s.granule g).tenant) →
          Gives (.granuleRelease a g) s fun t => t.granule g = { s.granule g with zeroing := true } ∧ t.regs = s.regs ∧ DataKept s t) ∧
        (agentIsFw a = false → Gives (.granuleRelease a g) s fun t => t.grans = s.grans ∧ t.bit pgSec F.IND_STAT_IND_ERR = true ∧ DataKept s t)) ∧
      (s.bit pgSec F.SEC_KREQ_CMD_KREQ_BUSY = false →
        Gives (.keyRequest a) s fun t => t.bit pgSec F.SEC_KREQ_CMD_KREQ_BUSY = true ∧
          t.sec.kreq = some (s.agentTenant a, s.rf pgSec F.SEC_KREQ_HI * 2 ^ 32 + s.rf pgSec F.SEC_KREQ_LO * 64) ∧ DataKept s t) ∧
      (s.bit pgSec F.SEC_KREQ_CMD_KREQ_BUSY = true →
        Gives (.keyRequest a) s fun t => t.sec = s.sec ∧ t.bit pgSec F.SEC_ERR_STAT_KREQ_BAD = true ∧ DataKept s t)) ∧
    (s.ready pgSec = true → Gives (.secConfReq .mgmt) s (fun t => t = s) ∧ Gives (.keyRequest .mgmt) s (fun t => t = s)) ∧
    (∀ g : Fin 512, (s.granule g).zeroing = true →
      Gives (.granuleZeroDone g) s fun t => t.granule g = {} ∧
        (∀ x, (g : Nat) * 0x400_0000 ≤ x → x < ((g : Nat) + 1) * 0x400_0000 → t.rdByte x = 0) ∧
        BytesKept s t ((g : Nat) * 0x400_0000) (((g : Nat) + 1) * 0x400_0000) ∧ t.regs = s.regs) ∧
    (∀ tn x, s.sec.kreq = some (tn, x) → x + 128 ≤ dramSize → s.chanReady x = true → s.dramPoisonAt x = false → s.dramPoisonAt (x + 64) = false →
      (keyMalformed (s.rdBytes x 128) = true →
        Gives .keyRequestDone s fun t => t.rdByte (x + 72) = 4 ∧ t.rdBytes (x + 16) 56 = zeros 56 ∧ BytesKept s t (x + 16) (x + 73) ∧
          t.bit pgSec F.SEC_KREQ_CMD_KREQ_BUSY = false ∧ t.bit pgSec F.SEC_ERR_STAT_KREQ_BAD = true ∧ t.sec.kreq = none ∧ t.fhs = s.fhs) ∧
      (∀ k, keyMalformed (s.rdBytes x 128) = false → s.keyDenied (s.rdBytes x 128) tn = false → s.keyOf (s.rdBytes x 128) tn = some k →
        Gives .keyRequestDone s fun t => t.rdByte (x + 72) = 1 ∧ t.rdBytes (x + 16) 56 = zeros 56 ∧ BytesKept s t (x + 16) (x + 73) ∧
          t.bit pgSec F.SEC_KREQ_CMD_KREQ_BUSY = false ∧ Counts s t pgSec F.SEC_KEY_CNT ∧ t.sec.kreq = none))

namespace Sys2Proof.Machine

/-- The temperature, the package power and the cap that an evaluation uses (R545): T_hot in 1/256 °C, powers in 10 mW. -/
def opHot (s : State) : Int := sInt 16 (s.rf pgMgmt F.MGMT_T_HOT_TEMP)
def opCapped (s : State) : Prop := s.cap.1 * 100 < s.pkgPower

/-- The operating point moves to `p` for `reason` (R546): the change is shown, waits for the firmware, and is counted. -/
def OpMoves (s t : State) (p reason : Nat) : Prop :=
  t.point = p ∧ t.rf pgMpwr F.MPWR_STAT_REASON = reason ∧ t.bit pgFwpm F.FWPM_STAT_PENDING = true ∧
    t.bit pgMpwr F.MPWR_ERR_STAT_OP_CHANGED = true ∧ Counts s t pgMpwr F.MPWR_OP_CHG_CNT

/-- A record enters the log buffer under the next SEQ (R548). -/
def Logs (s t : State) (source kind sev data : Nat) : Prop :=
  t.mgmt.seq = (s.mgmt.seq + 1) % 2 ^ 32 ∧ ∃ r : LogRec, r.seq = s.mgmt.seq ∧ r.source = source ∧ r.kind = kind ∧ r.severity = sev ∧
    r.data = data ∧ t.mgmt.buffer = s.mgmt.buffer ++ [r]

/-- One message of the controller leaves (R550). -/
def Replies (s t : State) (code : Nat) (fields : Bytes) : Prop := t.out = s.out ++ [Out.message (Config.encodeMessage code fields)]

end Sys2Proof.Machine

open Sys2Proof Sys2Proof.Machine in
/-- R530, R541 to R547. -/
def Obligations.SensorsAndPower : Prop :=
  ∀ s : State,
    (∀ (i : BitVec 7) (v : BitVec 16),
      (s.mgmt.up = true → isSensor i.toNat = true → (s.mainUp = true ∨ isStandby i.toNat = true) →
        Gives (.sensorSample i v) s fun t => Tab.at t.mgmt.sensors i.toNat none = some v ∧
          (∀ j, j ≠ i.toNat → Tab.at t.mgmt.sensors j none = Tab.at s.mgmt.sensors j none) ∧ DataKept s t) ∧
      (s.mgmt.up = false → Gives (.sensorSample i v) s fun t => t = s)) ∧
    (s.mgmt.up = true → s.mainUp = true →
      (s.point < s.opMax → Gives .opEvaluate s fun t => OpMoves s t (s.point + 1) 3 ∧ DataKept s t) ∧
      (s.opMax ≤ s.point → s.point < 5 → (s.tLim - 3) * 256 ≤ opHot s → Gives .opEvaluate s fun t => OpMoves s t (s.point + 1) 2 ∧ DataKept s t) ∧
      (s.opMax ≤ s.point → s.point < 5 → opHot s < (s.tLim - 3) * 256 → opCapped s →
        Gives .opEvaluate s fun t => OpMoves s t (s.point + 1) (if s.cap.2 then 4 else 1) ∧ DataKept s t) ∧
      (s.opMax < s.point → s.point < 5 → s.pkgPower + allowance s.point * 100 + 1000 ≤ s.cap.1 * 100 → opHot s < (s.tLim - 8) * 256 →
        s.mgmt.lastDown + 62500000 ≤ s.ticks → Gives .opEvaluate s fun t => OpMoves s t (s.point - 1) 0 ∧ DataKept s t) ∧
      (s.opMax = s.point → s.point < 5 → opHot s < (s.tLim - 3) * 256 → ¬opCapped s →
        Gives .opEvaluate s fun t => t.point = s.point ∧ t.rf pgFwpm F.FWPM_STAT_PENDING = s.rf pgFwpm F.FWPM_STAT_PENDING ∧ DataKept s t)) ∧
    (s.fwRuns 1 = true → s.bit pgFwpm F.FWPM_STAT_PENDING = true →
      Gives .fwpmApply s fun t => t.rf pgFwpm F.FWPM_STAT_APPLIED = s.point ∧ t.bit pgFwpm F.FWPM_STAT_PENDING = false ∧
        Counts s t pgFwpm F.FWPM_APPLY_CNT ∧ DataKept s t) ∧
    (s.bit pgFwpm F.FWPM_STAT_PENDING = true →
      Gives .applyLate s fun t => t.bit pgFwpm F.FWPM_ERR_STAT = true ∧ t.bit pgFwpm F.FWPM_STAT_PENDING = true ∧ DataKept s t) ∧
    (∀ ms : List (Nat × Int × Nat),
      (s.confidential = false → Gives (.telemetryWindow ms) s fun t => t = s) ∧
      (∀ i n d, s.confidential = true → ms = [(i, n, d)] →
        Gives (.telemetryWindow ms) s fun t => Tab.at t.sec.coarse i none = some (coarseOf i n d) ∧ t.regs = s.regs ∧ DataKept s t)) ∧
    (∀ (p : Fin 8) (c : Fin 5), s.mgmt.up = true → s.mainUp = true → s.bit pgMgmt F.MGMT_CTRL_LOADDET_EN = true →
      (s.pinRests p = true →
        Gives (.loadDetectTest [(p, c)]) s fun t => bits (t.rf pgMgmt F.MGMT_PIN_LOAD) (3 * p + 2) (3 * p) = c ∧
          (3 ≤ (c : Nat) → t.bit pgMgmt F.MGMT_ERR_STAT_PIN_FAULT = true) ∧ DataKept s t) ∧
      (s.pinRests p = false → Gives (.loadDetectTest [(p, c)]) s fun t => t = s)) ∧
    (s.mgmt.up = true → s.mainUp = true → s.bit pgMgmt F.MGMT_CTRL_SNAP_EN = true → s.snapRuns s.snapGen = false → s.ready pgPg = true →
      s.works pgPg = true → (s.unitOwn (.gen s.snapGen) = 0 ∨ s.unitOwn (.gen s.snapGen) = 2) → 10000 ≤ s.rf pgMgmt F.MGMT_SNAP_PERIOD →
      (∀ k : Fin 8, k ≠ s.snapGen → s.pgArmed k = true → (s.pg k).func ≠ 2) →
      Gives .snapTriggerCheck s fun t => t.snapRuns s.snapGen = true ∧ DataKept s t) ∧
    (s.bit pgMgmt F.MGMT_CTRL_SNAP_EN = false → Gives .snapTriggerCheck s fun t => t = s)

open Sys2Proof Sys2Proof.Machine in
/-- R540, R548 to R551, R557. -/
def Obligations.LogAndManagement : Prop :=
  ∀ s : State,
    (∀ r : LogIn, s.mgmt.up = true →
      (s.rf pgMgmt F.MGMT_LOG_LEVEL ≤ r.severity → s.mgmt.buffer.length < 256 →
        Gives (.logIntake r) s fun t => Logs s t r.source.toNat r.kind.toNat r.severity r.data.toNat ∧ t.regs = s.regs ∧ DataKept s t) ∧
      ((r.severity : Nat) < s.rf pgMgmt F.MGMT_LOG_LEVEL → Gives (.logIntake r) s fun t => t = s)) ∧
    (∀ (q : Fin 10) (r : FaultRec) rs, Tab.at s.faultQ q [] = r :: rs → s.fwRuns (if (q : Nat) < 8 then 3 + q else if (q : Nat) = 8 then 2 else 0) = true →
      Gives (.faultRecordForward q) s fun t => Tab.at t.faultQ q [] = rs ∧ (∀ k, k ≠ (q : Nat) → Tab.at t.faultQ k [] = Tab.at s.faultQ k []) ∧
        (s.mgmt.up = true → s.rf pgMgmt F.MGMT_LOG_LEVEL = 0 → s.mgmt.buffer.length < 256 → ∃ sev data, Logs s t r.source 1 sev data) ∧ DataKept s t) ∧
    (∀ n : Fin 3, s.mgmt.up = true →
      Gives (.logFlashWrite n) s fun t => t.mgmt.buffer = [] ∧
        ((n : Nat) < 2 → t.mgmt.flash = s.mgmt.buffer.foldl putRecord s.mgmt.flash ∧ t.regs = s.regs) ∧
        ((n : Nat) = 2 → t.mgmt.flash = s.mgmt.buffer.foldl putRecord (nextSector s.mgmt.flash) ∧
          t.bit pgMgmt F.MGMT_ERR_STAT_FLASH_FAIL = true) ∧ DataKept s t) ∧
    (∀ (a : Agent) (v : Word), s.ready pgMgmt = true →
      Gives (.mgmtLogRd a v) s fun t => t.rf pgMgmt F.MGMT_LOG_RD = v.toNat ∧ t.mgmt = s.mgmt ∧ DataKept s t) ∧
    (s.mgmt.up = true →
      (∀ e : BitVec 8, Gives (.mctpControl (.setEid e)) s fun t => t.mgmt = { s.mgmt with eid := e.toNat } ∧ Replies s t 0x0002 [e] ∧
        t.regs = s.regs ∧ DataKept s t) ∧
      (∀ w : BitVec 9, Gives (.pldmMessage (.setCap w)) s fun t => t.rf pgMpwr F.MPWR_PLDM_CAP = w.toNat ∧ Replies s t 0x0231 [0] ∧ DataKept s t) ∧
      (∀ (i : BitVec 7) v, isSensor i.toNat = true → s.shownSensor i.toNat = some v →
        Gives (.pldmMessage (.readSensor i)) s fun t => Replies s t 0x0211 ([0] ++ leBytes 2 v.toNat) ∧ t.regs = s.regs ∧ DataKept s t) ∧
      (∀ q : Word, Gives (.logReadRequest q) s fun t =>
        Replies s t 0x7E00 ((List.range 8).flatMap fun k => (s.logShown (q.toNat + k)).getD (ones 32)) ∧ t.mgmt = s.mgmt ∧ DataKept s t) ∧
      (∀ (im : Bytes) (v : Word),
        (∀ r, s.validRecord = some r → 16608 ≤ im.length →
          imageKeysOk r (im.take (im.length - 16608)) (im.drop (im.length - 16608)) = true → leNat (slice r 84 4) ≤ v.toNat →
          Gives (.pldmFirmwareUpdate im v) s fun t => t.mgmt.staged = true ∧ t.bankVer (1 - s.bank) = v.toNat ∧ t.bank = s.bank ∧
            Replies s t 0x0512 [0] ∧ t.regs = s.regs ∧ DataKept s t) ∧
        (s.validRecord = none →
          Gives (.pldmFirmwareUpdate im v) s fun t => t.mgmt.staged = false ∧ t.bit pgMgmt F.MGMT_ERR_STAT_UPD_BAD = true ∧
            Replies s t 0x0512 [1] ∧ DataKept s t)) ∧
      (s.mgmt.staged = true →
        Gives .activateFirmware s fun t => t.mgmt.up = false ∧ t.mgmt.activating = true ∧ t.bank = (1 - s.bank) % 2 ∧ t.ready pgMgmt = false ∧
          Replies s t 0x051A [0] ∧ DataKept s t)) ∧
    (∀ m : Bytes,
      (m.getD 1 0 = 0x84 → exec (.spdmRelay m) s = exec (.getVersion .mctp) s) ∧
      (m.getD 1 0 = 0x83 → exec (.spdmRelay m) s = exec (.challenge .mctp m) s) ∧
      (m.getD 1 0 = 0xFE → exec (.spdmRelay m) s = exec (.cosign .mctp) s) ∧
      (m.getD 1 0 = 0x00 → Heard s .mctp 0 →
        Gives (.spdmRelay m) s fun t => Says s t spdmError [BitVec.ofNat 8 errUnexpected] ∧ t.regs = s.regs ∧ DataKept s t)) ∧
    (s.pwr.mgmtRst = false → s.mgmt.up = false →
      Gives (.mgmtStart true) s (fun t => t.mgmt.up = true ∧ t.mgmt.activating = false ∧ t.ready pgMgmt = true ∧ t.ready pgMpwr = true ∧
        t.bit pgMpwr F.MPWR_STAT_SPRINT_INHIBIT = false ∧ DataKept s t) ∧
      Gives (.mgmtStart false) s fun t => t = s) ∧
    (s.mgmt.activating = true → s.pwr.mgmtRst = false →
      Gives .mgmtUpdateRollback s fun t => t.bank = (1 - s.bank) % 2 ∧ t.mgmt.up = true ∧ t.mgmt.staged = false ∧
        t.bit pgMgmt F.MGMT_ERR_STAT_UPD_ROLLBACK = true ∧ DataKept s t)

namespace Sys2Proof.Machine

/-- The floe was fenced (R560): its units start afresh with cleared memories, other memory is kept, and the fence is shown and counted. -/
def Fenced (s t : State) (f : Nat) : Prop :=
  t.floe f = {} ∧ (∀ x, floeBase f ≤ x → x < floeBase f + 0x100_0000 → t.rdByte x = 0) ∧
    BytesKept s t (floeBase f) (floeBase f + 0x100_0000) ∧ (∀ k, k ≠ f → t.floe k = s.floe k) ∧
    t.bit (pgCc (f / 8)) F.CC_ERR_STAT_FENCED = true ∧ Counts s t (pgCc (f / 8)) F.CC_FENCE_CNT

/-- The substitution by the cluster's spare begins (R560). -/
def SubstBegins (t : State) (f : Nat) : Prop :=
  t.bit (pgCc (f / 8)) F.CC_STAT_SUBST = true ∧ t.rf (pgCc (f / 8)) F.CC_STAT_SUBST_FLOE = f % 8 ∧
    t.bit (pgCc (f / 8)) F.CC_STAT_SPARE_AVAIL = false ∧ (t.cluster (f / 8)).phase = .fenced

/-- No substitution is in progress in the cluster, and the floe is not LOST. -/
def NoSubst (s : State) (f : Nat) : Prop :=
  s.bit (pgCc (f / 8)) F.CC_STAT_SUBST = false ∧ (s.rf (pgCc (f / 8)) F.CC_STAT_LOST).testBit (f % 8) = false

end Sys2Proof.Machine

open Sys2Proof Sys2Proof.Machine in
/-- R558 to R564, R566, R568. -/
def Obligations.FencesAndSpares : Prop :=
  ∀ (c j : Fin 8) (s : State),
    (∀ a : Agent, s.ready (pgCc c) = true → 
      (NoSubst s (8 * c + j) → s.bit (pgCc c) F.CC_STAT_SPARE_AVAIL = true →
        Gives (.fence a c j) s fun t => Fenced s t (8 * c + j) ∧ SubstBegins t (8 * c + j)) ∧
      (NoSubst s (8 * c + j) → s.bit (pgCc c) F.CC_STAT_SPARE_AVAIL = false →
        Gives (.fence a c j) s fun t => Fenced s t (8 * c + j) ∧ (t.rf (pgCc c) F.CC_STAT_LOST).testBit j = true ∧
          t.bit (pgCc c) F.CC_ERR_STAT_FLOE_LOST = true) ∧
      (s.floeIsolated (8 * c + j) = true →
        Gives (.fence a c j) s fun t => t.floes = s.floes ∧ t.bit (pgCc c) F.CC_ERR_STAT_FENCE_DENIED = true ∧ DataKept s t) ∧
      ((s.cluster c).phase = .mapped →
        Gives (.restore a c) s fun t => (t.cluster c).phase = .restoring ∧ t.regs = s.regs ∧ t.floes = s.floes ∧ DataKept s t)) ∧
    (∀ f : Fin 64, (f : Nat) = 8 * c + j →
      (s.bit (pgCc c) F.CC_CTRL_AUTO_FENCE = false →
        Gives (.handshakeTimeout f) s (fun t => t.bit (pgCc c) F.CC_ERR_STAT_FLOE_FATAL = true ∧ t.floes = s.floes ∧ DataKept s t) ∧
        ∀ k : FatalCause, Gives (.floeFatal f k) s fun t => t.bit (pgCc c) F.CC_ERR_STAT_FLOE_FATAL = true ∧ t.floes = s.floes ∧ DataKept s t) ∧
      (s.bit (pgCc c) F.CC_CTRL_AUTO_FENCE = true → NoSubst s f → s.bit (pgCc c) F.CC_STAT_SPARE_AVAIL = true →
        Gives (.handshakeTimeout f) s (fun t => t.bit (pgCc c) F.CC_ERR_STAT_FLOE_FATAL = true ∧ Fenced s t f ∧ SubstBegins t f) ∧
        ∀ k : FatalCause, Gives (.floeFatal f k) s fun t => t.bit (pgCc c) F.CC_ERR_STAT_FLOE_FATAL = true ∧ Fenced s t f ∧ SubstBegins t f)) ∧
    ((s.cluster c).phase = .fenced →
      (s.floePart (s.substFloe c) = none →
        Gives (.spareMapDone c) s fun t => (t.cluster c).phase = .idle ∧ t.bit (pgCc c) F.CC_STAT_SUBST = false ∧
          t.bit (pgCc c) F.CC_ERR_STAT_SUBST_DONE = true ∧ Counts s t (pgCc c) F.CC_SUBST_CNT ∧ t.ready (pgGaff (s.substFloe c)) = true ∧ DataKept s t) ∧
      ((s.floePart (s.substFloe c)).isSome = true →
        Gives (.spareMapDone c) s fun t => (t.cluster c).phase = .mapped ∧ t.regs = s.regs ∧ DataKept s t)) ∧
    ((s.cluster c).phase = .restoring →
      (∀ u, s.restoreImage (s.substFloe c) (((s.floePart (s.substFloe c)).map s.partTenant).getD 0) = some u →
        Gives (.restoreComplete c) s fun t => (t.cluster c).phase = .idle ∧ t.bit (pgCc c) F.CC_STAT_SUBST = false ∧
          t.bit (pgCc c) F.CC_ERR_STAT_SUBST_DONE = true ∧ t.mem = u.mem ∧ t.tags = u.tags) ∧
      (s.restoreImage (s.substFloe c) (((s.floePart (s.substFloe c)).map s.partTenant).getD 0) = none →
        Gives (.restoreComplete c) s fun t => (t.cluster c).phase = .idle ∧ t.bit (pgCc c) F.CC_STAT_SUBST = false ∧
          t.bit (pgCc c) F.CC_ERR_STAT_SUBST_FAIL = true ∧ t.bit (pgCc c) F.CC_ERR_STAT_FLOE_LOST = true ∧ DataKept s t)) ∧
    (s.enabled (pgSer c) = true → s.bit (pgSer c) F.PAGE_STAT_PENDING_EN = false →
      Gives (.seracEngineFence c) s fun t => t.enabled (pgSer c) = false ∧ t.shutting (pgSer c) = s.pageBusy (pgSer c) ∧ t.sers = s.sers ∧
        DataKept s t)

namespace Sys2Proof.Machine

/-- The units of the data and control planes are at rest and the firmware is stopped (R576). -/
def UnitsReset (t : State) : Prop :=
  t.floes = [] ∧ t.hals = [] ∧ t.mst = {} ∧ t.mor = {} ∧ t.sers = [] ∧ t.fhs = [] ∧ t.shrs = [] ∧ t.fw = {} ∧ t.pwr.cores = 0 ∧
    ∀ f, f < 64 → t.ready (pgGaff f) = false

/-- The bytes of DRAM keep their values (R462). -/
def DramKept (s t : State) : Prop := ∀ x, x < dramSize → t.rdByte x = s.rdByte x

/-- State that the boot ROM starts in, by BOOTSRC (R578, R580): 1 fetching, 0 waiting for SYS_BOOT_CMD, 5 recovery. -/
def bootState (src : Nat) : Nat := if src < 2 then 1 else if src = 2 then 0 else 5

end Sys2Proof.Machine

open Sys2Proof Sys2Proof.Machine in
/-- R443, R540, R555, R575 to R578, R581, R589, R590. -/
def Obligations.ResetPins : Prop :=
  ∀ s : State,
    (s.pwr.porst = false →
      Gives .porstNAssert s fun t => UnitsReset t ∧ t.pwr.porst = true ∧ t.bit pgSys F.SYS_RESET_CAUSE_POR = true ∧ t.fwldState = 0) ∧
    (∀ (top : Bool) (src : BitVec 2), s.pwr.porst = true → s.pwr.railsDown = false →
      Gives (.porstNRelease top src) s fun t => t.pwr.porst = false ∧ t.rf pgSys F.SYS_STRAP_FWTOP = top.toNat ∧
        t.rf pgSys F.SYS_STRAP_BOOTSRC = src.toNat ∧ t.pooled = top ∧ t.rf pgSys F.SYS_BOOT_STAT_STATE = bootState src.toNat ∧
        t.rf pgSys F.SYS_BOOT_STAT_CAUSE = 0 ∧ DataKept s t) ∧
    (s.mainHeld = false →
      Gives .sysrstNAssert s (fun t => UnitsReset t ∧ DramKept s t ∧ t.pwr.sysrst = true ∧ t.bit pgSys F.SYS_RESET_CAUSE_SYSRST_PIN = true ∧
        t.fwldState = 0 ∧ ∀ i, i < 4 → (t.timeBase i).raw = (s.timeBase i).raw) ∧
      ∀ (a : Agent) (v : Word), a ≠ .mgmt → s.ready pgSys = true →
        (F.SYS_RST_CMD_KEY.of v = 0xA5C3 → F.SYS_RST_CMD_WARM.of v = 1 →
          Gives (.warm a v) s fun t => UnitsReset t ∧ DramKept s t ∧ t.pwr.sysrst = false ∧ t.bit pgSys F.SYS_RESET_CAUSE_WARM_CMD = true ∧
            ∀ i, i < 4 → (t.timeBase i).raw = (s.timeBase i).raw) ∧
        (F.SYS_RST_CMD_KEY.of v ≠ 0xA5C3 →
          Gives (.warm a v) s fun t => t.floes = s.floes ∧ t.mst = s.mst ∧ t.pwr = s.pwr ∧ t.bit pgSys F.SYS_ERR_STAT_CMD_KEY_BAD = true ∧
            DataKept s t)) ∧
    (s.pwr.sysrst = true →
      Gives .sysrstNRelease s fun t => t.pwr.sysrst = false ∧
        t.rf pgSys F.SYS_BOOT_STAT_STATE = bootState (s.rf pgSys F.SYS_STRAP_BOOTSRC) ∧
        t.rf pgFwld F.FWLD_TOPO = s.rf pgSys F.SYS_STRAP_FWTOP ∧ DataKept s t) ∧
    (s.pwr.mgmtRst = false →
      Gives .mgmtRstNAssert s fun t => t.pwr.mgmtRst = true ∧ t.mgmt.up = false ∧ t.ready pgMgmt = false ∧ t.point = s.point ∧
        t.bank = s.bank ∧ t.floes = s.floes ∧ t.mst = s.mst ∧ DataKept s t) ∧
    (∀ x : BitVec 3, s.pwr.mgmtRst = true →
      Gives (.mgmtRstNRelease x) s fun t => t.pwr.mgmtRst = false ∧ t.rf pgSys F.SYS_STRAP_MGMT_ADDR = x.toNat ∧ DataKept s t) ∧
    (Gives (.pciePerstN true) s (fun t => t.pwr.perst = true ∧ t.pci = {} ∧ t.bit pgPcie F.PCI_STAT_LINK_UP = false ∧ DataKept s t) ∧
      Gives (.pciePerstN false) s (fun t => t.pwr.perst = false ∧ t.regs = s.regs ∧ t.pci = s.pci ∧ DataKept s t)) ∧
    (∀ gr : ReadyGroup, s.groupCan gr = true → (∀ g, s.indQueue g = []) →
      Gives (.blockReady gr) s fun t => (∀ g ∈ s.groupPages gr, t.ready g = true) ∧ t.mem = s.mem) ∧
    (∀ gr : ReadyGroup, s.groupCan gr = false → Gives (.blockReady gr) s fun t => t = s)

open Sys2Proof Sys2Proof.Machine in
/-- R572, R573, R579, R580, R582, R589. -/
def Obligations.SuppliesAndBoot : Prop :=
  ∀ s : State,
    (s.pwr.porst = false → s.pwr.brownout = false →
      Gives .brownout s fun t => UnitsReset t ∧ t.pwr.brownout = true ∧ t.bit pgSys F.SYS_RESET_CAUSE_BROWNOUT = true ∧
        t.confidential = s.confidential ∧ t.confTenants = s.confTenants) ∧
    (∀ (top : Bool) (src : BitVec 2), s.pwr.brownout = true → s.pwr.railsDown = false →
      Gives (.brownoutRestart top src) s fun t => t.pwr.brownout = false ∧ t.rf pgSys F.SYS_STRAP_BOOTSRC = src.toNat ∧ t.pooled = top ∧
        t.rf pgSys F.SYS_BOOT_STAT_STATE = bootState src.toNat ∧ DataKept s t) ∧
    Gives .seqErr s (fun t => t.bit pgSys F.SYS_RESET_CAUSE_SEQ_ERR = true ∧ t.floes = s.floes ∧ DataKept s t) ∧
    (s.pwr.trip = false →
      Gives .thermtrip s fun t => t.pwr.trip = true ∧ t.pwr.stopped = true ∧ t.bit pgSys F.SYS_RESET_CAUSE_THERMTRIP = true ∧ DataKept s t) ∧
    (s.pwr.railsDown = true → (s.pwr.porst = true ∨ s.pwr.brownout = true) →
      Gives .mainRailsUp s fun t => t.pwr = { s.pwr with railsDown := false, stopped := false } ∧ t.regs = s.regs ∧ DataKept s t) ∧
    ((s.pwr.porst = true ∨ s.pwr.brownout = true ∨ s.pwr.trip = true) →
      Gives .mainRailsDown s fun t => t.pwr = { s.pwr with railsDown := true } ∧ t.regs = s.regs ∧ DataKept s t) ∧
    (s.pwr.porst = false → s.pwr.brownout = false → s.pwr.trip = false → Gives .mainRailsDown s fun t => t = s) ∧
    Gives .standbyPowerLoss s (fun t => t.pwr.porst = true ∧ t.pwr.railsDown = true ∧ t.mgmt.up = false ∧ t.mgmt.flash = s.mgmt.flash ∧
      t.mgmt.seq = s.mgmt.seq ∧ t.regs = [] ∧ t.floes = [] ∧ t.mst = {}) ∧
    (∀ (a : Agent) (v : Word), s.ready pgSys = true → F.SYS_BOOT_CMD.of v = 1 → s.rf pgSys F.SYS_STRAP_BOOTSRC = 2 →
      ((s.rf pgSys F.SYS_BOOT_STAT_STATE = 0 ∨ s.rf pgSys F.SYS_BOOT_STAT_STATE = 4) → s.rf pgSys F.SYS_BOOT_LEN ≤ 8 * 2 ^ 20 →
        Gives (.sysBootCmd a v) s fun t => t.rf pgSys F.SYS_BOOT_STAT_STATE = 1 ∧
          t.pwr.loader = s.imageBytes (s.rf pgSys F.SYS_BOOT_SRC_HI * 2 ^ 32 + s.rf pgSys F.SYS_BOOT_SRC_LO * 64) (s.rf pgSys F.SYS_BOOT_LEN) ∧
          DataKept s t) ∧
      (s.rf pgSys F.SYS_BOOT_STAT_STATE = 1 →
        Gives (.sysBootCmd a v) s fun t => t.bit pgSys F.SYS_ERR_STAT_BOOT_BUSY = true ∧ t.pwr = s.pwr ∧ DataKept s t)) ∧
    (∀ (im : Bytes) (ok : Bool), s.mainHeld = false → s.rf pgSys F.SYS_BOOT_STAT_STATE = 1 → s.rf pgSys F.SYS_STRAP_BOOTSRC < 2 →
      (s.loaderCause im ok = 0 →
        Gives (.bootFetchDone im ok) s fun t => t.pwr.cores = 1 ∧ t.rf pgSys F.SYS_BOOT_STAT_STATE = 3 ∧ t.pwr.loader = im ∧ DataKept s t) ∧
      (s.loaderCause im ok ≠ 0 →
        Gives (.bootFetchDone im ok) s fun t => t.pwr.cores = s.pwr.cores ∧ t.rf pgSys F.SYS_BOOT_STAT_STATE = 4 ∧
          t.rf pgSys F.SYS_BOOT_STAT_CAUSE = s.loaderCause im ok ∧ t.bit pgSys F.SYS_ERR_STAT_LOADER_BAD = true ∧ DataKept s t)) ∧
    (∀ v : Word, s.ready pgSys = true →
      Gives (.sysAppStart (.app 0) v) s (fun t => t.pwr.cores = s.pwr.cores ||| (2 * (s.rf pgSys F.SYS_APP_START ||| F.SYS_APP_START.of v)) ∧
        DataKept s t) ∧
      ∀ k : Fin 16, k ≠ 0 → Gives (.sysAppStart (.app k) v) s fun t => t = s)

namespace Sys2Proof.Machine

/-- An address that no unit has (R41, R42): outside the five ranges, in a page of register space where no page stands, or in a gap of a floe
window. -/
def Unpopulated (x : Nat) : Prop :=
  placeOf x = .none ∧ (0x10_0000_0000 ≤ x → x < 0x10_1000_0000 → pageOf ((x - 0x10_0000_0000) / 0x1000) = none)

/-- UNMAPPED is set, SYS_FAB_ERR_ADDR holds an address of the access, and no other page, no memory and no unit of the data plane changes. -/
def OnlyUnmapped (s t : State) (x n : Nat) : Prop :=
  t.bit pgFab F.SYS_FAB_ERR_STAT_UNMAPPED = true ∧
    (∃ e, x ≤ e ∧ e < x + n ∧ t.rf pgFab F.SYS_FAB_ERR_ADDR = e % 2 ^ 32 ∧ t.rf pgFab F.SYS_FAB_ERR_ADDR_HI_ADDR = e / 2 ^ 32) ∧
    (∀ g off, g ≠ pgFab → off < 0x1000 → t.word g off = s.word g off) ∧ DataKept s t ∧ t.floes = s.floes ∧ t.hals = s.hals ∧ t.mst = s.mst

end Sys2Proof.Machine

open Sys2Proof Sys2Proof.Machine in
/-- R42, whole: reads, writes, the flag, the address, and completion. -/
def Obligations.UnmappedAccess : Prop :=
  ∀ (a : Agent) (x : BitVec 40) (z : Size) (s : State), Unpopulated x.toNat → x.toNat % sizeBytes z = 0 →
    Gives (.memoryAccess a x (.read z) {}) s (fun t => Answers t (ones (sizeBytes z)) false ∧ OnlyUnmapped s t x.toNat (sizeBytes z)) ∧
    ∀ bs : Bytes, Gives (.memoryAccess a x (.write z bs) {}) s fun t => OnlyUnmapped s t x.toNat (sizeBytes z)

open Sys2Proof Sys2Proof.Machine in
/-- R499, whole. -/
def Obligations.LoadAndResets : Prop :=
  ∀ s : State,
    (∀ a : Agent, EmuServed s 0 →
      (s.fwldState ≠ 0 →
        Gives (.load a) s fun t => t.bit pgFwld F.FWLD_ERR_STAT_LOAD_BUSY = true ∧ t.fwldState = s.fwldState ∧ t.fw.image = s.fw.image ∧
          t.fw.next = s.fw.next ∧ t.fw.nextCause = s.fw.nextCause ∧ t.fw.updating = s.fw.updating ∧ t.fw.health = s.fw.health ∧ DataKept s t) ∧
      (s.fwldState = 0 → Gives (.load a) s fun t => t.fwldState = 1)) ∧
    (s.pwr.porst = false →
      Gives .porstNAssert s fun t => t.fwldState = 0 ∧ t.fw.image = [] ∧ t.fw.next = [] ∧ ∀ k, t.fwRuns k = false) ∧
    (s.mainHeld = false →
      Gives .sysrstNAssert s fun t => t.fwldState = 0 ∧ t.fw.image = [] ∧ t.fw.next = [] ∧ ∀ k, t.fwRuns k = false) ∧
    Gives .mgmtRstNAssert s (fun t => t.fw = s.fw ∧ ∀ g off, (g = pgFwld ∨ g = pgFwctl ∨ g = pgFwpm) → off < 0x1000 → t.word g off = s.word g off)

namespace Sys2Proof.Machine

/-- The nearest whole number to `n / d`, the even one where two are as near (R49). -/
def halfEven (n d : Nat) : Nat := if 2 * (n % d) > d ∨ (2 * (n % d) = d ∧ n / d % 2 = 1) then n / d + 1 else n / d

/-- The accumulator over 2^k, rounded as R216 says for RND. -/
def ashDown (rnd : Bool) (a : Int) (k : Nat) : Int :=
  if rnd then (if a < 0 then -(halfEven a.natAbs (2 ^ k) : Int) else (halfEven a.natAbs (2 ^ k) : Int)) else a / 2 ^ k

/-- The exact value of ASH, whose shift is the low six bits of the immediate, signed (R211). -/
def ashExact (o : SparA) (a : Int) : Int :=
  if 0 ≤ sInt 6 o.imm.toNat then a * 2 ^ (sInt 6 o.imm.toNat).toNat else ashDown o.rnd a (-(sInt 6 o.imm.toNat)).toNat

/-- An A-class instruction whose exact result is written to T(RD) in the range of Q15 (R213). -/
def Q15Write (i : Fin 64 → SparA → Instr) (v : SparSt → SparA → Int) : Prop :=
  ∀ (f : Fin 64) (o : SparA) (s : State), SparIssues s f →
    Gives (i f o) s fun t =>
      (-32768 ≤ v (s.spar f) o → v (s.spar f) o ≤ 32767 →
        (t.spar f).ti o.rd.toNat = v (s.spar f) o ∧ t.bit (pgSpar f) F.SPAR_NUM_STAT_OUT_SAT = s.bit (pgSpar f) F.SPAR_NUM_STAT_OUT_SAT ∧
          t.bit (pgSpar f) F.SPAR_NUM_STAT_OUT_OVF = s.bit (pgSpar f) F.SPAR_NUM_STAT_OUT_OVF) ∧
      (v (s.spar f) o < -32768 ∨ 32767 < v (s.spar f) o →
        (t.spar f).ti o.rd.toNat = (if o.sat then (if v (s.spar f) o < 0 then -32768 else 32767) else sInt 16 (lowBits 16 (v (s.spar f) o))) ∧
          t.bit (pgSpar f) (if o.sat then F.SPAR_NUM_STAT_OUT_SAT else F.SPAR_NUM_STAT_OUT_OVF) = true ∧
          Counts s t (pgSpar f) F.SPAR_OUT_OVF_CNT ∧ ((s.spar f).turn = none → (t.spar f).v = true))

end Sys2Proof.Machine

open Sys2Proof Sys2Proof.Machine in
/-- R213 and R216, whole; ABS of -32,768 is 32,768 and so out of range. -/
def Obligations.SparExactResults : Prop :=
  Q15Write .sparAdd (fun p o => p.ti o.ra.toNat + p.ti o.rb.toNat) ∧ Q15Write .sparSub (fun p o => p.ti o.ra.toNat - p.ti o.rb.toNat) ∧
  Q15Write .sparAbs (fun p o => if p.ti o.ra.toNat < 0 then -(p.ti o.ra.toNat) else p.ti o.ra.toNat) ∧
  Q15Write .sparNeg (fun p o => -(p.ti o.ra.toNat)) ∧ Q15Write .sparAddi (fun p o => p.ti o.ra.toNat + o.imm.toInt) ∧
  ∀ (f : Fin 64) (o : SparA) (s : State), SparIssues s f →
    Gives (.ash f o) s fun t =>
      (-(2 ^ 39) ≤ ashExact o ((s.spar f).acc o.acc) → ashExact o ((s.spar f).acc o.acc) < 2 ^ 39 →
        (t.spar f).acc o.acc = ashExact o ((s.spar f).acc o.acc) ∧
          t.bit (pgSpar f) F.SPAR_NUM_STAT_ACC_OVF = s.bit (pgSpar f) F.SPAR_NUM_STAT_ACC_OVF) ∧
      (ashExact o ((s.spar f).acc o.acc) < -(2 ^ 39) ∨ 2 ^ 39 ≤ ashExact o ((s.spar f).acc o.acc) →
        (t.spar f).acc o.acc = (if o.sat then (if ashExact o ((s.spar f).acc o.acc) < 0 then -(2 ^ 39) else 2 ^ 39 - 1)
          else sInt 40 (lowBits 40 (ashExact o ((s.spar f).acc o.acc)))) ∧
          t.bit (pgSpar f) F.SPAR_NUM_STAT_ACC_OVF = true ∧ Counts s t (pgSpar f) F.SPAR_ACC_OVF_CNT ∧
          ((s.spar f).turn = none → (t.spar f).v = true))

open Sys2Proof Sys2Proof.Machine in
/-- The step of the block; that an empty queue lets one tick pass is the model's own choice (log entry 1). -/
def Obligations.StepRunsTheFrontCommand : Prop :=
  (∀ (c : Instr) (rest : List Instr) (s : State), s.pending = c :: rest → step s = exec c { s with pending := rest }) ∧
  ∀ s : State, s.pending = [] → ∃ t, step s = .next t ∧ t.ticks = s.ticks + 1 ∧ t.pending = [] ∧ DataKept s t ∧ t.floes = s.floes ∧
    t.hals = s.hals ∧ t.mst = s.mst ∧ t.mor = s.mor ∧ t.mgmt = s.mgmt ∧ t.fw = s.fw

open Sys2Proof Sys2Proof.Machine in
/-- The queue belongs to the step alone. -/
def Obligations.ExecKeepsTheQueue : Prop := ∀ (c : Instr) (s t : State), exec c s = .next t → t.pending = s.pending

open Sys2Proof Sys2Proof.Machine in
/-- R12, R466: values of the Reset columns; memory that reads as zero where nothing is listed is the model's own choice (log entry 4). -/
def Obligations.ResetState : Prop :=
  State.reset.Sound ∧ State.reset.pending = [] ∧ State.reset.mem = [] ∧
  (∀ g, (pageOf g).isSome = true → State.reset.enabled g = true ∧ State.reset.ready g = false ∧ State.reset.word g 0x010 = 0 ∧
    State.reset.word g 0x014 = 0xFFFFFFFF) ∧
  (∀ i, i < 4 → (State.reset.timeBase i).count = 0) ∧
  ∀ f, f < 64 → (State.reset.floe f).exec = none ∧ (State.reset.floe f).core.phase = .idle ∧ (State.reset.floe f).spar.phase = .idle

open Sys2Proof Sys2Proof.Machine in
/-- R134, R392, R557: the ranges; the canonical forms are the model's own. -/
def Obligations.EveryStepKeepsSoundness : Prop := ∀ s t : State, s.Sound → step s = .next t → t.Sound
end

