-- ==== Sys2Proof/Laws/Tab.lean ====
section
/-! SUPPORT. Laws of sparse tables: reading after writing, and the canonical form that every operation keeps. -/

namespace Sys2Proof

variable {α : Type}

theorem Tab.get_drop_same (d : Nat → α) (t : Tab α) (k : Nat) : Tab.get d (Tab.drop t k) k = d k := by
  induction t with
  | nil => rfl
  | cons e t ih =>
    obtain ⟨j, v⟩ := e
    by_cases h : j = k <;> simp [Tab.drop, Tab.get, h, ih]

theorem Tab.get_drop_other (d : Nat → α) (t : Tab α) {k i : Nat} (hi : i ≠ k) : Tab.get d (Tab.drop t k) i = Tab.get d t i := by
  induction t with
  | nil => rfl
  | cons e t ih =>
    obtain ⟨j, v⟩ := e
    by_cases h : j = k
    · have : j ≠ i := fun hj => hi (hj.symm.trans h)
      simp only [Tab.drop, h, if_true, Tab.get, ih]
      simp [h ▸ this]
    · simp only [Tab.drop, h, if_false, Tab.get, ih]

theorem Tab.mem_drop {t : Tab α} {k : Nat} {e : Nat × α} (h : e ∈ Tab.drop t k) : e ∈ t ∧ e.1 ≠ k := by
  induction t with
  | nil => simp [Tab.drop] at h
  | cons a t ih =>
    obtain ⟨j, v⟩ := a
    by_cases hj : j = k
    · simp only [Tab.drop, hj, if_true] at h
      exact ⟨List.mem_cons_of_mem _ (ih h).1, (ih h).2⟩
    · simp only [Tab.drop, hj, if_false, List.mem_cons] at h
      rcases h with rfl | h
      · exact ⟨List.mem_cons_self, hj⟩
      · exact ⟨List.mem_cons_of_mem _ (ih h).1, (ih h).2⟩

theorem Tab.mem_ins {t : Tab α} {k : Nat} {v : α} {e : Nat × α} (h : e ∈ Tab.ins t k v) : e = (k, v) ∨ e ∈ t := by
  induction t with
  | nil => simp [Tab.ins] at h; exact Or.inl h
  | cons a t ih =>
    obtain ⟨j, w⟩ := a
    by_cases hj : k < j
    · simp only [Tab.ins, hj, if_true, List.mem_cons] at h ⊢; tauto
    · simp only [Tab.ins, hj, if_false, List.mem_cons] at h ⊢
      rcases h with h | h
      · exact Or.inr (Or.inl h)
      · rcases ih h with h | h <;> tauto

section
variable [DecidableEq α] (d : Nat → α)

theorem Tab.wf_cons {j : Nat} {v : α} {t : Tab α} :
    Tab.wf d ((j, v) :: t) = true ↔ v ≠ d j ∧ (∀ e ∈ t, j < e.1) ∧ Tab.wf d t = true := by
  simp [Tab.wf, and_assoc]

theorem Tab.wf_tail {e : Nat × α} {t : Tab α} (h : Tab.wf d (e :: t) = true) : Tab.wf d t = true := ((Tab.wf_cons d).1 h).2.2

theorem Tab.wf_filter {t : Tab α} (p : Nat × α → Bool) (h : Tab.wf d t = true) : Tab.wf d (t.filter p) = true := by
  induction t with
  | nil => rfl
  | cons e t ih =>
    obtain ⟨j, v⟩ := e
    have h' := (Tab.wf_cons d).1 h
    by_cases hp : p (j, v) = true
    · rw [List.filter_cons_of_pos hp, Tab.wf_cons]
      exact ⟨h'.1, fun e he => h'.2.1 e (List.mem_filter.1 he).1, ih h'.2.2⟩
    · rw [List.filter_cons_of_neg hp]
      exact ih h'.2.2

theorem Tab.wf_clear {t : Tab α} (lo hi : Nat) (h : Tab.wf d t = true) : Tab.wf d (Tab.clear t lo hi) = true :=
  Tab.wf_filter d _ h

theorem Tab.wf_drop {t : Tab α} (k : Nat) (h : Tab.wf d t = true) : Tab.wf d (Tab.drop t k) = true := by
  induction t with
  | nil => rfl
  | cons e t ih =>
    obtain ⟨j, v⟩ := e
    have h' := (Tab.wf_cons d).1 h
    by_cases hj : j = k
    · simpa [Tab.drop, hj] using ih h'.2.2
    · simp only [Tab.drop, hj, if_false, Tab.wf_cons]
      exact ⟨h'.1, fun e he => h'.2.1 e (Tab.mem_drop he).1, ih h'.2.2⟩

theorem Tab.wf_ins {t : Tab α} {k : Nat} {v : α} (h : Tab.wf d t = true) (hv : v ≠ d k) (hk : ∀ e ∈ t, e.1 ≠ k) :
    Tab.wf d (Tab.ins t k v) = true := by
  induction t with
  | nil => simp [Tab.ins, Tab.wf, hv]
  | cons e t ih =>
    obtain ⟨j, w⟩ := e
    have h' := (Tab.wf_cons d).1 h
    by_cases hj : k < j
    · simp only [Tab.ins, hj, if_true]
      refine (Tab.wf_cons d).2 ⟨hv, ?_, h⟩
      intro e he
      rcases List.mem_cons.1 he with rfl | he
      · exact hj
      · exact lt_trans hj (h'.2.1 e he)
    · simp only [Tab.ins, hj, if_false]
      refine (Tab.wf_cons d).2 ⟨h'.1, ?_, ih h'.2.2 fun e he => hk e (List.mem_cons_of_mem _ he)⟩
      intro e he
      rcases Tab.mem_ins he with rfl | he
      · have : j ≠ k := hk (j, w) List.mem_cons_self
        change j < k
        omega
      · exact h'.2.1 e he

/-- Writing keeps the canonical form. -/
theorem Tab.wf_put {t : Tab α} (k : Nat) (v : α) (h : Tab.wf d t = true) : Tab.wf d (Tab.put d t k v) = true := by
  unfold Tab.put
  split
  · exact Tab.wf_drop d k h
  · next hv => exact Tab.wf_ins d (Tab.wf_drop d k h) hv fun e he => (Tab.mem_drop he).2

omit [DecidableEq α] in
theorem Tab.get_above {t : Tab α} {k : Nat} (h : ∀ e ∈ t, k < e.1) : Tab.get d t k = d k := by
  induction t with
  | nil => rfl
  | cons e t ih =>
    obtain ⟨j, v⟩ := e
    have hj : j ≠ k := Nat.ne_of_gt (h (j, v) List.mem_cons_self)
    simp only [Tab.get, hj, if_false]
    exact ih fun e he => h e (List.mem_cons_of_mem _ he)

end

theorem Tab.get_ins_same (d : Nat → α) {t : Tab α} {k : Nat} {v : α} (hk : ∀ e ∈ t, e.1 ≠ k) : Tab.get d (Tab.ins t k v) k = v := by
  induction t with
  | nil => simp [Tab.ins, Tab.get]
  | cons e t ih =>
    obtain ⟨j, w⟩ := e
    have hj : j ≠ k := hk (j, w) List.mem_cons_self
    by_cases hl : k < j
    · simp [Tab.ins, hl, Tab.get]
    · simp only [Tab.ins, hl, if_false, Tab.get, hj]
      exact ih fun e he => hk e (List.mem_cons_of_mem _ he)

theorem Tab.get_ins_other (d : Nat → α) (t : Tab α) {k i : Nat} (v : α) (hi : i ≠ k) : Tab.get d (Tab.ins t k v) i = Tab.get d t i := by
  induction t with
  | nil => simp [Tab.ins, Tab.get, Ne.symm hi]
  | cons e t ih =>
    obtain ⟨j, w⟩ := e
    by_cases hl : k < j
    · simp [Tab.ins, hl, Tab.get, Ne.symm hi]
    · simp only [Tab.ins, hl, if_false, Tab.get, ih]

variable [DecidableEq α]

/-- A key reads as what was last written to it. -/
@[simp] theorem Tab.get_put_same (d : Nat → α) (t : Tab α) (k : Nat) (v : α) : Tab.get d (Tab.put d t k v) k = v := by
  unfold Tab.put
  split
  · next h => rw [Tab.get_drop_same, h]
  · exact Tab.get_ins_same d fun e he => (Tab.mem_drop he).2

/-- A write leaves every other key alone. -/
theorem Tab.get_put_other (d : Nat → α) (t : Tab α) {k i : Nat} (v : α) (hi : i ≠ k) : Tab.get d (Tab.put d t k v) i = Tab.get d t i := by
  unfold Tab.put
  split
  · exact Tab.get_drop_other d t hi
  · rw [Tab.get_ins_other d _ v hi, Tab.get_drop_other d t hi]

theorem Tab.get_put (d : Nat → α) (t : Tab α) (k i : Nat) (v : α) : Tab.get d (Tab.put d t k v) i = if i = k then v else Tab.get d t i := by
  split
  · next h => rw [h, Tab.get_put_same]
  · next h => exact Tab.get_put_other d t v h

omit [DecidableEq α] in
/-- Clearing a range: keys in it read as the default, and the others as before. -/
theorem Tab.get_clear (d : Nat → α) (t : Tab α) (lo hi i : Nat) :
    Tab.get d (Tab.clear t lo hi) i = if lo ≤ i ∧ i < hi then d i else Tab.get d t i := by
  induction t with
  | nil => simp [Tab.clear, Tab.get]
  | cons e t ih =>
    obtain ⟨j, v⟩ := e
    unfold Tab.clear at ih ⊢
    by_cases hj : lo ≤ j ∧ j < hi
    · rw [List.filter_cons_of_neg (by simp [hj.1, hj.2]), ih]
      by_cases hi' : lo ≤ i ∧ i < hi
      · simp [hi']
      · have : j ≠ i := fun h => hi' (h ▸ hj)
        simp [hi', Tab.get, this]
    · rw [List.filter_cons_of_pos (by simp; omega)]
      by_cases hji : j = i
      · have : ¬(lo ≤ i ∧ i < hi) := hji ▸ hj
        simp [Tab.get, hji, this]
      · simp only [Tab.get, hji, if_false, ih]

/-- Tables in canonical form that read alike are equal. -/
theorem Tab.ext_get (d : Nat → α) {s t : Tab α} (hs : Tab.wf d s = true) (ht : Tab.wf d t = true)
    (h : ∀ k, Tab.get d s k = Tab.get d t k) : s = t := by
  induction s generalizing t with
  | nil =>
    cases t with
    | nil => rfl
    | cons e t =>
      obtain ⟨j, v⟩ := e
      have := h j
      simp [Tab.get] at this
      exact absurd this.symm ((Tab.wf_cons d).1 ht).1
  | cons e s ih =>
    obtain ⟨j, v⟩ := e
    have hs' := (Tab.wf_cons d).1 hs
    cases t with
    | nil =>
      have := h j
      simp [Tab.get] at this
      exact absurd this hs'.1
    | cons f t =>
      obtain ⟨k, w⟩ := f
      have ht' := (Tab.wf_cons d).1 ht
      have hjk : j = k := by
        rcases Nat.lt_trichotomy j k with hl | he | hg
        · have := h j
          simp only [Tab.get, if_true, Nat.ne_of_gt hl, if_false] at this
          rw [Tab.get_above d fun e he => lt_trans hl (ht'.2.1 e he)] at this
          exact absurd this hs'.1
        · exact he
        · have := h k
          simp only [Tab.get, if_true, Nat.ne_of_gt hg, if_false] at this
          rw [Tab.get_above d fun e he => lt_trans hg (hs'.2.1 e he)] at this
          exact absurd this.symm ht'.1
      subst hjk
      have hvw : v = w := by have := h j; simpa [Tab.get] using this
      subst hvw
      congr 1
      apply ih hs'.2.2 ht'.2.2
      intro i
      by_cases hi : j = i
      · subst hi
        rw [Tab.get_above d hs'.2.1, Tab.get_above d ht'.2.1]
      · have := h i
        simpa [Tab.get, hi] using this

end Sys2Proof
end

