-- ==== Sys2Proof/Laws/Mem.lean ====
section
/-! SUPPORT. The laws of memory: what a write of bytes gives at each address, and that bytes written are the bytes read. -/

namespace Sys2Proof.Machine

variable (s : State)

theorem rdByte_wrByte (a x : Nat) (b : Byte) : (s.wrByte a b).rdByte x = if x = a then b else s.rdByte x := by
  unfold State.rdByte State.wrByte
  exact Tab.get_put _ _ _ _ _

/-- Every byte after a run of bytes has been written. -/
theorem rdByte_wrBytes (bs : Bytes) (a x : Nat) :
    (s.wrBytes a bs).rdByte x = if a ≤ x ∧ x < a + bs.length then bs.getD (x - a) 0 else s.rdByte x := by
  induction bs generalizing s a with
  | nil => simp [State.wrBytes]
  | cons b bs ih =>
    rw [State.wrBytes, ih, rdByte_wrByte]
    by_cases h1 : x = a
    · subst h1; simp
    · by_cases h2 : a + 1 ≤ x ∧ x < a + 1 + bs.length
      · rw [if_pos h2, if_pos ⟨by omega, by simp only [List.length_cons]; omega⟩]
        have : x - a = x - (a + 1) + 1 := by omega
        rw [this]; simp
      · rw [if_neg h2, if_neg h1, if_neg]
        simp only [List.length_cons]; omega

theorem rdBytes_length (a n : Nat) : (s.rdBytes a n).length = n := by
  induction n generalizing a with
  | zero => rfl
  | succ n ih => simp [State.rdBytes, ih]

theorem rdBytes_getD (a n i : Nat) (h : i < n) : (s.rdBytes a n).getD i 0 = s.rdByte (a + i) := by
  induction n generalizing a i with
  | zero => omega
  | succ n ih =>
    cases i with
    | zero => simp [State.rdBytes]
    | succ i =>
      have := ih (a + 1) i (by omega)
      simp only [State.rdBytes, List.getD_cons_succ]
      rw [this]; congr 1; omega

/-- Bytes just written are read back. -/
theorem rdBytes_wrBytes (bs : Bytes) (a : Nat) : (s.wrBytes a bs).rdBytes a bs.length = bs := by
  apply List.ext_getElem
  · rw [rdBytes_length]
  · intro i h1 h2
    have h3 : i < bs.length := h2
    have e1 := rdBytes_getD (s.wrBytes a bs) a bs.length i h3
    rw [rdByte_wrBytes, if_pos ⟨by omega, by omega⟩] at e1
    have : a + i - a = i := by omega
    rw [this, List.getD_eq_getElem _ _ h1, List.getD_eq_getElem _ _ h3] at e1
    exact e1

/-- Bytes that are the same in two states. -/
theorem rdBytes_congr {s t : State} {a n : Nat} (h : ∀ x, a ≤ x → x < a + n → s.rdByte x = t.rdByte x) : s.rdBytes a n = t.rdBytes a n := by
  induction n generalizing a with
  | zero => rfl
  | succ n ih =>
    simp only [State.rdBytes]
    rw [h a (by omega) (by omega), ih fun x h1 h2 => h x (by omega) (by omega)]

theorem leBytes_length (n v : Nat) : (leBytes n v).length = n := by
  induction n generalizing v with
  | zero => rfl
  | succ n ih => simp [leBytes, ih]

theorem leNat_leBytes (n v : Nat) : leNat (leBytes n v) = v % 256 ^ n := by
  induction n generalizing v with
  | zero => simp [leBytes, leNat, Nat.mod_one]
  | succ n ih =>
    simp only [leBytes, leNat, ih, BitVec.toNat_ofNat]
    rw [show 256 ^ (n + 1) = 256 * 256 ^ n by rw [Nat.pow_succ, Nat.mul_comm], Nat.mod_mul]

/-- A little-endian number just written is read back. -/
theorem rdLe_wrLe (a n v : Nat) : (s.wrLe a n v).rdLe a n = v % 256 ^ n := by
  unfold State.rdLe State.wrLe
  have := rdBytes_wrBytes s (leBytes n v) a
  rw [leBytes_length] at this
  rw [this, leNat_leBytes]

theorem rdByte_wrLe (a n v x : Nat) (h : x < a ∨ a + n ≤ x) : (s.wrLe a n v).rdByte x = s.rdByte x := by
  unfold State.wrLe
  rw [rdByte_wrBytes, leBytes_length, if_neg (by omega)]

/-! ### What a write of bytes, of a line or of a tag leaves -/

theorem wrBytes_eq (bs : Bytes) (a : Nat) : s.wrBytes a bs = { s with mem := (s.wrBytes a bs).mem } := by
  induction bs generalizing s a with
  | nil => rfl
  | cons b bs ih => rw [State.wrBytes, ih]; rfl

theorem wrLe_eq (a n v : Nat) : s.wrLe a n v = { s with mem := (s.wrLe a n v).mem } := wrBytes_eq _ _ _

theorem tagAt_setTag (a x : Nat) (t : Tag) : (s.setTag a t).tagAt x = if x / 64 = a / 64 then t else s.tagAt x := by
  unfold State.tagAt State.setTag
  exact Tab.get_put _ _ _ _ _

@[simp] theorem rdByte_setTag (a x : Nat) (t : Tag) : (s.setTag a t).rdByte x = s.rdByte x := rfl

@[simp] theorem wrLine_rdByte (a x : Nat) (bs : Bytes) (t : Tag) : (s.wrLine a bs t).rdByte x = (s.wrBytes a (bs.take 64)).rdByte x := rfl

end Sys2Proof.Machine
end

