-- ==== Sys2Proof/Laws/Reg.lean ====
section
/-! SUPPORT. The laws of register words and fields: what a write of a word or a field gives there, and that it gives nothing elsewhere. -/

namespace Sys2Proof.Machine

/-! ### Bits of a word -/

theorem bits_lt (v hi lo : Nat) : bits v hi lo < 2 ^ (hi + 1 - lo) := Nat.mod_lt _ (Nat.two_pow_pos _)

/-- The parts of a word around a field. -/
theorem split_at_field (w lo m : Nat) : w = w / 2 ^ lo / m * m * 2 ^ lo + w / 2 ^ lo % m * 2 ^ lo + w % 2 ^ lo := by
  have h1 := Nat.div_add_mod (w / 2 ^ lo) m
  have h2 := Nat.div_add_mod w (2 ^ lo)
  rw [← Nat.add_mul]
  have : w / 2 ^ lo / m * m + w / 2 ^ lo % m = w / 2 ^ lo := by rw [Nat.mul_comm]; exact h1
  rw [this, Nat.mul_comm]; exact h2.symm

/-- A word with a field replaced, as a number. -/
theorem putBits_toNat (w : Word) (hi lo v : Nat) (h : lo ≤ hi) (hh : hi < 32) :
    (putBits w hi lo v).toNat =
      w.toNat / 2 ^ lo / 2 ^ (hi + 1 - lo) * 2 ^ (hi + 1 - lo) * 2 ^ lo + v % 2 ^ (hi + 1 - lo) * 2 ^ lo + w.toNat % 2 ^ lo := by
  have hs := split_at_field w.toNat lo (2 ^ (hi + 1 - lo))
  have e : w.toNat - bits w.toNat hi lo * 2 ^ lo + v % 2 ^ (hi + 1 - lo) * 2 ^ lo =
      w.toNat / 2 ^ lo / 2 ^ (hi + 1 - lo) * 2 ^ (hi + 1 - lo) * 2 ^ lo + v % 2 ^ (hi + 1 - lo) * 2 ^ lo + w.toNat % 2 ^ lo := by
    unfold bits; rw [Nat.shiftRight_eq_div_pow]; omega
  have hm : 2 ^ (hi + 1 - lo) * 2 ^ lo = 2 ^ (hi + 1) := by rw [← Nat.pow_add]; congr 1; omega
  have h32 : 2 ^ (hi + 1) ∣ 2 ^ 32 := Nat.pow_dvd_pow 2 (by omega)
  have hlt : w.toNat / 2 ^ lo / 2 ^ (hi + 1 - lo) * 2 ^ (hi + 1 - lo) * 2 ^ lo + v % 2 ^ (hi + 1 - lo) * 2 ^ lo + w.toNat % 2 ^ lo < 2 ^ 32 := by
    have hv : v % 2 ^ (hi + 1 - lo) * 2 ^ lo + w.toNat % 2 ^ lo < 2 ^ (hi + 1) := by
      have a := Nat.mod_lt v (Nat.two_pow_pos (hi + 1 - lo))
      have b := Nat.mod_lt w.toNat (Nat.two_pow_pos lo)
      have c : (v % 2 ^ (hi + 1 - lo) + 1) * 2 ^ lo ≤ 2 ^ (hi + 1 - lo) * 2 ^ lo := Nat.mul_le_mul_right _ a
      rw [hm, Nat.add_mul] at c; omega
    obtain ⟨k, hk⟩ := h32
    have hq : w.toNat / 2 ^ lo / 2 ^ (hi + 1 - lo) = w.toNat / 2 ^ (hi + 1) := by rw [Nat.div_div_eq_div_mul, Nat.mul_comm, hm]
    have hwk : w.toNat / 2 ^ (hi + 1) < k := by
      rw [Nat.div_lt_iff_lt_mul (Nat.two_pow_pos _), Nat.mul_comm, ← hk]; exact w.isLt
    have : (w.toNat / 2 ^ (hi + 1) + 1) * 2 ^ (hi + 1) ≤ k * 2 ^ (hi + 1) := Nat.mul_le_mul_right _ hwk
    rw [hq, Nat.mul_assoc, hm]
    rw [Nat.add_mul, Nat.mul_comm k, ← hk] at this
    omega
  unfold putBits
  simp only [BitVec.toNat_ofNat]
  rw [e]; exact Nat.mod_eq_of_lt hlt

/-- A field just written. -/
theorem bits_putBits_same (w : Word) (hi lo v : Nat) (h : lo ≤ hi) (hh : hi < 32) :
    bits (putBits w hi lo v).toNat hi lo = v % 2 ^ (hi + 1 - lo) := by
  unfold bits
  rw [putBits_toNat w hi lo v h hh, Nat.shiftRight_eq_div_pow, ← Nat.add_mul]
  rw [Nat.add_comm, Nat.add_mul_div_right _ _ (Nat.two_pow_pos lo), Nat.div_eq_of_lt (Nat.mod_lt _ (Nat.two_pow_pos lo)), Nat.zero_add,
    Nat.add_comm, Nat.add_mul_mod_self_right, Nat.mod_mod]

/-- One bit of a word with a field replaced. -/
theorem testBit_putBits (w : Word) (hi lo v i : Nat) (h : lo ≤ hi) (hh : hi < 32) :
    (putBits w hi lo v).toNat.testBit i = if lo ≤ i ∧ i ≤ hi then v.testBit (i - lo) else w.toNat.testBit i := by
  have hm : 2 ^ (hi + 1 - lo) * 2 ^ lo = 2 ^ (hi + 1) := by rw [← Nat.pow_add]; congr 1; omega
  have hq : w.toNat / 2 ^ lo / 2 ^ (hi + 1 - lo) = w.toNat / 2 ^ (hi + 1) := by rw [Nat.div_div_eq_div_mul, Nat.mul_comm, hm]
  have hr := Nat.mod_lt w.toNat (Nat.two_pow_pos lo)
  rw [putBits_toNat w hi lo v h hh, Nat.mul_assoc, hm, hq]
  have hv : v % 2 ^ (hi + 1 - lo) * 2 ^ lo + w.toNat % 2 ^ lo < 2 ^ (hi + 1) := by
    have a := Nat.mod_lt v (Nat.two_pow_pos (hi + 1 - lo))
    have c : (v % 2 ^ (hi + 1 - lo) + 1) * 2 ^ lo ≤ 2 ^ (hi + 1 - lo) * 2 ^ lo := Nat.mul_le_mul_right _ a
    rw [hm, Nat.add_mul] at c; omega
  rw [Nat.add_assoc, Nat.mul_comm _ (2 ^ (hi + 1)), Nat.testBit_two_pow_mul_add _ hv, Nat.mul_comm _ (2 ^ lo), Nat.testBit_two_pow_mul_add _ hr]
  by_cases h1 : i < hi + 1
  · rw [if_pos h1]
    by_cases h2 : i < lo
    · rw [if_pos h2, if_neg (by omega), Nat.testBit_mod_two_pow]; simp [h2]
    · rw [if_neg h2, if_pos (by omega), Nat.testBit_mod_two_pow]
      have : i - lo < hi + 1 - lo := by omega
      simp [this]
  · rw [if_neg h1, if_neg (by omega), Nat.testBit_div_two_pow]
    congr 1; omega

/-- A field that another field's write does not meet. -/
theorem bits_putBits_other (w : Word) (hi lo v hi' lo' : Nat) (h : lo ≤ hi) (hh : hi < 32) (hd : hi' < lo ∨ hi < lo') :
    bits (putBits w hi lo v).toNat hi' lo' = bits w.toNat hi' lo' := by
  apply Nat.eq_of_testBit_eq
  intro i
  unfold bits
  rw [Nat.testBit_mod_two_pow, Nat.testBit_mod_two_pow, Nat.testBit_shiftRight, Nat.testBit_shiftRight]
  by_cases hi2 : i < hi' + 1 - lo'
  · rw [testBit_putBits w hi lo v _ h hh, if_neg (by omega)]
  · simp [hi2]

/-! ### Words and fields of the register file -/

variable (s : State) (g : Nat)

@[simp] theorem word_setWord_same (off : Nat) (w : Word) : (s.setWord g off w).word g off = w := Tab.get_put_same _ _ _ _

theorem word_setWord_other {h off off' : Nat} (w : Word) (hk : regIdx h off' ≠ regIdx g off) :
    (s.setWord g off w).word h off' = s.word h off' := Tab.get_put_other _ _ _ hk

/-- A field is well placed in its word. -/
abbrev Fld.ok (f : Fld) : Prop := f.lo ≤ f.hi ∧ f.hi < 32

theorem rf_wf_same (f : Fld) (v : Nat) (hf : f.ok) : (s.wf g f v).rf g f = v % 2 ^ (f.hi + 1 - f.lo) := by
  unfold State.rf State.wf
  rw [word_setWord_same]
  exact bits_putBits_same _ _ _ _ hf.1 hf.2

/-- A field of the same register that does not overlap. -/
theorem rf_wf_bits (f f' : Fld) (v : Nat) (hf : f.ok) (ho : f'.off = f.off) (hd : f'.hi < f.lo ∨ f.hi < f'.lo) :
    (s.wf g f v).rf g f' = s.rf g f' := by
  unfold State.rf State.wf
  rw [ho, word_setWord_same]
  exact bits_putBits_other _ _ _ _ _ _ hf.1 hf.2 hd

/-- A field of another register. -/
theorem rf_wf_other {h : Nat} (f f' : Fld) (v : Nat) (hk : regIdx h f'.off ≠ regIdx g f.off) : (s.wf g f v).rf h f' = s.rf h f' := by
  unfold State.rf State.wf
  rw [word_setWord_other _ _ _ hk]

/-- A bit just set. -/
theorem bit_wf_same (f : Fld) (v : Nat) (hf : f.ok) (h1 : f.hi = f.lo) : (s.wf g f v).bit g f = decide (v % 2 = 1) := by
  unfold State.bit
  rw [rf_wf_same _ _ _ _ hf, h1]
  simp

theorem rf_setWord_other {h off : Nat} (f : Fld) (w : Word) (hk : regIdx h f.off ≠ regIdx g off) : (s.setWord g off w).rf h f = s.rf h f := by
  unfold State.rf
  rw [word_setWord_other _ _ _ hk]

theorem rf_bump_same (f : Fld) (hf : f.ok) (n : Nat) : (s.bumpN g f n).rf g f = min (s.rf g f + n) (2 ^ (f.hi + 1 - f.lo) - 1) := by
  unfold State.bumpN
  rw [rf_wf_same _ _ _ _ hf]
  have := Nat.two_pow_pos (f.hi + 1 - f.lo)
  exact Nat.mod_eq_of_lt (by omega)

end Sys2Proof.Machine
end

