-- ==== Sys2Proof/Laws/State.lean ====
section
/-! SUPPORT. One lemma for each field and each named update of the state: what the update leaves as it was. -/

namespace Sys2Proof.Machine

variable (s : State)


@[simp] theorem setWord_pending (g off : Nat) (w : Word) : (s.setWord g off w).pending = s.pending := rfl
@[simp] theorem setWord_live (g off : Nat) (w : Word) : (s.setWord g off w).live = s.live := rfl
@[simp] theorem setWord_mem (g off : Nat) (w : Word) : (s.setWord g off w).mem = s.mem := rfl
@[simp] theorem setWord_tags (g off : Nat) (w : Word) : (s.setWord g off w).tags = s.tags := rfl
@[simp] theorem setWord_side (g off : Nat) (w : Word) : (s.setWord g off w).side = s.side := rfl
@[simp] theorem setWord_accSide (g off : Nat) (w : Word) : (s.setWord g off w).accSide = s.accSide := rfl
@[simp] theorem setWord_dramPoison (g off : Nat) (w : Word) : (s.setWord g off w).dramPoison = s.dramPoison := rfl
@[simp] theorem setWord_floes (g off : Nat) (w : Word) : (s.setWord g off w).floes = s.floes := rfl
@[simp] theorem setWord_runs (g off : Nat) (w : Word) : (s.setWord g off w).runs = s.runs := rfl
@[simp] theorem setWord_faultQ (g off : Nat) (w : Word) : (s.setWord g off w).faultQ = s.faultQ := rfl
@[simp] theorem setWord_mst (g off : Nat) (w : Word) : (s.setWord g off w).mst = s.mst := rfl
@[simp] theorem setWord_hals (g off : Nat) (w : Word) : (s.setWord g off w).hals = s.hals := rfl
@[simp] theorem setWord_clusters (g off : Nat) (w : Word) : (s.setWord g off w).clusters = s.clusters := rfl
@[simp] theorem setWord_tb (g off : Nat) (w : Word) : (s.setWord g off w).tb = s.tb := rfl
@[simp] theorem setWord_fhs (g off : Nat) (w : Word) : (s.setWord g off w).fhs = s.fhs := rfl
@[simp] theorem setWord_shrs (g off : Nat) (w : Word) : (s.setWord g off w).shrs = s.shrs := rfl
@[simp] theorem setWord_mor (g off : Nat) (w : Word) : (s.setWord g off w).mor = s.mor := rfl
@[simp] theorem setWord_sers (g off : Nat) (w : Word) : (s.setWord g off w).sers = s.sers := rfl
@[simp] theorem setWord_fw (g off : Nat) (w : Word) : (s.setWord g off w).fw = s.fw := rfl
@[simp] theorem setWord_sec (g off : Nat) (w : Word) : (s.setWord g off w).sec = s.sec := rfl
@[simp] theorem setWord_mgmt (g off : Nat) (w : Word) : (s.setWord g off w).mgmt = s.mgmt := rfl
@[simp] theorem setWord_rsp (g off : Nat) (w : Word) : (s.setWord g off w).rsp = s.rsp := rfl
@[simp] theorem setWord_out (g off : Nat) (w : Word) : (s.setWord g off w).out = s.out := rfl

@[simp] theorem wf_pending (g : Nat) (f : Fld) (v : Nat) : (s.wf g f v).pending = s.pending := rfl
@[simp] theorem wf_live (g : Nat) (f : Fld) (v : Nat) : (s.wf g f v).live = s.live := rfl
@[simp] theorem wf_mem (g : Nat) (f : Fld) (v : Nat) : (s.wf g f v).mem = s.mem := rfl
@[simp] theorem wf_tags (g : Nat) (f : Fld) (v : Nat) : (s.wf g f v).tags = s.tags := rfl
@[simp] theorem wf_side (g : Nat) (f : Fld) (v : Nat) : (s.wf g f v).side = s.side := rfl
@[simp] theorem wf_accSide (g : Nat) (f : Fld) (v : Nat) : (s.wf g f v).accSide = s.accSide := rfl
@[simp] theorem wf_dramPoison (g : Nat) (f : Fld) (v : Nat) : (s.wf g f v).dramPoison = s.dramPoison := rfl
@[simp] theorem wf_floes (g : Nat) (f : Fld) (v : Nat) : (s.wf g f v).floes = s.floes := rfl
@[simp] theorem wf_runs (g : Nat) (f : Fld) (v : Nat) : (s.wf g f v).runs = s.runs := rfl
@[simp] theorem wf_faultQ (g : Nat) (f : Fld) (v : Nat) : (s.wf g f v).faultQ = s.faultQ := rfl
@[simp] theorem wf_mst (g : Nat) (f : Fld) (v : Nat) : (s.wf g f v).mst = s.mst := rfl
@[simp] theorem wf_hals (g : Nat) (f : Fld) (v : Nat) : (s.wf g f v).hals = s.hals := rfl
@[simp] theorem wf_clusters (g : Nat) (f : Fld) (v : Nat) : (s.wf g f v).clusters = s.clusters := rfl
@[simp] theorem wf_tb (g : Nat) (f : Fld) (v : Nat) : (s.wf g f v).tb = s.tb := rfl
@[simp] theorem wf_fhs (g : Nat) (f : Fld) (v : Nat) : (s.wf g f v).fhs = s.fhs := rfl
@[simp] theorem wf_shrs (g : Nat) (f : Fld) (v : Nat) : (s.wf g f v).shrs = s.shrs := rfl
@[simp] theorem wf_mor (g : Nat) (f : Fld) (v : Nat) : (s.wf g f v).mor = s.mor := rfl
@[simp] theorem wf_sers (g : Nat) (f : Fld) (v : Nat) : (s.wf g f v).sers = s.sers := rfl
@[simp] theorem wf_fw (g : Nat) (f : Fld) (v : Nat) : (s.wf g f v).fw = s.fw := rfl
@[simp] theorem wf_sec (g : Nat) (f : Fld) (v : Nat) : (s.wf g f v).sec = s.sec := rfl
@[simp] theorem wf_mgmt (g : Nat) (f : Fld) (v : Nat) : (s.wf g f v).mgmt = s.mgmt := rfl
@[simp] theorem wf_rsp (g : Nat) (f : Fld) (v : Nat) : (s.wf g f v).rsp = s.rsp := rfl
@[simp] theorem wf_out (g : Nat) (f : Fld) (v : Nat) : (s.wf g f v).out = s.out := rfl

@[simp] theorem bumpN_pending (g : Nat) (f : Fld) (n : Nat) : (s.bumpN g f n).pending = s.pending := rfl
@[simp] theorem bumpN_live (g : Nat) (f : Fld) (n : Nat) : (s.bumpN g f n).live = s.live := rfl
@[simp] theorem bumpN_mem (g : Nat) (f : Fld) (n : Nat) : (s.bumpN g f n).mem = s.mem := rfl
@[simp] theorem bumpN_tags (g : Nat) (f : Fld) (n : Nat) : (s.bumpN g f n).tags = s.tags := rfl
@[simp] theorem bumpN_side (g : Nat) (f : Fld) (n : Nat) : (s.bumpN g f n).side = s.side := rfl
@[simp] theorem bumpN_accSide (g : Nat) (f : Fld) (n : Nat) : (s.bumpN g f n).accSide = s.accSide := rfl
@[simp] theorem bumpN_dramPoison (g : Nat) (f : Fld) (n : Nat) : (s.bumpN g f n).dramPoison = s.dramPoison := rfl
@[simp] theorem bumpN_floes (g : Nat) (f : Fld) (n : Nat) : (s.bumpN g f n).floes = s.floes := rfl
@[simp] theorem bumpN_runs (g : Nat) (f : Fld) (n : Nat) : (s.bumpN g f n).runs = s.runs := rfl
@[simp] theorem bumpN_faultQ (g : Nat) (f : Fld) (n : Nat) : (s.bumpN g f n).faultQ = s.faultQ := rfl
@[simp] theorem bumpN_mst (g : Nat) (f : Fld) (n : Nat) : (s.bumpN g f n).mst = s.mst := rfl
@[simp] theorem bumpN_hals (g : Nat) (f : Fld) (n : Nat) : (s.bumpN g f n).hals = s.hals := rfl
@[simp] theorem bumpN_clusters (g : Nat) (f : Fld) (n : Nat) : (s.bumpN g f n).clusters = s.clusters := rfl
@[simp] theorem bumpN_tb (g : Nat) (f : Fld) (n : Nat) : (s.bumpN g f n).tb = s.tb := rfl
@[simp] theorem bumpN_fhs (g : Nat) (f : Fld) (n : Nat) : (s.bumpN g f n).fhs = s.fhs := rfl
@[simp] theorem bumpN_shrs (g : Nat) (f : Fld) (n : Nat) : (s.bumpN g f n).shrs = s.shrs := rfl
@[simp] theorem bumpN_mor (g : Nat) (f : Fld) (n : Nat) : (s.bumpN g f n).mor = s.mor := rfl
@[simp] theorem bumpN_sers (g : Nat) (f : Fld) (n : Nat) : (s.bumpN g f n).sers = s.sers := rfl
@[simp] theorem bumpN_fw (g : Nat) (f : Fld) (n : Nat) : (s.bumpN g f n).fw = s.fw := rfl
@[simp] theorem bumpN_sec (g : Nat) (f : Fld) (n : Nat) : (s.bumpN g f n).sec = s.sec := rfl
@[simp] theorem bumpN_mgmt (g : Nat) (f : Fld) (n : Nat) : (s.bumpN g f n).mgmt = s.mgmt := rfl
@[simp] theorem bumpN_rsp (g : Nat) (f : Fld) (n : Nat) : (s.bumpN g f n).rsp = s.rsp := rfl
@[simp] theorem bumpN_out (g : Nat) (f : Fld) (n : Nat) : (s.bumpN g f n).out = s.out := rfl

@[simp] theorem bump_pending (g : Nat) (f : Fld) : (s.bump g f).pending = s.pending := rfl
@[simp] theorem bump_live (g : Nat) (f : Fld) : (s.bump g f).live = s.live := rfl
@[simp] theorem bump_mem (g : Nat) (f : Fld) : (s.bump g f).mem = s.mem := rfl
@[simp] theorem bump_tags (g : Nat) (f : Fld) : (s.bump g f).tags = s.tags := rfl
@[simp] theorem bump_side (g : Nat) (f : Fld) : (s.bump g f).side = s.side := rfl
@[simp] theorem bump_accSide (g : Nat) (f : Fld) : (s.bump g f).accSide = s.accSide := rfl
@[simp] theorem bump_dramPoison (g : Nat) (f : Fld) : (s.bump g f).dramPoison = s.dramPoison := rfl
@[simp] theorem bump_floes (g : Nat) (f : Fld) : (s.bump g f).floes = s.floes := rfl
@[simp] theorem bump_runs (g : Nat) (f : Fld) : (s.bump g f).runs = s.runs := rfl
@[simp] theorem bump_faultQ (g : Nat) (f : Fld) : (s.bump g f).faultQ = s.faultQ := rfl
@[simp] theorem bump_mst (g : Nat) (f : Fld) : (s.bump g f).mst = s.mst := rfl
@[simp] theorem bump_hals (g : Nat) (f : Fld) : (s.bump g f).hals = s.hals := rfl
@[simp] theorem bump_clusters (g : Nat) (f : Fld) : (s.bump g f).clusters = s.clusters := rfl
@[simp] theorem bump_tb (g : Nat) (f : Fld) : (s.bump g f).tb = s.tb := rfl
@[simp] theorem bump_fhs (g : Nat) (f : Fld) : (s.bump g f).fhs = s.fhs := rfl
@[simp] theorem bump_shrs (g : Nat) (f : Fld) : (s.bump g f).shrs = s.shrs := rfl
@[simp] theorem bump_mor (g : Nat) (f : Fld) : (s.bump g f).mor = s.mor := rfl
@[simp] theorem bump_sers (g : Nat) (f : Fld) : (s.bump g f).sers = s.sers := rfl
@[simp] theorem bump_fw (g : Nat) (f : Fld) : (s.bump g f).fw = s.fw := rfl
@[simp] theorem bump_sec (g : Nat) (f : Fld) : (s.bump g f).sec = s.sec := rfl
@[simp] theorem bump_mgmt (g : Nat) (f : Fld) : (s.bump g f).mgmt = s.mgmt := rfl
@[simp] theorem bump_rsp (g : Nat) (f : Fld) : (s.bump g f).rsp = s.rsp := rfl
@[simp] theorem bump_out (g : Nat) (f : Fld) : (s.bump g f).out = s.out := rfl

@[simp] theorem irq_pending (g b : Nat) : (s.irq g b).pending = s.pending := rfl
@[simp] theorem irq_live (g b : Nat) : (s.irq g b).live = s.live := rfl
@[simp] theorem irq_mem (g b : Nat) : (s.irq g b).mem = s.mem := rfl
@[simp] theorem irq_tags (g b : Nat) : (s.irq g b).tags = s.tags := rfl
@[simp] theorem irq_side (g b : Nat) : (s.irq g b).side = s.side := rfl
@[simp] theorem irq_accSide (g b : Nat) : (s.irq g b).accSide = s.accSide := rfl
@[simp] theorem irq_dramPoison (g b : Nat) : (s.irq g b).dramPoison = s.dramPoison := rfl
@[simp] theorem irq_floes (g b : Nat) : (s.irq g b).floes = s.floes := rfl
@[simp] theorem irq_runs (g b : Nat) : (s.irq g b).runs = s.runs := rfl
@[simp] theorem irq_faultQ (g b : Nat) : (s.irq g b).faultQ = s.faultQ := rfl
@[simp] theorem irq_mst (g b : Nat) : (s.irq g b).mst = s.mst := rfl
@[simp] theorem irq_hals (g b : Nat) : (s.irq g b).hals = s.hals := rfl
@[simp] theorem irq_clusters (g b : Nat) : (s.irq g b).clusters = s.clusters := rfl
@[simp] theorem irq_tb (g b : Nat) : (s.irq g b).tb = s.tb := rfl
@[simp] theorem irq_fhs (g b : Nat) : (s.irq g b).fhs = s.fhs := rfl
@[simp] theorem irq_shrs (g b : Nat) : (s.irq g b).shrs = s.shrs := rfl
@[simp] theorem irq_mor (g b : Nat) : (s.irq g b).mor = s.mor := rfl
@[simp] theorem irq_sers (g b : Nat) : (s.irq g b).sers = s.sers := rfl
@[simp] theorem irq_fw (g b : Nat) : (s.irq g b).fw = s.fw := rfl
@[simp] theorem irq_sec (g b : Nat) : (s.irq g b).sec = s.sec := rfl
@[simp] theorem irq_mgmt (g b : Nat) : (s.irq g b).mgmt = s.mgmt := rfl
@[simp] theorem irq_rsp (g b : Nat) : (s.irq g b).rsp = s.rsp := rfl
@[simp] theorem irq_out (g b : Nat) : (s.irq g b).out = s.out := rfl

@[simp] theorem raise_pending (g : Nat) (f : Fld) : (s.raise g f).pending = s.pending := by unfold State.raise; split <;> (try split) <;> simp
@[simp] theorem raise_live (g : Nat) (f : Fld) : (s.raise g f).live = s.live := by unfold State.raise; split <;> (try split) <;> simp
@[simp] theorem raise_mem (g : Nat) (f : Fld) : (s.raise g f).mem = s.mem := by unfold State.raise; split <;> (try split) <;> simp
@[simp] theorem raise_tags (g : Nat) (f : Fld) : (s.raise g f).tags = s.tags := by unfold State.raise; split <;> (try split) <;> simp
@[simp] theorem raise_side (g : Nat) (f : Fld) : (s.raise g f).side = s.side := by unfold State.raise; split <;> (try split) <;> simp
@[simp] theorem raise_accSide (g : Nat) (f : Fld) : (s.raise g f).accSide = s.accSide := by unfold State.raise; split <;> (try split) <;> simp
@[simp] theorem raise_dramPoison (g : Nat) (f : Fld) : (s.raise g f).dramPoison = s.dramPoison := by unfold State.raise; split <;> (try split) <;> simp
@[simp] theorem raise_floes (g : Nat) (f : Fld) : (s.raise g f).floes = s.floes := by unfold State.raise; split <;> (try split) <;> simp
@[simp] theorem raise_runs (g : Nat) (f : Fld) : (s.raise g f).runs = s.runs := by unfold State.raise; split <;> (try split) <;> simp
@[simp] theorem raise_faultQ (g : Nat) (f : Fld) : (s.raise g f).faultQ = s.faultQ := by unfold State.raise; split <;> (try split) <;> simp
@[simp] theorem raise_mst (g : Nat) (f : Fld) : (s.raise g f).mst = s.mst := by unfold State.raise; split <;> (try split) <;> simp
@[simp] theorem raise_hals (g : Nat) (f : Fld) : (s.raise g f).hals = s.hals := by unfold State.raise; split <;> (try split) <;> simp
@[simp] theorem raise_clusters (g : Nat) (f : Fld) : (s.raise g f).clusters = s.clusters := by unfold State.raise; split <;> (try split) <;> simp
@[simp] theorem raise_tb (g : Nat) (f : Fld) : (s.raise g f).tb = s.tb := by unfold State.raise; split <;> (try split) <;> simp
@[simp] theorem raise_fhs (g : Nat) (f : Fld) : (s.raise g f).fhs = s.fhs := by unfold State.raise; split <;> (try split) <;> simp
@[simp] theorem raise_shrs (g : Nat) (f : Fld) : (s.raise g f).shrs = s.shrs := by unfold State.raise; split <;> (try split) <;> simp
@[simp] theorem raise_mor (g : Nat) (f : Fld) : (s.raise g f).mor = s.mor := by unfold State.raise; split <;> (try split) <;> simp
@[simp] theorem raise_sers (g : Nat) (f : Fld) : (s.raise g f).sers = s.sers := by unfold State.raise; split <;> (try split) <;> simp
@[simp] theorem raise_fw (g : Nat) (f : Fld) : (s.raise g f).fw = s.fw := by unfold State.raise; split <;> (try split) <;> simp
@[simp] theorem raise_sec (g : Nat) (f : Fld) : (s.raise g f).sec = s.sec := by unfold State.raise; split <;> (try split) <;> simp
@[simp] theorem raise_mgmt (g : Nat) (f : Fld) : (s.raise g f).mgmt = s.mgmt := by unfold State.raise; split <;> (try split) <;> simp
@[simp] theorem raise_rsp (g : Nat) (f : Fld) : (s.raise g f).rsp = s.rsp := by unfold State.raise; split <;> (try split) <;> simp
@[simp] theorem raise_out (g : Nat) (f : Fld) : (s.raise g f).out = s.out := by unfold State.raise; split <;> (try split) <;> simp

@[simp] theorem tally_pending (g : Nat) (f : Fld) (n : Nat) : (s.tally g f n).pending = s.pending := rfl
@[simp] theorem tally_regs (g : Nat) (f : Fld) (n : Nat) : (s.tally g f n).regs = s.regs := rfl
@[simp] theorem tally_mem (g : Nat) (f : Fld) (n : Nat) : (s.tally g f n).mem = s.mem := rfl
@[simp] theorem tally_tags (g : Nat) (f : Fld) (n : Nat) : (s.tally g f n).tags = s.tags := rfl
@[simp] theorem tally_side (g : Nat) (f : Fld) (n : Nat) : (s.tally g f n).side = s.side := rfl
@[simp] theorem tally_accSide (g : Nat) (f : Fld) (n : Nat) : (s.tally g f n).accSide = s.accSide := rfl
@[simp] theorem tally_dramPoison (g : Nat) (f : Fld) (n : Nat) : (s.tally g f n).dramPoison = s.dramPoison := rfl
@[simp] theorem tally_floes (g : Nat) (f : Fld) (n : Nat) : (s.tally g f n).floes = s.floes := rfl
@[simp] theorem tally_runs (g : Nat) (f : Fld) (n : Nat) : (s.tally g f n).runs = s.runs := rfl
@[simp] theorem tally_faultQ (g : Nat) (f : Fld) (n : Nat) : (s.tally g f n).faultQ = s.faultQ := rfl
@[simp] theorem tally_mst (g : Nat) (f : Fld) (n : Nat) : (s.tally g f n).mst = s.mst := rfl
@[simp] theorem tally_hals (g : Nat) (f : Fld) (n : Nat) : (s.tally g f n).hals = s.hals := rfl
@[simp] theorem tally_clusters (g : Nat) (f : Fld) (n : Nat) : (s.tally g f n).clusters = s.clusters := rfl
@[simp] theorem tally_tb (g : Nat) (f : Fld) (n : Nat) : (s.tally g f n).tb = s.tb := rfl
@[simp] theorem tally_fhs (g : Nat) (f : Fld) (n : Nat) : (s.tally g f n).fhs = s.fhs := rfl
@[simp] theorem tally_shrs (g : Nat) (f : Fld) (n : Nat) : (s.tally g f n).shrs = s.shrs := rfl
@[simp] theorem tally_mor (g : Nat) (f : Fld) (n : Nat) : (s.tally g f n).mor = s.mor := rfl
@[simp] theorem tally_sers (g : Nat) (f : Fld) (n : Nat) : (s.tally g f n).sers = s.sers := rfl
@[simp] theorem tally_fw (g : Nat) (f : Fld) (n : Nat) : (s.tally g f n).fw = s.fw := rfl
@[simp] theorem tally_sec (g : Nat) (f : Fld) (n : Nat) : (s.tally g f n).sec = s.sec := rfl
@[simp] theorem tally_mgmt (g : Nat) (f : Fld) (n : Nat) : (s.tally g f n).mgmt = s.mgmt := rfl
@[simp] theorem tally_rsp (g : Nat) (f : Fld) (n : Nat) : (s.tally g f n).rsp = s.rsp := rfl
@[simp] theorem tally_out (g : Nat) (f : Fld) (n : Nat) : (s.tally g f n).out = s.out := rfl

@[simp] theorem post_pending (g : Nat) (f : Fld) (cls : Nat) (t : Tag) (id : Nat) (d : Option Nat) : (s.post g f cls t id d).pending = s.pending := by unfold State.post; dsimp only; split <;> split <;> simp
@[simp] theorem post_live (g : Nat) (f : Fld) (cls : Nat) (t : Tag) (id : Nat) (d : Option Nat) : (s.post g f cls t id d).live = s.live := by unfold State.post; dsimp only; split <;> split <;> simp
@[simp] theorem post_mem (g : Nat) (f : Fld) (cls : Nat) (t : Tag) (id : Nat) (d : Option Nat) : (s.post g f cls t id d).mem = s.mem := by unfold State.post; dsimp only; split <;> split <;> simp
@[simp] theorem post_tags (g : Nat) (f : Fld) (cls : Nat) (t : Tag) (id : Nat) (d : Option Nat) : (s.post g f cls t id d).tags = s.tags := by unfold State.post; dsimp only; split <;> split <;> simp
@[simp] theorem post_side (g : Nat) (f : Fld) (cls : Nat) (t : Tag) (id : Nat) (d : Option Nat) : (s.post g f cls t id d).side = s.side := by unfold State.post; dsimp only; split <;> split <;> simp
@[simp] theorem post_accSide (g : Nat) (f : Fld) (cls : Nat) (t : Tag) (id : Nat) (d : Option Nat) : (s.post g f cls t id d).accSide = s.accSide := by unfold State.post; dsimp only; split <;> split <;> simp
@[simp] theorem post_dramPoison (g : Nat) (f : Fld) (cls : Nat) (t : Tag) (id : Nat) (d : Option Nat) : (s.post g f cls t id d).dramPoison = s.dramPoison := by unfold State.post; dsimp only; split <;> split <;> simp
@[simp] theorem post_floes (g : Nat) (f : Fld) (cls : Nat) (t : Tag) (id : Nat) (d : Option Nat) : (s.post g f cls t id d).floes = s.floes := by unfold State.post; dsimp only; split <;> split <;> simp
@[simp] theorem post_runs (g : Nat) (f : Fld) (cls : Nat) (t : Tag) (id : Nat) (d : Option Nat) : (s.post g f cls t id d).runs = s.runs := by unfold State.post; dsimp only; split <;> split <;> simp
@[simp] theorem post_mst (g : Nat) (f : Fld) (cls : Nat) (t : Tag) (id : Nat) (d : Option Nat) : (s.post g f cls t id d).mst = s.mst := by unfold State.post; dsimp only; split <;> split <;> simp
@[simp] theorem post_hals (g : Nat) (f : Fld) (cls : Nat) (t : Tag) (id : Nat) (d : Option Nat) : (s.post g f cls t id d).hals = s.hals := by unfold State.post; dsimp only; split <;> split <;> simp
@[simp] theorem post_clusters (g : Nat) (f : Fld) (cls : Nat) (t : Tag) (id : Nat) (d : Option Nat) : (s.post g f cls t id d).clusters = s.clusters := by unfold State.post; dsimp only; split <;> split <;> simp
@[simp] theorem post_tb (g : Nat) (f : Fld) (cls : Nat) (t : Tag) (id : Nat) (d : Option Nat) : (s.post g f cls t id d).tb = s.tb := by unfold State.post; dsimp only; split <;> split <;> simp
@[simp] theorem post_fhs (g : Nat) (f : Fld) (cls : Nat) (t : Tag) (id : Nat) (d : Option Nat) : (s.post g f cls t id d).fhs = s.fhs := by unfold State.post; dsimp only; split <;> split <;> simp
@[simp] theorem post_shrs (g : Nat) (f : Fld) (cls : Nat) (t : Tag) (id : Nat) (d : Option Nat) : (s.post g f cls t id d).shrs = s.shrs := by unfold State.post; dsimp only; split <;> split <;> simp
@[simp] theorem post_mor (g : Nat) (f : Fld) (cls : Nat) (t : Tag) (id : Nat) (d : Option Nat) : (s.post g f cls t id d).mor = s.mor := by unfold State.post; dsimp only; split <;> split <;> simp
@[simp] theorem post_sers (g : Nat) (f : Fld) (cls : Nat) (t : Tag) (id : Nat) (d : Option Nat) : (s.post g f cls t id d).sers = s.sers := by unfold State.post; dsimp only; split <;> split <;> simp
@[simp] theorem post_fw (g : Nat) (f : Fld) (cls : Nat) (t : Tag) (id : Nat) (d : Option Nat) : (s.post g f cls t id d).fw = s.fw := by unfold State.post; dsimp only; split <;> split <;> simp
@[simp] theorem post_sec (g : Nat) (f : Fld) (cls : Nat) (t : Tag) (id : Nat) (d : Option Nat) : (s.post g f cls t id d).sec = s.sec := by unfold State.post; dsimp only; split <;> split <;> simp
@[simp] theorem post_mgmt (g : Nat) (f : Fld) (cls : Nat) (t : Tag) (id : Nat) (d : Option Nat) : (s.post g f cls t id d).mgmt = s.mgmt := by unfold State.post; dsimp only; split <;> split <;> simp
@[simp] theorem post_rsp (g : Nat) (f : Fld) (cls : Nat) (t : Tag) (id : Nat) (d : Option Nat) : (s.post g f cls t id d).rsp = s.rsp := by unfold State.post; dsimp only; split <;> split <;> simp
@[simp] theorem post_out (g : Nat) (f : Fld) (cls : Nat) (t : Tag) (id : Nat) (d : Option Nat) : (s.post g f cls t id d).out = s.out := by unfold State.post; dsimp only; split <;> split <;> simp

@[simp] theorem fault_pending (g : Nat) (f : Fld) (cls : Nat) (t : Tag) (id : Nat) (d : Option Nat) : (s.fault g f cls t id d).pending = s.pending := by simp [State.fault]
@[simp] theorem fault_live (g : Nat) (f : Fld) (cls : Nat) (t : Tag) (id : Nat) (d : Option Nat) : (s.fault g f cls t id d).live = s.live := by simp [State.fault]
@[simp] theorem fault_mem (g : Nat) (f : Fld) (cls : Nat) (t : Tag) (id : Nat) (d : Option Nat) : (s.fault g f cls t id d).mem = s.mem := by simp [State.fault]
@[simp] theorem fault_tags (g : Nat) (f : Fld) (cls : Nat) (t : Tag) (id : Nat) (d : Option Nat) : (s.fault g f cls t id d).tags = s.tags := by simp [State.fault]
@[simp] theorem fault_side (g : Nat) (f : Fld) (cls : Nat) (t : Tag) (id : Nat) (d : Option Nat) : (s.fault g f cls t id d).side = s.side := by simp [State.fault]
@[simp] theorem fault_accSide (g : Nat) (f : Fld) (cls : Nat) (t : Tag) (id : Nat) (d : Option Nat) : (s.fault g f cls t id d).accSide = s.accSide := by simp [State.fault]
@[simp] theorem fault_dramPoison (g : Nat) (f : Fld) (cls : Nat) (t : Tag) (id : Nat) (d : Option Nat) : (s.fault g f cls t id d).dramPoison = s.dramPoison := by simp [State.fault]
@[simp] theorem fault_floes (g : Nat) (f : Fld) (cls : Nat) (t : Tag) (id : Nat) (d : Option Nat) : (s.fault g f cls t id d).floes = s.floes := by simp [State.fault]
@[simp] theorem fault_runs (g : Nat) (f : Fld) (cls : Nat) (t : Tag) (id : Nat) (d : Option Nat) : (s.fault g f cls t id d).runs = s.runs := by simp [State.fault]
@[simp] theorem fault_mst (g : Nat) (f : Fld) (cls : Nat) (t : Tag) (id : Nat) (d : Option Nat) : (s.fault g f cls t id d).mst = s.mst := by simp [State.fault]
@[simp] theorem fault_hals (g : Nat) (f : Fld) (cls : Nat) (t : Tag) (id : Nat) (d : Option Nat) : (s.fault g f cls t id d).hals = s.hals := by simp [State.fault]
@[simp] theorem fault_clusters (g : Nat) (f : Fld) (cls : Nat) (t : Tag) (id : Nat) (d : Option Nat) : (s.fault g f cls t id d).clusters = s.clusters := by simp [State.fault]
@[simp] theorem fault_tb (g : Nat) (f : Fld) (cls : Nat) (t : Tag) (id : Nat) (d : Option Nat) : (s.fault g f cls t id d).tb = s.tb := by simp [State.fault]
@[simp] theorem fault_fhs (g : Nat) (f : Fld) (cls : Nat) (t : Tag) (id : Nat) (d : Option Nat) : (s.fault g f cls t id d).fhs = s.fhs := by simp [State.fault]
@[simp] theorem fault_shrs (g : Nat) (f : Fld) (cls : Nat) (t : Tag) (id : Nat) (d : Option Nat) : (s.fault g f cls t id d).shrs = s.shrs := by simp [State.fault]
@[simp] theorem fault_mor (g : Nat) (f : Fld) (cls : Nat) (t : Tag) (id : Nat) (d : Option Nat) : (s.fault g f cls t id d).mor = s.mor := by simp [State.fault]
@[simp] theorem fault_sers (g : Nat) (f : Fld) (cls : Nat) (t : Tag) (id : Nat) (d : Option Nat) : (s.fault g f cls t id d).sers = s.sers := by simp [State.fault]
@[simp] theorem fault_fw (g : Nat) (f : Fld) (cls : Nat) (t : Tag) (id : Nat) (d : Option Nat) : (s.fault g f cls t id d).fw = s.fw := by simp [State.fault]
@[simp] theorem fault_sec (g : Nat) (f : Fld) (cls : Nat) (t : Tag) (id : Nat) (d : Option Nat) : (s.fault g f cls t id d).sec = s.sec := by simp [State.fault]
@[simp] theorem fault_mgmt (g : Nat) (f : Fld) (cls : Nat) (t : Tag) (id : Nat) (d : Option Nat) : (s.fault g f cls t id d).mgmt = s.mgmt := by simp [State.fault]
@[simp] theorem fault_rsp (g : Nat) (f : Fld) (cls : Nat) (t : Tag) (id : Nat) (d : Option Nat) : (s.fault g f cls t id d).rsp = s.rsp := by simp [State.fault]
@[simp] theorem fault_out (g : Nat) (f : Fld) (cls : Nat) (t : Tag) (id : Nat) (d : Option Nat) : (s.fault g f cls t id d).out = s.out := by simp [State.fault]

@[simp] theorem discardWork_pending (g id : Nat) : (s.discardWork g id).pending = s.pending := by simp [State.discardWork]
@[simp] theorem discardWork_live (g id : Nat) : (s.discardWork g id).live = s.live := by simp [State.discardWork]
@[simp] theorem discardWork_mem (g id : Nat) : (s.discardWork g id).mem = s.mem := by simp [State.discardWork]
@[simp] theorem discardWork_tags (g id : Nat) : (s.discardWork g id).tags = s.tags := by simp [State.discardWork]
@[simp] theorem discardWork_side (g id : Nat) : (s.discardWork g id).side = s.side := by simp [State.discardWork]
@[simp] theorem discardWork_accSide (g id : Nat) : (s.discardWork g id).accSide = s.accSide := by simp [State.discardWork]
@[simp] theorem discardWork_dramPoison (g id : Nat) : (s.discardWork g id).dramPoison = s.dramPoison := by simp [State.discardWork]
@[simp] theorem discardWork_floes (g id : Nat) : (s.discardWork g id).floes = s.floes := by simp [State.discardWork]
@[simp] theorem discardWork_runs (g id : Nat) : (s.discardWork g id).runs = s.runs := by simp [State.discardWork]
@[simp] theorem discardWork_mst (g id : Nat) : (s.discardWork g id).mst = s.mst := by simp [State.discardWork]
@[simp] theorem discardWork_hals (g id : Nat) : (s.discardWork g id).hals = s.hals := by simp [State.discardWork]
@[simp] theorem discardWork_clusters (g id : Nat) : (s.discardWork g id).clusters = s.clusters := by simp [State.discardWork]
@[simp] theorem discardWork_tb (g id : Nat) : (s.discardWork g id).tb = s.tb := by simp [State.discardWork]
@[simp] theorem discardWork_fhs (g id : Nat) : (s.discardWork g id).fhs = s.fhs := by simp [State.discardWork]
@[simp] theorem discardWork_shrs (g id : Nat) : (s.discardWork g id).shrs = s.shrs := by simp [State.discardWork]
@[simp] theorem discardWork_mor (g id : Nat) : (s.discardWork g id).mor = s.mor := by simp [State.discardWork]
@[simp] theorem discardWork_sers (g id : Nat) : (s.discardWork g id).sers = s.sers := by simp [State.discardWork]
@[simp] theorem discardWork_fw (g id : Nat) : (s.discardWork g id).fw = s.fw := by simp [State.discardWork]
@[simp] theorem discardWork_sec (g id : Nat) : (s.discardWork g id).sec = s.sec := by simp [State.discardWork]
@[simp] theorem discardWork_mgmt (g id : Nat) : (s.discardWork g id).mgmt = s.mgmt := by simp [State.discardWork]
@[simp] theorem discardWork_rsp (g id : Nat) : (s.discardWork g id).rsp = s.rsp := by simp [State.discardWork]
@[simp] theorem discardWork_out (g id : Nat) : (s.discardWork g id).out = s.out := by simp [State.discardWork]

@[simp] theorem fabAddr_pending (a adr : Nat) (w : Bool) : (s.fabAddr a adr w).pending = s.pending := by simp [State.fabAddr]
@[simp] theorem fabAddr_live (a adr : Nat) (w : Bool) : (s.fabAddr a adr w).live = s.live := by simp [State.fabAddr]
@[simp] theorem fabAddr_mem (a adr : Nat) (w : Bool) : (s.fabAddr a adr w).mem = s.mem := by simp [State.fabAddr]
@[simp] theorem fabAddr_tags (a adr : Nat) (w : Bool) : (s.fabAddr a adr w).tags = s.tags := by simp [State.fabAddr]
@[simp] theorem fabAddr_side (a adr : Nat) (w : Bool) : (s.fabAddr a adr w).side = s.side := by simp [State.fabAddr]
@[simp] theorem fabAddr_accSide (a adr : Nat) (w : Bool) : (s.fabAddr a adr w).accSide = s.accSide := by simp [State.fabAddr]
@[simp] theorem fabAddr_dramPoison (a adr : Nat) (w : Bool) : (s.fabAddr a adr w).dramPoison = s.dramPoison := by simp [State.fabAddr]
@[simp] theorem fabAddr_floes (a adr : Nat) (w : Bool) : (s.fabAddr a adr w).floes = s.floes := by simp [State.fabAddr]
@[simp] theorem fabAddr_runs (a adr : Nat) (w : Bool) : (s.fabAddr a adr w).runs = s.runs := by simp [State.fabAddr]
@[simp] theorem fabAddr_faultQ (a adr : Nat) (w : Bool) : (s.fabAddr a adr w).faultQ = s.faultQ := by simp [State.fabAddr]
@[simp] theorem fabAddr_mst (a adr : Nat) (w : Bool) : (s.fabAddr a adr w).mst = s.mst := by simp [State.fabAddr]
@[simp] theorem fabAddr_hals (a adr : Nat) (w : Bool) : (s.fabAddr a adr w).hals = s.hals := by simp [State.fabAddr]
@[simp] theorem fabAddr_clusters (a adr : Nat) (w : Bool) : (s.fabAddr a adr w).clusters = s.clusters := by simp [State.fabAddr]
@[simp] theorem fabAddr_tb (a adr : Nat) (w : Bool) : (s.fabAddr a adr w).tb = s.tb := by simp [State.fabAddr]
@[simp] theorem fabAddr_fhs (a adr : Nat) (w : Bool) : (s.fabAddr a adr w).fhs = s.fhs := by simp [State.fabAddr]
@[simp] theorem fabAddr_shrs (a adr : Nat) (w : Bool) : (s.fabAddr a adr w).shrs = s.shrs := by simp [State.fabAddr]
@[simp] theorem fabAddr_mor (a adr : Nat) (w : Bool) : (s.fabAddr a adr w).mor = s.mor := by simp [State.fabAddr]
@[simp] theorem fabAddr_sers (a adr : Nat) (w : Bool) : (s.fabAddr a adr w).sers = s.sers := by simp [State.fabAddr]
@[simp] theorem fabAddr_fw (a adr : Nat) (w : Bool) : (s.fabAddr a adr w).fw = s.fw := by simp [State.fabAddr]
@[simp] theorem fabAddr_sec (a adr : Nat) (w : Bool) : (s.fabAddr a adr w).sec = s.sec := by simp [State.fabAddr]
@[simp] theorem fabAddr_mgmt (a adr : Nat) (w : Bool) : (s.fabAddr a adr w).mgmt = s.mgmt := by simp [State.fabAddr]
@[simp] theorem fabAddr_rsp (a adr : Nat) (w : Bool) : (s.fabAddr a adr w).rsp = s.rsp := by simp [State.fabAddr]
@[simp] theorem fabAddr_out (a adr : Nat) (w : Bool) : (s.fabAddr a adr w).out = s.out := by simp [State.fabAddr]

@[simp] theorem unmapped_pending (a adr : Nat) (w : Bool) : (s.unmapped a adr w).pending = s.pending := by simp [State.unmapped]
@[simp] theorem unmapped_live (a adr : Nat) (w : Bool) : (s.unmapped a adr w).live = s.live := by simp [State.unmapped]
@[simp] theorem unmapped_mem (a adr : Nat) (w : Bool) : (s.unmapped a adr w).mem = s.mem := by simp [State.unmapped]
@[simp] theorem unmapped_tags (a adr : Nat) (w : Bool) : (s.unmapped a adr w).tags = s.tags := by simp [State.unmapped]
@[simp] theorem unmapped_side (a adr : Nat) (w : Bool) : (s.unmapped a adr w).side = s.side := by simp [State.unmapped]
@[simp] theorem unmapped_accSide (a adr : Nat) (w : Bool) : (s.unmapped a adr w).accSide = s.accSide := by simp [State.unmapped]
@[simp] theorem unmapped_dramPoison (a adr : Nat) (w : Bool) : (s.unmapped a adr w).dramPoison = s.dramPoison := by simp [State.unmapped]
@[simp] theorem unmapped_floes (a adr : Nat) (w : Bool) : (s.unmapped a adr w).floes = s.floes := by simp [State.unmapped]
@[simp] theorem unmapped_runs (a adr : Nat) (w : Bool) : (s.unmapped a adr w).runs = s.runs := by simp [State.unmapped]
@[simp] theorem unmapped_mst (a adr : Nat) (w : Bool) : (s.unmapped a adr w).mst = s.mst := by simp [State.unmapped]
@[simp] theorem unmapped_hals (a adr : Nat) (w : Bool) : (s.unmapped a adr w).hals = s.hals := by simp [State.unmapped]
@[simp] theorem unmapped_clusters (a adr : Nat) (w : Bool) : (s.unmapped a adr w).clusters = s.clusters := by simp [State.unmapped]
@[simp] theorem unmapped_tb (a adr : Nat) (w : Bool) : (s.unmapped a adr w).tb = s.tb := by simp [State.unmapped]
@[simp] theorem unmapped_fhs (a adr : Nat) (w : Bool) : (s.unmapped a adr w).fhs = s.fhs := by simp [State.unmapped]
@[simp] theorem unmapped_shrs (a adr : Nat) (w : Bool) : (s.unmapped a adr w).shrs = s.shrs := by simp [State.unmapped]
@[simp] theorem unmapped_mor (a adr : Nat) (w : Bool) : (s.unmapped a adr w).mor = s.mor := by simp [State.unmapped]
@[simp] theorem unmapped_sers (a adr : Nat) (w : Bool) : (s.unmapped a adr w).sers = s.sers := by simp [State.unmapped]
@[simp] theorem unmapped_fw (a adr : Nat) (w : Bool) : (s.unmapped a adr w).fw = s.fw := by simp [State.unmapped]
@[simp] theorem unmapped_sec (a adr : Nat) (w : Bool) : (s.unmapped a adr w).sec = s.sec := by simp [State.unmapped]
@[simp] theorem unmapped_mgmt (a adr : Nat) (w : Bool) : (s.unmapped a adr w).mgmt = s.mgmt := by simp [State.unmapped]
@[simp] theorem unmapped_rsp (a adr : Nat) (w : Bool) : (s.unmapped a adr w).rsp = s.rsp := by simp [State.unmapped]
@[simp] theorem unmapped_out (a adr : Nat) (w : Bool) : (s.unmapped a adr w).out = s.out := by simp [State.unmapped]

@[simp] theorem wrByte_pending (a : Nat) (b : Byte) : (s.wrByte a b).pending = s.pending := rfl
@[simp] theorem wrByte_regs (a : Nat) (b : Byte) : (s.wrByte a b).regs = s.regs := rfl
@[simp] theorem wrByte_live (a : Nat) (b : Byte) : (s.wrByte a b).live = s.live := rfl
@[simp] theorem wrByte_tags (a : Nat) (b : Byte) : (s.wrByte a b).tags = s.tags := rfl
@[simp] theorem wrByte_side (a : Nat) (b : Byte) : (s.wrByte a b).side = s.side := rfl
@[simp] theorem wrByte_accSide (a : Nat) (b : Byte) : (s.wrByte a b).accSide = s.accSide := rfl
@[simp] theorem wrByte_dramPoison (a : Nat) (b : Byte) : (s.wrByte a b).dramPoison = s.dramPoison := rfl
@[simp] theorem wrByte_floes (a : Nat) (b : Byte) : (s.wrByte a b).floes = s.floes := rfl
@[simp] theorem wrByte_runs (a : Nat) (b : Byte) : (s.wrByte a b).runs = s.runs := rfl
@[simp] theorem wrByte_faultQ (a : Nat) (b : Byte) : (s.wrByte a b).faultQ = s.faultQ := rfl
@[simp] theorem wrByte_mst (a : Nat) (b : Byte) : (s.wrByte a b).mst = s.mst := rfl
@[simp] theorem wrByte_hals (a : Nat) (b : Byte) : (s.wrByte a b).hals = s.hals := rfl
@[simp] theorem wrByte_clusters (a : Nat) (b : Byte) : (s.wrByte a b).clusters = s.clusters := rfl
@[simp] theorem wrByte_tb (a : Nat) (b : Byte) : (s.wrByte a b).tb = s.tb := rfl
@[simp] theorem wrByte_fhs (a : Nat) (b : Byte) : (s.wrByte a b).fhs = s.fhs := rfl
@[simp] theorem wrByte_shrs (a : Nat) (b : Byte) : (s.wrByte a b).shrs = s.shrs := rfl
@[simp] theorem wrByte_mor (a : Nat) (b : Byte) : (s.wrByte a b).mor = s.mor := rfl
@[simp] theorem wrByte_sers (a : Nat) (b : Byte) : (s.wrByte a b).sers = s.sers := rfl
@[simp] theorem wrByte_fw (a : Nat) (b : Byte) : (s.wrByte a b).fw = s.fw := rfl
@[simp] theorem wrByte_sec (a : Nat) (b : Byte) : (s.wrByte a b).sec = s.sec := rfl
@[simp] theorem wrByte_mgmt (a : Nat) (b : Byte) : (s.wrByte a b).mgmt = s.mgmt := rfl
@[simp] theorem wrByte_rsp (a : Nat) (b : Byte) : (s.wrByte a b).rsp = s.rsp := rfl
@[simp] theorem wrByte_out (a : Nat) (b : Byte) : (s.wrByte a b).out = s.out := rfl

@[simp] theorem wrBytes_pending (a : Nat) (bs : Bytes) : (s.wrBytes a bs).pending = s.pending := by rw [wrBytes_eq]
@[simp] theorem wrBytes_regs (a : Nat) (bs : Bytes) : (s.wrBytes a bs).regs = s.regs := by rw [wrBytes_eq]
@[simp] theorem wrBytes_live (a : Nat) (bs : Bytes) : (s.wrBytes a bs).live = s.live := by rw [wrBytes_eq]
@[simp] theorem wrBytes_tags (a : Nat) (bs : Bytes) : (s.wrBytes a bs).tags = s.tags := by rw [wrBytes_eq]
@[simp] theorem wrBytes_side (a : Nat) (bs : Bytes) : (s.wrBytes a bs).side = s.side := by rw [wrBytes_eq]
@[simp] theorem wrBytes_accSide (a : Nat) (bs : Bytes) : (s.wrBytes a bs).accSide = s.accSide := by rw [wrBytes_eq]
@[simp] theorem wrBytes_dramPoison (a : Nat) (bs : Bytes) : (s.wrBytes a bs).dramPoison = s.dramPoison := by rw [wrBytes_eq]
@[simp] theorem wrBytes_floes (a : Nat) (bs : Bytes) : (s.wrBytes a bs).floes = s.floes := by rw [wrBytes_eq]
@[simp] theorem wrBytes_runs (a : Nat) (bs : Bytes) : (s.wrBytes a bs).runs = s.runs := by rw [wrBytes_eq]
@[simp] theorem wrBytes_faultQ (a : Nat) (bs : Bytes) : (s.wrBytes a bs).faultQ = s.faultQ := by rw [wrBytes_eq]
@[simp] theorem wrBytes_mst (a : Nat) (bs : Bytes) : (s.wrBytes a bs).mst = s.mst := by rw [wrBytes_eq]
@[simp] theorem wrBytes_hals (a : Nat) (bs : Bytes) : (s.wrBytes a bs).hals = s.hals := by rw [wrBytes_eq]
@[simp] theorem wrBytes_clusters (a : Nat) (bs : Bytes) : (s.wrBytes a bs).clusters = s.clusters := by rw [wrBytes_eq]
@[simp] theorem wrBytes_tb (a : Nat) (bs : Bytes) : (s.wrBytes a bs).tb = s.tb := by rw [wrBytes_eq]
@[simp] theorem wrBytes_fhs (a : Nat) (bs : Bytes) : (s.wrBytes a bs).fhs = s.fhs := by rw [wrBytes_eq]
@[simp] theorem wrBytes_shrs (a : Nat) (bs : Bytes) : (s.wrBytes a bs).shrs = s.shrs := by rw [wrBytes_eq]
@[simp] theorem wrBytes_mor (a : Nat) (bs : Bytes) : (s.wrBytes a bs).mor = s.mor := by rw [wrBytes_eq]
@[simp] theorem wrBytes_sers (a : Nat) (bs : Bytes) : (s.wrBytes a bs).sers = s.sers := by rw [wrBytes_eq]
@[simp] theorem wrBytes_fw (a : Nat) (bs : Bytes) : (s.wrBytes a bs).fw = s.fw := by rw [wrBytes_eq]
@[simp] theorem wrBytes_sec (a : Nat) (bs : Bytes) : (s.wrBytes a bs).sec = s.sec := by rw [wrBytes_eq]
@[simp] theorem wrBytes_mgmt (a : Nat) (bs : Bytes) : (s.wrBytes a bs).mgmt = s.mgmt := by rw [wrBytes_eq]
@[simp] theorem wrBytes_rsp (a : Nat) (bs : Bytes) : (s.wrBytes a bs).rsp = s.rsp := by rw [wrBytes_eq]
@[simp] theorem wrBytes_out (a : Nat) (bs : Bytes) : (s.wrBytes a bs).out = s.out := by rw [wrBytes_eq]

@[simp] theorem wrLe_pending (a n v : Nat) : (s.wrLe a n v).pending = s.pending := by simp [State.wrLe]
@[simp] theorem wrLe_regs (a n v : Nat) : (s.wrLe a n v).regs = s.regs := by simp [State.wrLe]
@[simp] theorem wrLe_live (a n v : Nat) : (s.wrLe a n v).live = s.live := by simp [State.wrLe]
@[simp] theorem wrLe_tags (a n v : Nat) : (s.wrLe a n v).tags = s.tags := by simp [State.wrLe]
@[simp] theorem wrLe_side (a n v : Nat) : (s.wrLe a n v).side = s.side := by simp [State.wrLe]
@[simp] theorem wrLe_accSide (a n v : Nat) : (s.wrLe a n v).accSide = s.accSide := by simp [State.wrLe]
@[simp] theorem wrLe_dramPoison (a n v : Nat) : (s.wrLe a n v).dramPoison = s.dramPoison := by simp [State.wrLe]
@[simp] theorem wrLe_floes (a n v : Nat) : (s.wrLe a n v).floes = s.floes := by simp [State.wrLe]
@[simp] theorem wrLe_runs (a n v : Nat) : (s.wrLe a n v).runs = s.runs := by simp [State.wrLe]
@[simp] theorem wrLe_faultQ (a n v : Nat) : (s.wrLe a n v).faultQ = s.faultQ := by simp [State.wrLe]
@[simp] theorem wrLe_mst (a n v : Nat) : (s.wrLe a n v).mst = s.mst := by simp [State.wrLe]
@[simp] theorem wrLe_hals (a n v : Nat) : (s.wrLe a n v).hals = s.hals := by simp [State.wrLe]
@[simp] theorem wrLe_clusters (a n v : Nat) : (s.wrLe a n v).clusters = s.clusters := by simp [State.wrLe]
@[simp] theorem wrLe_tb (a n v : Nat) : (s.wrLe a n v).tb = s.tb := by simp [State.wrLe]
@[simp] theorem wrLe_fhs (a n v : Nat) : (s.wrLe a n v).fhs = s.fhs := by simp [State.wrLe]
@[simp] theorem wrLe_shrs (a n v : Nat) : (s.wrLe a n v).shrs = s.shrs := by simp [State.wrLe]
@[simp] theorem wrLe_mor (a n v : Nat) : (s.wrLe a n v).mor = s.mor := by simp [State.wrLe]
@[simp] theorem wrLe_sers (a n v : Nat) : (s.wrLe a n v).sers = s.sers := by simp [State.wrLe]
@[simp] theorem wrLe_fw (a n v : Nat) : (s.wrLe a n v).fw = s.fw := by simp [State.wrLe]
@[simp] theorem wrLe_sec (a n v : Nat) : (s.wrLe a n v).sec = s.sec := by simp [State.wrLe]
@[simp] theorem wrLe_mgmt (a n v : Nat) : (s.wrLe a n v).mgmt = s.mgmt := by simp [State.wrLe]
@[simp] theorem wrLe_rsp (a n v : Nat) : (s.wrLe a n v).rsp = s.rsp := by simp [State.wrLe]
@[simp] theorem wrLe_out (a n v : Nat) : (s.wrLe a n v).out = s.out := by simp [State.wrLe]

@[simp] theorem zeroMem_pending (lo hi : Nat) : (s.zeroMem lo hi).pending = s.pending := rfl
@[simp] theorem zeroMem_regs (lo hi : Nat) : (s.zeroMem lo hi).regs = s.regs := rfl
@[simp] theorem zeroMem_live (lo hi : Nat) : (s.zeroMem lo hi).live = s.live := rfl
@[simp] theorem zeroMem_tags (lo hi : Nat) : (s.zeroMem lo hi).tags = s.tags := rfl
@[simp] theorem zeroMem_side (lo hi : Nat) : (s.zeroMem lo hi).side = s.side := rfl
@[simp] theorem zeroMem_accSide (lo hi : Nat) : (s.zeroMem lo hi).accSide = s.accSide := rfl
@[simp] theorem zeroMem_dramPoison (lo hi : Nat) : (s.zeroMem lo hi).dramPoison = s.dramPoison := rfl
@[simp] theorem zeroMem_floes (lo hi : Nat) : (s.zeroMem lo hi).floes = s.floes := rfl
@[simp] theorem zeroMem_runs (lo hi : Nat) : (s.zeroMem lo hi).runs = s.runs := rfl
@[simp] theorem zeroMem_faultQ (lo hi : Nat) : (s.zeroMem lo hi).faultQ = s.faultQ := rfl
@[simp] theorem zeroMem_mst (lo hi : Nat) : (s.zeroMem lo hi).mst = s.mst := rfl
@[simp] theorem zeroMem_hals (lo hi : Nat) : (s.zeroMem lo hi).hals = s.hals := rfl
@[simp] theorem zeroMem_clusters (lo hi : Nat) : (s.zeroMem lo hi).clusters = s.clusters := rfl
@[simp] theorem zeroMem_tb (lo hi : Nat) : (s.zeroMem lo hi).tb = s.tb := rfl
@[simp] theorem zeroMem_fhs (lo hi : Nat) : (s.zeroMem lo hi).fhs = s.fhs := rfl
@[simp] theorem zeroMem_shrs (lo hi : Nat) : (s.zeroMem lo hi).shrs = s.shrs := rfl
@[simp] theorem zeroMem_mor (lo hi : Nat) : (s.zeroMem lo hi).mor = s.mor := rfl
@[simp] theorem zeroMem_sers (lo hi : Nat) : (s.zeroMem lo hi).sers = s.sers := rfl
@[simp] theorem zeroMem_fw (lo hi : Nat) : (s.zeroMem lo hi).fw = s.fw := rfl
@[simp] theorem zeroMem_sec (lo hi : Nat) : (s.zeroMem lo hi).sec = s.sec := rfl
@[simp] theorem zeroMem_mgmt (lo hi : Nat) : (s.zeroMem lo hi).mgmt = s.mgmt := rfl
@[simp] theorem zeroMem_rsp (lo hi : Nat) : (s.zeroMem lo hi).rsp = s.rsp := rfl
@[simp] theorem zeroMem_out (lo hi : Nat) : (s.zeroMem lo hi).out = s.out := rfl

@[simp] theorem setTag_pending (a : Nat) (t : Tag) : (s.setTag a t).pending = s.pending := rfl
@[simp] theorem setTag_regs (a : Nat) (t : Tag) : (s.setTag a t).regs = s.regs := rfl
@[simp] theorem setTag_live (a : Nat) (t : Tag) : (s.setTag a t).live = s.live := rfl
@[simp] theorem setTag_mem (a : Nat) (t : Tag) : (s.setTag a t).mem = s.mem := rfl
@[simp] theorem setTag_side (a : Nat) (t : Tag) : (s.setTag a t).side = s.side := rfl
@[simp] theorem setTag_accSide (a : Nat) (t : Tag) : (s.setTag a t).accSide = s.accSide := rfl
@[simp] theorem setTag_dramPoison (a : Nat) (t : Tag) : (s.setTag a t).dramPoison = s.dramPoison := rfl
@[simp] theorem setTag_floes (a : Nat) (t : Tag) : (s.setTag a t).floes = s.floes := rfl
@[simp] theorem setTag_runs (a : Nat) (t : Tag) : (s.setTag a t).runs = s.runs := rfl
@[simp] theorem setTag_faultQ (a : Nat) (t : Tag) : (s.setTag a t).faultQ = s.faultQ := rfl
@[simp] theorem setTag_mst (a : Nat) (t : Tag) : (s.setTag a t).mst = s.mst := rfl
@[simp] theorem setTag_hals (a : Nat) (t : Tag) : (s.setTag a t).hals = s.hals := rfl
@[simp] theorem setTag_clusters (a : Nat) (t : Tag) : (s.setTag a t).clusters = s.clusters := rfl
@[simp] theorem setTag_tb (a : Nat) (t : Tag) : (s.setTag a t).tb = s.tb := rfl
@[simp] theorem setTag_fhs (a : Nat) (t : Tag) : (s.setTag a t).fhs = s.fhs := rfl
@[simp] theorem setTag_shrs (a : Nat) (t : Tag) : (s.setTag a t).shrs = s.shrs := rfl
@[simp] theorem setTag_mor (a : Nat) (t : Tag) : (s.setTag a t).mor = s.mor := rfl
@[simp] theorem setTag_sers (a : Nat) (t : Tag) : (s.setTag a t).sers = s.sers := rfl
@[simp] theorem setTag_fw (a : Nat) (t : Tag) : (s.setTag a t).fw = s.fw := rfl
@[simp] theorem setTag_sec (a : Nat) (t : Tag) : (s.setTag a t).sec = s.sec := rfl
@[simp] theorem setTag_mgmt (a : Nat) (t : Tag) : (s.setTag a t).mgmt = s.mgmt := rfl
@[simp] theorem setTag_rsp (a : Nat) (t : Tag) : (s.setTag a t).rsp = s.rsp := rfl
@[simp] theorem setTag_out (a : Nat) (t : Tag) : (s.setTag a t).out = s.out := rfl

@[simp] theorem setDramPoison_pending (a : Nat) (p : Bool) : (s.setDramPoison a p).pending = s.pending := rfl
@[simp] theorem setDramPoison_regs (a : Nat) (p : Bool) : (s.setDramPoison a p).regs = s.regs := rfl
@[simp] theorem setDramPoison_live (a : Nat) (p : Bool) : (s.setDramPoison a p).live = s.live := rfl
@[simp] theorem setDramPoison_mem (a : Nat) (p : Bool) : (s.setDramPoison a p).mem = s.mem := rfl
@[simp] theorem setDramPoison_tags (a : Nat) (p : Bool) : (s.setDramPoison a p).tags = s.tags := rfl
@[simp] theorem setDramPoison_side (a : Nat) (p : Bool) : (s.setDramPoison a p).side = s.side := rfl
@[simp] theorem setDramPoison_accSide (a : Nat) (p : Bool) : (s.setDramPoison a p).accSide = s.accSide := rfl
@[simp] theorem setDramPoison_floes (a : Nat) (p : Bool) : (s.setDramPoison a p).floes = s.floes := rfl
@[simp] theorem setDramPoison_runs (a : Nat) (p : Bool) : (s.setDramPoison a p).runs = s.runs := rfl
@[simp] theorem setDramPoison_faultQ (a : Nat) (p : Bool) : (s.setDramPoison a p).faultQ = s.faultQ := rfl
@[simp] theorem setDramPoison_mst (a : Nat) (p : Bool) : (s.setDramPoison a p).mst = s.mst := rfl
@[simp] theorem setDramPoison_hals (a : Nat) (p : Bool) : (s.setDramPoison a p).hals = s.hals := rfl
@[simp] theorem setDramPoison_clusters (a : Nat) (p : Bool) : (s.setDramPoison a p).clusters = s.clusters := rfl
@[simp] theorem setDramPoison_tb (a : Nat) (p : Bool) : (s.setDramPoison a p).tb = s.tb := rfl
@[simp] theorem setDramPoison_fhs (a : Nat) (p : Bool) : (s.setDramPoison a p).fhs = s.fhs := rfl
@[simp] theorem setDramPoison_shrs (a : Nat) (p : Bool) : (s.setDramPoison a p).shrs = s.shrs := rfl
@[simp] theorem setDramPoison_mor (a : Nat) (p : Bool) : (s.setDramPoison a p).mor = s.mor := rfl
@[simp] theorem setDramPoison_sers (a : Nat) (p : Bool) : (s.setDramPoison a p).sers = s.sers := rfl
@[simp] theorem setDramPoison_fw (a : Nat) (p : Bool) : (s.setDramPoison a p).fw = s.fw := rfl
@[simp] theorem setDramPoison_sec (a : Nat) (p : Bool) : (s.setDramPoison a p).sec = s.sec := rfl
@[simp] theorem setDramPoison_mgmt (a : Nat) (p : Bool) : (s.setDramPoison a p).mgmt = s.mgmt := rfl
@[simp] theorem setDramPoison_rsp (a : Nat) (p : Bool) : (s.setDramPoison a p).rsp = s.rsp := rfl
@[simp] theorem setDramPoison_out (a : Nat) (p : Bool) : (s.setDramPoison a p).out = s.out := rfl

@[simp] theorem setSide_pending (f h k : Nat) (v : SideSlot) : (s.setSide f h k v).pending = s.pending := rfl
@[simp] theorem setSide_regs (f h k : Nat) (v : SideSlot) : (s.setSide f h k v).regs = s.regs := rfl
@[simp] theorem setSide_live (f h k : Nat) (v : SideSlot) : (s.setSide f h k v).live = s.live := rfl
@[simp] theorem setSide_mem (f h k : Nat) (v : SideSlot) : (s.setSide f h k v).mem = s.mem := rfl
@[simp] theorem setSide_tags (f h k : Nat) (v : SideSlot) : (s.setSide f h k v).tags = s.tags := rfl
@[simp] theorem setSide_accSide (f h k : Nat) (v : SideSlot) : (s.setSide f h k v).accSide = s.accSide := rfl
@[simp] theorem setSide_dramPoison (f h k : Nat) (v : SideSlot) : (s.setSide f h k v).dramPoison = s.dramPoison := rfl
@[simp] theorem setSide_floes (f h k : Nat) (v : SideSlot) : (s.setSide f h k v).floes = s.floes := rfl
@[simp] theorem setSide_runs (f h k : Nat) (v : SideSlot) : (s.setSide f h k v).runs = s.runs := rfl
@[simp] theorem setSide_faultQ (f h k : Nat) (v : SideSlot) : (s.setSide f h k v).faultQ = s.faultQ := rfl
@[simp] theorem setSide_mst (f h k : Nat) (v : SideSlot) : (s.setSide f h k v).mst = s.mst := rfl
@[simp] theorem setSide_hals (f h k : Nat) (v : SideSlot) : (s.setSide f h k v).hals = s.hals := rfl
@[simp] theorem setSide_clusters (f h k : Nat) (v : SideSlot) : (s.setSide f h k v).clusters = s.clusters := rfl
@[simp] theorem setSide_tb (f h k : Nat) (v : SideSlot) : (s.setSide f h k v).tb = s.tb := rfl
@[simp] theorem setSide_fhs (f h k : Nat) (v : SideSlot) : (s.setSide f h k v).fhs = s.fhs := rfl
@[simp] theorem setSide_shrs (f h k : Nat) (v : SideSlot) : (s.setSide f h k v).shrs = s.shrs := rfl
@[simp] theorem setSide_mor (f h k : Nat) (v : SideSlot) : (s.setSide f h k v).mor = s.mor := rfl
@[simp] theorem setSide_sers (f h k : Nat) (v : SideSlot) : (s.setSide f h k v).sers = s.sers := rfl
@[simp] theorem setSide_fw (f h k : Nat) (v : SideSlot) : (s.setSide f h k v).fw = s.fw := rfl
@[simp] theorem setSide_sec (f h k : Nat) (v : SideSlot) : (s.setSide f h k v).sec = s.sec := rfl
@[simp] theorem setSide_mgmt (f h k : Nat) (v : SideSlot) : (s.setSide f h k v).mgmt = s.mgmt := rfl
@[simp] theorem setSide_rsp (f h k : Nat) (v : SideSlot) : (s.setSide f h k v).rsp = s.rsp := rfl
@[simp] theorem setSide_out (f h k : Nat) (v : SideSlot) : (s.setSide f h k v).out = s.out := rfl

@[simp] theorem setAccPoison_pending (f i : Nat) (p : Bool) : (s.setAccPoison f i p).pending = s.pending := rfl
@[simp] theorem setAccPoison_regs (f i : Nat) (p : Bool) : (s.setAccPoison f i p).regs = s.regs := rfl
@[simp] theorem setAccPoison_live (f i : Nat) (p : Bool) : (s.setAccPoison f i p).live = s.live := rfl
@[simp] theorem setAccPoison_mem (f i : Nat) (p : Bool) : (s.setAccPoison f i p).mem = s.mem := rfl
@[simp] theorem setAccPoison_tags (f i : Nat) (p : Bool) : (s.setAccPoison f i p).tags = s.tags := rfl
@[simp] theorem setAccPoison_side (f i : Nat) (p : Bool) : (s.setAccPoison f i p).side = s.side := rfl
@[simp] theorem setAccPoison_dramPoison (f i : Nat) (p : Bool) : (s.setAccPoison f i p).dramPoison = s.dramPoison := rfl
@[simp] theorem setAccPoison_floes (f i : Nat) (p : Bool) : (s.setAccPoison f i p).floes = s.floes := rfl
@[simp] theorem setAccPoison_runs (f i : Nat) (p : Bool) : (s.setAccPoison f i p).runs = s.runs := rfl
@[simp] theorem setAccPoison_faultQ (f i : Nat) (p : Bool) : (s.setAccPoison f i p).faultQ = s.faultQ := rfl
@[simp] theorem setAccPoison_mst (f i : Nat) (p : Bool) : (s.setAccPoison f i p).mst = s.mst := rfl
@[simp] theorem setAccPoison_hals (f i : Nat) (p : Bool) : (s.setAccPoison f i p).hals = s.hals := rfl
@[simp] theorem setAccPoison_clusters (f i : Nat) (p : Bool) : (s.setAccPoison f i p).clusters = s.clusters := rfl
@[simp] theorem setAccPoison_tb (f i : Nat) (p : Bool) : (s.setAccPoison f i p).tb = s.tb := rfl
@[simp] theorem setAccPoison_fhs (f i : Nat) (p : Bool) : (s.setAccPoison f i p).fhs = s.fhs := rfl
@[simp] theorem setAccPoison_shrs (f i : Nat) (p : Bool) : (s.setAccPoison f i p).shrs = s.shrs := rfl
@[simp] theorem setAccPoison_mor (f i : Nat) (p : Bool) : (s.setAccPoison f i p).mor = s.mor := rfl
@[simp] theorem setAccPoison_sers (f i : Nat) (p : Bool) : (s.setAccPoison f i p).sers = s.sers := rfl
@[simp] theorem setAccPoison_fw (f i : Nat) (p : Bool) : (s.setAccPoison f i p).fw = s.fw := rfl
@[simp] theorem setAccPoison_sec (f i : Nat) (p : Bool) : (s.setAccPoison f i p).sec = s.sec := rfl
@[simp] theorem setAccPoison_mgmt (f i : Nat) (p : Bool) : (s.setAccPoison f i p).mgmt = s.mgmt := rfl
@[simp] theorem setAccPoison_rsp (f i : Nat) (p : Bool) : (s.setAccPoison f i p).rsp = s.rsp := rfl
@[simp] theorem setAccPoison_out (f i : Nat) (p : Bool) : (s.setAccPoison f i p).out = s.out := rfl

@[simp] theorem setAcc_pending (f i : Nat) (v : Int) : (s.setAcc f i v).pending = s.pending := by simp [State.setAcc]
@[simp] theorem setAcc_regs (f i : Nat) (v : Int) : (s.setAcc f i v).regs = s.regs := by simp [State.setAcc]
@[simp] theorem setAcc_live (f i : Nat) (v : Int) : (s.setAcc f i v).live = s.live := by simp [State.setAcc]
@[simp] theorem setAcc_tags (f i : Nat) (v : Int) : (s.setAcc f i v).tags = s.tags := by simp [State.setAcc]
@[simp] theorem setAcc_side (f i : Nat) (v : Int) : (s.setAcc f i v).side = s.side := by simp [State.setAcc]
@[simp] theorem setAcc_accSide (f i : Nat) (v : Int) : (s.setAcc f i v).accSide = s.accSide := by simp [State.setAcc]
@[simp] theorem setAcc_dramPoison (f i : Nat) (v : Int) : (s.setAcc f i v).dramPoison = s.dramPoison := by simp [State.setAcc]
@[simp] theorem setAcc_floes (f i : Nat) (v : Int) : (s.setAcc f i v).floes = s.floes := by simp [State.setAcc]
@[simp] theorem setAcc_runs (f i : Nat) (v : Int) : (s.setAcc f i v).runs = s.runs := by simp [State.setAcc]
@[simp] theorem setAcc_faultQ (f i : Nat) (v : Int) : (s.setAcc f i v).faultQ = s.faultQ := by simp [State.setAcc]
@[simp] theorem setAcc_mst (f i : Nat) (v : Int) : (s.setAcc f i v).mst = s.mst := by simp [State.setAcc]
@[simp] theorem setAcc_hals (f i : Nat) (v : Int) : (s.setAcc f i v).hals = s.hals := by simp [State.setAcc]
@[simp] theorem setAcc_clusters (f i : Nat) (v : Int) : (s.setAcc f i v).clusters = s.clusters := by simp [State.setAcc]
@[simp] theorem setAcc_tb (f i : Nat) (v : Int) : (s.setAcc f i v).tb = s.tb := by simp [State.setAcc]
@[simp] theorem setAcc_fhs (f i : Nat) (v : Int) : (s.setAcc f i v).fhs = s.fhs := by simp [State.setAcc]
@[simp] theorem setAcc_shrs (f i : Nat) (v : Int) : (s.setAcc f i v).shrs = s.shrs := by simp [State.setAcc]
@[simp] theorem setAcc_mor (f i : Nat) (v : Int) : (s.setAcc f i v).mor = s.mor := by simp [State.setAcc]
@[simp] theorem setAcc_sers (f i : Nat) (v : Int) : (s.setAcc f i v).sers = s.sers := by simp [State.setAcc]
@[simp] theorem setAcc_fw (f i : Nat) (v : Int) : (s.setAcc f i v).fw = s.fw := by simp [State.setAcc]
@[simp] theorem setAcc_sec (f i : Nat) (v : Int) : (s.setAcc f i v).sec = s.sec := by simp [State.setAcc]
@[simp] theorem setAcc_mgmt (f i : Nat) (v : Int) : (s.setAcc f i v).mgmt = s.mgmt := by simp [State.setAcc]
@[simp] theorem setAcc_rsp (f i : Nat) (v : Int) : (s.setAcc f i v).rsp = s.rsp := by simp [State.setAcc]
@[simp] theorem setAcc_out (f i : Nat) (v : Int) : (s.setAcc f i v).out = s.out := by simp [State.setAcc]

@[simp] theorem wrLine_pending (a : Nat) (bs : Bytes) (t : Tag) : (s.wrLine a bs t).pending = s.pending := by simp [State.wrLine]
@[simp] theorem wrLine_regs (a : Nat) (bs : Bytes) (t : Tag) : (s.wrLine a bs t).regs = s.regs := by simp [State.wrLine]
@[simp] theorem wrLine_live (a : Nat) (bs : Bytes) (t : Tag) : (s.wrLine a bs t).live = s.live := by simp [State.wrLine]
@[simp] theorem wrLine_side (a : Nat) (bs : Bytes) (t : Tag) : (s.wrLine a bs t).side = s.side := by simp [State.wrLine]
@[simp] theorem wrLine_accSide (a : Nat) (bs : Bytes) (t : Tag) : (s.wrLine a bs t).accSide = s.accSide := by simp [State.wrLine]
@[simp] theorem wrLine_dramPoison (a : Nat) (bs : Bytes) (t : Tag) : (s.wrLine a bs t).dramPoison = s.dramPoison := by simp [State.wrLine]
@[simp] theorem wrLine_floes (a : Nat) (bs : Bytes) (t : Tag) : (s.wrLine a bs t).floes = s.floes := by simp [State.wrLine]
@[simp] theorem wrLine_runs (a : Nat) (bs : Bytes) (t : Tag) : (s.wrLine a bs t).runs = s.runs := by simp [State.wrLine]
@[simp] theorem wrLine_faultQ (a : Nat) (bs : Bytes) (t : Tag) : (s.wrLine a bs t).faultQ = s.faultQ := by simp [State.wrLine]
@[simp] theorem wrLine_mst (a : Nat) (bs : Bytes) (t : Tag) : (s.wrLine a bs t).mst = s.mst := by simp [State.wrLine]
@[simp] theorem wrLine_hals (a : Nat) (bs : Bytes) (t : Tag) : (s.wrLine a bs t).hals = s.hals := by simp [State.wrLine]
@[simp] theorem wrLine_clusters (a : Nat) (bs : Bytes) (t : Tag) : (s.wrLine a bs t).clusters = s.clusters := by simp [State.wrLine]
@[simp] theorem wrLine_tb (a : Nat) (bs : Bytes) (t : Tag) : (s.wrLine a bs t).tb = s.tb := by simp [State.wrLine]
@[simp] theorem wrLine_fhs (a : Nat) (bs : Bytes) (t : Tag) : (s.wrLine a bs t).fhs = s.fhs := by simp [State.wrLine]
@[simp] theorem wrLine_shrs (a : Nat) (bs : Bytes) (t : Tag) : (s.wrLine a bs t).shrs = s.shrs := by simp [State.wrLine]
@[simp] theorem wrLine_mor (a : Nat) (bs : Bytes) (t : Tag) : (s.wrLine a bs t).mor = s.mor := by simp [State.wrLine]
@[simp] theorem wrLine_sers (a : Nat) (bs : Bytes) (t : Tag) : (s.wrLine a bs t).sers = s.sers := by simp [State.wrLine]
@[simp] theorem wrLine_fw (a : Nat) (bs : Bytes) (t : Tag) : (s.wrLine a bs t).fw = s.fw := by simp [State.wrLine]
@[simp] theorem wrLine_sec (a : Nat) (bs : Bytes) (t : Tag) : (s.wrLine a bs t).sec = s.sec := by simp [State.wrLine]
@[simp] theorem wrLine_mgmt (a : Nat) (bs : Bytes) (t : Tag) : (s.wrLine a bs t).mgmt = s.mgmt := by simp [State.wrLine]
@[simp] theorem wrLine_rsp (a : Nat) (bs : Bytes) (t : Tag) : (s.wrLine a bs t).rsp = s.rsp := by simp [State.wrLine]
@[simp] theorem wrLine_out (a : Nat) (bs : Bytes) (t : Tag) : (s.wrLine a bs t).out = s.out := by simp [State.wrLine]

@[simp] theorem setFloe_pending (f : Nat) (x : FloeSt) : (s.setFloe f x).pending = s.pending := rfl
@[simp] theorem setFloe_regs (f : Nat) (x : FloeSt) : (s.setFloe f x).regs = s.regs := rfl
@[simp] theorem setFloe_live (f : Nat) (x : FloeSt) : (s.setFloe f x).live = s.live := rfl
@[simp] theorem setFloe_mem (f : Nat) (x : FloeSt) : (s.setFloe f x).mem = s.mem := rfl
@[simp] theorem setFloe_tags (f : Nat) (x : FloeSt) : (s.setFloe f x).tags = s.tags := rfl
@[simp] theorem setFloe_side (f : Nat) (x : FloeSt) : (s.setFloe f x).side = s.side := rfl
@[simp] theorem setFloe_accSide (f : Nat) (x : FloeSt) : (s.setFloe f x).accSide = s.accSide := rfl
@[simp] theorem setFloe_dramPoison (f : Nat) (x : FloeSt) : (s.setFloe f x).dramPoison = s.dramPoison := rfl
@[simp] theorem setFloe_runs (f : Nat) (x : FloeSt) : (s.setFloe f x).runs = s.runs := rfl
@[simp] theorem setFloe_faultQ (f : Nat) (x : FloeSt) : (s.setFloe f x).faultQ = s.faultQ := rfl
@[simp] theorem setFloe_mst (f : Nat) (x : FloeSt) : (s.setFloe f x).mst = s.mst := rfl
@[simp] theorem setFloe_hals (f : Nat) (x : FloeSt) : (s.setFloe f x).hals = s.hals := rfl
@[simp] theorem setFloe_clusters (f : Nat) (x : FloeSt) : (s.setFloe f x).clusters = s.clusters := rfl
@[simp] theorem setFloe_tb (f : Nat) (x : FloeSt) : (s.setFloe f x).tb = s.tb := rfl
@[simp] theorem setFloe_fhs (f : Nat) (x : FloeSt) : (s.setFloe f x).fhs = s.fhs := rfl
@[simp] theorem setFloe_shrs (f : Nat) (x : FloeSt) : (s.setFloe f x).shrs = s.shrs := rfl
@[simp] theorem setFloe_mor (f : Nat) (x : FloeSt) : (s.setFloe f x).mor = s.mor := rfl
@[simp] theorem setFloe_sers (f : Nat) (x : FloeSt) : (s.setFloe f x).sers = s.sers := rfl
@[simp] theorem setFloe_fw (f : Nat) (x : FloeSt) : (s.setFloe f x).fw = s.fw := rfl
@[simp] theorem setFloe_sec (f : Nat) (x : FloeSt) : (s.setFloe f x).sec = s.sec := rfl
@[simp] theorem setFloe_mgmt (f : Nat) (x : FloeSt) : (s.setFloe f x).mgmt = s.mgmt := rfl
@[simp] theorem setFloe_rsp (f : Nat) (x : FloeSt) : (s.setFloe f x).rsp = s.rsp := rfl
@[simp] theorem setFloe_out (f : Nat) (x : FloeSt) : (s.setFloe f x).out = s.out := rfl

@[simp] theorem setCore_pending (f : Nat) (x : CoreSt) : (s.setCore f x).pending = s.pending := rfl
@[simp] theorem setCore_regs (f : Nat) (x : CoreSt) : (s.setCore f x).regs = s.regs := rfl
@[simp] theorem setCore_live (f : Nat) (x : CoreSt) : (s.setCore f x).live = s.live := rfl
@[simp] theorem setCore_mem (f : Nat) (x : CoreSt) : (s.setCore f x).mem = s.mem := rfl
@[simp] theorem setCore_tags (f : Nat) (x : CoreSt) : (s.setCore f x).tags = s.tags := rfl
@[simp] theorem setCore_side (f : Nat) (x : CoreSt) : (s.setCore f x).side = s.side := rfl
@[simp] theorem setCore_accSide (f : Nat) (x : CoreSt) : (s.setCore f x).accSide = s.accSide := rfl
@[simp] theorem setCore_dramPoison (f : Nat) (x : CoreSt) : (s.setCore f x).dramPoison = s.dramPoison := rfl
@[simp] theorem setCore_runs (f : Nat) (x : CoreSt) : (s.setCore f x).runs = s.runs := rfl
@[simp] theorem setCore_faultQ (f : Nat) (x : CoreSt) : (s.setCore f x).faultQ = s.faultQ := rfl
@[simp] theorem setCore_mst (f : Nat) (x : CoreSt) : (s.setCore f x).mst = s.mst := rfl
@[simp] theorem setCore_hals (f : Nat) (x : CoreSt) : (s.setCore f x).hals = s.hals := rfl
@[simp] theorem setCore_clusters (f : Nat) (x : CoreSt) : (s.setCore f x).clusters = s.clusters := rfl
@[simp] theorem setCore_tb (f : Nat) (x : CoreSt) : (s.setCore f x).tb = s.tb := rfl
@[simp] theorem setCore_fhs (f : Nat) (x : CoreSt) : (s.setCore f x).fhs = s.fhs := rfl
@[simp] theorem setCore_shrs (f : Nat) (x : CoreSt) : (s.setCore f x).shrs = s.shrs := rfl
@[simp] theorem setCore_mor (f : Nat) (x : CoreSt) : (s.setCore f x).mor = s.mor := rfl
@[simp] theorem setCore_sers (f : Nat) (x : CoreSt) : (s.setCore f x).sers = s.sers := rfl
@[simp] theorem setCore_fw (f : Nat) (x : CoreSt) : (s.setCore f x).fw = s.fw := rfl
@[simp] theorem setCore_sec (f : Nat) (x : CoreSt) : (s.setCore f x).sec = s.sec := rfl
@[simp] theorem setCore_mgmt (f : Nat) (x : CoreSt) : (s.setCore f x).mgmt = s.mgmt := rfl
@[simp] theorem setCore_rsp (f : Nat) (x : CoreSt) : (s.setCore f x).rsp = s.rsp := rfl
@[simp] theorem setCore_out (f : Nat) (x : CoreSt) : (s.setCore f x).out = s.out := rfl

@[simp] theorem setSpar_pending (f : Nat) (x : SparSt) : (s.setSpar f x).pending = s.pending := rfl
@[simp] theorem setSpar_regs (f : Nat) (x : SparSt) : (s.setSpar f x).regs = s.regs := rfl
@[simp] theorem setSpar_live (f : Nat) (x : SparSt) : (s.setSpar f x).live = s.live := rfl
@[simp] theorem setSpar_mem (f : Nat) (x : SparSt) : (s.setSpar f x).mem = s.mem := rfl
@[simp] theorem setSpar_tags (f : Nat) (x : SparSt) : (s.setSpar f x).tags = s.tags := rfl
@[simp] theorem setSpar_side (f : Nat) (x : SparSt) : (s.setSpar f x).side = s.side := rfl
@[simp] theorem setSpar_accSide (f : Nat) (x : SparSt) : (s.setSpar f x).accSide = s.accSide := rfl
@[simp] theorem setSpar_dramPoison (f : Nat) (x : SparSt) : (s.setSpar f x).dramPoison = s.dramPoison := rfl
@[simp] theorem setSpar_runs (f : Nat) (x : SparSt) : (s.setSpar f x).runs = s.runs := rfl
@[simp] theorem setSpar_faultQ (f : Nat) (x : SparSt) : (s.setSpar f x).faultQ = s.faultQ := rfl
@[simp] theorem setSpar_mst (f : Nat) (x : SparSt) : (s.setSpar f x).mst = s.mst := rfl
@[simp] theorem setSpar_hals (f : Nat) (x : SparSt) : (s.setSpar f x).hals = s.hals := rfl
@[simp] theorem setSpar_clusters (f : Nat) (x : SparSt) : (s.setSpar f x).clusters = s.clusters := rfl
@[simp] theorem setSpar_tb (f : Nat) (x : SparSt) : (s.setSpar f x).tb = s.tb := rfl
@[simp] theorem setSpar_fhs (f : Nat) (x : SparSt) : (s.setSpar f x).fhs = s.fhs := rfl
@[simp] theorem setSpar_shrs (f : Nat) (x : SparSt) : (s.setSpar f x).shrs = s.shrs := rfl
@[simp] theorem setSpar_mor (f : Nat) (x : SparSt) : (s.setSpar f x).mor = s.mor := rfl
@[simp] theorem setSpar_sers (f : Nat) (x : SparSt) : (s.setSpar f x).sers = s.sers := rfl
@[simp] theorem setSpar_fw (f : Nat) (x : SparSt) : (s.setSpar f x).fw = s.fw := rfl
@[simp] theorem setSpar_sec (f : Nat) (x : SparSt) : (s.setSpar f x).sec = s.sec := rfl
@[simp] theorem setSpar_mgmt (f : Nat) (x : SparSt) : (s.setSpar f x).mgmt = s.mgmt := rfl
@[simp] theorem setSpar_rsp (f : Nat) (x : SparSt) : (s.setSpar f x).rsp = s.rsp := rfl
@[simp] theorem setSpar_out (f : Nat) (x : SparSt) : (s.setSpar f x).out = s.out := rfl

@[simp] theorem setExec_pending (f : Nat) (x : Option GaffExec) : (s.setExec f x).pending = s.pending := rfl
@[simp] theorem setExec_regs (f : Nat) (x : Option GaffExec) : (s.setExec f x).regs = s.regs := rfl
@[simp] theorem setExec_live (f : Nat) (x : Option GaffExec) : (s.setExec f x).live = s.live := rfl
@[simp] theorem setExec_mem (f : Nat) (x : Option GaffExec) : (s.setExec f x).mem = s.mem := rfl
@[simp] theorem setExec_tags (f : Nat) (x : Option GaffExec) : (s.setExec f x).tags = s.tags := rfl
@[simp] theorem setExec_side (f : Nat) (x : Option GaffExec) : (s.setExec f x).side = s.side := rfl
@[simp] theorem setExec_accSide (f : Nat) (x : Option GaffExec) : (s.setExec f x).accSide = s.accSide := rfl
@[simp] theorem setExec_dramPoison (f : Nat) (x : Option GaffExec) : (s.setExec f x).dramPoison = s.dramPoison := rfl
@[simp] theorem setExec_runs (f : Nat) (x : Option GaffExec) : (s.setExec f x).runs = s.runs := rfl
@[simp] theorem setExec_faultQ (f : Nat) (x : Option GaffExec) : (s.setExec f x).faultQ = s.faultQ := rfl
@[simp] theorem setExec_mst (f : Nat) (x : Option GaffExec) : (s.setExec f x).mst = s.mst := rfl
@[simp] theorem setExec_hals (f : Nat) (x : Option GaffExec) : (s.setExec f x).hals = s.hals := rfl
@[simp] theorem setExec_clusters (f : Nat) (x : Option GaffExec) : (s.setExec f x).clusters = s.clusters := rfl
@[simp] theorem setExec_tb (f : Nat) (x : Option GaffExec) : (s.setExec f x).tb = s.tb := rfl
@[simp] theorem setExec_fhs (f : Nat) (x : Option GaffExec) : (s.setExec f x).fhs = s.fhs := rfl
@[simp] theorem setExec_shrs (f : Nat) (x : Option GaffExec) : (s.setExec f x).shrs = s.shrs := rfl
@[simp] theorem setExec_mor (f : Nat) (x : Option GaffExec) : (s.setExec f x).mor = s.mor := rfl
@[simp] theorem setExec_sers (f : Nat) (x : Option GaffExec) : (s.setExec f x).sers = s.sers := rfl
@[simp] theorem setExec_fw (f : Nat) (x : Option GaffExec) : (s.setExec f x).fw = s.fw := rfl
@[simp] theorem setExec_sec (f : Nat) (x : Option GaffExec) : (s.setExec f x).sec = s.sec := rfl
@[simp] theorem setExec_mgmt (f : Nat) (x : Option GaffExec) : (s.setExec f x).mgmt = s.mgmt := rfl
@[simp] theorem setExec_rsp (f : Nat) (x : Option GaffExec) : (s.setExec f x).rsp = s.rsp := rfl
@[simp] theorem setExec_out (f : Nat) (x : Option GaffExec) : (s.setExec f x).out = s.out := rfl

@[simp] theorem setRun_pending (r : Nat) (x : Option Run) : (s.setRun r x).pending = s.pending := rfl
@[simp] theorem setRun_regs (r : Nat) (x : Option Run) : (s.setRun r x).regs = s.regs := rfl
@[simp] theorem setRun_live (r : Nat) (x : Option Run) : (s.setRun r x).live = s.live := rfl
@[simp] theorem setRun_mem (r : Nat) (x : Option Run) : (s.setRun r x).mem = s.mem := rfl
@[simp] theorem setRun_tags (r : Nat) (x : Option Run) : (s.setRun r x).tags = s.tags := rfl
@[simp] theorem setRun_side (r : Nat) (x : Option Run) : (s.setRun r x).side = s.side := rfl
@[simp] theorem setRun_accSide (r : Nat) (x : Option Run) : (s.setRun r x).accSide = s.accSide := rfl
@[simp] theorem setRun_dramPoison (r : Nat) (x : Option Run) : (s.setRun r x).dramPoison = s.dramPoison := rfl
@[simp] theorem setRun_floes (r : Nat) (x : Option Run) : (s.setRun r x).floes = s.floes := rfl
@[simp] theorem setRun_faultQ (r : Nat) (x : Option Run) : (s.setRun r x).faultQ = s.faultQ := rfl
@[simp] theorem setRun_mst (r : Nat) (x : Option Run) : (s.setRun r x).mst = s.mst := rfl
@[simp] theorem setRun_hals (r : Nat) (x : Option Run) : (s.setRun r x).hals = s.hals := rfl
@[simp] theorem setRun_clusters (r : Nat) (x : Option Run) : (s.setRun r x).clusters = s.clusters := rfl
@[simp] theorem setRun_tb (r : Nat) (x : Option Run) : (s.setRun r x).tb = s.tb := rfl
@[simp] theorem setRun_fhs (r : Nat) (x : Option Run) : (s.setRun r x).fhs = s.fhs := rfl
@[simp] theorem setRun_shrs (r : Nat) (x : Option Run) : (s.setRun r x).shrs = s.shrs := rfl
@[simp] theorem setRun_mor (r : Nat) (x : Option Run) : (s.setRun r x).mor = s.mor := rfl
@[simp] theorem setRun_sers (r : Nat) (x : Option Run) : (s.setRun r x).sers = s.sers := rfl
@[simp] theorem setRun_fw (r : Nat) (x : Option Run) : (s.setRun r x).fw = s.fw := rfl
@[simp] theorem setRun_sec (r : Nat) (x : Option Run) : (s.setRun r x).sec = s.sec := rfl
@[simp] theorem setRun_mgmt (r : Nat) (x : Option Run) : (s.setRun r x).mgmt = s.mgmt := rfl
@[simp] theorem setRun_rsp (r : Nat) (x : Option Run) : (s.setRun r x).rsp = s.rsp := rfl
@[simp] theorem setRun_out (r : Nat) (x : Option Run) : (s.setRun r x).out = s.out := rfl

@[simp] theorem markLine_pending (c : WorkCtx) (a : Nat) : (s.markLine c a).pending = s.pending := by unfold State.markLine; split <;> (try split) <;> rfl
@[simp] theorem markLine_regs (c : WorkCtx) (a : Nat) : (s.markLine c a).regs = s.regs := by unfold State.markLine; split <;> (try split) <;> rfl
@[simp] theorem markLine_live (c : WorkCtx) (a : Nat) : (s.markLine c a).live = s.live := by unfold State.markLine; split <;> (try split) <;> rfl
@[simp] theorem markLine_mem (c : WorkCtx) (a : Nat) : (s.markLine c a).mem = s.mem := by unfold State.markLine; split <;> (try split) <;> rfl
@[simp] theorem markLine_tags (c : WorkCtx) (a : Nat) : (s.markLine c a).tags = s.tags := by unfold State.markLine; split <;> (try split) <;> rfl
@[simp] theorem markLine_side (c : WorkCtx) (a : Nat) : (s.markLine c a).side = s.side := by unfold State.markLine; split <;> (try split) <;> rfl
@[simp] theorem markLine_accSide (c : WorkCtx) (a : Nat) : (s.markLine c a).accSide = s.accSide := by unfold State.markLine; split <;> (try split) <;> rfl
@[simp] theorem markLine_dramPoison (c : WorkCtx) (a : Nat) : (s.markLine c a).dramPoison = s.dramPoison := by unfold State.markLine; split <;> (try split) <;> rfl
@[simp] theorem markLine_floes (c : WorkCtx) (a : Nat) : (s.markLine c a).floes = s.floes := by unfold State.markLine; split <;> (try split) <;> rfl
@[simp] theorem markLine_runs (c : WorkCtx) (a : Nat) : (s.markLine c a).runs = s.runs := by unfold State.markLine; split <;> (try split) <;> rfl
@[simp] theorem markLine_faultQ (c : WorkCtx) (a : Nat) : (s.markLine c a).faultQ = s.faultQ := by unfold State.markLine; split <;> (try split) <;> rfl
@[simp] theorem markLine_hals (c : WorkCtx) (a : Nat) : (s.markLine c a).hals = s.hals := by unfold State.markLine; split <;> (try split) <;> rfl
@[simp] theorem markLine_clusters (c : WorkCtx) (a : Nat) : (s.markLine c a).clusters = s.clusters := by unfold State.markLine; split <;> (try split) <;> rfl
@[simp] theorem markLine_tb (c : WorkCtx) (a : Nat) : (s.markLine c a).tb = s.tb := by unfold State.markLine; split <;> (try split) <;> rfl
@[simp] theorem markLine_fhs (c : WorkCtx) (a : Nat) : (s.markLine c a).fhs = s.fhs := by unfold State.markLine; split <;> (try split) <;> rfl
@[simp] theorem markLine_shrs (c : WorkCtx) (a : Nat) : (s.markLine c a).shrs = s.shrs := by unfold State.markLine; split <;> (try split) <;> rfl
@[simp] theorem markLine_mor (c : WorkCtx) (a : Nat) : (s.markLine c a).mor = s.mor := by unfold State.markLine; split <;> (try split) <;> rfl
@[simp] theorem markLine_sers (c : WorkCtx) (a : Nat) : (s.markLine c a).sers = s.sers := by unfold State.markLine; split <;> (try split) <;> rfl
@[simp] theorem markLine_fw (c : WorkCtx) (a : Nat) : (s.markLine c a).fw = s.fw := by unfold State.markLine; split <;> (try split) <;> rfl
@[simp] theorem markLine_sec (c : WorkCtx) (a : Nat) : (s.markLine c a).sec = s.sec := by unfold State.markLine; split <;> (try split) <;> rfl
@[simp] theorem markLine_mgmt (c : WorkCtx) (a : Nat) : (s.markLine c a).mgmt = s.mgmt := by unfold State.markLine; split <;> (try split) <;> rfl
@[simp] theorem markLine_rsp (c : WorkCtx) (a : Nat) : (s.markLine c a).rsp = s.rsp := by unfold State.markLine; split <;> (try split) <;> rfl
@[simp] theorem markLine_out (c : WorkCtx) (a : Nat) : (s.markLine c a).out = s.out := by unfold State.markLine; split <;> (try split) <;> rfl

@[simp] theorem commitLine_pending (c : WorkCtx) (a : Nat) (bs : Bytes) (t : Tag) : (s.commitLine c a bs t).pending = s.pending := by simp [State.commitLine]
@[simp] theorem commitLine_regs (c : WorkCtx) (a : Nat) (bs : Bytes) (t : Tag) : (s.commitLine c a bs t).regs = s.regs := by simp [State.commitLine]
@[simp] theorem commitLine_live (c : WorkCtx) (a : Nat) (bs : Bytes) (t : Tag) : (s.commitLine c a bs t).live = s.live := by simp [State.commitLine]
@[simp] theorem commitLine_side (c : WorkCtx) (a : Nat) (bs : Bytes) (t : Tag) : (s.commitLine c a bs t).side = s.side := by simp [State.commitLine]
@[simp] theorem commitLine_accSide (c : WorkCtx) (a : Nat) (bs : Bytes) (t : Tag) : (s.commitLine c a bs t).accSide = s.accSide := by simp [State.commitLine]
@[simp] theorem commitLine_dramPoison (c : WorkCtx) (a : Nat) (bs : Bytes) (t : Tag) : (s.commitLine c a bs t).dramPoison = s.dramPoison := by simp [State.commitLine]
@[simp] theorem commitLine_floes (c : WorkCtx) (a : Nat) (bs : Bytes) (t : Tag) : (s.commitLine c a bs t).floes = s.floes := by simp [State.commitLine]
@[simp] theorem commitLine_runs (c : WorkCtx) (a : Nat) (bs : Bytes) (t : Tag) : (s.commitLine c a bs t).runs = s.runs := by simp [State.commitLine]
@[simp] theorem commitLine_faultQ (c : WorkCtx) (a : Nat) (bs : Bytes) (t : Tag) : (s.commitLine c a bs t).faultQ = s.faultQ := by simp [State.commitLine]
@[simp] theorem commitLine_hals (c : WorkCtx) (a : Nat) (bs : Bytes) (t : Tag) : (s.commitLine c a bs t).hals = s.hals := by simp [State.commitLine]
@[simp] theorem commitLine_clusters (c : WorkCtx) (a : Nat) (bs : Bytes) (t : Tag) : (s.commitLine c a bs t).clusters = s.clusters := by simp [State.commitLine]
@[simp] theorem commitLine_tb (c : WorkCtx) (a : Nat) (bs : Bytes) (t : Tag) : (s.commitLine c a bs t).tb = s.tb := by simp [State.commitLine]
@[simp] theorem commitLine_fhs (c : WorkCtx) (a : Nat) (bs : Bytes) (t : Tag) : (s.commitLine c a bs t).fhs = s.fhs := by simp [State.commitLine]
@[simp] theorem commitLine_shrs (c : WorkCtx) (a : Nat) (bs : Bytes) (t : Tag) : (s.commitLine c a bs t).shrs = s.shrs := by simp [State.commitLine]
@[simp] theorem commitLine_mor (c : WorkCtx) (a : Nat) (bs : Bytes) (t : Tag) : (s.commitLine c a bs t).mor = s.mor := by simp [State.commitLine]
@[simp] theorem commitLine_sers (c : WorkCtx) (a : Nat) (bs : Bytes) (t : Tag) : (s.commitLine c a bs t).sers = s.sers := by simp [State.commitLine]
@[simp] theorem commitLine_fw (c : WorkCtx) (a : Nat) (bs : Bytes) (t : Tag) : (s.commitLine c a bs t).fw = s.fw := by simp [State.commitLine]
@[simp] theorem commitLine_sec (c : WorkCtx) (a : Nat) (bs : Bytes) (t : Tag) : (s.commitLine c a bs t).sec = s.sec := by simp [State.commitLine]
@[simp] theorem commitLine_mgmt (c : WorkCtx) (a : Nat) (bs : Bytes) (t : Tag) : (s.commitLine c a bs t).mgmt = s.mgmt := by simp [State.commitLine]
@[simp] theorem commitLine_rsp (c : WorkCtx) (a : Nat) (bs : Bytes) (t : Tag) : (s.commitLine c a bs t).rsp = s.rsp := by simp [State.commitLine]
@[simp] theorem commitLine_out (c : WorkCtx) (a : Nat) (bs : Bytes) (t : Tag) : (s.commitLine c a bs t).out = s.out := by simp [State.commitLine]

@[simp] theorem workDone_pending (c : WorkCtx) : (s.workDone c).pending = s.pending := by unfold State.workDone; split <;> (try split) <;> rfl
@[simp] theorem workDone_regs (c : WorkCtx) : (s.workDone c).regs = s.regs := by unfold State.workDone; split <;> (try split) <;> rfl
@[simp] theorem workDone_live (c : WorkCtx) : (s.workDone c).live = s.live := by unfold State.workDone; split <;> (try split) <;> rfl
@[simp] theorem workDone_mem (c : WorkCtx) : (s.workDone c).mem = s.mem := by unfold State.workDone; split <;> (try split) <;> rfl
@[simp] theorem workDone_tags (c : WorkCtx) : (s.workDone c).tags = s.tags := by unfold State.workDone; split <;> (try split) <;> rfl
@[simp] theorem workDone_side (c : WorkCtx) : (s.workDone c).side = s.side := by unfold State.workDone; split <;> (try split) <;> rfl
@[simp] theorem workDone_accSide (c : WorkCtx) : (s.workDone c).accSide = s.accSide := by unfold State.workDone; split <;> (try split) <;> rfl
@[simp] theorem workDone_dramPoison (c : WorkCtx) : (s.workDone c).dramPoison = s.dramPoison := by unfold State.workDone; split <;> (try split) <;> rfl
@[simp] theorem workDone_floes (c : WorkCtx) : (s.workDone c).floes = s.floes := by unfold State.workDone; split <;> (try split) <;> rfl
@[simp] theorem workDone_runs (c : WorkCtx) : (s.workDone c).runs = s.runs := by unfold State.workDone; split <;> (try split) <;> rfl
@[simp] theorem workDone_faultQ (c : WorkCtx) : (s.workDone c).faultQ = s.faultQ := by unfold State.workDone; split <;> (try split) <;> rfl
@[simp] theorem workDone_hals (c : WorkCtx) : (s.workDone c).hals = s.hals := by unfold State.workDone; split <;> (try split) <;> rfl
@[simp] theorem workDone_clusters (c : WorkCtx) : (s.workDone c).clusters = s.clusters := by unfold State.workDone; split <;> (try split) <;> rfl
@[simp] theorem workDone_tb (c : WorkCtx) : (s.workDone c).tb = s.tb := by unfold State.workDone; split <;> (try split) <;> rfl
@[simp] theorem workDone_fhs (c : WorkCtx) : (s.workDone c).fhs = s.fhs := by unfold State.workDone; split <;> (try split) <;> rfl
@[simp] theorem workDone_shrs (c : WorkCtx) : (s.workDone c).shrs = s.shrs := by unfold State.workDone; split <;> (try split) <;> rfl
@[simp] theorem workDone_mor (c : WorkCtx) : (s.workDone c).mor = s.mor := by unfold State.workDone; split <;> (try split) <;> rfl
@[simp] theorem workDone_sers (c : WorkCtx) : (s.workDone c).sers = s.sers := by unfold State.workDone; split <;> (try split) <;> rfl
@[simp] theorem workDone_fw (c : WorkCtx) : (s.workDone c).fw = s.fw := by unfold State.workDone; split <;> (try split) <;> rfl
@[simp] theorem workDone_sec (c : WorkCtx) : (s.workDone c).sec = s.sec := by unfold State.workDone; split <;> (try split) <;> rfl
@[simp] theorem workDone_mgmt (c : WorkCtx) : (s.workDone c).mgmt = s.mgmt := by unfold State.workDone; split <;> (try split) <;> rfl
@[simp] theorem workDone_rsp (c : WorkCtx) : (s.workDone c).rsp = s.rsp := by unfold State.workDone; split <;> (try split) <;> rfl
@[simp] theorem workDone_out (c : WorkCtx) : (s.workDone c).out = s.out := by unfold State.workDone; split <;> (try split) <;> rfl

@[simp] theorem markFailed_pending (l : List Nat) : (s.markFailed l).pending = s.pending := by unfold State.markFailed; dsimp only; split <;> simp
@[simp] theorem markFailed_live (l : List Nat) : (s.markFailed l).live = s.live := by unfold State.markFailed; dsimp only; split <;> simp
@[simp] theorem markFailed_mem (l : List Nat) : (s.markFailed l).mem = s.mem := by unfold State.markFailed; dsimp only; split <;> simp
@[simp] theorem markFailed_tags (l : List Nat) : (s.markFailed l).tags = s.tags := by unfold State.markFailed; dsimp only; split <;> simp
@[simp] theorem markFailed_side (l : List Nat) : (s.markFailed l).side = s.side := by unfold State.markFailed; dsimp only; split <;> simp
@[simp] theorem markFailed_accSide (l : List Nat) : (s.markFailed l).accSide = s.accSide := by unfold State.markFailed; dsimp only; split <;> simp
@[simp] theorem markFailed_dramPoison (l : List Nat) : (s.markFailed l).dramPoison = s.dramPoison := by unfold State.markFailed; dsimp only; split <;> simp
@[simp] theorem markFailed_floes (l : List Nat) : (s.markFailed l).floes = s.floes := by unfold State.markFailed; dsimp only; split <;> simp
@[simp] theorem markFailed_runs (l : List Nat) : (s.markFailed l).runs = s.runs := by unfold State.markFailed; dsimp only; split <;> simp
@[simp] theorem markFailed_faultQ (l : List Nat) : (s.markFailed l).faultQ = s.faultQ := by unfold State.markFailed; dsimp only; split <;> simp
@[simp] theorem markFailed_hals (l : List Nat) : (s.markFailed l).hals = s.hals := by unfold State.markFailed; dsimp only; split <;> simp
@[simp] theorem markFailed_clusters (l : List Nat) : (s.markFailed l).clusters = s.clusters := by unfold State.markFailed; dsimp only; split <;> simp
@[simp] theorem markFailed_tb (l : List Nat) : (s.markFailed l).tb = s.tb := by unfold State.markFailed; dsimp only; split <;> simp
@[simp] theorem markFailed_fhs (l : List Nat) : (s.markFailed l).fhs = s.fhs := by unfold State.markFailed; dsimp only; split <;> simp
@[simp] theorem markFailed_shrs (l : List Nat) : (s.markFailed l).shrs = s.shrs := by unfold State.markFailed; dsimp only; split <;> simp
@[simp] theorem markFailed_mor (l : List Nat) : (s.markFailed l).mor = s.mor := by unfold State.markFailed; dsimp only; split <;> simp
@[simp] theorem markFailed_sers (l : List Nat) : (s.markFailed l).sers = s.sers := by unfold State.markFailed; dsimp only; split <;> simp
@[simp] theorem markFailed_fw (l : List Nat) : (s.markFailed l).fw = s.fw := by unfold State.markFailed; dsimp only; split <;> simp
@[simp] theorem markFailed_sec (l : List Nat) : (s.markFailed l).sec = s.sec := by unfold State.markFailed; dsimp only; split <;> simp
@[simp] theorem markFailed_mgmt (l : List Nat) : (s.markFailed l).mgmt = s.mgmt := by unfold State.markFailed; dsimp only; split <;> simp
@[simp] theorem markFailed_rsp (l : List Nat) : (s.markFailed l).rsp = s.rsp := by unfold State.markFailed; dsimp only; split <;> simp
@[simp] theorem markFailed_out (l : List Nat) : (s.markFailed l).out = s.out := by unfold State.markFailed; dsimp only; split <;> simp

@[simp] theorem workRefused_pending (c : WorkCtx) : (s.workRefused c).pending = s.pending := by simp [State.workRefused]
@[simp] theorem workRefused_live (c : WorkCtx) : (s.workRefused c).live = s.live := by simp [State.workRefused]
@[simp] theorem workRefused_mem (c : WorkCtx) : (s.workRefused c).mem = s.mem := by simp [State.workRefused]
@[simp] theorem workRefused_tags (c : WorkCtx) : (s.workRefused c).tags = s.tags := by simp [State.workRefused]
@[simp] theorem workRefused_side (c : WorkCtx) : (s.workRefused c).side = s.side := by simp [State.workRefused]
@[simp] theorem workRefused_accSide (c : WorkCtx) : (s.workRefused c).accSide = s.accSide := by simp [State.workRefused]
@[simp] theorem workRefused_dramPoison (c : WorkCtx) : (s.workRefused c).dramPoison = s.dramPoison := by simp [State.workRefused]
@[simp] theorem workRefused_floes (c : WorkCtx) : (s.workRefused c).floes = s.floes := by simp [State.workRefused]
@[simp] theorem workRefused_runs (c : WorkCtx) : (s.workRefused c).runs = s.runs := by simp [State.workRefused]
@[simp] theorem workRefused_faultQ (c : WorkCtx) : (s.workRefused c).faultQ = s.faultQ := by simp [State.workRefused]
@[simp] theorem workRefused_hals (c : WorkCtx) : (s.workRefused c).hals = s.hals := by simp [State.workRefused]
@[simp] theorem workRefused_clusters (c : WorkCtx) : (s.workRefused c).clusters = s.clusters := by simp [State.workRefused]
@[simp] theorem workRefused_tb (c : WorkCtx) : (s.workRefused c).tb = s.tb := by simp [State.workRefused]
@[simp] theorem workRefused_fhs (c : WorkCtx) : (s.workRefused c).fhs = s.fhs := by simp [State.workRefused]
@[simp] theorem workRefused_shrs (c : WorkCtx) : (s.workRefused c).shrs = s.shrs := by simp [State.workRefused]
@[simp] theorem workRefused_mor (c : WorkCtx) : (s.workRefused c).mor = s.mor := by simp [State.workRefused]
@[simp] theorem workRefused_sers (c : WorkCtx) : (s.workRefused c).sers = s.sers := by simp [State.workRefused]
@[simp] theorem workRefused_fw (c : WorkCtx) : (s.workRefused c).fw = s.fw := by simp [State.workRefused]
@[simp] theorem workRefused_sec (c : WorkCtx) : (s.workRefused c).sec = s.sec := by simp [State.workRefused]
@[simp] theorem workRefused_mgmt (c : WorkCtx) : (s.workRefused c).mgmt = s.mgmt := by simp [State.workRefused]
@[simp] theorem workRefused_rsp (c : WorkCtx) : (s.workRefused c).rsp = s.rsp := by simp [State.workRefused]
@[simp] theorem workRefused_out (c : WorkCtx) : (s.workRefused c).out = s.out := by simp [State.workRefused]

@[simp] theorem resetPage_pending (g : Nat) (k : Nat → Bool) : (s.resetPage g k).pending = s.pending := rfl
@[simp] theorem resetPage_mem (g : Nat) (k : Nat → Bool) : (s.resetPage g k).mem = s.mem := rfl
@[simp] theorem resetPage_tags (g : Nat) (k : Nat → Bool) : (s.resetPage g k).tags = s.tags := rfl
@[simp] theorem resetPage_side (g : Nat) (k : Nat → Bool) : (s.resetPage g k).side = s.side := rfl
@[simp] theorem resetPage_accSide (g : Nat) (k : Nat → Bool) : (s.resetPage g k).accSide = s.accSide := rfl
@[simp] theorem resetPage_dramPoison (g : Nat) (k : Nat → Bool) : (s.resetPage g k).dramPoison = s.dramPoison := rfl
@[simp] theorem resetPage_floes (g : Nat) (k : Nat → Bool) : (s.resetPage g k).floes = s.floes := rfl
@[simp] theorem resetPage_runs (g : Nat) (k : Nat → Bool) : (s.resetPage g k).runs = s.runs := rfl
@[simp] theorem resetPage_faultQ (g : Nat) (k : Nat → Bool) : (s.resetPage g k).faultQ = s.faultQ := rfl
@[simp] theorem resetPage_mst (g : Nat) (k : Nat → Bool) : (s.resetPage g k).mst = s.mst := rfl
@[simp] theorem resetPage_hals (g : Nat) (k : Nat → Bool) : (s.resetPage g k).hals = s.hals := rfl
@[simp] theorem resetPage_clusters (g : Nat) (k : Nat → Bool) : (s.resetPage g k).clusters = s.clusters := rfl
@[simp] theorem resetPage_tb (g : Nat) (k : Nat → Bool) : (s.resetPage g k).tb = s.tb := rfl
@[simp] theorem resetPage_fhs (g : Nat) (k : Nat → Bool) : (s.resetPage g k).fhs = s.fhs := rfl
@[simp] theorem resetPage_shrs (g : Nat) (k : Nat → Bool) : (s.resetPage g k).shrs = s.shrs := rfl
@[simp] theorem resetPage_mor (g : Nat) (k : Nat → Bool) : (s.resetPage g k).mor = s.mor := rfl
@[simp] theorem resetPage_sers (g : Nat) (k : Nat → Bool) : (s.resetPage g k).sers = s.sers := rfl
@[simp] theorem resetPage_fw (g : Nat) (k : Nat → Bool) : (s.resetPage g k).fw = s.fw := rfl
@[simp] theorem resetPage_sec (g : Nat) (k : Nat → Bool) : (s.resetPage g k).sec = s.sec := rfl
@[simp] theorem resetPage_mgmt (g : Nat) (k : Nat → Bool) : (s.resetPage g k).mgmt = s.mgmt := rfl
@[simp] theorem resetPage_rsp (g : Nat) (k : Nat → Bool) : (s.resetPage g k).rsp = s.rsp := rfl
@[simp] theorem resetPage_out (g : Nat) (k : Nat → Bool) : (s.resetPage g k).out = s.out := rfl

@[simp] theorem setHal_pending (h : Nat) (x : HalSt) : (s.setHal h x).pending = s.pending := rfl
@[simp] theorem setHal_regs (h : Nat) (x : HalSt) : (s.setHal h x).regs = s.regs := rfl
@[simp] theorem setHal_live (h : Nat) (x : HalSt) : (s.setHal h x).live = s.live := rfl
@[simp] theorem setHal_mem (h : Nat) (x : HalSt) : (s.setHal h x).mem = s.mem := rfl
@[simp] theorem setHal_tags (h : Nat) (x : HalSt) : (s.setHal h x).tags = s.tags := rfl
@[simp] theorem setHal_side (h : Nat) (x : HalSt) : (s.setHal h x).side = s.side := rfl
@[simp] theorem setHal_accSide (h : Nat) (x : HalSt) : (s.setHal h x).accSide = s.accSide := rfl
@[simp] theorem setHal_dramPoison (h : Nat) (x : HalSt) : (s.setHal h x).dramPoison = s.dramPoison := rfl
@[simp] theorem setHal_floes (h : Nat) (x : HalSt) : (s.setHal h x).floes = s.floes := rfl
@[simp] theorem setHal_runs (h : Nat) (x : HalSt) : (s.setHal h x).runs = s.runs := rfl
@[simp] theorem setHal_faultQ (h : Nat) (x : HalSt) : (s.setHal h x).faultQ = s.faultQ := rfl
@[simp] theorem setHal_mst (h : Nat) (x : HalSt) : (s.setHal h x).mst = s.mst := rfl
@[simp] theorem setHal_clusters (h : Nat) (x : HalSt) : (s.setHal h x).clusters = s.clusters := rfl
@[simp] theorem setHal_tb (h : Nat) (x : HalSt) : (s.setHal h x).tb = s.tb := rfl
@[simp] theorem setHal_fhs (h : Nat) (x : HalSt) : (s.setHal h x).fhs = s.fhs := rfl
@[simp] theorem setHal_shrs (h : Nat) (x : HalSt) : (s.setHal h x).shrs = s.shrs := rfl
@[simp] theorem setHal_mor (h : Nat) (x : HalSt) : (s.setHal h x).mor = s.mor := rfl
@[simp] theorem setHal_sers (h : Nat) (x : HalSt) : (s.setHal h x).sers = s.sers := rfl
@[simp] theorem setHal_fw (h : Nat) (x : HalSt) : (s.setHal h x).fw = s.fw := rfl
@[simp] theorem setHal_sec (h : Nat) (x : HalSt) : (s.setHal h x).sec = s.sec := rfl
@[simp] theorem setHal_mgmt (h : Nat) (x : HalSt) : (s.setHal h x).mgmt = s.mgmt := rfl
@[simp] theorem setHal_rsp (h : Nat) (x : HalSt) : (s.setHal h x).rsp = s.rsp := rfl
@[simp] theorem setHal_out (h : Nat) (x : HalSt) : (s.setHal h x).out = s.out := rfl

@[simp] theorem putHal_pending (h : Nat) (x : HalSt) : (s.putHal h x).pending = s.pending := by simp [State.putHal]
@[simp] theorem putHal_live (h : Nat) (x : HalSt) : (s.putHal h x).live = s.live := by simp [State.putHal]
@[simp] theorem putHal_mem (h : Nat) (x : HalSt) : (s.putHal h x).mem = s.mem := by simp [State.putHal]
@[simp] theorem putHal_tags (h : Nat) (x : HalSt) : (s.putHal h x).tags = s.tags := by simp [State.putHal]
@[simp] theorem putHal_side (h : Nat) (x : HalSt) : (s.putHal h x).side = s.side := by simp [State.putHal]
@[simp] theorem putHal_accSide (h : Nat) (x : HalSt) : (s.putHal h x).accSide = s.accSide := by simp [State.putHal]
@[simp] theorem putHal_dramPoison (h : Nat) (x : HalSt) : (s.putHal h x).dramPoison = s.dramPoison := by simp [State.putHal]
@[simp] theorem putHal_floes (h : Nat) (x : HalSt) : (s.putHal h x).floes = s.floes := by simp [State.putHal]
@[simp] theorem putHal_runs (h : Nat) (x : HalSt) : (s.putHal h x).runs = s.runs := by simp [State.putHal]
@[simp] theorem putHal_faultQ (h : Nat) (x : HalSt) : (s.putHal h x).faultQ = s.faultQ := by simp [State.putHal]
@[simp] theorem putHal_mst (h : Nat) (x : HalSt) : (s.putHal h x).mst = s.mst := by simp [State.putHal]
@[simp] theorem putHal_clusters (h : Nat) (x : HalSt) : (s.putHal h x).clusters = s.clusters := by simp [State.putHal]
@[simp] theorem putHal_tb (h : Nat) (x : HalSt) : (s.putHal h x).tb = s.tb := by simp [State.putHal]
@[simp] theorem putHal_fhs (h : Nat) (x : HalSt) : (s.putHal h x).fhs = s.fhs := by simp [State.putHal]
@[simp] theorem putHal_shrs (h : Nat) (x : HalSt) : (s.putHal h x).shrs = s.shrs := by simp [State.putHal]
@[simp] theorem putHal_mor (h : Nat) (x : HalSt) : (s.putHal h x).mor = s.mor := by simp [State.putHal]
@[simp] theorem putHal_sers (h : Nat) (x : HalSt) : (s.putHal h x).sers = s.sers := by simp [State.putHal]
@[simp] theorem putHal_fw (h : Nat) (x : HalSt) : (s.putHal h x).fw = s.fw := by simp [State.putHal]
@[simp] theorem putHal_sec (h : Nat) (x : HalSt) : (s.putHal h x).sec = s.sec := by simp [State.putHal]
@[simp] theorem putHal_mgmt (h : Nat) (x : HalSt) : (s.putHal h x).mgmt = s.mgmt := by simp [State.putHal]
@[simp] theorem putHal_rsp (h : Nat) (x : HalSt) : (s.putHal h x).rsp = s.rsp := by simp [State.putHal]
@[simp] theorem putHal_out (h : Nat) (x : HalSt) : (s.putHal h x).out = s.out := by simp [State.putHal]

@[simp] theorem setMst_pending (x : MstSt) : (s.setMst x).pending = s.pending := rfl
@[simp] theorem setMst_regs (x : MstSt) : (s.setMst x).regs = s.regs := rfl
@[simp] theorem setMst_live (x : MstSt) : (s.setMst x).live = s.live := rfl
@[simp] theorem setMst_mem (x : MstSt) : (s.setMst x).mem = s.mem := rfl
@[simp] theorem setMst_tags (x : MstSt) : (s.setMst x).tags = s.tags := rfl
@[simp] theorem setMst_side (x : MstSt) : (s.setMst x).side = s.side := rfl
@[simp] theorem setMst_accSide (x : MstSt) : (s.setMst x).accSide = s.accSide := rfl
@[simp] theorem setMst_dramPoison (x : MstSt) : (s.setMst x).dramPoison = s.dramPoison := rfl
@[simp] theorem setMst_floes (x : MstSt) : (s.setMst x).floes = s.floes := rfl
@[simp] theorem setMst_runs (x : MstSt) : (s.setMst x).runs = s.runs := rfl
@[simp] theorem setMst_faultQ (x : MstSt) : (s.setMst x).faultQ = s.faultQ := rfl
@[simp] theorem setMst_hals (x : MstSt) : (s.setMst x).hals = s.hals := rfl
@[simp] theorem setMst_clusters (x : MstSt) : (s.setMst x).clusters = s.clusters := rfl
@[simp] theorem setMst_tb (x : MstSt) : (s.setMst x).tb = s.tb := rfl
@[simp] theorem setMst_fhs (x : MstSt) : (s.setMst x).fhs = s.fhs := rfl
@[simp] theorem setMst_shrs (x : MstSt) : (s.setMst x).shrs = s.shrs := rfl
@[simp] theorem setMst_mor (x : MstSt) : (s.setMst x).mor = s.mor := rfl
@[simp] theorem setMst_sers (x : MstSt) : (s.setMst x).sers = s.sers := rfl
@[simp] theorem setMst_fw (x : MstSt) : (s.setMst x).fw = s.fw := rfl
@[simp] theorem setMst_sec (x : MstSt) : (s.setMst x).sec = s.sec := rfl
@[simp] theorem setMst_mgmt (x : MstSt) : (s.setMst x).mgmt = s.mgmt := rfl
@[simp] theorem setMst_rsp (x : MstSt) : (s.setMst x).rsp = s.rsp := rfl
@[simp] theorem setMst_out (x : MstSt) : (s.setMst x).out = s.out := rfl

@[simp] theorem setMor_pending (x : MorSt) : (s.setMor x).pending = s.pending := rfl
@[simp] theorem setMor_regs (x : MorSt) : (s.setMor x).regs = s.regs := rfl
@[simp] theorem setMor_live (x : MorSt) : (s.setMor x).live = s.live := rfl
@[simp] theorem setMor_mem (x : MorSt) : (s.setMor x).mem = s.mem := rfl
@[simp] theorem setMor_tags (x : MorSt) : (s.setMor x).tags = s.tags := rfl
@[simp] theorem setMor_side (x : MorSt) : (s.setMor x).side = s.side := rfl
@[simp] theorem setMor_accSide (x : MorSt) : (s.setMor x).accSide = s.accSide := rfl
@[simp] theorem setMor_dramPoison (x : MorSt) : (s.setMor x).dramPoison = s.dramPoison := rfl
@[simp] theorem setMor_floes (x : MorSt) : (s.setMor x).floes = s.floes := rfl
@[simp] theorem setMor_runs (x : MorSt) : (s.setMor x).runs = s.runs := rfl
@[simp] theorem setMor_faultQ (x : MorSt) : (s.setMor x).faultQ = s.faultQ := rfl
@[simp] theorem setMor_mst (x : MorSt) : (s.setMor x).mst = s.mst := rfl
@[simp] theorem setMor_hals (x : MorSt) : (s.setMor x).hals = s.hals := rfl
@[simp] theorem setMor_clusters (x : MorSt) : (s.setMor x).clusters = s.clusters := rfl
@[simp] theorem setMor_tb (x : MorSt) : (s.setMor x).tb = s.tb := rfl
@[simp] theorem setMor_fhs (x : MorSt) : (s.setMor x).fhs = s.fhs := rfl
@[simp] theorem setMor_shrs (x : MorSt) : (s.setMor x).shrs = s.shrs := rfl
@[simp] theorem setMor_sers (x : MorSt) : (s.setMor x).sers = s.sers := rfl
@[simp] theorem setMor_fw (x : MorSt) : (s.setMor x).fw = s.fw := rfl
@[simp] theorem setMor_sec (x : MorSt) : (s.setMor x).sec = s.sec := rfl
@[simp] theorem setMor_mgmt (x : MorSt) : (s.setMor x).mgmt = s.mgmt := rfl
@[simp] theorem setMor_rsp (x : MorSt) : (s.setMor x).rsp = s.rsp := rfl
@[simp] theorem setMor_out (x : MorSt) : (s.setMor x).out = s.out := rfl

@[simp] theorem setFirnLines_pending (k : Nat) (x : List FirnWay) : (s.setFirnLines k x).pending = s.pending := rfl
@[simp] theorem setFirnLines_regs (k : Nat) (x : List FirnWay) : (s.setFirnLines k x).regs = s.regs := rfl
@[simp] theorem setFirnLines_live (k : Nat) (x : List FirnWay) : (s.setFirnLines k x).live = s.live := rfl
@[simp] theorem setFirnLines_mem (k : Nat) (x : List FirnWay) : (s.setFirnLines k x).mem = s.mem := rfl
@[simp] theorem setFirnLines_tags (k : Nat) (x : List FirnWay) : (s.setFirnLines k x).tags = s.tags := rfl
@[simp] theorem setFirnLines_side (k : Nat) (x : List FirnWay) : (s.setFirnLines k x).side = s.side := rfl
@[simp] theorem setFirnLines_accSide (k : Nat) (x : List FirnWay) : (s.setFirnLines k x).accSide = s.accSide := rfl
@[simp] theorem setFirnLines_dramPoison (k : Nat) (x : List FirnWay) : (s.setFirnLines k x).dramPoison = s.dramPoison := rfl
@[simp] theorem setFirnLines_floes (k : Nat) (x : List FirnWay) : (s.setFirnLines k x).floes = s.floes := rfl
@[simp] theorem setFirnLines_runs (k : Nat) (x : List FirnWay) : (s.setFirnLines k x).runs = s.runs := rfl
@[simp] theorem setFirnLines_faultQ (k : Nat) (x : List FirnWay) : (s.setFirnLines k x).faultQ = s.faultQ := rfl
@[simp] theorem setFirnLines_mst (k : Nat) (x : List FirnWay) : (s.setFirnLines k x).mst = s.mst := rfl
@[simp] theorem setFirnLines_hals (k : Nat) (x : List FirnWay) : (s.setFirnLines k x).hals = s.hals := rfl
@[simp] theorem setFirnLines_clusters (k : Nat) (x : List FirnWay) : (s.setFirnLines k x).clusters = s.clusters := rfl
@[simp] theorem setFirnLines_tb (k : Nat) (x : List FirnWay) : (s.setFirnLines k x).tb = s.tb := rfl
@[simp] theorem setFirnLines_fhs (k : Nat) (x : List FirnWay) : (s.setFirnLines k x).fhs = s.fhs := rfl
@[simp] theorem setFirnLines_shrs (k : Nat) (x : List FirnWay) : (s.setFirnLines k x).shrs = s.shrs := rfl
@[simp] theorem setFirnLines_mor (k : Nat) (x : List FirnWay) : (s.setFirnLines k x).mor = s.mor := rfl
@[simp] theorem setFirnLines_sers (k : Nat) (x : List FirnWay) : (s.setFirnLines k x).sers = s.sers := rfl
@[simp] theorem setFirnLines_fw (k : Nat) (x : List FirnWay) : (s.setFirnLines k x).fw = s.fw := rfl
@[simp] theorem setFirnLines_sec (k : Nat) (x : List FirnWay) : (s.setFirnLines k x).sec = s.sec := rfl
@[simp] theorem setFirnLines_mgmt (k : Nat) (x : List FirnWay) : (s.setFirnLines k x).mgmt = s.mgmt := rfl
@[simp] theorem setFirnLines_rsp (k : Nat) (x : List FirnWay) : (s.setFirnLines k x).rsp = s.rsp := rfl
@[simp] theorem setFirnLines_out (k : Nat) (x : List FirnWay) : (s.setFirnLines k x).out = s.out := rfl

@[simp] theorem setFh_pending (p : Nat) (x : FhSt) : (s.setFh p x).pending = s.pending := rfl
@[simp] theorem setFh_regs (p : Nat) (x : FhSt) : (s.setFh p x).regs = s.regs := rfl
@[simp] theorem setFh_live (p : Nat) (x : FhSt) : (s.setFh p x).live = s.live := rfl
@[simp] theorem setFh_mem (p : Nat) (x : FhSt) : (s.setFh p x).mem = s.mem := rfl
@[simp] theorem setFh_tags (p : Nat) (x : FhSt) : (s.setFh p x).tags = s.tags := rfl
@[simp] theorem setFh_side (p : Nat) (x : FhSt) : (s.setFh p x).side = s.side := rfl
@[simp] theorem setFh_accSide (p : Nat) (x : FhSt) : (s.setFh p x).accSide = s.accSide := rfl
@[simp] theorem setFh_dramPoison (p : Nat) (x : FhSt) : (s.setFh p x).dramPoison = s.dramPoison := rfl
@[simp] theorem setFh_floes (p : Nat) (x : FhSt) : (s.setFh p x).floes = s.floes := rfl
@[simp] theorem setFh_runs (p : Nat) (x : FhSt) : (s.setFh p x).runs = s.runs := rfl
@[simp] theorem setFh_faultQ (p : Nat) (x : FhSt) : (s.setFh p x).faultQ = s.faultQ := rfl
@[simp] theorem setFh_mst (p : Nat) (x : FhSt) : (s.setFh p x).mst = s.mst := rfl
@[simp] theorem setFh_hals (p : Nat) (x : FhSt) : (s.setFh p x).hals = s.hals := rfl
@[simp] theorem setFh_clusters (p : Nat) (x : FhSt) : (s.setFh p x).clusters = s.clusters := rfl
@[simp] theorem setFh_tb (p : Nat) (x : FhSt) : (s.setFh p x).tb = s.tb := rfl
@[simp] theorem setFh_shrs (p : Nat) (x : FhSt) : (s.setFh p x).shrs = s.shrs := rfl
@[simp] theorem setFh_mor (p : Nat) (x : FhSt) : (s.setFh p x).mor = s.mor := rfl
@[simp] theorem setFh_sers (p : Nat) (x : FhSt) : (s.setFh p x).sers = s.sers := rfl
@[simp] theorem setFh_fw (p : Nat) (x : FhSt) : (s.setFh p x).fw = s.fw := rfl
@[simp] theorem setFh_sec (p : Nat) (x : FhSt) : (s.setFh p x).sec = s.sec := rfl
@[simp] theorem setFh_mgmt (p : Nat) (x : FhSt) : (s.setFh p x).mgmt = s.mgmt := rfl
@[simp] theorem setFh_rsp (p : Nat) (x : FhSt) : (s.setFh p x).rsp = s.rsp := rfl
@[simp] theorem setFh_out (p : Nat) (x : FhSt) : (s.setFh p x).out = s.out := rfl

@[simp] theorem setShr_pending (p : Nat) (x : ShrSt) : (s.setShr p x).pending = s.pending := rfl
@[simp] theorem setShr_regs (p : Nat) (x : ShrSt) : (s.setShr p x).regs = s.regs := rfl
@[simp] theorem setShr_live (p : Nat) (x : ShrSt) : (s.setShr p x).live = s.live := rfl
@[simp] theorem setShr_mem (p : Nat) (x : ShrSt) : (s.setShr p x).mem = s.mem := rfl
@[simp] theorem setShr_tags (p : Nat) (x : ShrSt) : (s.setShr p x).tags = s.tags := rfl
@[simp] theorem setShr_side (p : Nat) (x : ShrSt) : (s.setShr p x).side = s.side := rfl
@[simp] theorem setShr_accSide (p : Nat) (x : ShrSt) : (s.setShr p x).accSide = s.accSide := rfl
@[simp] theorem setShr_dramPoison (p : Nat) (x : ShrSt) : (s.setShr p x).dramPoison = s.dramPoison := rfl
@[simp] theorem setShr_floes (p : Nat) (x : ShrSt) : (s.setShr p x).floes = s.floes := rfl
@[simp] theorem setShr_runs (p : Nat) (x : ShrSt) : (s.setShr p x).runs = s.runs := rfl
@[simp] theorem setShr_faultQ (p : Nat) (x : ShrSt) : (s.setShr p x).faultQ = s.faultQ := rfl
@[simp] theorem setShr_mst (p : Nat) (x : ShrSt) : (s.setShr p x).mst = s.mst := rfl
@[simp] theorem setShr_hals (p : Nat) (x : ShrSt) : (s.setShr p x).hals = s.hals := rfl
@[simp] theorem setShr_clusters (p : Nat) (x : ShrSt) : (s.setShr p x).clusters = s.clusters := rfl
@[simp] theorem setShr_tb (p : Nat) (x : ShrSt) : (s.setShr p x).tb = s.tb := rfl
@[simp] theorem setShr_fhs (p : Nat) (x : ShrSt) : (s.setShr p x).fhs = s.fhs := rfl
@[simp] theorem setShr_mor (p : Nat) (x : ShrSt) : (s.setShr p x).mor = s.mor := rfl
@[simp] theorem setShr_sers (p : Nat) (x : ShrSt) : (s.setShr p x).sers = s.sers := rfl
@[simp] theorem setShr_fw (p : Nat) (x : ShrSt) : (s.setShr p x).fw = s.fw := rfl
@[simp] theorem setShr_sec (p : Nat) (x : ShrSt) : (s.setShr p x).sec = s.sec := rfl
@[simp] theorem setShr_mgmt (p : Nat) (x : ShrSt) : (s.setShr p x).mgmt = s.mgmt := rfl
@[simp] theorem setShr_rsp (p : Nat) (x : ShrSt) : (s.setShr p x).rsp = s.rsp := rfl
@[simp] theorem setShr_out (p : Nat) (x : ShrSt) : (s.setShr p x).out = s.out := rfl

@[simp] theorem setMod_pending (p : Nat) (x : ModSt) : (s.setMod p x).pending = s.pending := rfl
@[simp] theorem setMod_regs (p : Nat) (x : ModSt) : (s.setMod p x).regs = s.regs := rfl
@[simp] theorem setMod_live (p : Nat) (x : ModSt) : (s.setMod p x).live = s.live := rfl
@[simp] theorem setMod_mem (p : Nat) (x : ModSt) : (s.setMod p x).mem = s.mem := rfl
@[simp] theorem setMod_tags (p : Nat) (x : ModSt) : (s.setMod p x).tags = s.tags := rfl
@[simp] theorem setMod_side (p : Nat) (x : ModSt) : (s.setMod p x).side = s.side := rfl
@[simp] theorem setMod_accSide (p : Nat) (x : ModSt) : (s.setMod p x).accSide = s.accSide := rfl
@[simp] theorem setMod_dramPoison (p : Nat) (x : ModSt) : (s.setMod p x).dramPoison = s.dramPoison := rfl
@[simp] theorem setMod_floes (p : Nat) (x : ModSt) : (s.setMod p x).floes = s.floes := rfl
@[simp] theorem setMod_runs (p : Nat) (x : ModSt) : (s.setMod p x).runs = s.runs := rfl
@[simp] theorem setMod_faultQ (p : Nat) (x : ModSt) : (s.setMod p x).faultQ = s.faultQ := rfl
@[simp] theorem setMod_mst (p : Nat) (x : ModSt) : (s.setMod p x).mst = s.mst := rfl
@[simp] theorem setMod_hals (p : Nat) (x : ModSt) : (s.setMod p x).hals = s.hals := rfl
@[simp] theorem setMod_clusters (p : Nat) (x : ModSt) : (s.setMod p x).clusters = s.clusters := rfl
@[simp] theorem setMod_tb (p : Nat) (x : ModSt) : (s.setMod p x).tb = s.tb := rfl
@[simp] theorem setMod_fhs (p : Nat) (x : ModSt) : (s.setMod p x).fhs = s.fhs := rfl
@[simp] theorem setMod_shrs (p : Nat) (x : ModSt) : (s.setMod p x).shrs = s.shrs := rfl
@[simp] theorem setMod_mor (p : Nat) (x : ModSt) : (s.setMod p x).mor = s.mor := rfl
@[simp] theorem setMod_sers (p : Nat) (x : ModSt) : (s.setMod p x).sers = s.sers := rfl
@[simp] theorem setMod_fw (p : Nat) (x : ModSt) : (s.setMod p x).fw = s.fw := rfl
@[simp] theorem setMod_sec (p : Nat) (x : ModSt) : (s.setMod p x).sec = s.sec := rfl
@[simp] theorem setMod_mgmt (p : Nat) (x : ModSt) : (s.setMod p x).mgmt = s.mgmt := rfl
@[simp] theorem setMod_rsp (p : Nat) (x : ModSt) : (s.setMod p x).rsp = s.rsp := rfl
@[simp] theorem setMod_out (p : Nat) (x : ModSt) : (s.setMod p x).out = s.out := rfl

@[simp] theorem setFw_pending (x : FwSt) : (s.setFw x).pending = s.pending := rfl
@[simp] theorem setFw_regs (x : FwSt) : (s.setFw x).regs = s.regs := rfl
@[simp] theorem setFw_live (x : FwSt) : (s.setFw x).live = s.live := rfl
@[simp] theorem setFw_mem (x : FwSt) : (s.setFw x).mem = s.mem := rfl
@[simp] theorem setFw_tags (x : FwSt) : (s.setFw x).tags = s.tags := rfl
@[simp] theorem setFw_side (x : FwSt) : (s.setFw x).side = s.side := rfl
@[simp] theorem setFw_accSide (x : FwSt) : (s.setFw x).accSide = s.accSide := rfl
@[simp] theorem setFw_dramPoison (x : FwSt) : (s.setFw x).dramPoison = s.dramPoison := rfl
@[simp] theorem setFw_floes (x : FwSt) : (s.setFw x).floes = s.floes := rfl
@[simp] theorem setFw_runs (x : FwSt) : (s.setFw x).runs = s.runs := rfl
@[simp] theorem setFw_faultQ (x : FwSt) : (s.setFw x).faultQ = s.faultQ := rfl
@[simp] theorem setFw_mst (x : FwSt) : (s.setFw x).mst = s.mst := rfl
@[simp] theorem setFw_hals (x : FwSt) : (s.setFw x).hals = s.hals := rfl
@[simp] theorem setFw_clusters (x : FwSt) : (s.setFw x).clusters = s.clusters := rfl
@[simp] theorem setFw_tb (x : FwSt) : (s.setFw x).tb = s.tb := rfl
@[simp] theorem setFw_fhs (x : FwSt) : (s.setFw x).fhs = s.fhs := rfl
@[simp] theorem setFw_shrs (x : FwSt) : (s.setFw x).shrs = s.shrs := rfl
@[simp] theorem setFw_mor (x : FwSt) : (s.setFw x).mor = s.mor := rfl
@[simp] theorem setFw_sers (x : FwSt) : (s.setFw x).sers = s.sers := rfl
@[simp] theorem setFw_sec (x : FwSt) : (s.setFw x).sec = s.sec := rfl
@[simp] theorem setFw_mgmt (x : FwSt) : (s.setFw x).mgmt = s.mgmt := rfl
@[simp] theorem setFw_rsp (x : FwSt) : (s.setFw x).rsp = s.rsp := rfl
@[simp] theorem setFw_out (x : FwSt) : (s.setFw x).out = s.out := rfl

@[simp] theorem setSec_pending (x : SecSt) : (s.setSec x).pending = s.pending := rfl
@[simp] theorem setSec_regs (x : SecSt) : (s.setSec x).regs = s.regs := rfl
@[simp] theorem setSec_live (x : SecSt) : (s.setSec x).live = s.live := rfl
@[simp] theorem setSec_mem (x : SecSt) : (s.setSec x).mem = s.mem := rfl
@[simp] theorem setSec_tags (x : SecSt) : (s.setSec x).tags = s.tags := rfl
@[simp] theorem setSec_side (x : SecSt) : (s.setSec x).side = s.side := rfl
@[simp] theorem setSec_accSide (x : SecSt) : (s.setSec x).accSide = s.accSide := rfl
@[simp] theorem setSec_dramPoison (x : SecSt) : (s.setSec x).dramPoison = s.dramPoison := rfl
@[simp] theorem setSec_floes (x : SecSt) : (s.setSec x).floes = s.floes := rfl
@[simp] theorem setSec_runs (x : SecSt) : (s.setSec x).runs = s.runs := rfl
@[simp] theorem setSec_faultQ (x : SecSt) : (s.setSec x).faultQ = s.faultQ := rfl
@[simp] theorem setSec_mst (x : SecSt) : (s.setSec x).mst = s.mst := rfl
@[simp] theorem setSec_hals (x : SecSt) : (s.setSec x).hals = s.hals := rfl
@[simp] theorem setSec_clusters (x : SecSt) : (s.setSec x).clusters = s.clusters := rfl
@[simp] theorem setSec_tb (x : SecSt) : (s.setSec x).tb = s.tb := rfl
@[simp] theorem setSec_fhs (x : SecSt) : (s.setSec x).fhs = s.fhs := rfl
@[simp] theorem setSec_shrs (x : SecSt) : (s.setSec x).shrs = s.shrs := rfl
@[simp] theorem setSec_mor (x : SecSt) : (s.setSec x).mor = s.mor := rfl
@[simp] theorem setSec_sers (x : SecSt) : (s.setSec x).sers = s.sers := rfl
@[simp] theorem setSec_fw (x : SecSt) : (s.setSec x).fw = s.fw := rfl
@[simp] theorem setSec_mgmt (x : SecSt) : (s.setSec x).mgmt = s.mgmt := rfl
@[simp] theorem setSec_rsp (x : SecSt) : (s.setSec x).rsp = s.rsp := rfl
@[simp] theorem setSec_out (x : SecSt) : (s.setSec x).out = s.out := rfl

@[simp] theorem setMgmt_pending (x : MgmtSt) : (s.setMgmt x).pending = s.pending := rfl
@[simp] theorem setMgmt_regs (x : MgmtSt) : (s.setMgmt x).regs = s.regs := rfl
@[simp] theorem setMgmt_live (x : MgmtSt) : (s.setMgmt x).live = s.live := rfl
@[simp] theorem setMgmt_mem (x : MgmtSt) : (s.setMgmt x).mem = s.mem := rfl
@[simp] theorem setMgmt_tags (x : MgmtSt) : (s.setMgmt x).tags = s.tags := rfl
@[simp] theorem setMgmt_side (x : MgmtSt) : (s.setMgmt x).side = s.side := rfl
@[simp] theorem setMgmt_accSide (x : MgmtSt) : (s.setMgmt x).accSide = s.accSide := rfl
@[simp] theorem setMgmt_dramPoison (x : MgmtSt) : (s.setMgmt x).dramPoison = s.dramPoison := rfl
@[simp] theorem setMgmt_floes (x : MgmtSt) : (s.setMgmt x).floes = s.floes := rfl
@[simp] theorem setMgmt_runs (x : MgmtSt) : (s.setMgmt x).runs = s.runs := rfl
@[simp] theorem setMgmt_faultQ (x : MgmtSt) : (s.setMgmt x).faultQ = s.faultQ := rfl
@[simp] theorem setMgmt_mst (x : MgmtSt) : (s.setMgmt x).mst = s.mst := rfl
@[simp] theorem setMgmt_hals (x : MgmtSt) : (s.setMgmt x).hals = s.hals := rfl
@[simp] theorem setMgmt_clusters (x : MgmtSt) : (s.setMgmt x).clusters = s.clusters := rfl
@[simp] theorem setMgmt_tb (x : MgmtSt) : (s.setMgmt x).tb = s.tb := rfl
@[simp] theorem setMgmt_fhs (x : MgmtSt) : (s.setMgmt x).fhs = s.fhs := rfl
@[simp] theorem setMgmt_shrs (x : MgmtSt) : (s.setMgmt x).shrs = s.shrs := rfl
@[simp] theorem setMgmt_mor (x : MgmtSt) : (s.setMgmt x).mor = s.mor := rfl
@[simp] theorem setMgmt_sers (x : MgmtSt) : (s.setMgmt x).sers = s.sers := rfl
@[simp] theorem setMgmt_fw (x : MgmtSt) : (s.setMgmt x).fw = s.fw := rfl
@[simp] theorem setMgmt_sec (x : MgmtSt) : (s.setMgmt x).sec = s.sec := rfl
@[simp] theorem setMgmt_rsp (x : MgmtSt) : (s.setMgmt x).rsp = s.rsp := rfl
@[simp] theorem setMgmt_out (x : MgmtSt) : (s.setMgmt x).out = s.out := rfl

@[simp] theorem setCluster_pending (c : Nat) (x : ClusterSt) : (s.setCluster c x).pending = s.pending := rfl
@[simp] theorem setCluster_regs (c : Nat) (x : ClusterSt) : (s.setCluster c x).regs = s.regs := rfl
@[simp] theorem setCluster_live (c : Nat) (x : ClusterSt) : (s.setCluster c x).live = s.live := rfl
@[simp] theorem setCluster_mem (c : Nat) (x : ClusterSt) : (s.setCluster c x).mem = s.mem := rfl
@[simp] theorem setCluster_tags (c : Nat) (x : ClusterSt) : (s.setCluster c x).tags = s.tags := rfl
@[simp] theorem setCluster_side (c : Nat) (x : ClusterSt) : (s.setCluster c x).side = s.side := rfl
@[simp] theorem setCluster_accSide (c : Nat) (x : ClusterSt) : (s.setCluster c x).accSide = s.accSide := rfl
@[simp] theorem setCluster_dramPoison (c : Nat) (x : ClusterSt) : (s.setCluster c x).dramPoison = s.dramPoison := rfl
@[simp] theorem setCluster_floes (c : Nat) (x : ClusterSt) : (s.setCluster c x).floes = s.floes := rfl
@[simp] theorem setCluster_runs (c : Nat) (x : ClusterSt) : (s.setCluster c x).runs = s.runs := rfl
@[simp] theorem setCluster_faultQ (c : Nat) (x : ClusterSt) : (s.setCluster c x).faultQ = s.faultQ := rfl
@[simp] theorem setCluster_mst (c : Nat) (x : ClusterSt) : (s.setCluster c x).mst = s.mst := rfl
@[simp] theorem setCluster_hals (c : Nat) (x : ClusterSt) : (s.setCluster c x).hals = s.hals := rfl
@[simp] theorem setCluster_tb (c : Nat) (x : ClusterSt) : (s.setCluster c x).tb = s.tb := rfl
@[simp] theorem setCluster_fhs (c : Nat) (x : ClusterSt) : (s.setCluster c x).fhs = s.fhs := rfl
@[simp] theorem setCluster_shrs (c : Nat) (x : ClusterSt) : (s.setCluster c x).shrs = s.shrs := rfl
@[simp] theorem setCluster_mor (c : Nat) (x : ClusterSt) : (s.setCluster c x).mor = s.mor := rfl
@[simp] theorem setCluster_sers (c : Nat) (x : ClusterSt) : (s.setCluster c x).sers = s.sers := rfl
@[simp] theorem setCluster_fw (c : Nat) (x : ClusterSt) : (s.setCluster c x).fw = s.fw := rfl
@[simp] theorem setCluster_sec (c : Nat) (x : ClusterSt) : (s.setCluster c x).sec = s.sec := rfl
@[simp] theorem setCluster_mgmt (c : Nat) (x : ClusterSt) : (s.setCluster c x).mgmt = s.mgmt := rfl
@[simp] theorem setCluster_rsp (c : Nat) (x : ClusterSt) : (s.setCluster c x).rsp = s.rsp := rfl
@[simp] theorem setCluster_out (c : Nat) (x : ClusterSt) : (s.setCluster c x).out = s.out := rfl

@[simp] theorem answer_pending (bs : Bytes) (p : Bool) : (s.answer bs p).pending = s.pending := rfl
@[simp] theorem answer_regs (bs : Bytes) (p : Bool) : (s.answer bs p).regs = s.regs := rfl
@[simp] theorem answer_live (bs : Bytes) (p : Bool) : (s.answer bs p).live = s.live := rfl
@[simp] theorem answer_mem (bs : Bytes) (p : Bool) : (s.answer bs p).mem = s.mem := rfl
@[simp] theorem answer_tags (bs : Bytes) (p : Bool) : (s.answer bs p).tags = s.tags := rfl
@[simp] theorem answer_side (bs : Bytes) (p : Bool) : (s.answer bs p).side = s.side := rfl
@[simp] theorem answer_accSide (bs : Bytes) (p : Bool) : (s.answer bs p).accSide = s.accSide := rfl
@[simp] theorem answer_dramPoison (bs : Bytes) (p : Bool) : (s.answer bs p).dramPoison = s.dramPoison := rfl
@[simp] theorem answer_floes (bs : Bytes) (p : Bool) : (s.answer bs p).floes = s.floes := rfl
@[simp] theorem answer_runs (bs : Bytes) (p : Bool) : (s.answer bs p).runs = s.runs := rfl
@[simp] theorem answer_faultQ (bs : Bytes) (p : Bool) : (s.answer bs p).faultQ = s.faultQ := rfl
@[simp] theorem answer_mst (bs : Bytes) (p : Bool) : (s.answer bs p).mst = s.mst := rfl
@[simp] theorem answer_hals (bs : Bytes) (p : Bool) : (s.answer bs p).hals = s.hals := rfl
@[simp] theorem answer_clusters (bs : Bytes) (p : Bool) : (s.answer bs p).clusters = s.clusters := rfl
@[simp] theorem answer_tb (bs : Bytes) (p : Bool) : (s.answer bs p).tb = s.tb := rfl
@[simp] theorem answer_fhs (bs : Bytes) (p : Bool) : (s.answer bs p).fhs = s.fhs := rfl
@[simp] theorem answer_shrs (bs : Bytes) (p : Bool) : (s.answer bs p).shrs = s.shrs := rfl
@[simp] theorem answer_mor (bs : Bytes) (p : Bool) : (s.answer bs p).mor = s.mor := rfl
@[simp] theorem answer_sers (bs : Bytes) (p : Bool) : (s.answer bs p).sers = s.sers := rfl
@[simp] theorem answer_fw (bs : Bytes) (p : Bool) : (s.answer bs p).fw = s.fw := rfl
@[simp] theorem answer_sec (bs : Bytes) (p : Bool) : (s.answer bs p).sec = s.sec := rfl
@[simp] theorem answer_mgmt (bs : Bytes) (p : Bool) : (s.answer bs p).mgmt = s.mgmt := rfl
@[simp] theorem answer_out (bs : Bytes) (p : Bool) : (s.answer bs p).out = s.out := rfl

@[simp] theorem noAnswer_pending : (s.noAnswer).pending = s.pending := rfl
@[simp] theorem noAnswer_regs : (s.noAnswer).regs = s.regs := rfl
@[simp] theorem noAnswer_live : (s.noAnswer).live = s.live := rfl
@[simp] theorem noAnswer_mem : (s.noAnswer).mem = s.mem := rfl
@[simp] theorem noAnswer_tags : (s.noAnswer).tags = s.tags := rfl
@[simp] theorem noAnswer_side : (s.noAnswer).side = s.side := rfl
@[simp] theorem noAnswer_accSide : (s.noAnswer).accSide = s.accSide := rfl
@[simp] theorem noAnswer_dramPoison : (s.noAnswer).dramPoison = s.dramPoison := rfl
@[simp] theorem noAnswer_floes : (s.noAnswer).floes = s.floes := rfl
@[simp] theorem noAnswer_runs : (s.noAnswer).runs = s.runs := rfl
@[simp] theorem noAnswer_faultQ : (s.noAnswer).faultQ = s.faultQ := rfl
@[simp] theorem noAnswer_mst : (s.noAnswer).mst = s.mst := rfl
@[simp] theorem noAnswer_hals : (s.noAnswer).hals = s.hals := rfl
@[simp] theorem noAnswer_clusters : (s.noAnswer).clusters = s.clusters := rfl
@[simp] theorem noAnswer_tb : (s.noAnswer).tb = s.tb := rfl
@[simp] theorem noAnswer_fhs : (s.noAnswer).fhs = s.fhs := rfl
@[simp] theorem noAnswer_shrs : (s.noAnswer).shrs = s.shrs := rfl
@[simp] theorem noAnswer_mor : (s.noAnswer).mor = s.mor := rfl
@[simp] theorem noAnswer_sers : (s.noAnswer).sers = s.sers := rfl
@[simp] theorem noAnswer_fw : (s.noAnswer).fw = s.fw := rfl
@[simp] theorem noAnswer_sec : (s.noAnswer).sec = s.sec := rfl
@[simp] theorem noAnswer_mgmt : (s.noAnswer).mgmt = s.mgmt := rfl
@[simp] theorem noAnswer_out : (s.noAnswer).out = s.out := rfl

end Sys2Proof.Machine
end

