-- ==== Sys2Proof/Laws/Event.lean ====
section
/-! SUPPORT. The laws of counters, flags and fault records: which field they set, and that no other field changes. -/

namespace Sys2Proof.Machine

variable (s : State) {g h : Nat}

theorem regIdx_ne_off {off off' : Nat} (hk : off' / 4 ≠ off / 4) : regIdx g off' ≠ regIdx g off := by unfold regIdx; omega

theorem regIdx_ne_page {off off' : Nat} (hg : h ≠ g) (h1 : off' < 4096) (h2 : off < 4096) : regIdx h off' ≠ regIdx g off := by
  unfold regIdx; omega

/-- A page and offset that differ from another. -/
abbrev Apart (h o' g o : Nat) : Prop := o' / 4 ≠ o / 4 ∧ h = g ∨ h ≠ g ∧ o' < 4096 ∧ o < 4096

theorem Apart.idx {h o' g o : Nat} (a : Apart h o' g o) : regIdx h o' ≠ regIdx g o := by
  rcases a with ⟨a, rfl⟩ | ⟨a, b, c⟩
  · exact regIdx_ne_off a
  · exact regIdx_ne_page a b c

theorem rf_wf_apart (f f' : Fld) (v : Nat) (a : Apart h f'.off g f.off) : (s.wf g f v).rf h f' = s.rf h f' := rf_wf_other _ _ _ _ _ a.idx

theorem bit_wf_apart (f f' : Fld) (v : Nat) (a : Apart h f'.off g f.off) : (s.wf g f v).bit h f' = s.bit h f' := by
  unfold State.bit; rw [rf_wf_apart s f f' v a]

theorem rf_bump_apart (f f' : Fld) (a : Apart h f'.off g f.off) : (s.bump g f).rf h f' = s.rf h f' := rf_wf_apart _ _ _ _ a

theorem bit_bump_apart (f f' : Fld) (a : Apart h f'.off g f.off) : (s.bump g f).bit h f' = s.bit h f' := bit_wf_apart _ _ _ _ a

/-- A counter of 32 bits (R77). -/
theorem rf_bump (f : Fld) (hf : f.hi = 31 ∧ f.lo = 0) : (s.bump g f).rf g f = min (s.rf g f + 1) 0xFFFFFFFF := by
  unfold State.bump
  rw [rf_bump_same _ _ _ ⟨by omega, by omega⟩, hf.1, hf.2]
  rfl

theorem rf_irq (f : Fld) (b : Nat) (a : Apart h f.off g 0x010) : (s.irq g b).rf h f = s.rf h f := rf_setWord_other _ _ _ _ a.idx

theorem bit_irq (f : Fld) (b : Nat) (a : Apart h f.off g 0x010) : (s.irq g b).bit h f = s.bit h f := by unfold State.bit; rw [rf_irq _ _ _ a]

/-- A flag that hardware sets (R478). -/
theorem bit_raise (f : Fld) (h1 : f.hi = f.lo) (h2 : f.hi < 32) (ho : f.off / 4 ≠ 4) : (s.raise g f).bit g f = true := by
  have e : (s.wf g f 1).bit g f = true := by rw [bit_wf_same _ _ _ _ ⟨by omega, h2⟩ h1]; decide
  have a : Apart g f.off g 0x010 := Or.inl ⟨by omega, rfl⟩
  unfold State.raise
  dsimp only
  split
  · split
    · exact e
    · rw [bit_irq _ _ _ a]; exact e
  · exact e

theorem rf_raise_apart (f f' : Fld) (a : Apart h f'.off g f.off) (b : Apart h f'.off g 0x010) : (s.raise g f).rf h f' = s.rf h f' := by
  unfold State.raise
  dsimp only
  split
  · split
    · exact rf_wf_apart _ _ _ _ a
    · rw [rf_irq _ _ _ b]; exact rf_wf_apart _ _ _ _ a
  · exact rf_wf_apart _ _ _ _ a

theorem bit_raise_apart (f f' : Fld) (a : Apart h f'.off g f.off) (b : Apart h f'.off g 0x010) : (s.raise g f).bit h f' = s.bit h f' := by
  unfold State.bit; rw [rf_raise_apart _ _ _ a b]

/-- A flag of a register leaves its other bits. -/
theorem rf_raise_bits (f f' : Fld) (hf : f.ok) (ho : f'.off = f.off) (hd : f'.hi < f.lo ∨ f.hi < f'.lo) (h4 : f.off / 4 ≠ 4) :
    (s.raise g f).rf g f' = s.rf g f' := by
  have a : Apart g f'.off g 0x010 := Or.inl ⟨by omega, rfl⟩
  unfold State.raise
  dsimp only
  split
  · split
    · exact rf_wf_bits _ _ _ _ _ hf ho hd
    · rw [rf_irq _ _ _ a]; exact rf_wf_bits _ _ _ _ _ hf ho hd
  · exact rf_wf_bits _ _ _ _ _ hf ho hd

/-- A record changes no register but IRQ_STAT (R478). -/
theorem rf_post (f f' : Fld) (cls : Nat) (t : Tag) (id : Nat) (d : Option Nat) (a : Apart h f'.off g 0x010) :
    (s.post g f cls t id d).rf h f' = s.rf h f' := by
  have e : ∀ x : State, x.regs = s.regs → (x.irq g 30).rf h f' = s.rf h f' := by
    intro x hx
    rw [rf_irq _ _ _ a]; unfold State.rf State.word; rw [hx]
  unfold State.post
  dsimp only
  split <;> split <;> exact e _ rfl

theorem bit_post (f f' : Fld) (cls : Nat) (t : Tag) (id : Nat) (d : Option Nat) (a : Apart h f'.off g 0x010) :
    (s.post g f cls t id d).bit h f' = s.bit h f' := by
  unfold State.bit; rw [rf_post _ _ _ _ _ _ _ a]

/-- A fault sets its flag. -/
theorem bit_fault (f : Fld) (cls : Nat) (t : Tag) (id : Nat) (d : Option Nat) (h1 : f.hi = f.lo) (h2 : f.hi < 32) (ho : f.off / 4 ≠ 4) :
    (s.fault g f cls t id d).bit g f = true := by
  unfold State.fault
  rw [bit_post _ _ _ _ _ _ _ (Or.inl ⟨by omega, rfl⟩), bit_raise _ _ h1 h2 ho]

theorem rf_fault_apart (f f' : Fld) (cls : Nat) (t : Tag) (id : Nat) (d : Option Nat) (a : Apart h f'.off g f.off) (b : Apart h f'.off g 0x010) :
    (s.fault g f cls t id d).rf h f' = s.rf h f' := by
  unfold State.fault
  rw [rf_post _ _ _ _ _ _ _ b, rf_raise_apart _ _ _ a b]

theorem bit_fault_apart (f f' : Fld) (cls : Nat) (t : Tag) (id : Nat) (d : Option Nat) (a : Apart h f'.off g f.off)
    (b : Apart h f'.off g 0x010) : (s.fault g f cls t id d).bit h f' = s.bit h f' := by
  unfold State.bit; rw [rf_fault_apart _ _ _ _ _ _ _ a b]

/-! ### Updates that touch no register -/

/-- Fields read the register file alone. -/
theorem rf_of_regs {s t : State} (hr : t.regs = s.regs) (g : Nat) (f : Fld) : t.rf g f = s.rf g f := by unfold State.rf State.word; rw [hr]

theorem bit_of_regs {s t : State} (hr : t.regs = s.regs) (g : Nat) (f : Fld) : t.bit g f = s.bit g f := by
  unfold State.bit; rw [rf_of_regs hr]

theorem floe_of_floes {s t : State} (hf : t.floes = s.floes) (k : Nat) : t.floe k = s.floe k := by unfold State.floe; rw [hf]

end Sys2Proof.Machine
end

