-- ==== Sys2Proof/Laws/Core.lean ====
section
/-! SUPPORT. The laws of the issue core: what a scalar instruction and a vector instruction of a running kernel leave. -/

namespace Sys2Proof.Machine

@[simp] theorem floe_setFloe (s : State) (f : Nat) (x : FloeSt) : (s.setFloe f x).floe f = x := by
  simp [State.setFloe, State.floe, Tab.at, Tab.set]

theorem floe_setFloe_other (s : State) {f k : Nat} (x : FloeSt) (h : k ≠ f) : (s.setFloe f x).floe k = s.floe k := by
  simp [State.setFloe, State.floe, Tab.at, Tab.set, Tab.get_put_other _ _ _ h]

@[simp] theorem core_setCore (s : State) (f : Nat) (c : CoreSt) : (s.setCore f c).core f = c := by
  simp [State.core, State.setCore]

theorem rx_wx (c : CoreSt) (d : Nat) (v : Word) (k : Nat) : (c.wx d v).rx k = if k = d ∧ k ≠ 0 then v else c.rx k := by
  unfold CoreSt.wx CoreSt.rx
  by_cases hk : k = 0
  · subst hk; simp
  · by_cases hd : d = 0
    · subst hd; simp [hk]
    · by_cases hkd : k = d <;> simp [hd, hk, hkd, Tab.at, Tab.set, Tab.get_put]

/-- An instruction that issues before WC_DECL has the effect of its body (R173). -/
theorem issueK_body {s : State} {f : Nat} {vs sms xs : List Nat} {u : KUnit} (body : State → CoreSt → Nat → State)
    (hr : (s.core f).phase = .running) (hd : (s.core f).issueAt vs sms xs u ≤ (s.core f).decl) :
    s.issueK f vs sms xs u body = body s (s.core f) ((s.core f).issueAt vs sms xs u) := by
  unfold State.issueK
  simp only [hr, if_true]
  rw [if_neg (Nat.not_lt.2 hd)]

end Sys2Proof.Machine
end

