-- ==== Sys2Proof/Laws/Keep.lean ====
section
/-! SUPPORT. What every operation keeps: `r ⊑ s` says that `s` has the queue of `r`, and is sound where `r` is. Each shared operation has
one lemma, and each later one cites it. -/

namespace Sys2Proof.Machine

/-- `s` has the queue of `r`, and is sound where `r` is. -/
structure Keeps (r s : State) : Prop where
  pending : s.pending = r.pending
  sound : r.Sound → s.Sound

theorem Keeps.refl (s : State) : Keeps s s := ⟨rfl, id⟩

theorem Keeps.trans {r s t : State} (h : Keeps r s) (k : Keeps s t) : Keeps r t := ⟨k.pending.trans h.pending, fun x => k.sound (h.sound x)⟩

/-- A change of the other fields. -/
theorem Keeps.upd {r s t : State} (h : Keeps r s) (hp : t.pending = s.pending) (hr : t.regs = s.regs) (hm : t.mem = s.mem)
    (ht : t.tags = s.tags) (hd : t.dramPoison = s.dramPoison) (hs : t.side = s.side) (ha : t.accSide = s.accSide) (hb : t.tb = s.tb)
    (hq : t.faultQ = s.faultQ) (hl : t.faultLost = s.faultLost) (hv : t.live = s.live) : Keeps r t := by
  refine ⟨hp.trans h.pending, fun x => ?_⟩
  have y := h.sound x
  refine ⟨hm ▸ y.mem, hr ▸ y.regs, ht ▸ y.tags, hd ▸ y.marks, hs ▸ y.side, ha ▸ y.accSide, ?_, ?_, ?_, ?_⟩
  · intro i; have := y.bases i; unfold State.timeBase at this ⊢; rw [hb]; exact this
  · intro q; rw [hq]; exact y.queues q
  · intro q; rw [hl]; exact y.lost q
  · intro q; rw [hv]; exact y.live q

/-- A record update of other fields. -/
theorem Keeps.mk' {r s : State} {x_floes : Tab FloeSt} {x_runs : Tab (Option Run)} {x_nextRun : Nat} {x_mst : MstSt} {x_det : Tab Word} {x_lastCopy : Tab Bool}
    {x_hals : Tab HalSt} {x_clusters : Tab ClusterSt} {x_tbHeld : Tab (Nat × Nat)} {x_pgs : Tab PgSt} {x_caps : Tab (List
    CapEntry)} {x_ticks : Nat} {x_capLast : Tab Nat} {x_snap : Tab Word} {x_fhs : Tab FhSt} {x_shrs : Tab ShrSt} {x_nextXfer :
    Nat} {x_pci : PciSt} {x_mods : Tab ModSt} {x_inds : Tab (List IndAcc)} {x_iagg : IaggSt} {x_cfgi : CfgiSt} {x_fw : FwSt}
    {x_sec : SecSt} {x_mgmt : MgmtSt} {x_pwr : PwrSt} {x_fresh : Nat} {x_firn : Tab (List FirnWay)} {x_firnOp : Tab (Option (Nat ×
    Nat))} {x_drcs : Tab DrcSt} {x_grans : Tab Granule} {x_winPend : Tab Bool} {x_mor : MorSt} {x_sers : Tab SerSt} {x_rsp :
    Option Bytes} {x_rspPoison : Bool} {x_out : List Out}
    (h : Keeps r s) :
    Keeps r (State.mk s.pending s.regs s.live s.mem s.tags s.side s.accSide s.dramPoison x_floes x_runs x_nextRun s.faultQ s.faultLost x_mst x_det
      x_lastCopy x_hals x_clusters s.tb x_tbHeld x_pgs x_caps x_ticks x_capLast x_snap x_fhs x_shrs x_nextXfer x_pci x_mods
      x_inds x_iagg x_cfgi x_fw x_sec x_mgmt x_pwr x_fresh x_firn x_firnOp x_drcs x_grans x_winPend x_mor x_sers x_rsp
      x_rspPoison x_out) :=
  h.upd rfl rfl rfl rfl rfl rfl rfl rfl rfl rfl rfl

theorem Keeps.ite {r s t : State} {c : Prop} [Decidable c] (h : c → Keeps r s) (k : ¬c → Keeps r t) : Keeps r (if c then s else t) := by
  split
  · exact h ‹_›
  · exact k ‹_›

theorem Keeps.foldl {α : Type} {r s : State} {f : State → α → State} {l : List α} (h : Keeps r s)
    (hf : ∀ t x, Keeps r t → Keeps r (f t x)) : Keeps r (l.foldl f s) := by
  induction l generalizing s with
  | nil => exact h
  | cons a l ih => exact ih (hf s a h)

theorem Keeps.foldlFst {α β : Type} {r : State} {p : State × β} {f : State × β → α → State × β} {l : List α} (h : Keeps r p.1)
    (hf : ∀ t x, Keeps r t.1 → Keeps r (f t x).1) : Keeps r (l.foldl f p).1 := by
  induction l generalizing p with
  | nil => exact h
  | cons a l ih => exact ih (hf p a h)

/-! ### Primitives -/

variable {r s : State}

theorem State.wrByte_keeps {a : Nat} {b : Byte} (h : Keeps r s) : Keeps r (s.wrByte a b) :=
  ⟨h.pending, fun x => let y := h.sound x
    { y with mem := Tab.wf_put _ _ _ y.mem }⟩

theorem State.wrBytes_keeps {bs : Bytes} {a : Nat} (h : Keeps r s) : Keeps r (s.wrBytes a bs) := by
  induction bs generalizing s a with
  | nil => exact h
  | cons b bs ih => exact ih (State.wrByte_keeps h)

theorem State.wrLe_keeps {a n v : Nat} (h : Keeps r s) : Keeps r (s.wrLe a n v) := State.wrBytes_keeps h

theorem State.zeroMem_keeps {lo hi : Nat} (h : Keeps r s) : Keeps r (s.zeroMem lo hi) :=
  ⟨h.pending, fun x => let y := h.sound x
    { y with mem := Tab.wf_clear _ _ _ y.mem }⟩

theorem State.setTag_keeps {a : Nat} {t : Tag} (h : Keeps r s) : Keeps r (s.setTag a t) :=
  ⟨h.pending, fun x => let y := h.sound x
    { y with tags := Tab.wf_put _ _ _ y.tags }⟩

theorem State.setDramPoison_keeps {a : Nat} {p : Bool} (h : Keeps r s) : Keeps r (s.setDramPoison a p) :=
  ⟨h.pending, fun x => let y := h.sound x
    { y with marks := Tab.wf_put _ _ _ y.marks }⟩

theorem State.setSide_keeps {f half slot : Nat} {v : SideSlot} (h : Keeps r s) : Keeps r (s.setSide f half slot v) :=
  ⟨h.pending, fun x => let y := h.sound x
    { y with side := Tab.wf_put _ _ _ y.side }⟩

theorem State.setAccPoison_keeps {f i : Nat} {p : Bool} (h : Keeps r s) : Keeps r (s.setAccPoison f i p) :=
  ⟨h.pending, fun x => let y := h.sound x
    { y with accSide := Tab.wf_put _ _ _ y.accSide }⟩

theorem State.setWord_keeps {g off : Nat} {w : Word} (h : Keeps r s) : Keeps r (s.setWord g off w) :=
  ⟨h.pending, fun x => let y := h.sound x
    { y with regs := Tab.wf_put _ _ _ y.regs }⟩

/-- Tags cleared over a range. -/
theorem Keeps.clearTags {lo hi : Nat} (h : Keeps r s) : Keeps r { s with tags := Tab.clear s.tags lo hi } :=
  ⟨h.pending, fun x => let y := h.sound x
    { y with tags := Tab.wf_clear _ _ _ y.tags }⟩

/-- Poison marks cleared over a range. -/
theorem Keeps.clearMarks {lo hi : Nat} (h : Keeps r s) : Keeps r { s with dramPoison := Tab.clear s.dramPoison lo hi } :=
  ⟨h.pending, fun x => let y := h.sound x
    { y with marks := Tab.wf_clear _ _ _ y.marks }⟩

/-- A floe's tags and side bits cleared. -/
theorem Keeps.clearFloe {a b c d e f : Nat} (h : Keeps r s) :
    Keeps r { s with tags := Tab.clear s.tags a b, side := Tab.clear s.side c d, accSide := Tab.clear s.accSide e f } :=
  ⟨h.pending, fun x => let y := h.sound x
    { y with tags := Tab.wf_clear _ _ _ y.tags, side := Tab.wf_clear _ _ _ y.side, accSide := Tab.wf_clear _ _ _ y.accSide }⟩

/-- Entries dropped by key: the others read as before. -/
theorem Tab.get_filter_key {α : Type} (d : Nat → α) (t : Tab α) (p : Nat → Bool) (k : Nat) :
    Tab.get d (t.filter fun e => p e.1) k = if p k then Tab.get d t k else d k := by
  induction t with
  | nil => simp [Tab.get]
  | cons e t ih =>
    obtain ⟨j, v⟩ := e
    by_cases hp : p j = true
    · rw [List.filter_cons_of_pos (by simpa using hp)]
      by_cases hj : j = k
      · subst hj; simp [Tab.get, hp]
      · simp only [Tab.get, hj, if_false, ih]
    · rw [List.filter_cons_of_neg (by simpa using hp), ih]
      by_cases hj : j = k
      · subst hj; simp [hp]
      · simp only [Tab.get, hj, if_false]

theorem State.resetPage_keeps {g : Nat} {keep : Nat → Bool} (h : Keeps r s) : Keeps r (s.resetPage g keep) := by
  refine ⟨h.pending, fun x => ?_⟩
  have y := h.sound x
  refine { y with regs := Tab.wf_filter _ _ y.regs, live := fun k => ?_ }
  show Tab.get _ (s.live.filter fun e => decide (e.1 / 1024 ≠ g)) k < 2 ^ 64
  rw [Tab.get_filter_key (fun _ => 0) s.live (fun i => decide (i / 1024 ≠ g))]
  split
  · exact y.live k
  · decide

theorem State.tally_keeps {g : Nat} {f : Fld} {n : Nat} (h : Keeps r s) : Keeps r (s.tally g f n) := by
  refine ⟨h.pending, fun x => ?_⟩
  have y := h.sound x
  refine { y with live := fun k => ?_ }
  simp only [State.tally, Tab.get_put]
  split
  · exact Nat.mod_lt _ (by decide)
  · exact y.live k

end Sys2Proof.Machine
end

