-- ==== Sys2Proof/Tests/Slice0.lean ====
section
/-! SUPPORT. Tests: the checks of well-formedness refuse, and states that meet the hypotheses of the statements. -/

namespace Sys2Proof.Tests

open Sys2Proof.Machine

/-- Nine words of a line in error: a line has eight (R240, R241). -/
def badEcc : Ecc := { ce := 5, wlc := 4 }

theorem test_wf_write_size : Instr.wf (.memoryAccess .mgmt 0 (.write .b4 [1, 2]) {}) = false := by decide
theorem test_wf_window_ecc : Instr.wf (.windowAccess .mgmt 0 0 (.read .b4) badEcc) = false := by decide
theorem test_wf_tile_load : Instr.wf (.tileLoadComplete 0 [(0, badEcc)]) = false := by decide
theorem test_wf_pass_end : Instr.wf (.passEnd 0 [] [(0, badEcc)]) = false := by decide
theorem test_wf_readout : Instr.wf (.readoutComplete 0 [(0, badEcc)]) = false := by decide
theorem test_wf_merge_round : Instr.wf (.mergeRoundComplete 0 [] [(0, badEcc)]) = false := by decide
theorem test_wf_scratchpad : Instr.wf (.scratchpadAccess 0 .brash 0 (.write 63 [1, 2] none) {}) = false := by decide
theorem test_wf_patrol : Instr.wf (.patrolScrubTurn 0 badEcc) = false := by decide
theorem test_wf_firn_read : Instr.wf (.firnRead none 0 false false badEcc) = false := by decide
theorem test_wf_firn_write : Instr.wf (.firnWrite 63 [1, 2] false) = false := by decide
theorem test_wf_remote_floe : Instr.wf (.remoteFloeAccess 0 { src := 0, tenant := 0, offset := 0, n := 0, lines := none }) = false := by decide
theorem test_wf_hal_peer : Instr.wf (.halLineDeliver 0 {} (some { line := { data := [1], tag := 0 } })) = false := by decide
theorem test_wf_serac_line : Instr.wf (.seracInputLine 0 [1] 0) = false := by decide
theorem test_wf_shroud_lines : Instr.wf (.shroudRemoteAccess 0 0 1 (some [])) = false := by decide
theorem test_wf_module :
    Instr.wf (.moduleInsert 0 { vendor := [], oui := 0, part := [], serial := [], date := [], cmisOk := true }) = false := by decide
theorem test_wf_dram_read : Instr.wf (.dramRead 0 false badEcc) = false := by decide
theorem test_wf_dram_write : Instr.wf (.dramWrite 60 [1, 2, 3, 4, 5] false) = false := by decide
theorem test_wf_dram_patrol : Instr.wf (.dramPatrolRead 0 [badEcc]) = false := by decide
theorem test_wf_pcie :
    Instr.wf (.pcieRequest { bar2 := true, offset := 0, acc := .write .b8 [], tBit := false, stream := none }) = false := by decide
theorem test_wf_emu : Instr.wf (.emuAccess .mgmt 0 0 (.write .b4 [])) = false := by decide
theorem test_wf_srst : Instr.wf (.srst .mgmt 0xFFFF) = false := by decide
theorem test_wf_page_ctrl : Instr.wf (.pageCtrlEn .mgmt 0xFFFF true) = false := by decide
theorem test_wf_shutdown : Instr.wf (.shutdownComplete 0xFFFF) = false := by decide
theorem test_wf_irq_force : Instr.wf (.irqForce .mgmt 0xFFFF 0) = false := by decide
theorem test_wf_ind_read : Instr.wf (.indDataRead .mgmt 0xFFFF) = false := by decide
theorem test_wf_ind_write : Instr.wf (.indDataWrite .mgmt 0xFFFF 0) = false := by decide
theorem test_wf_ind_timeout : Instr.wf (.indTimeout 0xFFFF) = false := by decide
theorem test_wf_telemetry : Instr.wf (.telemetryWindow [(0, 1, 0)]) = false := by decide
theorem test_wf_load_detect : Instr.wf (.loadDetectTest [(0, 0), (0, 1)]) = false := by decide
theorem test_wf_good : Instr.wf (.memoryAccess .mgmt 0 (.write .b4 [1, 2, 3, 4]) {}) = true := by decide

end Sys2Proof.Tests
end

section
/-! SUPPORT. Rules of `Keeps`: branches, pairs, outcomes, and the raw changes of the tables that soundness speaks of. -/

namespace Sys2Proof.Machine

/-- Both branches keep. -/
theorem Keeps.both {r s t : State} {c : Prop} [Decidable c] (h : Keeps r s) (k : Keeps r t) : Keeps r (if c then s else t) :=
  .ite (fun _ => h) fun _ => k

theorem Keeps.bothFst {α : Type} {r : State} {p q : State × α} {c : Prop} [Decidable c] (h : Keeps r p.1) (k : Keeps r q.1) :
    Keeps r (if c then p else q).1 := by
  split
  · exact h
  · exact k

theorem Keeps.pair {α : Type} {r s : State} {b : α} (h : Keeps r s) : Keeps r (s, b).1 := h

/-- The state of a pair taken apart. -/
theorem Keeps.ofFst {α : Type} {r t : State} {p : State × α} {b : α} (e : p = (t, b)) (h : Keeps r p.1) : Keeps r t := by
  subst e; exact h

/-- An outcome's next state keeps. -/
def KeepsNext (r : State) (o : Host.Outcome State Fault Refusal) : Prop := ∀ t, o = .next t → Keeps r t

theorem KeepsNext.next {r s : State} (h : Keeps r s) : KeepsNext r (.next s) := by
  intro t e; cases e; exact h

theorem KeepsNext.both {r : State} {o p : Host.Outcome State Fault Refusal} {c : Prop} [Decidable c] (h : KeepsNext r o)
    (k : KeepsNext r p) : KeepsNext r (if c then o else p) := by
  split
  · exact h
  · exact k

/-- An optional result, where there is one, keeps. -/
def KeepsSome (r : State) (o : Option State) : Prop := ∀ t, o = some t → Keeps r t

theorem KeepsSome.some {r s : State} (h : Keeps r s) : KeepsSome r (some s) := by
  intro t e; cases e; exact h

theorem KeepsSome.none {r : State} : KeepsSome r none := by intro t e; cases e

theorem KeepsSome.both {r : State} {o p : Option State} {c : Prop} [Decidable c] (h : KeepsSome r o) (k : KeepsSome r p) :
    KeepsSome r (if c then o else p) := by
  split
  · exact h
  · exact k

theorem Keeps.getD {r s : State} {o : Option State} (ho : KeepsSome r o) (h : Keeps r s) : Keeps r (o.getD s) := by
  cases o with
  | none => exact h
  | some t => exact ho t rfl

/-! ### Raw changes of the parts that soundness speaks of -/

section
variable {r s : State}

theorem Keeps.putLost {q n : Nat} (h : Keeps r s) (hn : n ≤ 0xFFFF) : Keeps r { s with faultLost := Tab.set s.faultLost q 0 n } := by
  refine ⟨h.pending, fun x => ?_⟩
  have y := h.sound x
  refine { y with lost := fun k => ?_ }
  simp only [Tab.get_put]
  split
  · exact hn
  · exact y.lost k

theorem Keeps.putQueue {q : Nat} {l : List FaultRec} (h : Keeps r s) (hl : r.Sound → l.length ≤ 1024) :
    Keeps r { s with faultQ := Tab.set s.faultQ q [] l } := by
  refine ⟨h.pending, fun x => ?_⟩
  have y := h.sound x
  refine { y with queues := fun k => ?_ }
  simp only [Tab.get_put]
  split
  · exact hl x
  · exact y.queues k

theorem Keeps.filterLive (p : Nat → Bool) (h : Keeps r s) : Keeps r { s with live := s.live.filter fun e => p e.1 } := by
  refine ⟨h.pending, fun x => ?_⟩
  have y := h.sound x
  refine { y with live := fun k => ?_ }
  show Tab.get _ _ k < 2 ^ 64
  rw [Tab.get_filter_key (fun _ => 0) s.live p]
  split
  · exact y.live k
  · decide

/-- A time base whose value lies in the ranges of R392 takes its place. -/
theorem Keeps.putBase {i : Nat} {t : TimeBase} (h : Keeps r s) (ht : r.Sound → t.inRange) :
    Keeps r { s with tb := Tab.set s.tb i {} t } := by
  refine ⟨h.pending, fun x => ?_⟩
  have y := h.sound x
  refine { y with bases := fun k => ?_ }
  simp only [State.timeBase, Tab.get_put]
  split
  · exact ht x
  · exact y.bases k

/-- The time bases of a state that keeps are in range where the first state is sound. -/
theorem Keeps.base (h : Keeps r s) (i : Nat) : r.Sound → (s.timeBase i).inRange := fun x => (h.sound x).bases i

theorem TimeBase.default_inRange : ({} : TimeBase).inRange := ⟨by decide, by decide, by decide⟩

/-- The time bases back at their reset values. -/
theorem Keeps.clearBases (h : Keeps r s) : Keeps r { s with tb := [] } :=
  ⟨h.pending, fun x => { h.sound x with bases := fun _ => TimeBase.default_inRange }⟩

theorem TimeBase.ofRaw_inRange (t : TimeBase) (v : Nat) : (t.ofRaw v).inRange :=
  ⟨Nat.mod_lt _ (by decide), Nat.mod_lt _ (by decide), Nat.mod_lt _ (by decide)⟩

theorem TimeBase.run_inRange (t : TimeBase) (inc n : Nat) : (t.run inc n).inRange := ofRaw_inRange t _

theorem TimeBase.stepped_inRange (t : TimeBase) (x : TbStep) : (t.stepped x).inRange := by
  unfold TimeBase.stepped
  dsimp only
  split
  · exact ofRaw_inRange ..
  · exact ofRaw_inRange ..

end

end Sys2Proof.Machine
end

section
/-! SUPPORT. Every operation keeps the queue, and keeps soundness: one lemma for each, in the order of the model, each from the lemmas of
the operations that it calls. -/

namespace Sys2Proof.Machine.State

variable {r s : State}

/-! ### Registers, flags and fault records -/

theorem wf_keeps {g : Nat} {f : Fld} {v : Nat} (h : Keeps r s) : Keeps r (s.wf g f v) := setWord_keeps h

theorem bumpN_keeps {g : Nat} {f : Fld} {n : Nat} (h : Keeps r s) : Keeps r (s.bumpN g f n) := wf_keeps h

theorem bump_keeps {g : Nat} {f : Fld} (h : Keeps r s) : Keeps r (s.bump g f) := bumpN_keeps h

theorem irq_keeps {g b : Nat} (h : Keeps r s) : Keeps r (s.irq g b) := setWord_keeps h

theorem raise_keeps {g : Nat} {f : Fld} (h : Keeps r s) : Keeps r (s.raise g f) := by
  unfold State.raise
  extract_lets +onlyGivenNames s1
  have h1 : Keeps r s1 := wf_keeps h
  split
  · exact .both h1 (irq_keeps h1)
  · exact h1

theorem post_keeps {g : Nat} {f : Fld} {cls : Nat} {tag : Tag} {id : Nat} {detail : Option Nat} (h : Keeps r s) :
    Keeps r (s.post g f cls tag id detail) := by
  unfold State.post
  extract_lets _ s1 q recs lost s2
  have h2 : Keeps r s2 := irq_keeps (.both h.mk' h)
  split
  · exact h2.putLost (Nat.min_le_right ..)
  · refine (h2.putQueue fun _ => ?_).putLost (Nat.zero_le _)
    rw [List.length_append, List.length_singleton]
    omega

theorem fault_keeps {g : Nat} {f : Fld} {cls : Nat} {tag : Tag} {id : Nat} {detail : Option Nat} (h : Keeps r s) :
    Keeps r (s.fault g f cls tag id detail) :=
  post_keeps (raise_keeps h)

theorem discardWork_keeps {g id : Nat} (h : Keeps r s) : Keeps r (s.discardWork g id) := post_keeps h

/-! ### Memory, tags and units -/

theorem wrLine_keeps {a : Nat} {bs : Bytes} {t : Tag} (h : Keeps r s) : Keeps r (s.wrLine a bs t) := setTag_keeps (wrBytes_keeps h)

theorem setFloe_keeps {n : Nat} {x : FloeSt} (h : Keeps r s) : Keeps r (s.setFloe n x) := .mk' h

theorem setRun_keeps {r' : Nat} {x : Option Run} (h : Keeps r s) : Keeps r (s.setRun r' x) := .mk' h

theorem setAcc_keeps {f i : Nat} {v : Int} (h : Keeps r s) : Keeps r (s.setAcc f i v) := wrLe_keeps h

/-! ### Accesses outside the map -/

theorem fabAddr_keeps {agent addr : Nat} {write : Bool} (h : Keeps r s) : Keeps r (s.fabAddr agent addr write) :=
  wf_keeps (wf_keeps (wf_keeps (wf_keeps h)))

theorem unmapped_keeps {agent addr : Nat} {write : Bool} (h : Keeps r s) : Keeps r (s.unmapped agent addr write) :=
  fault_keeps (bump_keeps (fabAddr_keeps h))

theorem onReady_keeps {a : Agent} {g off : Nat} {k : State → State} (h : Keeps r s) (hk : ∀ t, Keeps r t → Keeps r (k t)) :
    Keeps r (s.onReady a g off k) :=
  .both (hk _ h) (unmapped_keeps h)

/-! ### Readiness and failed cells -/

theorem workDone_keeps {c : WorkCtx} (h : Keeps r s) : Keeps r (s.workDone c) := by
  unfold State.workDone
  split
  · exact h
  · split
    · exact h
    · exact .mk' h

theorem markFailed_keeps {cells : List Nat} (h : Keeps r s) : Keeps r (s.markFailed cells) := .mk' (.both h (bumpN_keeps h))

theorem workRefused_keeps {c : WorkCtx} (h : Keeps r s) : Keeps r (s.workRefused c) := markFailed_keeps h

theorem readyCheck_keeps {c : WorkCtx} {id : Nat} (h : Keeps r s) : Keeps r (s.readyCheck c id).1 := by
  unfold State.readyCheck
  split
  · exact h
  · split
    · exact h
    · split
      · exact h
      · exact fault_keeps (bumpN_keeps h)

/-! ### Halyards and codebooks -/

theorem setHal_keeps {h' : Nat} {x : HalSt} (h : Keeps r s) : Keeps r (s.setHal h' x) := .mk' h

theorem putHal_keeps {h' : Nat} {x : HalSt} (h : Keeps r s) : Keeps r (s.putHal h' x) := wf_keeps (wf_keeps (wf_keeps (setHal_keeps h)))

theorem cancelXfer_keeps {h' : Nat} (h : Keeps r s) : Keeps r (s.cancelXfer h') := by
  unfold State.cancelXfer
  extract_lets +onlyGivenNames _
  split
  · exact h
  · exact .both h (.both (wf_keeps (wf_keeps (putHal_keeps h))) (putHal_keeps h))

theorem fillCb_keeps {f j : Nat} {l : CbLoad} (h : Keeps r s) : Keeps r (s.fillCb f j l) := by
  unfold State.fillCb
  extract_lets +onlyGivenNames _ _ _ _ _ _ s6
  have h6 : Keeps r s6 := wf_keeps (wf_keeps (wf_keeps (wf_keeps (wf_keeps (setFloe_keeps h)))))
  exact .both h6 (raise_keeps h6)

/-! ### Fences, uncorrectable words and spares -/

theorem setCluster_keeps {c : Nat} {x : ClusterSt} (h : Keeps r s) : Keeps r (s.setCluster c x) := .mk' h

theorem loseFloe_keeps {f : Nat} (h : Keeps r s) : Keeps r (s.loseFloe f) := fault_keeps (wf_keeps h)

theorem leaveRuns_keeps {f : Nat} (h : Keeps r s) : Keeps r (s.leaveRuns f) := .mk' h

theorem freshFloe_keeps {f : Nat} (h : Keeps r s) : Keeps r (s.freshFloe f) := (Keeps.clearFloe (zeroMem_keeps h)).mk'

theorem fence_keeps {f cause fatal : Nat} (h : Keeps r s) : Keeps r (s.fence f cause fatal) := by
  unfold State.fence
  extract_lets +onlyGivenNames _ _ _ _ _ s2 _ s4 s5
  have h2 : Keeps r s2 := by
    unfold s2
    refine .foldl (setCluster_keeps h) fun t x ht => ?_
    split
    · exact .both (cancelXfer_keeps ht) ht
    · exact ht
  have h4 : Keeps r s4 := freshFloe_keeps (leaveRuns_keeps (.foldl h2 fun _ _ ht => resetPage_keeps ht))
  have h5 : Keeps r s5 := bump_keeps (raise_keeps h4)
  refine .both ?_ ?_
  · exact .both (loseFloe_keeps (setCluster_keeps (wf_keeps h5))) (loseFloe_keeps h5)
  · exact .both (wf_keeps (wf_keeps (wf_keeps (setCluster_keeps h5)))) (loseFloe_keeps h5)

theorem autoFence_keeps {f cause fatal : Nat} (h : Keeps r s) : Keeps r (s.autoFence f cause fatal) := .both (fence_keeps h) h

theorem countPar_keeps {f : Nat} (h : Keeps r s) : Keeps r (s.countPar f) := .both (autoFence_keeps (setFloe_keeps h)) (setFloe_keeps h)

theorem countUe_keeps {f : Nat} (h : Keeps r s) : Keeps r (s.countUe f) := .both (autoFence_keeps (setFloe_keeps h)) (setFloe_keeps h)

theorem floeUe_keeps {f off : Nat} (h : Keeps r s) : Keeps r (s.floeUe f off) := by
  unfold State.floeUe
  extract_lets +onlyGivenNames _ s1 _
  have h1 : Keeps r s1 := .both (setAccPoison_keeps (setAccPoison_keeps h)) (.both h (setTag_keeps h))
  exact countUe_keeps (fault_keeps (wf_keeps (bump_keeps h1)))

theorem tagUe_keeps {f off : Nat} (h : Keeps r s) : Keeps r (s.tagUe f off) := countUe_keeps (fault_keeps (bump_keeps (setTag_keeps h)))

theorem floeCe_keeps {f ce wlc : Nat} (h : Keeps r s) : Keeps r (s.floeCe f ce wlc) :=
  .both (.both h (raise_keeps (bumpN_keeps h))) (bumpN_keeps (.both h (raise_keeps (bumpN_keeps h))))

theorem floeCodes_keeps {f off : Nat} {ecc : Ecc} (h : Keeps r s) : Keeps r (s.floeCodes f off ecc) := by
  unfold State.floeCodes
  extract_lets +onlyGivenNames _ s1 s2
  have h1 : Keeps r s1 := floeCe_keeps h
  have h2 : Keeps r s2 := by
    unfold s2
    split
    · exact floeUe_keeps h1
    · exact h1
  exact .both (tagUe_keeps h2) h2

theorem floeRead_keeps {f off n : Nat} {ecc : Ecc} (h : Keeps r s) : Keeps r (s.floeRead f off n ecc).1 := floeCodes_keeps h

theorem codesMet_keeps {f : Nat} {here : Place → Bool} {found : List (BitVec 24 × Ecc)} (h : Keeps r s) :
    Keeps r (s.codesMet f here found) :=
  .foldl h fun _ _ ht => .both (floeCodes_keeps ht) ht

theorem fatal_keeps {f kind : Nat} (h : Keeps r s) : Keeps r (s.fatal f kind) := autoFence_keeps (fault_keeps h)

theorem endSubst_keeps {c : Nat} (h : Keeps r s) : Keeps r (s.endSubst c) := by
  unfold State.endSubst
  extract_lets +onlyGivenNames _ _ _ _ _ _ _ s4 _
  have h4 : Keeps r s4 := wf_keeps (wf_keeps (.foldl (setCluster_keeps h) fun _ _ ht => wf_keeps ht))
  exact wf_keeps (bump_keeps (raise_keeps h4))

theorem copyExtent_keeps {f : Nat} {t : Tag} {e : Extent} (h : Keeps r s) : Keeps r (s.copyExtent f t e) :=
  .both (fillCb_keeps h) (.foldl h fun _ _ ht => wrLine_keeps ht)

theorem restoreImage_keeps {f tenant : Nat} (h : Keeps r s) : KeepsSome r (s.restoreImage f tenant) :=
  .both (.some (.foldl h fun _ _ ht => copyExtent_keeps ht)) .none

/-! ### Stacked DRAM -/

theorem setDrc_keeps {n : Nat} {x : DrcSt} (h : Keeps r s) : Keeps r (s.setDrc n x) := wf_keeps (wf_keeps (wf_keeps (.mk' h)))

theorem remapTrigger_keeps {n row : Nat} (h : Keeps r s) : Keeps r (s.remapTrigger n row) := .both (fault_keeps h) (setDrc_keeps h)

theorem startRemap_keeps {n row : Nat} (h : Keeps r s) : Keeps r (s.startRemap n row) := by
  unfold State.startRemap
  extract_lets +onlyGivenNames _
  split
  · exact fault_keeps h
  · exact setDrc_keeps h

theorem trackRow_keeps {n row words : Nat} (h : Keeps r s) : Keeps r (s.trackRow n row words) :=
  .both (remapTrigger_keeps (setDrc_keeps h)) (setDrc_keeps h)

theorem drcCodes_keeps {a : Nat} {rs : Bool} {ecc : Ecc} (h : Keeps r s) : Keeps r (s.drcCodes a rs ecc) := by
  unfold State.drcCodes
  extract_lets +onlyGivenNames _ _ _ _ _ s2
  have h2 : Keeps r s2 := .both h (trackRow_keeps (raise_keeps (wf_keeps (bumpN_keeps h))))
  split
  · exact h2
  · extract_lets +onlyGivenNames _ _ s5
    have h5 : Keeps r s5 := fault_keeps (wf_keeps (bump_keeps (setDramPoison_keeps h2)))
    exact .both (remapTrigger_keeps h5) h5

theorem drcRead_keeps {a : Nat} {wline int : Bool} {ecc : Ecc} (h : Keeps r s) : Keeps r (s.drcRead a wline int ecc) := by
  unfold State.drcRead
  extract_lets +onlyGivenNames _ s1 s2
  have h1 : Keeps r s1 := tally_keeps h
  have h2 : Keeps r s2 := .both (tally_keeps h1) h1
  exact .both (raise_keeps (bump_keeps h2)) (drcCodes_keeps h2)

theorem drcWrite_keeps {a : Nat} {bs : Bytes} {int : Bool} (h : Keeps r s) : Keeps r (s.drcWrite a bs int) := by
  unfold State.drcWrite
  extract_lets +onlyGivenNames _ s1 _ s3
  have h1 : Keeps r s1 := tally_keeps h
  have h3 : Keeps r s3 := wrBytes_keeps (.both (tally_keeps h1) h1)
  exact .both (setDramPoison_keeps h3) h3

theorem answer_keeps {bs : Bytes} {poison : Bool} (h : Keeps r s) : Keeps r (s.answer bs poison) := .mk' h

theorem patrolLine_keeps {n : Nat} {ecc : Ecc} (h : Keeps r s) : Keeps r (s.patrolLine n ecc) :=
  .both (bump_keeps (setDrc_keeps (drcRead_keeps h))) (setDrc_keeps (drcRead_keeps h))

theorem patrolLines_keeps {n k : Nat} {found : List Ecc} (h : Keeps r s) : Keeps r (s.patrolLines n k found) := by
  induction k generalizing s found with
  | zero => exact h
  | succ k ih => exact ih (patrolLine_keeps h)

theorem execDramFrameStart_keeps {ch : Fin 64} (h : Keeps r s) : KeepsNext r (execDramFrameStart ch s) := by
  unfold execDramFrameStart
  refine .next ?_
  split
  · exact wf_keeps (setDrc_keeps h)
  · exact setDrc_keeps h

theorem wrRemapCmd_keeps {n : Nat} {v : Word} (h : Keeps r s) : Keeps r (s.wrRemapCmd n v) :=
  .both h (.both (discardWork_keeps h) (.both (raise_keeps h) (startRemap_keeps h)))

theorem execRemapStart_keeps {ch : Fin 64} (h : Keeps r s) : KeepsNext r (execRemapStart ch s) := by
  unfold execRemapStart
  refine .next ?_
  split
  · exact startRemap_keeps (setDrc_keeps h)
  · exact h

theorem execRemapSwitch_keeps {ch : Fin 64} (h : Keeps r s) : KeepsNext r (execRemapSwitch ch s) := by
  unfold execRemapSwitch
  refine .next ?_
  split
  · exact raise_keeps (bump_keeps (setDrc_keeps h))
  · exact h

theorem wrIw_keeps {n : Nat} {v : Word} (h : Keeps r s) : Keeps r (s.wrIw n v) := .both (raise_keeps h) (setDrc_keeps h)

theorem drcIndWrite_keeps {n i : Nat} {v : Word} (h : Keeps r s) : KeepsSome r (s.drcIndWrite n i v) := by
  refine .both (.both (.some h) (.both (.some ?_) (.some (setDrc_keeps h)))) .none
  exact Keeps.clearMarks (zeroMem_keeps (setDrc_keeps h))

/-! ### The Firn cache -/

theorem setFirnLines_keeps {k : Nat} {x : List FirnWay} (h : Keeps r s) : Keeps r (s.setFirnLines k x) := .mk' h

theorem firnFill_keeps {t a : Nat} {pin wline : Bool} (h : Keeps r s) : Keeps r (s.firnFill t a pin wline) := by
  unfold State.firnFill
  refine .both ?_ ?_
  · split
    · exact setFirnLines_keeps h
    · exact bump_keeps (raise_keeps h)
  · split
    · exact setFirnLines_keeps h
    · exact h

theorem firnHit_keeps {a : Nat} {e : FirnWay} {ecc : Ecc} (h : Keeps r s) : Keeps r (s.firnHit a e ecc).1 := by
  unfold State.firnHit
  extract_lets +onlyGivenNames _ _ _ s1 _ s2
  have h1 : Keeps r s1 := tally_keeps h
  have h2 : Keeps r s2 := .both h1 (bumpN_keeps h1)
  refine .bothFst ?_ (setFirnLines_keeps h2)
  exact .bothFst (fault_keeps (bump_keeps (setFirnLines_keeps h2))) (drcRead_keeps (bump_keeps (setFirnLines_keeps h2)))

theorem firnRead_keeps {tenant : Option Nat} {a : Nat} {pin wline int : Bool} {ecc : Ecc} (h : Keeps r s) :
    Keeps r (s.firnRead tenant a pin wline int ecc).1 := by
  unfold State.firnRead
  extract_lets +onlyGivenNames _ _ p2
  have h2 : Keeps r p2.1 := drcRead_keeps h
  split
  · exact h2
  · refine .bothFst h2 ?_
    split
    · exact firnHit_keeps h
    · exact firnFill_keeps (drcRead_keeps (tally_keeps h))

theorem firnWrite_keeps {a : Nat} {bs : Bytes} {wline int : Bool} (h : Keeps r s) : Keeps r (s.firnWrite a bs wline int) :=
  drcWrite_keeps (setFirnLines_keeps h)

theorem firnStart_keeps {sl kind tenant : Nat} (h : Keeps r s) : Keeps r (s.firnStart sl kind tenant) :=
  .both (discardWork_keeps h) (.both (raise_keeps h) (.mk' (wf_keeps h)))

theorem wrFirnOp_keeps {sl : Nat} {v : Word} (h : Keeps r s) : Keeps r (s.wrFirnOp sl v) := .both h (firnStart_keeps h)

theorem firnWalked_keeps {sl : Nat} (h : Keeps r s) : Keeps r (s.firnWalked sl) := by
  unfold State.firnWalked
  split
  · exact h
  · exact .mk' (wf_keeps h)

theorem granDeny_keeps (h : Keeps r s) : Keeps r s.granDeny := raise_keeps (bump_keeps h)

/-! ### Rows and outputs of the Gaff -/

theorem markLine_keeps {c : WorkCtx} {a : Nat} (h : Keeps r s) : Keeps r (s.markLine c a) := by
  unfold State.markLine
  split
  · exact h
  · split
    · exact h
    · exact .mk' h

theorem commitLine_keeps {c : WorkCtx} {a : Nat} {bs : Bytes} {t : Tag} (h : Keeps r s) : Keeps r (s.commitLine c a bs t) :=
  markLine_keeps (wrLine_keeps h)

theorem commitLines_keeps {c : WorkCtx} {a : Nat} {bs : Bytes} {t : Tag} {pois : Nat → Bool} (h : Keeps r s) :
    Keeps r (s.commitLines c a bs t pois) :=
  .foldl h fun _ _ ht => commitLine_keeps ht

theorem reportWr_keeps {f : Nat} {w : Wr} (h : Keeps r s) : Keeps r (s.reportWr f w) := by
  unfold State.reportWr
  extract_lets +onlyGivenNames s1 s2 s3 s4
  have h1 : Keeps r s1 := .both (raise_keeps h) h
  have h2 : Keeps r s2 := .both (raise_keeps h1) h1
  have h3 : Keeps r s3 := .both (bump_keeps h2) h2
  have h4 : Keeps r s4 := .both (raise_keeps h3) h3
  exact .both (bump_keeps h4) h4

theorem putScale_keeps {c : WorkCtx} {f : Nat} {y : TDesc} {row q code : Nat} {t : Tag} {pois : Bool} (h : Keeps r s) :
    Keeps r (s.putScale c f y row q code t pois) :=
  .both h (markLine_keeps (setTag_keeps (wrLe_keeps h)))

theorem clearScales_keeps {f : Nat} {y : TDesc} {row l0 n : Nat} (h : Keeps r s) : Keeps r (s.clearScales f y row l0 n) :=
  .both h (zeroMem_keeps h)

theorem codeRun_keeps {c : WorkCtx} {f : Nat} {y : TDesc} {sat : Bool} {hist : Val} {dequant : Bool} {r' : OutRun} (h : Keeps r s) :
    Keeps r (s.codeRun c f y sat hist dequant r').1 := by
  unfold State.codeRun
  split
  · exact h
  · exact .foldl (.both (bump_keeps (raise_keeps h)) h) fun _ _ ht => reportWr_keeps (.both (raise_keeps ht) ht)

theorem putSmap_keeps {f : Nat} {y : TDesc} {row q groups n : Nat} {first : Bool} (h : Keeps r s) :
    Keeps r (s.putSmap f y row q groups n first) :=
  .both h (zeroMem_keeps (wrByte_keeps h))

theorem writeRun_keeps {c : WorkCtx} {f : Nat} {y : TDesc} {sat : Bool} {hist : Val} {dequant strict : Bool} {reals : Nat}
    {acc : OutSum} {r' : OutRun} (h : Keeps r s) :
    Keeps r (s.writeRun c f y sat hist dequant strict reals acc r').1 := by
  unfold State.writeRun
  extract_lets +onlyGivenNames _ _ p1 _ _ _ _ _ _ _ s2 _ _ _ _ _
  have h1 : Keeps r p1.1 := .foldlFst h fun _ _ ht => .both (putSmap_keeps (.mk' (codeRun_keeps ht))) (.mk' (codeRun_keeps ht))
  have h2 : Keeps r s2 := commitLines_keeps h1
  exact .foldl (.both h2 (clearScales_keeps h2)) fun _ _ ht => putScale_keeps ht

/-! ### Tile loads, passes, merges and readouts -/

theorem setExec_keeps {f : Nat} {x : Option GaffExec} (h : Keeps r s) : Keeps r (s.setExec f x) := setFloe_keeps h

theorem updRun_keeps {x : GaffExec} {k : Run → Run} (h : Keeps r s) : Keeps r (s.updRun x k) := by
  unfold State.updRun
  split
  · exact h
  · split
    · exact h
    · exact setRun_keeps h

theorem nonfinite_keeps {f n : Nat} (h : Keeps r s) : Keeps r (s.nonfinite f n) := .both h (raise_keeps (bumpN_keeps h))

theorem loadShadow_keeps {f : Nat} {x : GaffExec} {idx : Nat} (h : Keeps r s) : Keeps r (s.loadShadow f x idx) :=
  setFloe_keeps (nonfinite_keeps h)

theorem wbWritten_keeps {f half a : Nat} (h : Keeps r s) : Keeps r (s.wbWritten f half a) := by
  unfold State.wbWritten
  split
  · exact h
  · split
    · exact h
    · exact .both (.both (fault_keeps (bump_keeps (setExec_keeps h))) (setExec_keeps h)) h

theorem startPass_keeps {f : Nat} (h : Keeps r s) : Keeps r (s.startPass f) := by
  unfold State.startPass
  extract_lets +onlyGivenNames _
  split
  · exact h
  · exact .both (bump_keeps (setFloe_keeps h)) h

theorem settleShare_keeps {f : Nat} (h : Keeps r s) : Keeps r (s.settleShare f) := by
  unfold State.settleShare
  split
  · exact h
  · exact .both (setExec_keeps h) h

theorem reportSum_keeps {f : Nat} {r' : Sum} (h : Keeps r s) : Keeps r (s.reportSum f r') :=
  .both (.both h (raise_keeps (bumpN_keeps h))) (bumpN_keeps (.both h (raise_keeps (bumpN_keeps h))))

theorem putAcc_keeps {f i : Nat} {v : Int} {p : Bool} {seen : List Nat} (h : Keeps r s) : Keeps r (s.putAcc f i v p seen).1 := by
  unfold State.putAcc
  extract_lets +onlyGivenNames s1
  have h1 : Keeps r s1 := setAccPoison_keeps (setAcc_keeps h)
  exact .bothFst (raise_keeps (bump_keeps h1)) h1

theorem enterAcc_keeps {f : Nat} {ebase : Int} {first : Bool} {i : Nat} {ps : List (Op × Op × Bool)} {seen : List Nat} (h : Keeps r s) :
    Keeps r (s.enterAcc f ebase first i ps seen).1 :=
  putAcc_keeps (reportSum_keeps h)

theorem closeTile_keeps {f : Nat} {p : PassAt} (h : Keeps r s) : Keeps r (s.closeTile f p) := by
  unfold State.closeTile
  extract_lets +onlyGivenNames _
  split
  · exact h
  · exact .both (setFloe_keeps h) (setExec_keeps h)

theorem passSums_keeps {f : Nat} {x : GaffExec} {par : List ParErr} (h : Keeps r s) : Keeps r (s.passSums f x par).1 := by
  unfold State.passSums
  refine .foldlFst h fun t x ht => ?_
  extract_lets +onlyGivenNames _ _ _ _ _ _ _ s2 _ _
  have h2 : Keeps r s2 := tally_keeps (.foldlFst ht fun _ _ ht => enterAcc_keeps ht)
  exact nonfinite_keeps (.both (tally_keeps h2) h2)

theorem parityErrors_keeps {f id : Nat} {par : List ParErr} (h : Keeps r s) : Keeps r (s.parityErrors f id par) :=
  .both h (.foldl (fault_keeps (bumpN_keeps h)) fun _ _ ht => countPar_keeps ht)

theorem endPass_keeps {f : Nat} {x : GaffExec} {par : List ParErr} (h : Keeps r s) : Keeps r (s.endPass f x par) := by
  unfold State.endPass
  extract_lets +onlyGivenNames _ _ _ _ _ _ s2 _ s4 _ _
  have h2 : Keeps r s2 := tally_keeps (passSums_keeps h)
  have h4 : Keeps r s4 := setExec_keeps (.both (tally_keeps h2) h2)
  exact parityErrors_keeps (settleShare_keeps (startPass_keeps (.both (closeTile_keeps h4) h4)))

theorem addPartial_keeps {f p base n : Nat} {seen : List Nat} (h : Keeps r s) : Keeps r (s.addPartial f p base n seen).1 :=
  .foldlFst h fun _ _ ht => putAcc_keeps ht

theorem mergeRound_keeps {f p t : Nat} {x y : GaffExec} {r' : Region} (h : Keeps r s) : Keeps r (s.mergeRound f p t x y r') :=
  settleShare_keeps (startPass_keeps (setExec_keeps (setExec_keeps (addPartial_keeps h))))

theorem windowVals_keeps {f base n : Nat} {ebase : Int} (h : Keeps r s) : Keeps r (s.windowVals f base n ebase).1 :=
  .both h (raise_keeps (bumpN_keeps h))

theorem emitRun_keeps {c : WorkCtx} {f : Nat} {y : TDesc} {sat : Bool} {hist : Val} {strict : Bool} {reals : Nat} {acc : OutSum}
    {held : Tab (Int × Bool)} {ebase : Int} {x : OutRun} (h : Keeps r s) :
    Keeps r (s.emitRun c f y sat hist strict reals acc held ebase x).1 :=
  .bothFst (.bothFst (.pair (writeRun_keeps h)) h) (.pair (writeRun_keeps h))

theorem readoutRegion_keeps {f : Nat} {x : GaffExec} {r' : Region} (h : Keeps r s) : Keeps r (s.readoutRegion f x r') := by
  unfold State.readoutRegion
  extract_lets +onlyGivenNames _ _ _ _ _ _ _ _ _ _ _ s2 _ _
  have h2 : Keeps r s2 := tally_keeps (.foldlFst h fun _ _ ht => emitRun_keeps (windowVals_keeps ht))
  exact settleShare_keeps (startPass_keeps (setExec_keeps (updRun_keeps h2)))

theorem amaxUpdate_keeps {a : Nat} {amax : Val} {clamps : Nat} {poison : Bool} (h : Keeps r s) :
    Keeps r (s.amaxUpdate a amax clamps poison) := by
  unfold State.amaxUpdate
  extract_lets +onlyGivenNames _ _ _ _ _ _ _ s4
  have h4 : Keeps r s4 := wrLe_keeps (wrLe_keeps (wrLe_keeps (wrLe_keeps h)))
  exact .both (wrLe_keeps h4) h4

theorem settleAmax_keeps {r' : Run} (h : Keeps r s) : Keeps r (s.settleAmax r') := by
  unfold State.settleAmax
  extract_lets +onlyGivenNames _
  split
  · exact h
  · refine .both h ?_
    extract_lets +onlyGivenNames s1 s2 s3 _ _
    have h1 : Keeps r s1 := amaxUpdate_keeps h
    have h2 : Keeps r s2 := raise_keeps (bump_keeps h1)
    have h3 : Keeps r s3 := .both h1 (.both (fault_keeps h2) h2)
    exact .both (raise_keeps (bump_keeps h3)) h3

theorem histZero_keeps {f : Nat} {y : TDesc} {hist : Val} (h : Keeps r s) : Keeps r (s.histZero f y hist) :=
  .both (raise_keeps (bump_keeps h)) h

/-! ### GATHER, conversions, ATTN and ADAPT_STEP -/

theorem gatherRow_keeps {c : WorkCtx} {f : Nat} {x y : TDesc} {row : Nat} {src : Option Nat} {idxPoison : Bool} {n : Nat}
    (h : Keeps r s) :
    Keeps r (s.gatherRow c f x y row src idxPoison n) := by
  unfold State.gatherRow
  refine .foldl h fun t x ht => ?_
  extract_lets +onlyGivenNames _
  split
  · exact commitLine_keeps ht
  · exact commitLine_keeps ht

theorem gather_keeps {c : WorkCtx} {f : Nat} {m : Macro} (h : Keeps r s) : Keeps r (s.gather c f m) :=
  .foldl h fun _ _ ht => .both (raise_keeps (bump_keeps (gatherRow_keeps ht))) (gatherRow_keeps ht)

theorem convert_keeps {c : WorkCtx} {f : Nat} {m : Macro} {hist : Val} {dequant : Bool} (h : Keeps r s) :
    Keeps r (s.convert c f m hist dequant).1 :=
  .foldlFst h fun _ _ ht => writeRun_keeps ht

theorem putCode_keeps {a w e v : Nat} (h : Keeps r s) : Keeps r (s.putCode a w e v) := .both (wrByte_keeps h) (wrLe_keeps h)

theorem putSide_keeps {f half slot pos kind code : Nat} {poison : Bool} (h : Keeps r s) :
    Keeps r (s.putSide f half slot pos kind code poison) :=
  setSide_keeps h

theorem cacheColumn_keeps {f : Nat} {g : CacheGeo} {sat : Bool} {k : Nat} {row : List (Val × Bool)} {t : Tag} (h : Keeps r s) :
    Keeps r (s.cacheColumn f g sat k row t) := by
  unfold State.cacheColumn
  extract_lets +onlyGivenNames _ _
  split
  · extract_lets +onlyGivenNames s1 _
    have h1 : Keeps r s1 := .foldl h fun _ _ ht => .foldl (.both ht (putSide_keeps ht)) fun _ _ ht1 => putCode_keeps ht1
    exact .foldl h1 fun _ _ ht => setTag_keeps ht
  · exact h

theorem attnAppend_keeps {c : WorkCtx} {f : Nat} {m : Macro} {head : Nat} (h : Keeps r s) : Keeps r (s.attnAppend c f m head) :=
  .foldl h fun _ _ ht => writeRun_keeps (writeRun_keeps (cacheColumn_keeps (cacheColumn_keeps ht)))

theorem readSums_keeps {f : Nat} {ebase : Int} {rs : List Sum} (h : Keeps r s) : Keeps r (s.readSums f ebase rs).1 := by
  unfold State.readSums
  extract_lets +onlyGivenNames _ s1 s2 _ _ _
  have h1 : Keeps r s1 := .foldl h fun _ _ ht => reportSum_keeps ht
  have h2 : Keeps r s2 := .both h1 (raise_keeps (bumpN_keeps h1))
  exact tally_keeps (.both h2 (raise_keeps (bumpN_keeps h2)))

theorem attnHead_keeps {c : WorkCtx} {f : Nat} {m : Macro} {hist : Val} {head : Nat} {acc : OutSum} (h : Keeps r s) :
    Keeps r (s.attnHead c f m hist head acc).1 := by
  unfold State.attnHead
  extract_lets +onlyGivenNames _ _ _ _ _ _ _ _ _ s2 _ _ _ _ _ s3
  have h2 : Keeps r s2 := bumpN_keeps (attnAppend_keeps h)
  have h3 : Keeps r s3 := .both (raise_keeps h2) h2
  exact .foldlFst h3 fun _ _ ht => writeRun_keeps (readSums_keeps (writeRun_keeps (readSums_keeps ht)))

theorem attn_keeps {c : WorkCtx} {f : Nat} {m : Macro} {hist : Val} (h : Keeps r s) : Keeps r (s.attn c f m hist).1 :=
  .foldlFst h fun _ _ ht => attnHead_keeps ht

theorem adaptParam_keeps {sat : Bool} {o : OptRec} {theta vel : Nat} {g : Val} (h : Keeps r s) :
    Keeps r (s.adaptParam sat o theta vel g) :=
  wrLe_keeps (wrLe_keeps h)

theorem adaptStage_keeps {c : WorkCtx} {f : Nat} {sat : Bool} {x y : TDesc} {rows n : Nat} (h : Keeps r s) :
    Keeps r (s.adaptStage c f sat x y rows n) :=
  .foldl h fun _ _ ht => writeRun_keeps ht

theorem adapt_keeps {c : WorkCtx} {f : Nat} {members : List Nat} {m : Macro} (h : Keeps r s) : Keeps r (s.adapt c f members m) := by
  unfold State.adapt
  extract_lets +onlyGivenNames _ _ _ _ _ _ _ _ _ _ _ _ _ s3 _
  have h3 : Keeps r s3 := readSums_keeps (readSums_keeps (.foldl h fun _ _ ht => readSums_keeps ht))
  refine .both (raise_keeps (bump_keeps (wrLe_keeps h3))) ?_
  extract_lets +onlyGivenNames _ s4 s5 _ _
  have h4 : Keeps r s4 := .foldl h3 fun _ _ ht => .foldl ht fun _ _ ht1 => adaptParam_keeps ht1
  have h5 : Keeps r s5 := .foldl h4 fun _ _ ht => .foldl ht fun _ _ ht1 => adaptParam_keeps ht1
  exact wrLe_keeps (adaptStage_keeps (adaptStage_keeps h5))

/-! ### Commands of the Gaff -/

theorem refuseMember_keeps {f id : Nat} {v : Verdict} (h : Keeps r s) : Keeps r (s.refuseMember f id v) := by
  unfold State.refuseMember
  extract_lets +onlyGivenNames _ _ s2 s3 s4 s5 s6 s7 s8 s9 _
  have h2 : Keeps r s2 := wf_keeps (wf_keeps (bump_keeps h))
  have h3 : Keeps r s3 := .both (wf_keeps h2) h2
  have h4 : Keeps r s4 := .both (raise_keeps h3) h3
  have h5 : Keeps r s5 := .both (raise_keeps h4) h4
  have h6 : Keeps r s6 := .both (raise_keeps h5) h5
  have h7 : Keeps r s7 := .both (raise_keeps h6) h6
  have h8 : Keeps r s8 := .both (raise_keeps h7) h7
  have h9 : Keeps r s9 := .both (raise_keeps h8) h8
  exact setExec_keeps (.both h9 (raise_keeps h9))

theorem refuseRun_keeps {r' : Nat} {q : Run} {vs : List (Nat × Nat × Verdict)} (h : Keeps r s) : Keeps r (s.refuseRun r' q vs) := by
  unfold State.refuseRun
  extract_lets +onlyGivenNames s1 s2
  have h1 : Keeps r s1 := .foldl h fun _ _ ht => refuseMember_keeps ht
  have h2 : Keeps r s2 := by
    unfold s2
    split
    · exact post_keeps h1
    · exact h1
  exact setRun_keeps (workRefused_keeps h2)

theorem dropDeferred_keeps {f : Nat} (h : Keeps r s) : Keeps r (s.dropDeferred f) := .both (raise_keeps (setFloe_keeps h)) h

theorem beginShare_keeps {f : Nat} {x : GaffExec} {v : Verdict} {c : WorkCtx} {hist : Val} (h : Keeps r s) :
    Keeps r (s.beginShare f x v c hist) := by
  unfold State.beginShare
  extract_lets +onlyGivenNames _ s1
  have h1 : Keeps r s1 := wf_keeps h
  refine .both (setFloe_keeps (.both h1 (dropDeferred_keeps h1))) ?_
  refine .both ?_ ?_
  · extract_lets +onlyGivenNames _
    split
    · exact setFloe_keeps h1
    · exact setExec_keeps h1
  · extract_lets +onlyGivenNames s2
    have h2 : Keeps r s2 := dropDeferred_keeps h1
    refine .both (setExec_keeps h2) ?_
    refine .both (setExec_keeps (.both h2 (raise_keeps h2))) ?_
    exact updRun_keeps (setExec_keeps (.bothFst (gather_keeps h2) (convert_keeps h2)))

theorem checkRun_keeps {r' : Nat} {q : Run} (h : Keeps r s) : Keeps r (s.checkRun r' q) := by
  unfold State.checkRun
  refine .both (refuseRun_keeps h) ?_
  extract_lets +onlyGivenNames _ _ _ s1 _
  have h1 : Keeps r s1 := setRun_keeps h
  exact .foldl (.both h1 (.foldl h1 fun _ _ ht => histZero_keeps ht)) fun _ _ ht => beginShare_keeps ht

theorem startMember_keeps {f r' : Nat} {word : BitVec 512} {bad : Bool} (h : Keeps r s) : Keeps r (s.startMember f r' word bad) := by
  unfold State.startMember
  extract_lets +onlyGivenNames s1
  have h1 : Keeps r s1 := setExec_keeps h
  split
  · exact h1
  · exact .both (checkRun_keeps (setRun_keeps h1)) (setRun_keeps h1)

theorem deliverMacro_keeps {sw : Bool} {c : WorkCtx} {ws : List (Nat × BitVec 512 × Bool)} (h : Keeps r s) :
    Keeps r (s.deliverMacro sw c ws) := by
  unfold State.deliverMacro
  split
  · exact h
  · refine .both ?_ ?_
    · exact .foldl (setRun_keeps (.mk' h)) fun _ _ ht => .both (setFloe_keeps ht) (startMember_keeps ht)
    · extract_lets +onlyGivenNames _ s2 _ _
      have h2 : Keeps r s2 := .foldl (.foldl h fun _ _ ht => discardWork_keeps ht) fun _ _ ht => fault_keeps ht
      exact workRefused_keeps (.foldl h2 fun _ _ ht => raise_keeps (wf_keeps (bump_keeps ht)))

theorem issueMacro_keeps {c : WorkCtx} {rx : Nat} {word : BitVec 512} (h : Keeps r s) : Keeps r (s.issueMacro c rx word) :=
  deliverMacro_keeps h

theorem softStart_keeps {f : Nat} {word : BitVec 512} {bad : Bool} (h : Keeps r s) : Keeps r (s.softStart f word bad) := by
  unfold State.softStart
  refine .both (deliverMacro_keeps h) ?_
  extract_lets +onlyGivenNames s1 _
  have h1 : Keeps r s1 := setExec_keeps h
  exact .both (deliverMacro_keeps (.foldl h1 fun _ _ ht => setExec_keeps ht)) h1

theorem gaffGo_keeps {f off : Nat} (h : Keeps r s) : Keeps r (s.gaffGo f off) := by
  unfold State.gaffGo
  refine .both (raise_keeps h) ?_
  exact .both (discardWork_keeps h) (.both (.both (fault_keeps h) (setFloe_keeps h)) (softStart_keeps h))

theorem wrGaffIssue_keeps {f : Nat} {v : Word} (h : Keeps r s) : Keeps r (s.wrGaffIssue f v) := .both (gaffGo_keeps h) h

theorem latchedStart_keeps {f : Nat} (h : Keeps r s) : Keeps r (s.latchedStart f) := by
  unfold State.latchedStart
  extract_lets +onlyGivenNames _
  split
  · refine .both h ?_
    extract_lets +onlyGivenNames s1
    have h1 : Keeps r s1 := setFloe_keeps h
    split
    · exact startMember_keeps h1
    · exact softStart_keeps h1
  · exact h

theorem signalTimeout_keeps {f : Nat} (h : Keeps r s) : Keeps r (s.signalTimeout f) := by
  unfold State.signalTimeout
  split
  · refine .both ?_ h
    extract_lets +onlyGivenNames _ s1
    have h1 : Keeps r s1 := .foldl h fun _ _ ht => setExec_keeps (wf_keeps (raise_keeps (wf_keeps (bump_keeps ht))))
    split
    · exact post_keeps h1
    · exact h1
  · exact h

theorem memberDone_keeps {f : Nat} {x : GaffExec} (h : Keeps r s) : Keeps r (s.memberDone f x) := by
  unfold State.memberDone
  extract_lets +onlyGivenNames _ _ s1
  have h1 : Keeps r s1 := setFloe_keeps h
  split
  · exact h1
  · split
    · exact h1
    · exact .both (setRun_keeps (workDone_keeps (settleAmax_keeps h1))) (setRun_keeps h1)

theorem zeroDone_keeps {f : Nat} (h : Keeps r s) : Keeps r (s.zeroDone f) := by
  unfold State.zeroDone
  split
  · exact .both (memberDone_keeps (tally_keeps (.both (bump_keeps (bump_keeps h)) (bump_keeps h)))) h
  · exact h

theorem tileLoaded_keeps {f : Nat} {found : List (BitVec 24 × Ecc)} (h : Keeps r s) : Keeps r (s.tileLoaded f found) := by
  unfold State.tileLoaded
  split
  · split
    · exact .both (startPass_keeps (loadShadow_keeps (codesMet_keeps h))) (codesMet_keeps h)
    · exact h
  · exact h

theorem passEnded_keeps {f : Nat} {par : List ParErr} {found : List (BitVec 24 × Ecc)} (h : Keeps r s) :
    Keeps r (s.passEnded f par found) := by
  unfold State.passEnded
  split
  · exact .both (.both (endPass_keeps (codesMet_keeps h)) (codesMet_keeps h)) h
  · exact h

theorem readoutDone_keeps {f : Nat} {found : List (BitVec 24 × Ecc)} (h : Keeps r s) : Keeps r (s.readoutDone f found) := by
  unfold State.readoutDone
  split
  · split
    · exact .both (.both (readoutRegion_keeps (codesMet_keeps h)) (codesMet_keeps h)) h
    · exact h
  · exact h

theorem mergeDone_keeps {f : Nat} {found sent : List (BitVec 24 × Ecc)} (h : Keeps r s) : Keeps r (s.mergeDone f found sent) := by
  unfold State.mergeDone
  split
  · split
    · split
      · split
        · split
          · refine .both ?_ h
            exact .both (mergeRound_keeps (codesMet_keeps (codesMet_keeps h))) (codesMet_keeps (codesMet_keeps h))
          · exact h
        · exact h
      · exact h
    · exact h
  · exact h

theorem shareDone_keeps {f cycles : Nat} (h : Keeps r s) : Keeps r (s.shareDone f cycles) := by
  unfold State.shareDone
  split
  · exact .both (memberDone_keeps (tally_keeps (bump_keeps h))) h
  · exact h

theorem poisonRun_keeps {f : Nat} {y : TDesc} {src : Tag} {row e0 n : Nat} (h : Keeps r s) : Keeps r (s.poisonRun f y src row e0 n) :=
  .foldl h fun _ _ ht => setTag_keeps ht

theorem poisonUnwritten_keeps {f : Nat} {x : GaffExec} (h : Keeps r s) : Keeps r (s.poisonUnwritten f x) := by
  unfold State.poisonUnwritten
  refine .both ?_ ?_
  · exact .foldl h fun _ _ ht => .foldl ht fun _ _ ht1 => poisonRun_keeps ht1
  · exact .both (.foldl h fun _ _ ht => .foldl ht fun _ _ ht1 => poisonRun_keeps ht1) h

theorem poisonRegion_keeps {f base n : Nat} (h : Keeps r s) : Keeps r (s.poisonRegion f base n) :=
  .foldl h fun _ _ ht => setAccPoison_keeps ht

theorem gaffOverrun_keeps {f : Nat} (h : Keeps r s) : Keeps r (s.gaffOverrun f) := by
  unfold State.gaffOverrun
  split
  · refine .both h ?_
    extract_lets +onlyGivenNames _ _ _ s2 _ _ _ _ _ _ _ s6 s7 _
    have h2 : Keeps r s2 := .foldl (poisonUnwritten_keeps h) fun _ _ ht => poisonRegion_keeps ht
    have h6 : Keeps r s6 := updRun_keeps (setFloe_keeps (.both (setFloe_keeps (poisonRegion_keeps h2)) h2))
    have h7 : Keeps r s7 := by
      unfold s7
      split
      · split
        · exact .both (setRun_keeps (settleAmax_keeps h6)) h6
        · exact h6
      · exact h6
    exact autoFence_keeps (fault_keeps (tally_keeps h7))
  · exact h

theorem gaffAcquire_keeps {f : Nat} (h : Keeps r s) : Keeps r (s.gaffAcquire f) := by
  unfold State.gaffAcquire
  extract_lets
  split
  · refine .both ?_ h
    extract_lets +onlyGivenNames _ _ s1
    have h1 : Keeps r s1 := setFloe_keeps h
    refine .both (updRun_keeps (setExec_keeps (attn_keeps h1))) ?_
    split
    · exact h1
    · extract_lets ms ready
      clear_value ready ms
      split
      · refine .foldl (adapt_keeps h1) fun t k ht => ?_
        split
        · exact setExec_keeps ht
        · exact ht
      · exact h1
  · exact h

theorem loadCb_keeps {f j : Nat} {l : CbLoad} (h : Keeps r s) : Keeps r (s.loadCb f j l) := by
  unfold State.loadCb
  refine .both ?_ (fillCb_keeps h)
  exact setFloe_keeps (wf_keeps (wf_keeps (bump_keeps (.both (raise_keeps (wf_keeps h)) (wf_keeps h)))))

theorem cbApply_keeps {f j : Nat} (h : Keeps r s) : Keeps r (s.cbApply f j) := by
  unfold State.cbApply
  split
  · exact .both h (fillCb_keeps h)
  · exact h

/-! ### The issue core -/

theorem setCore_keeps {f : Nat} {c : CoreSt} (h : Keeps r s) : Keeps r (s.setCore f c) := setFloe_keeps h

theorem nativeOob_keeps {f : Nat} (h : Keeps r s) : Keeps r (s.nativeOob f) :=
  .both (raise_keeps (bump_keeps h)) (post_keeps (setCore_keeps (raise_keeps (bump_keeps h))))

theorem kernelTag_keeps {f : Nat} {c : CoreSt} {a fmt : Nat} {poison : Bool} (h : Keeps r s) : Keeps r (s.kernelTag f c a fmt poison) :=
  markLine_keeps (setTag_keeps h)

theorem poisonRange_keeps {f : Nat} {r' : Nat × Nat} (h : Keeps r s) :
    Keeps r (s.poisonRange f r') := .foldl h fun _ _ ht => setTag_keeps ht

theorem startKernel_keeps {ctx : WorkCtx} {f off : Nat} (h : Keeps r s) : Keeps r (s.startKernel ctx f off) := by
  unfold State.startKernel
  refine .both (workRefused_keeps (discardWork_keeps h)) ?_
  refine .both (fault_keeps h) ?_
  extract_lets +onlyGivenNames _ s1
  have h1 : Keeps r s1 := wf_keeps (wf_keeps h)
  refine .both (.both (raise_keeps (setCore_keeps h1)) (setCore_keeps h1)) ?_
  extract_lets +onlyGivenNames s2 _
  have h2 : Keeps r s2 := .both (poisonRange_keeps h1) h1
  exact workRefused_keeps (fault_keeps (bump_keeps (.both (poisonRange_keeps h2) h2)))

theorem wrKstart_keeps {f : Nat} {v : Word} (h : Keeps r s) : Keeps r (s.wrKstart f v) :=
  .both h (.both (raise_keeps h) (startKernel_keeps h))

theorem preloadStart_keeps {f : Nat} (h : Keeps r s) : Keeps r (s.preloadStart f) := .both (setCore_keeps h) h

theorem preloadDone_keeps {f : Nat} (h : Keeps r s) : Keeps r (s.preloadDone f) := .both (setCore_keeps h) h

theorem kernelLeaves_keeps {f t : Nat} (h : Keeps r s) : Keeps r (s.kernelLeaves f t) :=
  workDone_keeps (wf_keeps (tally_keeps (tally_keeps (setCore_keeps h))))

theorem kernelStopped_keeps {f t : Nat} {flag : Fld} {cls : Nat} (h : Keeps r s) : Keeps r (s.kernelStopped f t flag cls) :=
  kernelLeaves_keeps (fault_keeps (bump_keeps (poisonRange_keeps (poisonRange_keeps h))))

theorem kernelOverrun_keeps {f : Nat} (h : Keeps r s) : Keeps r (s.kernelOverrun f) := kernelStopped_keeps h

theorem kernelIllegal_keeps {f : Nat} (h : Keeps r s) :
    Keeps r (s.kernelIllegal f) := .both (kernelOverrun_keeps h) (kernelStopped_keeps h)

theorem nativeOverrunAt_keeps {f : Nat} (h : Keeps r s) : Keeps r (s.nativeOverrunAt f) := .both (kernelOverrun_keeps h) h

theorem illegalAt_keeps {f : Nat} (h : Keeps r s) : Keeps r (s.illegalAt f) := .both (kernelIllegal_keeps h) h

theorem issueK_keeps {f : Nat} {vs sms xs : List Nat} {u : KUnit} {body : State → CoreSt → Nat → State} (h : Keeps r s)
    (hbody : ∀ t x y, Keeps r t → Keeps r (body t x y)) :
    Keeps r (s.issueK f vs sms xs u body) :=
  .both (.both (kernelOverrun_keeps h) (hbody _ _ _ h)) h

theorem scalarOp_keeps {f : Nat} {o : ScalarArgs} {srcs : List Nat} {lat : Nat} {v : CoreSt → Word} (h : Keeps r s) :
    Keeps r (s.scalarOp f o srcs lat v) :=
  issueK_keeps h fun _ _ _ ht => setCore_keeps ht

theorem scalarRR_keeps {f : Nat} {o : ScalarArgs} {lat : Nat} {op : Word → Word → Word} (h : Keeps r s) :
    Keeps r (s.scalarRR f o lat op) :=
  scalarOp_keeps h

theorem scalarRI_keeps {f : Nat} {o : ScalarArgs} {op : Word → Word → Word} (h : Keeps r s) :
    Keeps r (s.scalarRI f o op) := scalarOp_keeps h

theorem loadWord_keeps {f : Nat} {o : ScalarArgs} (h : Keeps r s) : Keeps r (s.loadWord f o) :=
  issueK_keeps h fun _ _ _ ht => .both (setCore_keeps ht) (nativeOob_keeps (setCore_keeps ht))

theorem storeWord_keeps {f : Nat} {o : ScalarArgs} (h : Keeps r s) : Keeps r (s.storeWord f o) := by
  unfold State.storeWord
  refine issueK_keeps h fun _ _ _ ht => ?_
  extract_lets +onlyGivenNames _ _ s1
  have h1 : Keeps r s1 := setCore_keeps ht
  refine .both ?_ (nativeOob_keeps h1)
  exact .both (kernelTag_keeps (wrLe_keeps h1)) (kernelTag_keeps (kernelTag_keeps (wrLe_keeps h1)))

theorem setVl_keeps {f : Nat} {o : ScalarArgs} (h : Keeps r s) :
    Keeps r (s.setVl f o) := issueK_keeps h fun _ _ _ ht => setCore_keeps ht

theorem summaryUse_keeps {f : Nat} {p : Bool} (h : Keeps r s) : Keeps r (s.summaryUse f p) :=
  .both (raise_keeps (setCore_keeps (tally_keeps h))) (tally_keeps h)

theorem moveSummary_keeps {f : Nat} {o : ScalarArgs} (h : Keeps r s) : Keeps r (s.moveSummary f o) :=
  issueK_keeps h fun _ _ _ ht => summaryUse_keeps (setCore_keeps ht)

theorem branchTo_keeps {f : Nat} {c : CoreSt} {t : Nat} {taken : Bool} {off : BitVec 16} {notTaken cost : Nat} (h : Keeps r s) :
    Keeps r (s.branchTo f c t taken off notTaken cost) :=
  .both (.both (setCore_keeps h) (kernelStopped_keeps h)) (setCore_keeps h)

theorem branchRR_keeps {f : Nat} {o : BranchArgs} {cond : Word → Word → Bool} (h : Keeps r s) : Keeps r (s.branchRR f o cond) :=
  issueK_keeps h fun _ _ _ ht => branchTo_keeps ht

theorem jump_keeps {f : Nat} {o : BranchArgs} (h : Keeps r s) : Keeps r (s.jump f o) := issueK_keeps h fun _ _ _ ht => branchTo_keeps ht

theorem branchSm_keeps {f : Nat} {o : BranchArgs} {cond : Word → Word → Bool} (h : Keeps r s) : Keeps r (s.branchSm f o cond) :=
  .both (illegalAt_keeps h) (issueK_keeps h (fun _ _ _ ht => branchTo_keeps (summaryUse_keeps ht)))

theorem kernelEnd_keeps {f : Nat} (h : Keeps r s) : Keeps r (s.kernelEnd f) :=
  .both (.both (kernelOverrun_keeps h) (kernelLeaves_keeps (bump_keeps (setCore_keeps h)))) h

/-! ### Brash -/

theorem brashReport_keeps {f : Nat} {ws : List Wr} {divz : Bool} (h : Keeps r s) : Keeps r (s.brashReport f ws divz) := by
  unfold State.brashReport
  extract_lets +onlyGivenNames _ _ _ _ s1 s2 s3 s4
  have h1 : Keeps r s1 := .both (bump_keeps (raise_keeps h)) h
  have h2 : Keeps r s2 := .both (raise_keeps h1) h1
  have h3 : Keeps r s3 := .both (raise_keeps h2) h2
  have h4 : Keeps r s4 := .both (bump_keeps h3) h3
  exact .both (bump_keeps (raise_keeps h4)) h4

theorem vecInsn_keeps {f : Nat} {legal : Bool} {srcs sms xs : List Nat} {u : KUnit} {body : State → CoreSt → Nat → State}
    (h : Keeps r s) (hbody : ∀ t x y, Keeps r t → Keeps r (body t x y)) :
    Keeps r (s.vecInsn f legal srcs sms xs u body) :=
  .both (issueK_keeps h (fun _ _ _ ht => hbody _ _ _ (tally_keeps ht))) (illegalAt_keeps h)

theorem laneOp_keeps {f : Nat} {o : VecArgs} {legal : Bool} {srcs xs : List Nat} {u : KUnit} {lat occ : Nat}
    {k : CoreSt → Nat → List Nat} (h : Keeps r s) :
    Keeps r (s.laneOp f o legal srcs xs u lat occ k) :=
  vecInsn_keeps h fun _ _ _ ht => setCore_keeps ht

theorem valOp_keeps {f : Nat} {o : VecArgs} {legal : Bool} {srcs : List Nat} {u : KUnit} {lat occ : Nat}
    {k : CoreSt → Nat → List (Wr × Bool)} (h : Keeps r s) :
    Keeps r (s.valOp f o legal srcs u lat occ k) :=
  vecInsn_keeps h fun _ _ _ ht => brashReport_keeps (setCore_keeps ht)

theorem broadcastSm_keeps {f : Nat} {o : VecArgs} (h : Keeps r s) : Keeps r (s.broadcastSm f o) := by
  unfold State.broadcastSm
  exact vecInsn_keeps h fun _ _ _ ht => brashReport_keeps (setCore_keeps ht)

theorem complexMul_keeps {f : Nat} {o : VecArgs} {conj : Bool} (h : Keeps r s) : Keeps r (s.complexMul f o conj) :=
  vecInsn_keeps h fun _ _ _ ht => brashReport_keeps (setCore_keeps ht)

theorem transOp_keeps {f : Nat} {o : VecArgs} {lat : Nat} {dz : Bool} {op : Fmt → Nat → Val → Wr} (h : Keeps r s) :
    Keeps r (s.transOp f o lat dz op) :=
  valOp_keeps h

theorem convertVec_keeps {f : Nat} {o : VecArgs} (h : Keeps r s) : Keeps r (s.convertVec f o) := by
  unfold State.convertVec
  exact vecInsn_keeps h fun _ _ _ ht => brashReport_keeps (setCore_keeps ht)

theorem codebookExpand_keeps {f : Nat} {o : VecArgs} (h : Keeps r s) : Keeps r (s.codebookExpand f o) :=
  vecInsn_keeps h fun _ _ _ ht => setCore_keeps ht

theorem codebookQuant_keeps {f : Nat} {o : VecArgs} (h : Keeps r s) : Keeps r (s.codebookQuant f o) := by
  unfold State.codebookQuant
  exact vecInsn_keeps h fun _ _ _ ht => brashReport_keeps (setCore_keeps ht)

theorem reduceOp_keeps {f : Nat} {o : VecArgs} {legal : Bool} {k : List Nat → Word × SmKind × List Wr} (h : Keeps r s) :
    Keeps r (s.reduceOp f o legal k) :=
  vecInsn_keeps h fun _ _ _ ht => brashReport_keeps (setCore_keeps ht)

theorem kernelWrite_keeps {f : Nat} {c : CoreSt} {a fmt : Nat} {bs : Bytes} {poison : Bool} (h : Keeps r s) :
    Keeps r (s.kernelWrite f c a fmt bs poison).1 :=
  .foldlFst h fun _ _ ht => .bothFst (kernelTag_keeps (wrBytes_keeps ht)) ht

theorem vecLoad_keeps {f : Nat} {o : VMemArgs} {legal : Bool} {w : Nat} {wide : Nat → Nat} (h : Keeps r s) :
    Keeps r (s.vecLoad f o legal w wide) :=
  vecInsn_keeps h fun _ _ _ ht => .both (nativeOob_keeps (setCore_keeps ht)) (setCore_keeps ht)

theorem vecStore_keeps {f : Nat} {o : VMemArgs} {legal : Bool} {w : Nat} {narrow : Nat → Wr} (h : Keeps r s) :
    Keeps r (s.vecStore f o legal w narrow) := by
  unfold State.vecStore
  refine vecInsn_keeps h fun _ _ _ ht => ?_
  extract_lets +onlyGivenNames _ _ _ _ _ _ _ _ s3
  have h3 : Keeps r s3 := brashReport_keeps (kernelWrite_keeps (setCore_keeps ht))
  exact .both (nativeOob_keeps h3) h3

theorem vecGather_keeps {f : Nat} {o : VMemArgs} (h : Keeps r s) : Keeps r (s.vecGather f o) :=
  vecInsn_keeps h fun _ _ _ ht => .both (nativeOob_keeps (setCore_keeps ht)) (setCore_keeps ht)

theorem vecScatter_keeps {f : Nat} {o : VMemArgs} (h : Keeps r s) : Keeps r (s.vecScatter f o) := by
  unfold State.vecScatter
  refine vecInsn_keeps h fun _ _ _ ht => ?_
  extract_lets +onlyGivenNames _ _ _ _ _ _ p2 s3
  have h2 : Keeps r p2.1 := .foldlFst (setCore_keeps ht) fun _ _ ht => kernelWrite_keeps ht
  have h3 : Keeps r s3 := .both h2 (raise_keeps h2)
  exact .both (nativeOob_keeps h3) h3

/-! ### The Spar DSP -/

theorem setSpar_keeps {f : Nat} {p : SparSt} (h : Keeps r s) : Keeps r (s.setSpar f p) := setFloe_keeps h

theorem sparRaise_keeps {f i : Nat} (h : Keeps r s) : Keeps r (s.sparRaise f i) := .both (raise_keeps (bump_keeps h)) (setSpar_keeps h)

theorem sparPoison_keeps {f : Nat} {r' : Nat × Nat} (h : Keeps r s) :
    Keeps r (s.sparPoison f r') := .foldl h fun _ _ ht => setTag_keeps ht

theorem sparLeaves_keeps {f t : Nat} (h : Keeps r s) : Keeps r (s.sparLeaves f t) :=
  workDone_keeps (tally_keeps (wf_keeps (bumpN_keeps (setSpar_keeps h))))

theorem sparStopped_keeps {f t : Nat} {flag : Fld} {cls : Nat} (h : Keeps r s) : Keeps r (s.sparStopped f t flag cls) :=
  sparLeaves_keeps (fault_keeps (bump_keeps (sparPoison_keeps (sparPoison_keeps h))))

theorem sparOver_keeps {f : Nat} (h : Keeps r s) : Keeps r (s.sparOver f) := raise_keeps (sparStopped_keeps h)

theorem sparIllegal_keeps {f : Nat} (h : Keeps r s) : Keeps r (s.sparIllegal f) := sparStopped_keeps h

theorem sparIssue_keeps {f : Nat} {ctl : Bool} {k : State → SparSt → SparSt → State × SparSt × List SparLate} (h : Keeps r s)
    (hk : ∀ t x y, Keeps r t → Keeps r (k t x y).1) :
    Keeps r (s.sparIssue f ctl k) :=
  .both h (.both (sparOver_keeps h) (.both (sparIllegal_keeps h) (setSpar_keeps (hk _ _ _ h))))

theorem sparStore_keeps {f : Nat} {p : SparSt} {w v : Nat} (h : Keeps r s) : Keeps r (s.sparStore f p w v) := by
  unfold State.sparStore
  refine .both (markLine_keeps (setTag_keeps (wrLe_keeps h))) ?_
  exact .both (raise_keeps (bump_keeps h)) (post_keeps (setSpar_keeps (raise_keeps (bump_keeps h))))

theorem sparSlots_keeps {f : Nat} {p q : SparSt} {x y : SparSlot} (h : Keeps r s) : Keeps r (s.sparSlots f p q x y).1 :=
  .both (sparStore_keeps (.both (sparStore_keeps h) h)) (.both (sparStore_keeps h) h)

theorem putAcc40_keeps {f : Nat} {q : SparSt} {a sat : Bool} {v : Int} (h : Keeps r s) : Keeps r (s.putAcc40 f q a sat v).1 :=
  .both (raise_keeps (bump_keeps h)) h

theorem putT_keeps {f : Nat} {q : SparSt} {rd : Nat} {sat : Bool} {v : Int} (h : Keeps r s) : Keeps r (s.putT f q rd sat v).1 := by
  unfold State.putT
  extract_lets +onlyGivenNames _ _ s1 s2 _
  have h1 : Keeps r s1 := .both (raise_keeps h) h
  have h2 : Keeps r s2 := .both (raise_keeps h1) h1
  exact .both (bump_keeps h2) h2

theorem sparM_keeps {f : Nat} {o : SparM} {op : Option (Int → Int → Int)} (h : Keeps r s) : Keeps r (s.sparM f o op) := by
  refine sparIssue_keeps h fun t p q ht => ?_
  cases op with
  | none => exact sparSlots_keeps ht
  | some g => exact .pair (putAcc40_keeps (sparSlots_keeps ht))

theorem sparA_keeps {f : Nat} {k : State → SparSt → SparSt → State × SparSt} (h : Keeps r s)
    (hk : ∀ t x y, Keeps r t → Keeps r (k t x y).1) :
    Keeps r (s.sparA f k) :=
  sparIssue_keeps h fun _ _ _ ht => hk _ _ _ ht

theorem sparLateA_keeps {f : Nat} {k : SparSt → SparLate} (h : Keeps r s) : Keeps r (s.sparLateA f k) :=
  sparIssue_keeps h fun _ _ _ ht => ht

theorem sparBit_keeps {f : Nat} {o : SparA} {op : Nat → Nat → Nat} (h : Keeps r s) : Keeps r (s.sparBit f o op) :=
  sparA_keeps h fun _ _ _ ht => ht

theorem sparPick_keeps {f : Nat} {o : SparA} {op : Int → Int → Int} (h : Keeps r s) : Keeps r (s.sparPick f o op) :=
  sparA_keeps h fun _ _ _ ht => ht

theorem sparNorm_keeps {f : Nat} {o : SparA} (h : Keeps r s) : Keeps r (s.sparNorm f o) := sparA_keeps h fun _ _ _ ht => ht

theorem sparCtl_keeps {f : Nat} {k : SparSt → Option (SparSt → SparSt)} (h : Keeps r s) : Keeps r (s.sparCtl f k) := by
  unfold State.sparCtl
  refine .both ?_ (sparIssue_keeps h (fun _ _ _ ht => ht))
  split
  · exact sparIllegal_keeps h
  · exact setSpar_keeps h

theorem sparBranch_keeps {f : Nat} {target : BitVec 14} {cond : SparSt → Bool} (h : Keeps r s) : Keeps r (s.sparBranch f target cond) :=
  sparCtl_keeps h

theorem sparRepeat_keeps {f len lo : Nat} {count : SparSt → Nat} (h : Keeps r s) :
    Keeps r (s.sparRepeat f len lo count) := sparCtl_keeps h

theorem startSpar_keeps {ctx : WorkCtx} {f off : Nat} (h : Keeps r s) : Keeps r (s.startSpar ctx f off) := by
  unfold State.startSpar
  refine .both (workRefused_keeps (discardWork_keeps h)) ?_
  refine .both (fault_keeps h) ?_
  extract_lets +onlyGivenNames _ s1
  have h1 : Keeps r s1 := wf_keeps (wf_keeps (wf_keeps h))
  refine .both (setSpar_keeps (wf_keeps h1)) ?_
  extract_lets +onlyGivenNames s2 _
  have h2 : Keeps r s2 := .both (sparPoison_keeps h1) h1
  exact workRefused_keeps (fault_keeps (bump_keeps (.both (sparPoison_keeps h2) h2)))

theorem wrSparKstart_keeps {f : Nat} {v : Word} (h : Keeps r s) : Keeps r (s.wrSparKstart f v) :=
  .both h (.both (raise_keeps h) (startSpar_keeps h))

theorem sparPreloaded_keeps {f : Nat} {ue : Bool} (h : Keeps r s) : Keeps r (s.sparPreloaded f ue) :=
  .both (.both (sparIllegal_keeps (fault_keeps (setSpar_keeps h))) (setSpar_keeps h)) h

theorem sparEnded_keeps {f : Nat} (h : Keeps r s) : Keeps r (s.sparEnded f) :=
  .both (.both (sparOver_keeps h) (sparLeaves_keeps (bump_keeps h))) h

theorem sparOverAt_keeps {f : Nat} (h : Keeps r s) : Keeps r (s.sparOverAt f) := .both (sparOver_keeps h) h

theorem wrMbox_keeps {f : Nat} {v : Word} (h : Keeps r s) : Keeps r (s.wrMbox f v) := .both h (sparRaise_keeps (setSpar_keeps h))

theorem sparTick_keeps {f : Nat} (h : Keeps r s) : Keeps r (s.sparTick f) := .both (sparRaise_keeps h) h

theorem sparAccept_keeps {f : Nat} (h : Keeps r s) : Keeps r (s.sparAccept f) := by
  unfold State.sparAccept
  refine .both ?_ h
  split
  · exact h
  · extract_lets +onlyGivenNames _ _ _ _ _ _ s3
    have h3 : Keeps r s3 := wf_keeps (bump_keeps (setSpar_keeps h))
    exact .both (.both (raise_keeps h3) (post_keeps (raise_keeps h3))) h3

/-! ### Floe memories and windows -/

theorem spAccess_keeps {f line : Nat} {op : SpOp} {ecc : Ecc} (h : Keeps r s) : Keeps r (s.spAccess f line op ecc) := by
  unfold State.spAccess
  extract_lets +onlyGivenNames _ _
  split
  · exact .both (answer_keeps h) (answer_keeps (floeRead_keeps h))
  · refine .both h ?_
    extract_lets +onlyGivenNames _ _ _ s2
    have h2 : Keeps r s2 := wrBytes_keeps (.both h (floeCodes_keeps h))
    split
    · exact h2
    · exact setTag_keeps h2

theorem execScratchpadAccess_keeps {f : Fin 64} {port : SpPort} {line : BitVec 16} {op : SpOp} {ecc : Ecc} (h : Keeps r s) :
    KeepsNext r (execScratchpadAccess f port line op ecc s) := by
  unfold execScratchpadAccess
  refine .next ?_
  refine .both (spAccess_keeps h) ?_
  split
  · exact answer_keeps (unmapped_keeps h)
  · exact unmapped_keeps h

theorem patrolTurn_keeps {f : Nat} {ecc : Ecc} (h : Keeps r s) : Keeps r (s.patrolTurn f ecc) :=
  floeCodes_keeps (.both (bump_keeps (setFloe_keeps h)) (setFloe_keeps h))

theorem zeroFloe_keeps {f : Nat} (h : Keeps r s) : Keeps r (s.zeroFloe f) := Keeps.clearFloe (zeroMem_keeps h)

theorem memInit_keeps {f : Nat} (h : Keeps r s) : Keeps r (s.memInit f) := .both h (wf_keeps (wf_keeps (zeroFloe_keeps h)))

theorem scrubBegin_keeps {f : Nat} (h : Keeps r s) : Keeps r (s.scrubBegin f) := .both (wf_keeps h) h

theorem scrubAsk_keeps {f : Nat} (h : Keeps r s) : Keeps r (s.scrubAsk f) := scrubBegin_keeps (wf_keeps h)

theorem scrubUnits_keeps {f : Nat} (h : Keeps r s) : Keeps r (s.scrubUnits f) := .foldl (setFloe_keeps h) fun _ _ ht => setWord_keeps ht

theorem nextScrub_keeps {p : Nat} (h : Keeps r s) : Keeps r (s.nextScrub p) := by
  unfold State.nextScrub
  split
  · exact scrubAsk_keeps (.mk' h)
  · exact h

theorem scrubDone_keeps {f : Nat} (h : Keeps r s) : Keeps r (s.scrubDone f) := by
  unfold State.scrubDone
  refine .both ?_ h
  extract_lets +onlyGivenNames s1
  have h1 : Keeps r s1 := wf_keeps (wf_keeps (scrubUnits_keeps (zeroFloe_keeps h)))
  split
  · exact nextScrub_keeps h1
  · exact h1

theorem windowDeny_keeps {f : Nat} (h : Keeps r s) : Keeps r (s.windowDeny f) := fault_keeps (bump_keeps h)

theorem window_keeps {a : Agent} {f off0 : Nat} {acc : Access} {ecc : Ecc} (h : Keeps r s) : Keeps r (s.window a f off0 acc ecc) := by
  cases acc with
  | read z =>
    exact .both (answer_keeps (unmapped_keeps h)) (.both (answer_keeps (floeRead_keeps h)) (answer_keeps (windowDeny_keeps h)))
  | write z data =>
    refine .both (unmapped_keeps h) (.both ?_ (windowDeny_keeps h))
    extract_lets s1 s2
    have h2 : Keeps r s2 := wrBytes_keeps (.both (floeCodes_keeps h) h)
    split
    · exact wbWritten_keeps h2
    · exact h2

theorem setWinPend_keeps {k : Nat} {p : Bool} (h : Keeps r s) : Keeps r (s.setWinPend k p) := .mk' h

theorem winEnable_keeps {w : WinRef} (h : Keeps r s) : Keeps r (s.winEnable w) := .both (wf_keeps h) (raise_keeps (wf_keeps h))

theorem wrWin_keeps {w : WinRef} {v : Word} (h : Keeps r s) : Keeps r (s.wrWin w v) := by
  unfold State.wrWin
  extract_lets +onlyGivenNames _ _ s2
  have h2 : Keeps r s2 := wf_keeps (wf_keeps (wf_keeps (.both (wf_keeps h) h)))
  refine .both (.both (setWinPend_keeps h2) (winEnable_keeps h2)) ?_
  exact .both (wf_keeps (wf_keeps (setWinPend_keeps h2))) (setWinPend_keeps h2)

theorem winClosed_keeps {w : WinRef} (h : Keeps r s) : Keeps r (s.winClosed w) :=
  .both (.both (winEnable_keeps (setWinPend_keeps (wf_keeps h))) (wf_keeps h)) h

theorem remoteFloeLine_keeps {src tenant n o : Nat} {ecc : Ecc} {line : Option TaggedLine} (h : Keeps r s) :
    Keeps r (s.remoteFloeLine src tenant n o ecc line).1 := by
  unfold State.remoteFloeLine
  refine .bothFst (bump_keeps h) ?_
  split
  · exact .bothFst (bump_keeps h) (.pair (floeRead_keeps (bump_keeps h)))
  · exact .bothFst (bump_keeps h) (.bothFst (.pair (post_keeps (bump_keeps h))) (.pair (wrLine_keeps (bump_keeps h))))

theorem remoteDramLine_keeps {link src tenant o : Nat} {ecc : Ecc} {line : Option TaggedLine} (h : Keeps r s) :
    Keeps r (s.remoteDramLine link src tenant o ecc line).1 := by
  unfold State.remoteDramLine
  split
  · exact bump_keeps h
  · refine .bothFst (granDeny_keeps h) ?_
    refine .bothFst (unmapped_keeps h) ?_
    split
    · exact firnRead_keeps h
    · exact firnWrite_keeps h

theorem remoteLine_keeps {link src tenant o : Nat} {ecc : Ecc} {line : Option TaggedLine} (h : Keeps r s) :
    Keeps r (s.remoteLine link src tenant o ecc line).1 :=
  .bothFst (remoteDramLine_keeps h) (.bothFst (remoteFloeLine_keeps h) (bump_keeps h))

theorem remoteLines_keeps {link src tenant o : Nat} {ecc : Ecc} {ls : List (Option TaggedLine)} (h : Keeps r s) :
    Keeps r (s.remoteLines link src tenant o ecc ls).1 := by
  induction ls generalizing s o ecc with
  | nil => exact h
  | cons l ls ih => exact ih (remoteLine_keeps h)

theorem remoteServe_keeps {link : Nat} {r' : RemoteAccess} (h : Keeps r s) : Keeps r (s.remoteServe link r').1 := remoteLines_keeps h

theorem execRemoteFloeAccess_keeps {link : Fin 8} {r' : RemoteAccess} (h : Keeps r s) : KeepsNext r (execRemoteFloeAccess link r' s) := by
  unfold execRemoteFloeAccess
  extract_lets +onlyGivenNames p1
  have h1 : Keeps r p1.1 := remoteServe_keeps h
  refine .next ?_
  split
  · exact h1
  · exact answer_keeps h1

/-! ### Frames and tables of Moraine -/

theorem setMor_keeps {m : MorSt} (h : Keeps r s) : Keeps r (s.setMor m) := .mk' h

theorem morStore_keeps {i : Nat} {v : Word} (h : Keeps r s) : Keeps r (s.morStore i v) :=
  .both (raise_keeps (setMor_keeps h)) (setMor_keeps h)

theorem morIndWrite_keeps {i : Nat} {v : Word} (h : Keeps r s) : KeepsSome r (s.morIndWrite i v) := by
  unfold State.morIndWrite
  refine .both ?_ .none
  split
  · exact .some (setMor_keeps h)
  · exact .some (morStore_keeps h)

theorem applyWait_keeps {c : Nat} (h : Keeps r s) : Keeps r (s.applyWait c) := .foldl (setMor_keeps h) fun _ _ ht => morStore_keeps ht

theorem setPartners_keeps {t : Tab (Option MorPartner)} (h : Keeps r s) : Keeps r (s.setPartners t) := wf_keeps (setMor_keeps h)

theorem learn_keeps {mac port : Nat} (h : Keeps r s) : Keeps r (s.learn mac port).1 := by
  unfold State.learn
  extract_lets
  split
  · exact setPartners_keeps h
  · refine .bothFst ?_ h
    split
    · exact .pair (raise_keeps (setPartners_keeps h))
    · exact .pair (raise_keeps h)

theorem retire_keeps {p : Nat} (h : Keeps r s) : Keeps r (s.retire p) := by
  unfold State.retire
  split
  · exact h
  · exact .both h (raise_keeps (setPartners_keeps (setMor_keeps h)))

theorem section_keeps {i : Nat} {e : MorEntry} {c : MorCell} {p : Option Nat} {m : MorMsg} {sec : MorSec} (h : Keeps r s) :
    Keeps r (s.section i e c p m sec) := by
  unfold State.section
  refine .both (bump_keeps h) ?_
  refine .both (bump_keeps (raise_keeps h)) ?_
  split
  · exact bump_keeps h
  · refine .both (bump_keeps h) ?_
    split
    · exact bump_keeps h
    · exact .both (bump_keeps h) (.both (fault_keeps h) (bumpN_keeps (setMor_keeps h)))

theorem morMessage_keeps {i : Nat} {e : MorEntry} {c : MorCell} {port : Nat} {m : MorMsg} (h : Keeps r s) :
    Keeps r (s.morMessage i e c port m) := by
  unfold State.morMessage
  extract_lets +onlyGivenNames _ p1
  have h1 : Keeps r p1.1 := learn_keeps h
  split
  · exact h1
  · extract_lets +onlyGivenNames s2 _ _ s4
    have h2 : Keeps r s2 := h1
    have h4 : Keeps r s4 := setMor_keeps (.both (bump_keeps h2) h2)
    split
    · exact bump_keeps h4
    · exact .foldl h4 fun _ _ ht => section_keeps ht

theorem morFrame_keeps {port : Nat} {bs : Bytes} (h : Keeps r s) : Keeps r (s.morFrame port bs).1 := by
  unfold State.morFrame
  extract_lets +onlyGivenNames _
  split
  · exact h
  · refine .bothFst h ?_
    split
    · exact h
    · exact bump_keeps h
    · split
      · exact morMessage_keeps h
      · split
        · exact bump_keeps h
        · exact bump_keeps (raise_keeps h)
        · exact .bothFst h (.bothFst (bump_keeps h) (morMessage_keeps h))

/-! ### Slots, adaptation, record and replay of Moraine -/

theorem setOpen_keeps {xs : List MorSlot} (h : Keeps r s) : Keeps r (s.setOpen xs) := wf_keeps (setMor_keeps h)

theorem openSlot_keeps {c : Nat} (h : Keeps r s) : Keeps r (s.openSlot c) := by
  unfold State.openSlot
  refine .both h ?_
  exact .both (setMor_keeps (applyWait_keeps h)) (setOpen_keeps (setMor_keeps (applyWait_keeps h)))

theorem morOvf_keeps {sat ovf : Nat} (h : Keeps r s) : Keeps r (s.morOvf sat ovf) := by
  unfold State.morOvf
  extract_lets +onlyGivenNames _ s1 s2
  have h1 : Keeps r s1 := .both h (raise_keeps h)
  have h2 : Keeps r s2 := .both h1 (raise_keeps h1)
  exact .both h2 (bumpN_keeps h2)

theorem enqueue_keeps {q : Nat} {t : MorTensor} (h : Keeps r s) : Keeps r (s.enqueue q t) := setMor_keeps h

theorem keepId_keeps {c : MorCell} {slot : Nat} {lines : List TaggedLine} (h : Keeps r s) : Keeps r (s.keepId c slot lines) :=
  .both (setMor_keeps h) h

theorem balance_keeps {j : MorJob} (h : Keeps r s) : Keeps r (s.balance j) :=
  .both (setMor_keeps h) (.both (wf_keeps (setMor_keeps h)) (bump_keeps (setMor_keeps h)))

theorem acPop_keeps {v : Word} (h : Keeps r s) : Keeps r (s.acPop v) := wf_keeps (setMor_keeps h)

theorem takeJob_keeps (h : Keeps r s) : Keeps r s.takeJob.1 := by
  unfold State.takeJob
  split
  · exact h
  · exact setMor_keeps h

theorem adpKeep_keeps {infoN : Nat} {es : List MorEntry} {lines : List TaggedLine} (h : Keeps r s) : Keeps r (s.adpKeep infoN es lines) :=
  .both h (.both (bump_keeps h) (setMor_keeps h))

theorem ringWrite_keeps {n k : Nat} {ls : List Bytes} (h : Keeps r s) : Keeps r (s.ringWrite n k ls) := by
  induction ls generalizing s k with
  | nil => exact h
  | cons l ls ih => exact ih (firnWrite_keeps h)

theorem record_keeps {hdr : Nat → Nat → Bytes} {payload : List Bytes} (h : Keeps r s) : Keeps r (s.record hdr payload) :=
  .both h (.both (raise_keeps (setMor_keeps h)) (wf_keeps (setMor_keeps (ringWrite_keeps h))))

theorem closeSlot_keeps {x : MorSlot} (h : Keeps r s) : Keeps r (s.closeSlot x) := by
  unfold State.closeSlot
  extract_lets +onlyGivenNames _ _ _ _ _ _ _ _ _ _ _ _ _ _ _ _ _ s2 _ _ s4 _ _ s6 s7 _
  have h2 : Keeps r s2 := setOpen_keeps (setMor_keeps (.both (raise_keeps h) h))
  have h4 : Keeps r s4 := morOvf_keeps (.both h2 (bumpN_keeps h2))
  have h6 : Keeps r s6 := keepId_keeps (.both h4 (enqueue_keeps h4))
  have h7 : Keeps r s7 := .both (record_keeps h6) h6
  exact .foldl (.both (adpKeep_keeps h7) h7) fun _ _ ht => balance_keeps ht

theorem slotClose_keeps {c : Nat} (h : Keeps r s) : Keeps r (s.slotClose c) := by
  unfold State.slotClose
  split
  · exact h
  · exact .both (closeSlot_keeps h) h

theorem morStep_keeps (h : Keeps r s) : Keeps r s.morStep :=
  .both (setMor_keeps h) (raise_keeps (setMor_keeps (.foldl h fun _ _ ht => closeSlot_keeps ht)))

theorem wrAlloc_keeps {v : Word} (h : Keeps r s) : Keeps r (s.wrAlloc v) := .both h (.both (raise_keeps h) (setMor_keeps h))

theorem wrAdpStart_keeps {v : Word} (h : Keeps r s) : Keeps r (s.wrAdpStart v) :=
  .both h (.both (raise_keeps h) (record_keeps (wf_keeps (setMor_keeps h))))

theorem adpEmit_keeps (h : Keeps r s) : Keeps r s.adpEmit := by
  unfold State.adpEmit
  extract_lets +onlyGivenNames _
  split
  · exact h
  · exact wf_keeps (setMor_keeps (enqueue_keeps (morOvf_keeps h)))

theorem replayNext_keeps {c fuel line : Nat} {seq : Option Nat} (h : Keeps r s) : Keeps r (s.replayNext c fuel line seq).1 := by
  induction fuel generalizing s line seq with
  | zero => exact h
  | succ fuel ih =>
    unfold State.replayNext
    extract_lets
    split
    · exact h
    · exact h
    · exact ih (wf_keeps (wf_keeps h))
    · exact .bothFst h (ih h)

theorem replaySlot_keeps {c : Nat} (h : Keeps r s) : Keeps r (s.replaySlot c) := by
  unfold State.replaySlot
  extract_lets +onlyGivenNames _ _ _
  refine .both h ?_
  extract_lets +onlyGivenNames s2
  have h2 : Keeps r s2 := applyWait_keeps h
  refine .both h2 ?_
  extract_lets +onlyGivenNames _ _ s4
  have h4 : Keeps r s4 := replayNext_keeps h2
  split
  · split
    · exact fault_keeps h4
    · exact keepId_keeps (enqueue_keeps (bumpN_keeps (morOvf_keeps (setMor_keeps h4))))
  · exact fault_keeps h4
  · exact raise_keeps h4

theorem queueLine_keeps {q k : Nat} (h : Keeps r s) : Keeps r (s.queueLine q k).1 := setMor_keeps h

theorem wrRecCtrl_keeps {v : Word} (h : Keeps r s) : Keeps r (s.wrRecCtrl v) :=
  .both (setMor_keeps (wf_keeps (wf_keeps h))) (wf_keeps (wf_keeps h))

/-! ### The requester of a remote access -/

theorem setShr_keeps {l : Nat} {x : ShrSt} (h : Keeps r s) : Keeps r (s.setShr l x) := .mk' h

theorem shrLost_keeps {l n : Nat} (h : Keeps r s) : Keeps r (s.shrLost l n) := .both h (post_keeps (bumpN_keeps h))

theorem shrQueue_keeps {l : Nat} {m : ShrMsg} (h : Keeps r s) : Keeps r (s.shrQueue l m) := .both (setShr_keeps h) (shrLost_keeps h)

theorem remoteSend_keeps {agent a tenant n : Nat} {ls : Option (List TaggedLine)} (h : Keeps r s) :
    Keeps r (s.remoteSend agent a tenant n ls).1 := by
  unfold State.remoteSend
  split
  · exact unmapped_keeps h
  · extract_lets +onlyGivenNames _
    have h1 := unmapped_keeps (agent := agent) (addr := a) (write := ls.isSome) h
    refine .bothFst (.pair (raise_keeps h1)) (.bothFst (.pair (raise_keeps h1)) ?_)
    extract_lets _ s1 _ _ _ s2
    have h2 : Keeps r s2 := shrQueue_keeps h.mk'
    exact .bothFst h2 (.both h2 (setShr_keeps h2))

theorem windowClosed_keeps {agent a : Nat} (h : Keeps r s) : Keeps r (s.windowClosed agent a) := by
  unfold State.windowClosed
  extract_lets +onlyGivenNames s1
  have h1 : Keeps r s1 := unmapped_keeps h
  split
  · exact .both (raise_keeps h1) h1
  · exact h1

/-! ### Serac -/

theorem setSer_keeps {e : Nat} {x : SerSt} (h : Keeps r s) : Keeps r (s.setSer e x) := wf_keeps (wf_keeps (wf_keeps (.mk' h)))

theorem serInput_keeps {e : Nat} {l : TaggedLine} {src : Option Nat} (h : Keeps r s) : Keeps r (s.serInput e l src) := by
  unfold State.serInput
  refine .both (discardWork_keeps (bump_keeps h)) ?_
  exact .both (bump_keeps h) (.both (fault_keeps (bump_keeps h)) (.both (setSer_keeps h) (setSer_keeps h)))

theorem wrWsetClr_keeps {e : Nat} {v : Word} (h : Keeps r s) : Keeps r (s.wrWsetClr e v) := setSer_keeps h

theorem serStart_keeps {e : Nat} (h : Keeps r s) : Keeps r (s.serStart e) := by
  unfold State.serStart
  extract_lets +onlyGivenNames _ _
  split
  · exact .both h (.both (wf_keeps (setSer_keeps h)) (fault_keeps (wf_keeps (wf_keeps (setSer_keeps h)))))
  · exact h

theorem serDecoded_keeps {e : Nat} {r' : SerRun} {rc : SerRec} {poison memUe : Bool} (h : Keeps r s) :
    Keeps r (s.serDecoded e r' rc poison memUe) := by
  unfold State.serDecoded
  extract_lets +onlyGivenNames _ _ s1 s2
  have h1 : Keeps r s1 := setSer_keeps h
  have h2 : Keeps r s2 := .both (raise_keeps h1) h1
  exact .both (fault_keeps (setSer_keeps h2)) h2

theorem serBlocks_keeps {e : Nat} {cbs : List CbOut} (h : Keeps r s) : Keeps r (s.serBlocks e cbs) := bumpN_keeps (bumpN_keeps h)

theorem serLdpc_keeps {e : Nat} {memUe : Bool} (h : Keeps r s) : Keeps r (s.serLdpc e memUe) := by
  unfold State.serLdpc
  split
  · exact h
  · exact serDecoded_keeps (bumpN_keeps (tally_keeps (serBlocks_keeps h)))

theorem serPolar_keeps {e : Nat} {memUe : Bool} (h : Keeps r s) : Keeps r (s.serPolar e memUe) := by
  unfold State.serPolar
  split
  · exact h
  · exact serDecoded_keeps (serBlocks_keeps h)

theorem serTbCheck_keeps {e : Nat} {memUe : Bool} (h : Keeps r s) : Keeps r (s.serTbCheck e memUe) := by
  unfold State.serTbCheck
  split
  · exact h
  · exact serDecoded_keeps h

theorem serWset_keeps {e : Nat} {memUe : Bool} (h : Keeps r s) : Keeps r (s.serWset e memUe) := by
  unfold State.serWset
  split
  · exact h
  · exact serDecoded_keeps (.both h (bump_keeps (setSer_keeps h)))

theorem serEnd_keeps {e cycles : Nat} (h : Keeps r s) : Keeps r (s.serEnd e cycles) := by
  unfold State.serEnd
  extract_lets +onlyGivenNames _ _
  split
  · exact h
  · split
    · exact h
    · extract_lets +onlyGivenNames _ _ s1 s2 _ _
      have h1 : Keeps r s1 := setSer_keeps h
      have h2 : Keeps r s2 := .both (fault_keeps h1) h1
      exact tally_keeps (bump_keeps (.both (bump_keeps h2) h2))

theorem serRead_keeps {e k : Nat} (h : Keeps r s) : Keeps r (s.serRead e k).1 := by
  unfold State.serRead
  extract_lets +onlyGivenNames _
  split
  · exact h
  · split
    · exact h
    · exact .bothFst (setSer_keeps h) (setSer_keeps h)

theorem execSeracRecordRead_keeps {e : Fin 8} (h : Keeps r s) : KeepsNext r (execSeracRecordRead e s) := by
  unfold execSeracRecordRead
  extract_lets +onlyGivenNames _
  refine .next ?_
  split
  · exact answer_keeps (serRead_keeps h)
  · exact h

/-! ### Transfers of the halyards -/

theorem activate_keeps {h' : Nat} {d : HalDesc} (h : Keeps r s) :
    Keeps r (s.activate h' d) := putHal_keeps (wf_keeps (readyCheck_keeps h))

theorem promote_keeps {h' : Nat} (h : Keeps r s) : Keeps r (s.promote h') := by
  unfold State.promote
  extract_lets +onlyGivenNames _
  split
  · refine .both h ?_
    exact .both (activate_keeps (putHal_keeps h)) (workRefused_keeps (discardWork_keeps (putHal_keeps h)))
  · exact h

theorem arm_keeps {h' : Nat} {d : HalDesc} (h : Keeps r s) : Keeps r (s.arm h' d) := by
  unfold State.arm
  refine .both (workRefused_keeps (discardWork_keeps h)) ?_
  extract_lets +onlyGivenNames s1 _
  have h1 : Keeps r s1 := promote_keeps h
  exact .both (activate_keeps h1) (.both (fault_keeps (bump_keeps (putHal_keeps h1))) (putHal_keeps h1))

theorem dropShadow_keeps {h' : Nat} (h : Keeps r s) : Keeps r (s.dropShadow h') := .both (bump_keeps (putHal_keeps h)) h

theorem cancelAll_keeps {h' : Nat} (h : Keeps r s) : Keeps r (s.cancelAll h') :=
  .both (dropShadow_keeps (cancelXfer_keeps h)) (cancelXfer_keeps h)

theorem wrHalArm_keeps {h' : Nat} {v : Word} (h : Keeps r s) : Keeps r (s.wrHalArm h' v) := by
  unfold State.wrHalArm
  refine .both h ?_
  refine .both (raise_keeps h) ?_
  extract_lets +onlyGivenNames s1
  have h1 : Keeps r s1 := .both (cancelAll_keeps h) (.both (cancelXfer_keeps h) h)
  exact .both (arm_keeps h1) h1

theorem checkDesc_keeps {h' : Nat} {d : HalDesc} (h : Keeps r s) : Keeps r (s.checkDesc h' d) := by
  unfold State.checkDesc
  refine .both ?_ ?_
  · exact .both (wf_keeps (wf_keeps (setHal_keeps h))) (setHal_keeps h)
  · exact workRefused_keeps (fault_keeps (bump_keeps (wf_keeps (putHal_keeps h))))

theorem halStart_keeps {h' : Nat} (h : Keeps r s) : Keeps r (s.halStart h') := by
  unfold State.halStart
  extract_lets +onlyGivenNames _
  split
  · exact .both h (checkDesc_keeps h)
  · exact promote_keeps h

theorem floeLine_keeps {c : WorkCtx} {f a : Nat} {ecc : Ecc} (h : Keeps r s) : Keeps r (s.floeLine c f a ecc).1 := by
  unfold State.floeLine
  refine .bothFst h (.bothFst (unmapped_keeps h) ?_)
  split
  · exact .pair (floeRead_keeps h)
  · exact .pair (floeRead_keeps h)
  · exact .pair (floeRead_keeps h)

theorem dramLine_keeps {c : WorkCtx} {tenant a : Nat} {pin wline : Bool} {ecc : Ecc} (h : Keeps r s) :
    Keeps r (s.dramLine c tenant a pin wline ecc).1 :=
  .bothFst (granDeny_keeps h) (.bothFst (unmapped_keeps h) (firnRead_keeps h))

theorem lineAt_keeps {c : WorkCtx} {tenant a : Nat} {pin wline : Bool} {ecc : Ecc} {peer : Option PeerLine} (h : Keeps r s) :
    Keeps r (s.lineAt c tenant a pin wline ecc peer).1 := by
  unfold State.lineAt
  split
  · exact dramLine_keeps h
  · extract_lets +onlyGivenNames p1
    have h1 : Keeps r p1.1 := remoteSend_keeps h
    split
    · exact h1
    · exact h1
    · exact h1
    · exact windowClosed_keeps h1
  · exact unmapped_keeps h
  · exact unmapped_keeps h
  · exact floeLine_keeps h
  · exact floeLine_keeps h
  · exact floeLine_keeps h
  · exact floeLine_keeps h

theorem toFloe_keeps {f a : Nat} {bs : Bytes} {t : Tag} (h : Keeps r s) : Keeps r (s.toFloe f a bs t) := by
  unfold State.toFloe
  refine .both h ?_
  refine .both (unmapped_keeps h) ?_
  refine .both (post_keeps h) ?_
  split
  · exact wrBytes_keeps h
  · exact wbWritten_keeps (wrLine_keeps h)
  · exact wrLine_keeps h

theorem putLine_keeps {h' : Nat} {x : HalSt} {w : BitVec 512} {c : WorkCtx} {a : Nat} {bs : Bytes} {t : Tag} (h : Keeps r s) :
    Keeps r (s.putLine h' x w c a bs t) := by
  unfold State.putLine
  extract_lets +onlyGivenNames s1
  have h1 : Keeps r s1 := by
    unfold s1
    split
    · exact .both (granDeny_keeps h) (.both (unmapped_keeps h) (firnWrite_keeps h))
    · exact remoteSend_keeps h
    · exact .foldl h fun _ _ ht => markLine_keeps (toFloe_keeps ht)
    · exact toFloe_keeps h
    · exact toFloe_keeps h
    · exact toFloe_keeps h
    · exact unmapped_keeps h
  exact markLine_keeps (tally_keeps h1)

theorem halPutScale_keeps {h' : Nat} {x : HalSt} {w : BitVec 512} {c : WorkCtx} {lam row j : Nat} {bs : Bytes} {poison : Bool}
    (h : Keeps r s) :
    Keeps r (s.halPutScale h' x w c lam row j bs poison) := by
  unfold State.halPutScale
  extract_lets +onlyGivenNames _ _ s1 s2
  have h1 : Keeps r s1 := firnWrite_keeps h
  have h2 : Keeps r s2 := by
    unfold s2
    split
    · exact .foldl h fun _ _ ht => .both ht (setSide_keeps ht)
    · split
      · exact .both (granDeny_keeps h) (.both (unmapped_keeps h) (.both (setDramPoison_keeps h1) h1))
      · exact h
      · split
        · exact .both h (markLine_keeps (setTag_keeps (wrBytes_keeps h)))
        · exact h
  exact tally_keeps h2

theorem rowBegins_keeps {h' : Nat} {x : HalSt} {c : WorkCtx} {w : BitVec 512} {v : Visit} (h : Keeps r s) :
    Keeps r (s.rowBegins h' x c w v) :=
  .both (.both (bump_keeps (raise_keeps (.both (lineAt_keeps h) h))) (.both (lineAt_keeps h) h)) h

theorem halMismatch_keeps {h' : Nat} {w : BitVec 512} {t : Tag} (h : Keeps r s) : Keeps r (s.halMismatch h' w t) :=
  .both (raise_keeps (bump_keeps h)) (fault_keeps (setHal_keeps (bump_keeps h)))

theorem readSource_keeps {n : Nat} {c : WorkCtx} {w : BitVec 512} {row : Option Nat} {j : Nat} {ecc : Ecc} {peer : Option PeerLine}
    {t : State} {l : HLine} (h : Keeps r s) (e : s.readSource n c w row j ecc peer = some (t, l)) :
    Keeps r t := by
  unfold State.readSource at e
  dsimp only at e
  split at e
  · cases e; exact h
  split at e
  · obtain ⟨x, -, e⟩ := Option.map_eq_some_iff.1 e
    cases e; exact queueLine_keeps h
  · split at e
    · cases e; exact h
    split at e
    · cases e; exact setHal_keeps (serRead_keeps h)
    · split at e
      · cases e
      · cases e; exact h
  · split at e
    · cases e; exact lineAt_keeps (.both (setHal_keeps (lineAt_keeps h)) h)
    · cases e; exact lineAt_keeps (.both (setHal_keeps (lineAt_keeps h)) h)

theorem readScale_keeps {c : WorkCtx} {x : HalSt} {w : BitVec 512} {row : Option Nat} {j : Nat} {peer : Option PeerLine} (h : Keeps r s) :
    Keeps r (s.readScale c x w row j peer).1 := by
  unfold State.readScale
  extract_lets +onlyGivenNames _
  split
  · exact h
  · extract_lets +onlyGivenNames _
    split
    · exact h
    · exact lineAt_keeps h

theorem place_keeps {h' : Nat} {c : WorkCtx} {w : BitVec 512} {lam : Nat} {bs : Bytes} {t : Tag} (h : Keeps r s) :
    Keeps r (s.place h' c w lam bs t) := by
  unfold State.place
  extract_lets +onlyGivenNames _
  split
  · exact tally_keeps (setHal_keeps h)
  · exact tally_keeps (serInput_keeps h)
  · exact putLine_keeps h

theorem deliverLine_keeps {h' : Nat} {c : WorkCtx} {w : BitVec 512} {l : HLine} {srcRow : Option Nat} {d j : Nat}
    {peer : Option PeerLine} (h : Keeps r s) :
    Keeps r (s.deliverLine h' c w l srcRow d j peer) := by
  unfold State.deliverLine
  extract_lets +onlyGivenNames _ _ s1 _ s2 _ _ _ _ _ s4 _ _ _ _
  have h1 : Keeps r s1 := .both (raise_keeps h) h
  have h2 : Keeps r s2 := .both (halMismatch_keeps h1) h1
  have h4 : Keeps r s4 := place_keeps (.both (raise_keeps (bump_keeps h2)) h2)
  exact setHal_keeps (.both (halPutScale_keeps (.bothFst (.bothFst h4 (readScale_keeps h4)) h4)) h4)

theorem halLine_keeps {h' : Nat} {ecc : Ecc} {peer : Option PeerLine} (h : Keeps r s) : Keeps r (s.halLine h' ecc peer) := by
  unfold State.halLine
  extract_lets +onlyGivenNames _
  split
  · exact h
  · extract_lets +onlyGivenNames _
    refine .both h ?_
    extract_lets +onlyGivenNames _
    split
    · exact setHal_keeps (rowBegins_keeps h)
    · split
      · exact h
      · exact setHal_keeps (deliverLine_keeps (rowBegins_keeps (readSource_keeps h ‹_›)))

theorem putDigest_keeps {h' : Nat} {dg : Bytes} (h : Keeps r s) : Keeps r (s.putDigest h' dg) := .foldl h fun _ _ ht => setWord_keeps ht

theorem halDone_keeps {h' : Nat} {d : HalDesc} {cycles : Nat} {rx : Option Bytes} (h : Keeps r s) :
    Keeps r (s.halDone h' d cycles rx) := by
  unfold State.halDone
  extract_lets +onlyGivenNames _ _ _ _ s2 s3 s4 _
  have h2 : Keeps r s2 := tally_keeps (wf_keeps (bump_keeps h))
  have h3 : Keeps r s3 := .both (irq_keeps h2) h2
  have h4 : Keeps r s4 := by
    unfold s4
    refine .both ?_ h3
    split
    · exact sparRaise_keeps h3
    · exact h3
  exact workDone_keeps (putHal_keeps h4)

theorem halComplete_keeps {h' cycles : Nat} (h : Keeps r s) : Keeps r (s.halComplete h' cycles) := by
  unfold State.halComplete
  extract_lets +onlyGivenNames _
  split
  · exact h
  · refine .both h ?_
    extract_lets +onlyGivenNames _ s1 _ s2 _ _ s3 _
    have h1 : Keeps r s1 := .both (putLine_keeps h) h
    have h2 : Keeps r s2 := .both (putDigest_keeps h1) h1
    have h3 : Keeps r s3 := .both (place_keeps h2) h2
    exact halDone_keeps (.both (loadCb_keeps h3) h3)

theorem halZero_keeps {h' : Nat} (h : Keeps r s) : Keeps r (s.halZero h') := by
  unfold State.halZero
  extract_lets +onlyGivenNames _
  split
  · exact h
  · exact .both h (.both (checkDesc_keeps h) (halDone_keeps (bump_keeps h)))

theorem cancelDone_keeps {h' cycles : Nat} (h : Keeps r s) : Keeps r (s.cancelDone h' cycles) :=
  .both (tally_keeps (wf_keeps (bump_keeps (irq_keeps (wf_keeps (putHal_keeps h)))))) h

/-! ### Schedules of the Masthead -/

theorem setMst_keeps {m : MstSt} (h : Keeps r s) : Keeps r (s.setMst m) := .mk' h

theorem mstStat_keeps (h : Keeps r s) : Keeps r s.mstStat := wf_keeps (wf_keeps (wf_keeps (wf_keeps h)))

theorem commitTable_keeps {t : MstTable × Nat × Nat} (h : Keeps r s) : Keeps r (s.commitTable t) := mstStat_keeps (setMst_keeps h)

theorem commitGo_keeps (h : Keeps r s) : Keeps r s.commitGo :=
  .both (raise_keeps h) (commitTable_keeps (.foldl h fun _ _ ht => .both (drcRead_keeps ht) ht))

theorem wrCommit_keeps {v : Word} (h : Keeps r s) : Keeps r (s.wrCommit v) := .both h (.both (commitGo_keeps h) (discardWork_keeps h))

theorem verifyEnd_keeps (h : Keeps r s) : Keeps r s.verifyEnd := by
  unfold State.verifyEnd
  split
  · exact h
  · refine .both (mstStat_keeps (setMst_keeps h)) ?_
    exact irq_keeps (raise_keeps (wf_keeps (wf_keeps (mstStat_keeps (setMst_keeps h)))))

theorem boundary_keeps {b : Nat} (h : Keeps r s) : Keeps r (s.boundary b) := setMst_keeps h

theorem periodEnd_keeps (h : Keeps r s) : Keeps r s.periodEnd := by
  unfold State.periodEnd
  split
  · exact h
  · exact .both h (.both (wf_keeps (setMst_keeps h)) (boundary_keeps h))

theorem realign_keeps (h : Keeps r s) : Keeps r s.realign := by
  unfold State.realign
  split
  · exact h
  · exact .both (boundary_keeps (raise_keeps (wf_keeps (setMst_keeps h)))) h

theorem holdAll_keeps {on : Bool} (h : Keeps r s) : Keeps r (s.holdAll on) :=
  .foldl (.foldl h fun _ _ ht => wf_keeps ht) fun _ _ ht => setShr_keeps ht

theorem setFwState_keeps {v : Nat} (h : Keeps r s) : Keeps r (s.setFwState v) := wf_keeps h

theorem parked_keeps (h : Keeps r s) : Keeps r s.parked := .mk' (holdAll_keeps (bump_keeps (setFwState_keeps h)))

theorem park_keeps (h : Keeps r s) : Keeps r s.park := by
  unfold State.park
  extract_lets +onlyGivenNames s1
  have h1 : Keeps r s1 := setFwState_keeps h
  split
  · exact parked_keeps (.mk' h1)
  · exact commitTable_keeps (.mk' h1)

theorem resumeFrom_keeps (h : Keeps r s) : Keeps r s.resumeFrom := by
  unfold State.resumeFrom
  extract_lets +onlyGivenNames _ _ s2
  have h2 : Keeps r s2 := .mk' (holdAll_keeps (setFwState_keeps h))
  split
  · exact setFwState_keeps h2
  · exact commitTable_keeps (.mk' h2)

theorem parkActivated_keeps (h : Keeps r s) : Keeps r s.parkActivated := by
  unfold State.parkActivated
  split
  · exact commitTable_keeps (.mk' h)
  · exact .both (resumeFrom_keeps (parked_keeps h)) (parked_keeps h)
  · exact .both (park_keeps (.mk' (.mk' (setFwState_keeps h)))) (.mk' (setFwState_keeps h))
  · exact h

theorem activateTable_keeps (h : Keeps r s) : Keeps r s.activateTable := by
  unfold State.activateTable
  extract_lets +onlyGivenNames _
  split
  · exact h
  · refine .both h ?_
    extract_lets +onlyGivenNames _ _ s2
    have h2 : Keeps r s2 := wf_keeps (bump_keeps (irq_keeps (mstStat_keeps (setMst_keeps h))))
    exact parkActivated_keeps (boundary_keeps h2)

theorem wrAdpSwap_keeps {v : Word} (h : Keeps r s) : Keeps r (s.wrAdpSwap v) := .both h (setMst_keeps h)

theorem mstIndWrite_keeps {i : Nat} {v : Word} (h : Keeps r s) : Keeps r (s.mstIndWrite i v) := .both (setMst_keeps h) h

theorem addWork_keeps {w : Work} (h : Keeps r s) : Keeps r (s.addWork w).1 := setMst_keeps h

theorem relocate_keeps {e : MstEntry} {cells : List Nat} {w : BitVec 512} (h : Keeps r s) : Keeps r (s.relocate e cells w).1 := by
  unfold State.relocate
  split
  · exact .mk' h
  · exact h

theorem dispatch_keeps {kind target : Nat} {w : BitVec 512} {c : WorkCtx} (h : Keeps r s) : Keeps r (s.dispatch kind target w c) := by
  unfold State.dispatch
  split
  · exact issueMacro_keeps h
  · exact startKernel_keeps h
  · exact arm_keeps h
  · exact startSpar_keeps h

theorem skipEntry_keeps {t : MstTable} {e : MstEntry} {w : Work} {fenced : Bool} (h : Keeps r s) : Keeps r (s.skipEntry t e w fenced) :=
  .both (markFailed_keeps (bump_keeps (addWork_keeps h))) (bump_keeps (addWork_keeps h))

theorem issueWork_keeps {t : MstTable} {e : MstEntry} {w : Work} (h : Keeps r s) : Keeps r (s.issueWork t e w) := by
  unfold State.issueWork
  extract_lets +onlyGivenNames _ _ _ s2 _ _ p4 _ _
  have h2 : Keeps r s2 := tally_keeps (addWork_keeps h)
  have h4 : Keeps r p4.1 := relocate_keeps (.both (setMst_keeps h2) h2)
  exact .both (dispatch_keeps h4) (dispatch_keeps (readyCheck_keeps h4))

theorem issueEntry_keeps {kind i : Nat} (h : Keeps r s) : Keeps r (s.issueEntry kind i) := by
  unfold State.issueEntry
  split
  · exact h
  · split
    · exact h
    · refine .both h ?_
      extract_lets +onlyGivenNames _ s1 _ _ _ _
      have h1 : Keeps r s1 := setMst_keeps h
      refine .both (skipEntry_keeps h1) ?_
      extract_lets +onlyGivenNames _ s2
      have h2 : Keeps r s2 := .both (setMst_keeps h1) h1
      refine .both ?_ (issueWork_keeps h2)
      split
      · exact h2
      · rename_i e
        exact issueWork_keeps (.ofFst e (takeJob_keeps h2))

/-! ### Best-effort rings -/

theorem beStatus_keeps {p k v : Nat} (h : Keeps r s) : Keeps r (s.beStatus p k v) := .both (firnWrite_keeps h) (unmapped_keeps h)

theorem setHead_keeps {p : Nat} {r' : Option BeReq} (h : Keeps r s) : Keeps r (s.setHead p r') := wf_keeps (setMst_keeps h)

theorem beLoad_keeps {p : Nat} (h : Keeps r s) : Keeps r (s.beLoad p) := .both h (setHead_keeps h)

theorem beAdvance_keeps {p : Nat} {status : Option Nat} (h : Keeps r s) : Keeps r (s.beAdvance p status) := by
  unfold State.beAdvance
  extract_lets +onlyGivenNames _ s1
  have h1 : Keeps r s1 := by
    unfold s1
    split
    · exact beStatus_keeps h
    · exact h
  exact beLoad_keeps (setHead_keeps (wf_keeps h1))

theorem beBad_keeps (h : Keeps r s) : Keeps r s.beBad := raise_keeps h

theorem wrBeRing_keeps {p : Nat} {size : Bool} {v : Word} (h : Keeps r s) : Keeps r (s.wrBeRing p size v) :=
  .both (beBad_keeps h) (setHead_keeps (wf_keeps (wf_keeps (.both (wf_keeps h) (wf_keeps h)))))

theorem beFlush_keeps {p : Nat} (h : Keeps r s) : Keeps r (s.beFlush p) :=
  setHead_keeps (wf_keeps (.foldl h fun _ _ ht => beStatus_keeps ht))

theorem beAdmit_keeps {p : Nat} {r' : BeReq} (h : Keeps r s) : Keeps r (s.beAdmit p r') :=
  dispatch_keeps (setMst_keeps (bump_keeps (beAdvance_keeps h)))

theorem beTry_keeps {p : Nat} (h : Keeps r s) : Keeps r (s.beTry p).1 := by
  unfold State.beTry
  extract_lets s1
  have h1 : Keeps r s1 := beLoad_keeps h
  split
  · exact h1
  · split
    · exact h1
    · exact .pair (beAdvance_keeps h1)
    · exact .pair (bump_keeps (raise_keeps (beAdvance_keeps h1)))
    · exact .pair (beAdmit_keeps h1)

theorem beRound_keeps {ps : List Nat} (h : Keeps r s) : Keeps r (s.beRound ps).1 := by
  induction ps generalizing s with
  | nil => exact h
  | cons p ps ih => exact .bothFst (beTry_keeps h) (ih (beTry_keeps h))

theorem beRounds_keeps {n : Nat} (h : Keeps r s) : Keeps r (s.beRounds n) := by
  induction n generalizing s with
  | zero => exact h
  | succ n ih => exact .both (ih (beRound_keeps h)) (beRound_keeps h)

theorem beEvaluate_keeps (h : Keeps r s) : Keeps r s.beEvaluate := .both h (beRounds_keeps h)

theorem wrBeTail_keeps {p : Nat} {v : Word} (h : Keeps r s) : Keeps r (s.wrBeTail p v) :=
  .both (beBad_keeps h) (.both (setHead_keeps (wf_keeps h)) (beLoad_keeps (wf_keeps h)))

theorem beEnd_keeps {p k : Nat} {stopped : Bool} (h : Keeps r s) : Keeps r (s.beEnd p k stopped) := by
  unfold State.beEnd
  split
  · exact h
  · extract_lets +onlyGivenNames _ _ s2 s3
    have h2 : Keeps r s2 := beStatus_keeps (setMst_keeps h)
    have h3 : Keeps r s3 := .both (bump_keeps (raise_keeps h2)) h2
    exact beEvaluate_keeps (.both (irq_keeps h3) h3)

theorem beTimeout_keeps {p k : Nat} (h : Keeps r s) : Keeps r (s.beTimeout p k) := by
  unfold State.beTimeout
  split
  · exact h
  · exact .both (cancelXfer_keeps h) h

/-! ### The digest composer -/

theorem ringRecord_keeps {t : Nat} {bs : Bytes} (h : Keeps r s) : Keeps r (s.ringRecord t bs) := by
  unfold State.ringRecord
  extract_lets _ _ _ _ _ put s1
  have hput {u : State} (hu : Keeps r u) (a : Nat) (x : Bytes) : Keeps r (put u a x) := .both (firnWrite_keeps hu) (unmapped_keeps hu)
  exact .both (bump_keeps (raise_keeps h)) (bump_keeps (wf_keeps (hput (hput h _ _) _ _)))

theorem compose_keeps {h' : Nat} (h : Keeps r s) : Keeps r (s.compose h') := by
  unfold State.compose
  extract_lets +onlyGivenNames _
  split
  · exact h
  · extract_lets +onlyGivenNames s1
    have h1 : Keeps r s1 := setHal_keeps h
    exact .both (ringRecord_keeps (.both (bump_keeps (raise_keeps h1)) h1)) h1

theorem wrDetRing_keeps {t which : Nat} {v : Word} (h : Keeps r s) : Keeps r (s.wrDetRing t which v) := by
  unfold State.wrDetRing
  extract_lets +onlyGivenNames _ s1
  have h1 : Keeps r s1 := by
    unfold s1
    split
    · exact wf_keeps h
    · exact wf_keeps h
    · exact wf_keeps h
  exact wf_keeps (wf_keeps h1)

theorem detIndWrite_keeps {i : Nat} {v : Word} (h : Keeps r s) : Keeps r (s.detIndWrite i v) := .both (.mk' h) h

/-! ### The event log -/

theorem setMgmt_keeps {x : MgmtSt} (h : Keeps r s) : Keeps r (s.setMgmt x) := .mk' h

theorem logDrop_keeps (h : Keeps r s) : Keeps r s.logDrop := bump_keeps (raise_keeps h)

theorem logAppend_keeps {old : List LogRec} {source kind sev data : Nat} (h : Keeps r s) :
    Keeps r (s.logAppend old source kind sev data) :=
  setMgmt_keeps h

theorem log_keeps {source kind sev : Nat} {data : BitVec 64} (h : Keeps r s) : Keeps r (s.log source kind sev data) := by
  unfold State.log
  refine .both h ?_
  refine .both (logAppend_keeps h) ?_
  split
  · exact logAppend_keeps (logDrop_keeps h)
  · exact logDrop_keeps h

theorem logOwn_keeps {source kind : Nat} {what : List Nat} (h : Keeps r s) : Keeps r (s.logOwn source kind what) := log_keeps h

theorem modFlag_keeps {g : Nat} {f : Fld} (h : Keeps r s) : Keeps r (s.modFlag g f) := logOwn_keeps (raise_keeps h)

theorem logFlush_keeps {failures : Nat} (h : Keeps r s) :
    Keeps r (s.logFlush failures) := .both h (setMgmt_keeps (.both (raise_keeps h) h))

/-! ### Partitions -/

theorem setPart_keeps {p v : Nat} (h : Keeps r s) : Keeps r (s.setPart p v) := irq_keeps (wf_keeps h)

theorem conflict_keeps (h : Keeps r s) : Keeps r s.conflict := raise_keeps h

theorem tdispStop_keeps (h : Keeps r s) : Keeps r s.tdispStop := .both (wf_keeps (.mk' h)) h

theorem form_keeps {p : Nat} (h : Keeps r s) : Keeps r (s.form p) :=
  .both (setPart_keeps (.both (wf_keeps h) (.mk' (wf_keeps h)))) (conflict_keeps h)

theorem drainPart_keeps {p : Nat} (h : Keeps r s) : Keeps r (s.drainPart p) := .both (setMst_keeps (setPart_keeps h)) (conflict_keeps h)

theorem killHold_keeps {t : Nat} (h : Keeps r s) : Keeps r (s.killHold t) := .both (.foldl h fun _ _ ht => .both (wf_keeps ht) ht) h

theorem kill_keeps {p : Nat} (h : Keeps r s) : Keeps r (s.kill p) := by
  unfold State.kill
  refine .both ?_ (conflict_keeps h)
  extract_lets +onlyGivenNames _ s2
  have h2 : Keeps r s2 := .foldl (beFlush_keeps (killHold_keeps h)) fun _ _ ht => cancelAll_keeps ht
  exact setMst_keeps (setPart_keeps h2)

theorem wrPartCmd_keeps {p : Nat} {v : Word} (h : Keeps r s) : Keeps r (s.wrPartCmd p v) := by
  unfold State.wrPartCmd
  split
  · exact form_keeps h
  · exact drainPart_keeps h
  · exact kill_keeps h
  · exact h

theorem wrPartCfg_keeps {p off : Nat} {v : Word} (h : Keeps r s) : Keeps r (s.wrPartCfg p off v) :=
  .both (setWord_keeps h) (conflict_keeps h)

theorem partDrained_keeps {p : Nat} (h : Keeps r s) : Keeps r (s.partDrained p) := .both (setPart_keeps h) h

theorem clearStart_keeps {p : Nat} (h : Keeps r s) : Keeps r (s.clearStart p) := by
  unfold State.clearStart
  refine .both h ?_
  split
  · exact nextScrub_keeps (setMst_keeps (.foldl h fun _ _ ht => firnStart_keeps ht))
  · exact .both h (nextScrub_keeps h)

theorem partFree_keeps {p : Nat} (h : Keeps r s) : Keeps r (s.partFree p) :=
  .both (tdispStop_keeps (.mk' (setMst_keeps (setPart_keeps h)))) h

/-! ### Time bases, pulses and captures -/

theorem setTb_keeps {i : Nat} {t : TimeBase} (h : Keeps r s) (ht : r.Sound → t.inRange) : Keeps r (s.setTb i t) :=
  wf_keeps (wf_keeps (h.putBase ht))

theorem advance_keeps {n : Nat} (h : Keeps r s) : Keeps r (s.advance n) :=
  .foldl h.mk' fun _ _ ht => setTb_keeps ht fun _ => TimeBase.run_inRange ..

theorem enterHoldover_keeps {i : Nat} (h : Keeps r s) : Keeps r (s.enterHoldover i) := wf_keeps (setTb_keeps h (h.base i))

theorem servoReport_keeps (h : Keeps r s) : Keeps r s.servoReport := .both (wf_keeps (.mk' h)) h

theorem tbIgnored_keeps {i : Nat} (h : Keeps r s) : Keeps r (s.tbIgnored i) := bump_keeps (raise_keeps h)

theorem wrTbIncFrac_keeps {i : Nat} {v : Word} (h : Keeps r s) : Keeps r (s.wrTbIncFrac i v) := .both (tbIgnored_keeps h) (wf_keeps h)

theorem wrTbIncNs_keeps {i : Nat} {v : Word} (h : Keeps r s) : Keeps r (s.wrTbIncNs i v) :=
  .both (tbIgnored_keeps h) (.both (raise_keeps h) (setTb_keeps (wf_keeps h) (h.base i)))

theorem wrTbAdj_keeps {i : Nat} {v : Word} (h : Keeps r s) : Keeps r (s.wrTbAdj i v) := by
  have h1 : Keeps r (((s.raise (pgTb i) F.TB_ERR_STAT_JUMP_REFUSED).bump (pgTb i) F.TB_REFUSE_CNT).enterHoldover i) :=
    enterHoldover_keeps (bump_keeps (raise_keeps h))
  exact .both (tbIgnored_keeps h) (.both (setTb_keeps h (h.base i)) (.both (servoReport_keeps h1) h1))

theorem wrTbStep_keeps {i : Nat} {v : Word} (h : Keeps r s) : Keeps r (s.wrTbStep i v) :=
  .both h (.both (raise_keeps h) (setTb_keeps h (h.base i)))

theorem setPg_keeps {g : Nat} {x : PgSt} (h : Keeps r s) : Keeps r (s.setPg g x) := .mk' h

theorem setArmed_keeps {g : Nat} {on : Bool} (h : Keeps r s) : Keeps r (s.setArmed g on) :=
  .both (wf_keeps (wf_keeps (wf_keeps h))) (wf_keeps h)

theorem pgStep_keeps {g new : Nat} (h : Keeps r s) : Keeps r (s.pgStep g new) :=
  .both (setArmed_keeps (.both (raise_keeps h) h)) (setPg_keeps (.both (raise_keeps h) h))

theorem applyStep_keeps {i : Nat} (h : Keeps r s) : Keeps r (s.applyStep i) := by
  unfold State.applyStep
  extract_lets t
  split
  · exact h
  · next x _ =>
    extract_lets +onlyGivenNames _ _ s1 _ s3
    have h1 : Keeps r s1 := wf_keeps (setTb_keeps h fun _ => TimeBase.stepped_inRange t x)
    have h3 : Keeps r s3 := .foldl (bump_keeps (raise_keeps h1)) fun _ _ ht => pgStep_keeps ht
    have h4 : Keeps r ((s3.wf pgTs F.TS_MASTER_PORT_VALID 0).morStep) := morStep_keeps (wf_keeps h3)
    exact .both (.both (setMst_keeps h4) h4) h3

theorem rdTbNs_keeps {a : Agent} {i : Nat} (h : Keeps r s) : Keeps r (s.rdTbNs a i).1 := .mk' h

theorem ptpSync_keeps {port domain ident num : Nat} (h : Keeps r s) : Keeps r (s.ptpSync port domain ident num) := by
  unfold State.ptpSync
  refine .both h ?_
  refine .both ?_ (bump_keeps (wf_keeps (wf_keeps (wf_keeps (wf_keeps h)))))
  exact .both (bump_keeps h) (servoReport_keeps (enterHoldover_keeps (raise_keeps h)))

theorem wrPtpCtrl_keeps {v : Word} (h : Keeps r s) : Keeps r (s.wrPtpCtrl v) := .both (wf_keeps (setWord_keeps h)) (setWord_keeps h)

theorem wrClkCtrl_keeps {v : Word} (h : Keeps r s) : Keeps r (s.wrClkCtrl v) := .both (raise_keeps h) (wf_keeps h)

theorem asOwner_keeps {a : Agent} {u : TimingUnit} {k : State → State} (h : Keeps r s) (hk : ∀ t, Keeps r t → Keeps r (k t)) :
    Keeps r (s.asOwner a u k) :=
  .both (hk _ h) (raise_keeps h)

theorem claimUnit_keeps {a : Agent} {u : TimingUnit} (h : Keeps r s) : Keeps r (s.claimUnit a u) := .both (wf_keeps h) (raise_keeps h)

theorem disarmUnit_keeps {u : TimingUnit} (h : Keeps r s) : Keeps r (s.disarmUnit u) := by
  unfold State.disarmUnit
  split
  · exact .both (setArmed_keeps h) h
  · exact h

theorem freeUnit_keeps {u : TimingUnit} (h : Keeps r s) : Keeps r (s.freeUnit u) := wf_keeps (disarmUnit_keeps h)

theorem wrOwn_keeps {a : Agent} {u : TimingUnit} {v : Word} (h : Keeps r s) : Keeps r (s.wrOwn a u v) := by
  unfold State.wrOwn
  extract_lets +onlyGivenNames s1
  have h1 : Keeps r s1 := .both (asOwner_keeps h (fun _ ht => freeUnit_keeps ht)) h
  exact .both (claimUnit_keeps h1) h1

theorem pgArm_keeps {g : Nat} (h : Keeps r s) : Keeps r (s.pgArm g) := by
  unfold State.pgArm
  refine .both (discardWork_keeps h) ?_
  refine .both (raise_keeps h) ?_
  refine .both (raise_keeps h) ?_
  exact .both (raise_keeps (disarmUnit_keeps h)) (setArmed_keeps (setPg_keeps (disarmUnit_keeps h)))

theorem wrPgCmd_keeps {a : Agent} {g : Fin 8} {v : Word} (h : Keeps r s) : Keeps r (s.wrPgCmd a g v) := by
  unfold State.wrPgCmd
  refine .both ?_ h
  exact asOwner_keeps h fun _ ht => .both (pgArm_keeps (.both (disarmUnit_keeps ht) ht)) (.both (disarmUnit_keeps ht) ht)

theorem strobe_keeps (h : Keeps r s) : Keeps r s.strobe := wf_keeps (.mk' (.foldl h fun _ _ ht => setWord_keeps (setWord_keeps ht)))

theorem fire_keeps {g : Nat} (h : Keeps r s) : Keeps r (s.fire g) := by
  unfold State.fire
  refine .both h ?_
  extract_lets +onlyGivenNames s1 s2
  have h1 : Keeps r s1 := irq_keeps (bump_keeps h)
  have h2 : Keeps r s2 := .both (setPg_keeps h1) (setArmed_keeps h1)
  split
  · exact wf_keeps (setPg_keeps h2)
  · exact .both h2 (strobe_keeps h2)
  · exact h2

theorem pulseEnd_keeps {g : Nat} (h : Keeps r s) : Keeps r (s.pulseEnd g) := wf_keeps (setPg_keeps h)

theorem setCap_keeps {c : Nat} {q : List CapEntry} (h : Keeps r s) : Keeps r (s.setCap c q) :=
  wf_keeps (wf_keeps (wf_keeps (wf_keeps (wf_keeps (wf_keeps (wf_keeps (.mk' h)))))))

theorem capture_keeps {c : Nat} {falling : Bool} (h : Keeps r s) : Keeps r (s.capture c falling) := by
  unfold State.capture
  refine .both h ?_
  refine .both (raise_keeps h) ?_
  exact .both (raise_keeps (.mk' h)) (irq_keeps (bump_keeps (setCap_keeps (.mk' h))))

theorem capPop_keeps {c : Nat} (h : Keeps r s) : Keeps r (s.capPop c) := by
  unfold State.capPop
  split
  · exact h
  · exact setCap_keeps h

/-! ### Fronthaul ports -/

theorem setFh_keeps {p : Nat} {x : FhSt} (h : Keeps r s) : Keeps r (s.setFh p x) := .mk' h

theorem portDown_keeps {p : Nat} (h : Keeps r s) : Keeps r (s.portDown p) := .both (raise_keeps (wf_keeps h)) h

theorem wrQuadMode_keeps {p m : Nat} (h : Keeps r s) : Keeps r (s.wrQuadMode p m) := by
  unfold State.wrQuadMode
  refine .both h ?_
  exact .both (raise_keeps h) (.both (raise_keeps h) (.foldl (wf_keeps h) fun _ _ ht => wf_keeps ht))

theorem wrMacsecMode_keeps {p m : Nat} (h : Keeps r s) : Keeps r (s.wrMacsecMode p m) :=
  .both (raise_keeps h) (.both (raise_keeps h) (wf_keeps h))

theorem wrFhCtrl_keeps {p : Nat} {v : Word} (h : Keeps r s) : Keeps r (s.wrFhCtrl p v) := by
  unfold State.wrFhCtrl
  refine .both h ?_
  extract_lets +onlyGivenNames _ _ s3
  have h3 : Keeps r s3 := wf_keeps (wf_keeps (wrMacsecMode_keeps (wrQuadMode_keeps h)))
  exact .both (wf_keeps h3) (portDown_keeps (wf_keeps h3))

theorem portTrained_keeps {p : Nat} (h : Keeps r s) : Keeps r (s.portTrained p) := .both (wf_keeps (wf_keeps h)) h

theorem protect_keeps {p : Nat} {bs bs' : Bytes} {t : State} (h : Keeps r s) (e : s.protect p bs = some (t, bs')) : Keeps r t := by
  unfold State.protect at e
  dsimp only at e
  split at e
  · cases e
  · obtain ⟨rfl, -⟩ := Prod.mk.inj (Option.some.inj e)
    exact .both (raise_keeps (setFh_keeps h)) (setFh_keeps h)

theorem devWrite_keeps {a : Nat} {bs : Bytes} (h : Keeps r s) : Keeps r (s.devWrite a bs) :=
  .both (unmapped_keeps h) (.foldl (firnWrite_keeps h) fun _ _ ht => firnWrite_keeps ht)

theorem rxDrop_keeps {p : Nat} (h : Keeps r s) : Keeps r (s.rxDrop p) := bump_keeps h

theorem rxRing_keeps {p : Nat} {bs : Bytes} {isProt : Bool} (h : Keeps r s) : Keeps r (s.rxRing p bs isProt) :=
  .both (bump_keeps (raise_keeps h)) (wf_keeps (devWrite_keeps (devWrite_keeps (devWrite_keeps h))))

theorem timingFrame_keeps {p : Nat} {bs : Bytes} (h : Keeps r s) : Keeps r (s.timingFrame p bs) := by
  unfold State.timingFrame
  extract_lets +onlyGivenNames _ _ s1
  have h1 : Keeps r s1 := .both h (.both (bump_keeps h) (.mk' h))
  exact .both (ptpSync_keeps h1) h1

theorem deliver_keeps {p : Nat} {bs : Bytes} {isProt : Bool} (h : Keeps r s) : Keeps r (s.deliver p bs isProt) := by
  unfold State.deliver
  extract_lets +onlyGivenNames s1 _
  have h1 : Keeps r s1 := tally_keeps h
  exact .both (.both (rxRing_keeps (morFrame_keeps h1)) (morFrame_keeps h1)) (.both (timingFrame_keeps h1) (rxRing_keeps h1))

theorem validateIn_clear {p j an hdr : Nat} {bs body : Bytes} {t : State} (h : Keeps r s)
    (e : s.validateIn p j an bs hdr = .clear t body) :
    Keeps r t := by
  unfold State.validateIn at e
  extract_lets _ _ _ _ _ m at e
  clear_value m
  split at e
  · cases e
  · split at e
    · cases e
    · cases e
      exact setFh_keeps h

/-- The state that comes with a frame which a port accepts under MACsec. -/
theorem validate_clear {p : Nat} {bs body : Bytes} {t : State} (h : Keeps r s) (e : s.validate p bs = .clear t body) : Keeps r t := by
  unfold State.validate at e
  extract_lets at e
  split at e
  · cases e
  · split at e
    · cases e
    · split at e
      · cases e
      · split at e
        · cases e
        · exact validateIn_clear h e

theorem rxFrame_keeps {p : Nat} {fr : RxFrame} (h : Keeps r s) : Keeps r (s.rxFrame p fr) := by
  refine .both h (.both (rxDrop_keeps (bump_keeps h)) (.both (rxDrop_keeps h) ?_))
  split
  · exact deliver_keeps h
  · exact deliver_keeps (validate_clear h ‹_›)
  · exact bump_keeps h
  · exact bump_keeps h
  · exact bump_keeps h

theorem setTxts_keeps {p : Nat} {q : List (Nat × Nat × Nat)} (h : Keeps r s) : Keeps r (s.setTxts p q) :=
  wf_keeps (wf_keeps (wf_keeps (wf_keeps (wf_keeps (setFh_keeps h)))))

theorem sendFrame_keeps {p : Nat} {bs : Bytes} (h : Keeps r s) : KeepsSome r (s.sendFrame p bs) := by
  refine .both (.some (tally_keeps h.mk')) ?_
  intro t e
  obtain ⟨x, hx, rfl⟩ := Option.map_eq_some_iff.1 e
  exact tally_keeps (protect_keeps h hx).mk'

theorem txStamp_keeps {p id : Nat} (h : Keeps r s) : Keeps r (s.txStamp p id) := .both (raise_keeps h) (setTxts_keeps h)

theorem txNext_keeps {p : Nat} (h : Keeps r s) : Keeps r (s.txNext p) := by
  unfold State.txNext
  refine .both h ?_
  extract_lets +onlyGivenNames _ _ _ _ s1
  have h1 : Keeps r s1 := wf_keeps h
  refine .both (bump_keeps h1) ?_
  split
  · exact bump_keeps h1
  · rename_i t e
    have ht : Keeps r t := sendFrame_keeps h1 _ e
    exact .both (txStamp_keeps ht) ht

theorem wrFhIdx_keeps {p : Nat} {f : Fld} {v : Word} (h : Keeps r s) : Keeps r (s.wrFhIdx p f v) := .both (wf_keeps h) h

theorem wrTxtsPop_keeps {p : Nat} {v : Word} (h : Keeps r s) : Keeps r (s.wrTxtsPop p v) := .both (setTxts_keeps h) h

theorem holdIdle_keeps {p : Nat} (h : Keeps r s) : Keeps r (s.holdIdle p) := by
  unfold State.holdIdle
  refine .both ?_ h
  split
  · rename_i e
    exact sendFrame_keeps h _ e
  · exact bump_keeps h

theorem fhIndWrite_keeps {a : Agent} {p i : Nat} {v : Word} (h : Keeps r s) : KeepsSome r (fhIndWrite s a p i v) :=
  .both .none (.both (.some (raise_keeps (raise_keeps h))) (.some (setFh_keeps h)))

/-! ### Shroud links -/

theorem setCtrTx_keeps {l slot c : Nat} (h : Keeps r s) : Keeps r (s.setCtrTx l slot c) :=
  .both (wf_keeps (wf_keeps (setShr_keeps h))) (setShr_keeps h)

theorem setShrState_keeps {l v : Nat} (h : Keeps r s) : Keeps r (s.setShrState l v) := wf_keeps h

theorem loseReads_keeps {rs : List ShrRead} (h : Keeps r s) : Keeps r (s.loseReads rs) := by
  induction rs generalizing s with
  | nil => exact h
  | cons _ rs ih => exact ih (answer_keeps h)

theorem shrDown_keeps {l : Nat} (h : Keeps r s) : Keeps r (s.shrDown l) := by
  unfold State.shrDown
  refine .both h ?_
  extract_lets +onlyGivenNames _ _ s2 _
  have h2 : Keeps r s2 := wf_keeps (setShrState_keeps (setShr_keeps h))
  exact loseReads_keeps (shrLost_keeps (.both (fault_keeps h2) h2))

theorem wrShrCtrl_keeps {l : Nat} {v : Word} (h : Keeps r s) : Keeps r (s.wrShrCtrl l v) := by
  unfold State.wrShrCtrl
  extract_lets +onlyGivenNames _ s1
  have h1 : Keeps r s1 := wf_keeps (wf_keeps h)
  exact .both (shrDown_keeps h1) (.both (setShrState_keeps h1) h1)

theorem shrKeyed_keeps {l pos : Nat} {secret : Bytes} (h : Keeps r s) : Keeps r (s.shrKeyed l pos secret) :=
  setShrState_keeps (setCtrTx_keeps (wf_keeps (setShr_keeps (wf_keeps (wf_keeps h)))))

theorem shrSeal_keeps {l slot seq : Nat} {m : ShrMsg} (h : Keeps r s) : Keeps r (s.shrSeal l slot seq m) := by
  unfold State.shrSeal
  refine .both (shrDown_keeps (fault_keeps h)) ?_
  extract_lets +onlyGivenNames _ _ _ s2 s3
  have h2 : Keeps r s2 := tally_keeps (setCtrTx_keeps (.mk' h))
  have h3 : Keeps r s3 := .both (raise_keeps h2) h2
  exact .both (shrDown_keeps (fault_keeps h3)) h3

theorem shrIdle_keeps {l : Nat} (h : Keeps r s) : Keeps r (s.shrIdle l) := shrSeal_keeps h

theorem shrFirst_keeps {l : Nat} {m : ShrMsg} (h : Keeps r s) : Keeps r (s.shrFirst l m) := by
  unfold State.shrFirst
  refine .both (shrSeal_keeps h) ?_
  exact .both (setCtrTx_keeps (wf_keeps (shrSeal_keeps (setShr_keeps h)))) (shrSeal_keeps (setShr_keeps h))

theorem shrSend_keeps {l : Nat} (h : Keeps r s) : Keeps r (s.shrSend l) := by
  unfold State.shrSend
  refine .both h ?_
  split
  · exact .both (shrIdle_keeps h) (shrFirst_keeps (setShr_keeps h))
  · exact shrIdle_keeps h

theorem shrAgain_keeps {l : Nat} {u : Nat × ShrMsg × Nat} (h : Keeps r s) : Keeps r (s.shrAgain l u) :=
  .both h (shrSeal_keeps (bump_keeps (setShr_keeps h)))

theorem shrRetry_keeps {l seq : Nat} (h : Keeps r s) : Keeps r (s.shrRetry l seq) := by
  unfold State.shrRetry
  split
  · exact h
  · exact .both h (.both (shrDown_keeps h) (shrAgain_keeps h))

theorem shrInstall_keeps {l : Nat} (h : Keeps r s) : Keeps r (s.shrInstall l) := .both (setShr_keeps h) h

theorem shrTagFail_keeps {l : Nat} (h : Keeps r s) : Keeps r (s.shrTagFail l) :=
  .both (shrDown_keeps (fault_keeps (setShr_keeps (bump_keeps h)))) (setShr_keeps (bump_keeps h))

theorem shrAnswer_keeps {l id : Nat} {ls : List TaggedLine} (h : Keeps r s) : Keeps r (s.shrAnswer l id ls) := by
  unfold State.shrAnswer
  extract_lets +onlyGivenNames _
  split
  · exact h
  · exact .both (answer_keeps (windowClosed_keeps (setShr_keeps h))) (answer_keeps (setShr_keeps h))

theorem shrDeliver_keeps {l kind src : Nat} {body : Bytes} (h : Keeps r s) : Keeps r (s.shrDeliver l kind src body) := by
  unfold State.shrDeliver
  refine .both (remoteServe_keeps h) ?_
  exact .both (.both (remoteServe_keeps h) (shrQueue_keeps (remoteServe_keeps h))) (shrAnswer_keeps h)

theorem shrForward_keeps {kind dst src : Nat} {body : Bytes} (h : Keeps r s) : Keeps r (s.shrForward kind dst src body) :=
  .both h (shrQueue_keeps h)

theorem shrSwitch_keeps {l : Nat} (h : Keeps r s) : Keeps r (s.shrSwitch l) := setShr_keeps h

theorem shrAccept_keeps {l : Nat} {f : ShrFrame} {body : Bytes} (h : Keeps r s) : Keeps r (s.shrAccept l f body) := by
  unfold State.shrAccept
  extract_lets +onlyGivenNames _ s1 _
  have h1 : Keeps r s1 := setShr_keeps (tally_keeps h)
  refine .both h1 ?_
  refine .both ?_ (.both (setShr_keeps h1) h1)
  extract_lets +onlyGivenNames s2
  have h2 : Keeps r s2 := setShr_keeps h1
  exact .both (shrSwitch_keeps h2) (.both (shrDeliver_keeps h2) (shrForward_keeps h2))

theorem shrRx_keeps {l : Nat} {f : ShrFrame} (h : Keeps r s) : Keeps r (s.shrRx l f) := by
  unfold State.shrRx
  refine .both h ?_
  refine .both (bump_keeps h) ?_
  refine .both (bump_keeps h) ?_
  refine .both (shrTagFail_keeps h) ?_
  split
  · exact shrTagFail_keeps h
  · exact shrAccept_keeps (setShr_keeps h)

theorem execShroudOldKeyExpire_keeps {l : Fin 8} (h : Keeps r s) : KeepsNext r (execShroudOldKeyExpire l s) := by
  unfold execShroudOldKeyExpire
  refine .next ?_
  split
  · exact h
  · exact setShr_keeps h

theorem shrLane_keeps {l lane : Nat} (h : Keeps r s) : Keeps r (s.shrLane l lane) := by
  unfold State.shrLane
  refine .both h ?_
  extract_lets +onlyGivenNames s1
  have h1 : Keeps r s1 := setShr_keeps (raise_keeps h)
  exact .both (setShrState_keeps h1) (shrDown_keeps h1)

theorem shrRemapped_keeps {l : Nat} (h : Keeps r s) : Keeps r (s.shrRemapped l) := by
  unfold State.shrRemapped
  refine .both h ?_
  extract_lets +onlyGivenNames s1 _ s2
  have h1 : Keeps r s1 := wf_keeps (wf_keeps (setShrState_keeps h))
  have h2 : Keeps r s2 := by
    unfold s2
    split
    · exact .both (shrSend_keeps h1) h1
    · exact h1
  exact .both h2 (.foldl h2 fun _ _ ht => shrAgain_keeps ht)

theorem remoteSpan_keeps {agent a tenant k n : Nat} {ls : Option (List TaggedLine)} (h : Keeps r s) :
    Keeps r (s.remoteSpan agent a tenant k n ls) := by
  induction k generalizing s a n ls with
  | zero => exact h
  | succ k ih =>
    refine .both h (ih ?_)
    have h1 := remoteSend_keeps (agent := agent) (a := a) (tenant := tenant) (n := min n 3) (ls := ls.map (·.take 3)) h
    split
    · exact answer_keeps h1
    · exact answer_keeps h1
    · exact h1

theorem remoteAccess_keeps {agent a tenant n : Nat} {ls : Option (List TaggedLine)} (h : Keeps r s) :
    Keeps r (s.remoteAccess agent a tenant n ls) :=
  remoteSpan_keeps h

theorem wrRank_keeps {v : Word} (h : Keeps r s) : Keeps r (s.wrRank v) := .both (wf_keeps h) (raise_keeps h)

theorem shrIndWrite_keeps {a : Agent} {l i : Nat} {v : Word} (h : Keeps r s) : KeepsSome r (shrIndWrite s a l i v) :=
  .both .none (.both .none (.both (.some (setShr_keeps h)) (.some (setShr_keeps h))))

/-! ### PCIe, TDISP and modules -/

theorem pcieUp_keeps {gen width : Nat} (h : Keeps r s) : Keeps r (s.pcieUp gen width) := .mk' (wf_keeps (wf_keeps (wf_keeps h)))

theorem pcieDown_keeps (h : Keeps r s) : Keeps r s.pcieDown := .both (raise_keeps (wf_keeps (wf_keeps (wf_keeps h)))) h

theorem setTdisp_keeps {v : Nat} (h : Keeps r s) : Keeps r (s.setTdisp v) := wf_keeps h

theorem tdispError_keeps (h : Keeps r s) : Keeps r s.tdispError := .both (fault_keeps (setTdisp_keeps h)) h

theorem setIde_keeps {i : Nat} {on : Bool} (h : Keeps r s) : Keeps r (s.setIde i on) := .both (wf_keeps h) (wf_keeps h)

theorem ideFail_keeps {i : Nat} (h : Keeps r s) : Keeps r (s.ideFail i) := tdispError_keeps (bump_keeps (fault_keeps (setIde_keeps h)))

theorem setMod_keeps {m : Nat} {x : ModSt} (h : Keeps r s) : Keeps r (s.setMod m x) := .mk' h

theorem lifeSeen_keeps {m : Nat} {i : ModIdent} (h : Keeps r s) : Keeps r (s.lifeSeen m i) := by
  unfold State.lifeSeen
  extract_lets +onlyGivenNames _ _
  split
  · exact setMgmt_keeps h
  · exact .both (setMgmt_keeps h) (modFlag_keeps (setMgmt_keeps h))

theorem showLife_keeps {m : Nat} (h : Keeps r s) : Keeps r (s.showLife m) := by
  unfold State.showLife
  split
  · exact wf_keeps h
  · exact h

theorem modInsert_keeps {m : Nat} {i : ModIdent} (h : Keeps r s) : Keeps r (s.modInsert m i) := by
  unfold State.modInsert
  extract_lets +onlyGivenNames _ s1
  have h1 : Keeps r s1 := modFlag_keeps (wf_keeps h)
  exact .both (modFlag_keeps (setMod_keeps h1)) (showLife_keeps (wf_keeps (lifeSeen_keeps (setMod_keeps h1))))

theorem lifeSave_keeps (h : Keeps r s) : Keeps r s.lifeSave := setMgmt_keeps h

theorem modRemove_keeps {m : Nat} (h : Keeps r s) : Keeps r (s.modRemove m) :=
  lifeSave_keeps (setMod_keeps (modFlag_keeps (wf_keeps (wf_keeps (wf_keeps h)))))

theorem modPoll_keeps {m : Nat} {r' : ModReading} (h : Keeps r s) : Keeps r (s.modPoll m r') := by
  unfold State.modPoll
  extract_lets +onlyGivenNames _
  split
  · exact h
  · refine .both h ?_
    refine .both (bump_keeps (modFlag_keeps h)) ?_
    extract_lets +onlyGivenNames _ _ _ s3 s4 _ _
    have h3 : Keeps r s3 := setMod_keeps (wf_keeps (wf_keeps (wf_keeps (wf_keeps (wf_keeps h)))))
    have h4 : Keeps r s4 := .both (modFlag_keeps h3) h3
    exact showLife_keeps (.both (setMgmt_keeps h4) h4)

theorem eol_keeps {m now prev : Nat} (h : Keeps r s) : Keeps r (s.eol m now prev) := by
  unfold State.eol
  extract_lets +onlyGivenNames _
  split
  · exact h
  · exact .both h (.both (modFlag_keeps (wf_keeps h)) (wf_keeps h))

theorem wrPathDly_keeps {m : Nat} {v : Word} (h : Keeps r s) : Keeps r (s.wrPathDly m v) := by
  unfold State.wrPathDly
  extract_lets +onlyGivenNames _ s1 _ _
  have h1 : Keeps r s1 := wf_keeps h
  exact .both (.both (wf_keeps h1) (modFlag_keeps (wf_keeps h1))) (wf_keeps h1)

/-! ### Commands of a cluster -/

theorem fenceCmd_keeps {f : Nat} (h : Keeps r s) : Keeps r (s.fenceCmd f) := .both (raise_keeps h) (fence_keeps h)

theorem spareMapped_keeps {c : Nat} (h : Keeps r s) : Keeps r (s.spareMapped c) := .both h (.both (endSubst_keeps h) (setCluster_keeps h))

theorem restoreCmd_keeps {c : Nat} (h : Keeps r s) : Keeps r (s.restoreCmd c) := .both (setCluster_keeps h) h

theorem restored_keeps {c : Nat} (h : Keeps r s) : Keeps r (s.restored c) := by
  unfold State.restored
  refine .both h ?_
  split
  · rename_i e
    exact endSubst_keeps (restoreImage_keeps h _ e)
  · exact loseFloe_keeps (setCluster_keeps (wf_keeps (fault_keeps h)))

theorem wrCcCmd_keeps {c : Nat} {v : Word} (h : Keeps r s) : Keeps r (s.wrCcCmd c v) :=
  .both (fenceCmd_keeps (.both (restoreCmd_keeps h) h)) (.both (restoreCmd_keeps h) h)

theorem ccIndWrite_keeps {c i : Nat} {v : Word} (h : Keeps r s) : Keeps r (s.ccIndWrite c i v) := .both (setCluster_keeps h) h

/-! ### Soft resets and the shutdown of a page -/

theorem clearFlags_keeps {g : Nat} (h : Keeps r s) : Keeps r (s.clearFlags g) := by
  refine Keeps.filterLive (fun k => decide (k / 1024 ≠ g)) ?_
  exact .foldl h fun _ _ ht => .foldl ht fun _ _ ht1 => setWord_keeps ht1

theorem resetBefore_keeps {g : Nat} (h : Keeps r s) : Keeps r (s.resetBefore g) := by
  unfold State.resetBefore
  split
  · split
    · exact fault_keeps (setFloe_keeps h)
    · exact h
  · exact setFloe_keeps h
  · exact mstStat_keeps (setMst_keeps h)
  · exact setMst_keeps h
  · exact setMst_keeps h
  · exact .mk' (.foldl h fun _ _ ht => freeUnit_keeps ht)
  · exact .mk' h
  · exact .mk' h
  · exact setFh_keeps (portDown_keeps h)
  · exact shrDown_keeps h
  · exact .mk' h
  · exact h

theorem resetAfter_keeps {g : Nat} (h : Keeps r s) : Keeps r (s.resetAfter g) := by
  unfold State.resetAfter
  split
  · extract_lets +onlyGivenNames _ s1
    have h1 : Keeps r s1 := setHal_keeps h
    split
    · exact fault_keeps h1
    · exact h1
  · exact bumpN_keeps (setSer_keeps h)
  · exact .foldl (wf_keeps h) fun _ _ ht => wf_keeps ht
  · exact mstStat_keeps h
  · exact showLife_keeps h
  · exact h

theorem softReset_keeps {g : Nat} (h : Keeps r s) : Keeps r (s.softReset g) := by
  unfold State.softReset
  extract_lets +onlyGivenNames _ _ s1 _
  have h1 : Keeps r s1 := by
    unfold s1
    split
    · exact .both (clearFlags_keeps h) (wf_keeps (resetAfter_keeps (resetPage_keeps (resetBefore_keeps h))))
    · exact h
  exact irq_keeps (wf_keeps (wf_keeps (wf_keeps (wf_keeps h1))))

theorem pageOn_keeps {g : Nat} (h : Keeps r s) : Keeps r (s.pageOn g) := by
  unfold State.pageOn
  extract_lets +onlyGivenNames s1
  have h1 : Keeps r s1 := wf_keeps (wf_keeps h)
  split
  · exact .both (setShrState_keeps h1) h1
  · exact h1

theorem wrPageEn_keeps {g : Nat} {en : Bool} (h : Keeps r s) : Keeps r (s.wrPageEn g en) :=
  .both (.both (wf_keeps h) (pageOn_keeps h)) (.both (wf_keeps h) (.both (wf_keeps (wf_keeps h)) h))

theorem wrSrst_keeps {g : Nat} (h : Keeps r s) : Keeps r (s.wrSrst g) :=
  .both h (.both (wf_keeps (wf_keeps (wf_keeps h))) (softReset_keeps h))

theorem wrPageCtrl_keeps {g : Nat} {v : Word} (h : Keeps r s) : Keeps r (s.wrPageCtrl g v) := wrPageEn_keeps (.both (wrSrst_keeps h) h)

theorem shutDone_keeps {g : Nat} (h : Keeps r s) : Keeps r (s.shutDone g) := by
  unfold State.shutDone
  refine .both h ?_
  extract_lets +onlyGivenNames s1 s2
  have h1 : Keeps r s1 := wf_keeps h
  have h2 : Keeps r s2 := .both (softReset_keeps h1) h1
  exact .both (pageOn_keeps h2) h2

theorem atPage_keeps {agent g off : Nat} {k : State → State} (h : Keeps r s) (hk : ∀ t, Keeps r t → Keeps r (k t)) :
    Keeps r (s.atPage agent g off k) :=
  .both (hk _ h) (unmapped_keeps h)

/-! ### The management controller -/

theorem mgmtUp_keeps (h : Keeps r s) : Keeps r s.mgmtUp := wf_keeps (.foldl (setMgmt_keeps h) fun _ _ ht => wf_keeps ht)

theorem freeMgmtUnits_keeps (h : Keeps r s) : Keeps r s.freeMgmtUnits := by
  unfold State.freeMgmtUnits
  extract_lets +onlyGivenNames s1
  have h1 : Keeps r s1 := .foldl h fun _ _ ht => .both (freeUnit_keeps ht) ht
  exact .foldl h1 fun _ _ ht => .both (.mk' (freeUnit_keeps ht)) ht

theorem mgmtDown_keeps (h : Keeps r s) : Keeps r s.mgmtDown :=
  setMgmt_keeps (freeMgmtUnits_keeps (wf_keeps (.foldl h fun _ _ ht => wf_keeps ht)))

theorem mgmtBoot_keeps {imageOk : Bool} (h : Keeps r s) : Keeps r (s.mgmtBoot imageOk) :=
  .both h (.both (logOwn_keeps (setMgmt_keeps (mgmtUp_keeps h))) (mgmtUp_keeps h))

theorem pldmEvent_keeps {fields : Bytes} (h : Keeps r s) : Keeps r (s.pldmEvent fields) := .both h (.mk' h)

theorem threshold_keeps {i : Nat} {v : BitVec 16} {k : Nat} (h : Keeps r s) : Keeps r (s.threshold i v k) := by
  unfold State.threshold
  refine .both (setMgmt_keeps h) ?_
  refine .both (.both (setMgmt_keeps h) h) ?_
  exact .both (pldmEvent_keeps (logOwn_keeps (raise_keeps (setMgmt_keeps h)))) h

theorem showHot_keeps (h : Keeps r s) : Keeps r s.showHot := by
  unfold State.showHot
  split
  · exact wf_keeps (wf_keeps h)
  · exact h

theorem sample_keeps {i : Nat} {v : BitVec 16} (h : Keeps r s) : Keeps r (s.sample i v) := by
  unfold State.sample
  refine .both h ?_
  exact threshold_keeps (threshold_keeps (.both (showHot_keeps (setMgmt_keeps h)) (setMgmt_keeps h)))

theorem telemetry_keeps {means : List (Nat × Int × Nat)} (h : Keeps r s) : Keeps r (s.telemetry means) := .both h (.mk' h)

theorem loadDetect_keeps {pins : List (Fin 8 × Fin 5)} (h : Keeps r s) : Keeps r (s.loadDetect pins) := by
  unfold State.loadDetect
  refine .both h ?_
  refine .foldl h fun t x ht => ?_
  exact .both ht (.both (.both (raise_keeps ht) ht) (log_keeps (wf_keeps (.both (raise_keeps ht) ht))))

theorem opStep_keeps {new reason : Nat} (h : Keeps r s) : Keeps r (s.opStep new reason) :=
  pldmEvent_keeps (logOwn_keeps (bump_keeps (raise_keeps (wf_keeps (wf_keeps (wf_keeps h))))))

theorem opDown_keeps {reason : Nat} (h : Keeps r s) : Keeps r (s.opDown reason) := opStep_keeps (setMgmt_keeps h)

theorem evaluate_keeps (h : Keeps r s) : Keeps r s.evaluate := by
  unfold State.evaluate
  refine .both h ?_
  extract_lets +onlyGivenNames _ _ _
  split
  extract_lets +onlyGivenNames _ _ _ _ s2
  have h2 : Keeps r s2 := setMgmt_keeps (wf_keeps h)
  refine .both (opDown_keeps h2) ?_
  refine .both (opDown_keeps h2) ?_
  refine .both (opDown_keeps h2) ?_
  refine .both (.both h2 (bump_keeps (raise_keeps (setMgmt_keeps h2)))) ?_
  exact .both (raise_keeps h2) (.both (opStep_keeps (setMgmt_keeps h2)) h2)

theorem snapRelease_keeps {keep : Option (Fin 8)} (h : Keeps r s) : Keeps r (s.snapRelease keep) :=
  .foldl h fun _ _ ht => .both (freeUnit_keeps ht) ht

theorem snapConfig_keeps {g : Fin 8} (h : Keeps r s) : Keeps r (s.snapConfig g) :=
  wf_keeps (wf_keeps (wf_keeps (wf_keeps (wf_keeps (wf_keeps (wf_keeps h))))))

theorem snapCheck_keeps (h : Keeps r s) : Keeps r s.snapCheck := by
  unfold State.snapCheck
  refine .both h ?_
  extract_lets +onlyGivenNames _ s1
  have h1 : Keeps r s1 := snapRelease_keeps h
  refine .both (raise_keeps h1) ?_
  extract_lets +onlyGivenNames s2
  have h2 : Keeps r s2 := claimUnit_keeps h1
  refine .both (raise_keeps h2) ?_
  extract_lets +onlyGivenNames s3
  have h3 : Keeps r s3 := pgArm_keeps (snapConfig_keeps (disarmUnit_keeps h2))
  exact .both h3 (raise_keeps h3)

theorem wrMgmtCtrl_keeps {v : Word} (h : Keeps r s) : Keeps r (s.wrMgmtCtrl v) :=
  .both (snapRelease_keeps (wf_keeps (wf_keeps (wf_keeps h)))) (wf_keeps (wf_keeps (wf_keeps h)))

theorem forward_keeps {q : Nat} (h : Keeps r s) : Keeps r (s.forward q) := by
  unfold State.forward
  extract_lets +onlyGivenNames _
  split
  · next x xs e =>
    refine .both h (logOwn_keeps (h.putQueue fun y => ?_))
    have hq := (h.sound y).queues q
    rw [e] at hq
    exact Nat.le_of_succ_le hq
  · exact h

theorem mgmtIndWrite_keeps {i : Nat} {v : Word} (h : Keeps r s) :
    KeepsSome r (mgmtIndWrite s i v) := .both (.some (setMgmt_keeps h)) .none

theorem reply_keeps {code : Nat} {fields : Bytes} (h : Keeps r s) : Keeps r (s.reply code fields) := .mk' h

theorem mctp_keeps {r' : MctpReq} (h : Keeps r s) : Keeps r (s.mctp r') := by
  unfold State.mctp
  refine .both h ?_
  split
  · exact reply_keeps h
  · exact reply_keeps (setMgmt_keeps h)
  · exact reply_keeps h

theorem pldm_keeps {r' : PldmReq} (h : Keeps r s) : Keeps r (s.pldm r') := by
  unfold State.pldm
  refine .both h ?_
  split
  · refine .both (reply_keeps h) ?_
    split
    · exact reply_keeps h
    · exact reply_keeps h
  · exact reply_keeps h
  · exact reply_keeps h
  · exact reply_keeps h
  · exact reply_keeps (wf_keeps h)
  · exact reply_keeps (wf_keeps h)
  · exact reply_keeps (setMgmt_keeps h)

theorem mgmtUpdate_keeps {image : Bytes} {version : Nat} (h : Keeps r s) : Keeps r (s.mgmtUpdate image version) :=
  .both h (.both (reply_keeps (setMgmt_keeps h)) (reply_keeps (raise_keeps (setMgmt_keeps h))))

/-! ### SPDM, confidential mode and keys -/

theorem setSec_keeps {x : SecSt} (h : Keeps r s) : Keeps r (s.setSec x) := .mk' h

theorem applyRepair_keeps {r' : Bytes} (h : Keeps r s) : Keeps r (s.applyRepair r') :=
  .foldl (.foldl h fun _ _ ht => wf_keeps (wf_keeps ht)) fun _ _ ht => setDrc_keeps ht

theorem checkRecord_keeps (h : Keeps r s) : Keeps r s.checkRecord := by
  unfold State.checkRecord
  split
  · exact .both (applyRepair_keeps (wf_keeps (wf_keeps (wf_keeps (wf_keeps (wf_keeps h)))))) (fault_keeps h)
  · exact fault_keeps h

theorem deriveId_keeps (h : Keeps r s) : Keeps r s.deriveId := checkRecord_keeps (.both (wf_keeps h) (fault_keeps h))

theorem setConn_keeps {tr : Transport} {c : SpdmConn} (h : Keeps r s) : Keeps r (s.setConn tr c) := by
  unfold State.setConn
  split
  · exact setSec_keeps h
  · exact setSec_keeps h

theorem tell_keeps {code : Nat} {fields : Bytes} (h : Keeps r s) : Keeps r (s.tell code fields) := .mk' h

theorem spdmErr_keeps {e : Nat} (h : Keeps r s) : Keeps r (s.spdmErr e) := tell_keeps h

theorem spdm_keeps {tr : Transport} {stage : Nat} {k : State → SpdmConn → State} (h : Keeps r s)
    (hk : ∀ t x, Keeps r t → Keeps r (k t x)) :
    Keeps r (s.spdm tr stage k) :=
  .both h (.both (spdmErr_keeps h) (.both (spdmErr_keeps h) (hk _ _ (setConn_keeps h))))

theorem spdmAnswer_keeps {tr : Transport} {c : SpdmConn} {request : Bytes} {code : Nat} {fields : Bytes} (h : Keeps r s) :
    Keeps r (s.spdmAnswer tr c request code fields) :=
  tell_keeps (setConn_keeps h)

theorem execGetVersion_keeps {tr : Transport} (h : Keeps r s) : KeepsNext r (execGetVersion tr s) :=
  .next (spdm_keeps h (fun _ _ ht => spdmAnswer_keeps ht))

theorem execGetCapabilities_keeps {tr : Transport} (h : Keeps r s) : KeepsNext r (execGetCapabilities tr s) :=
  .next (spdm_keeps h (fun _ _ ht => spdmAnswer_keeps ht))

theorem execNegotiateAlgorithms_keeps {tr : Transport} (h : Keeps r s) : KeepsNext r (execNegotiateAlgorithms tr s) :=
  .next (spdm_keeps h (fun _ _ ht => spdmAnswer_keeps ht))

theorem execGetDigests_keeps {tr : Transport} (h : Keeps r s) : KeepsNext r (execGetDigests tr s) :=
  .next (spdm_keeps h (fun _ _ ht => spdmAnswer_keeps ht))

theorem certificate_keeps {tr : Transport} {slot offset len : Nat} (h : Keeps r s) : Keeps r (s.certificate tr slot offset len) :=
  spdm_keeps h fun _ _ ht => .both (spdmErr_keeps ht) (spdmAnswer_keeps ht)

theorem execGetCertificate_keeps {tr : Transport} {slot : BitVec 8} {offset len : BitVec 16} (h : Keeps r s) :
    KeepsNext r (execGetCertificate tr slot offset len s) :=
  .next (certificate_keeps h)

theorem spdmSigned_keeps {tr : Transport} {c : SpdmConn} {request : Bytes} {code : Nat} {fields : Bytes} (h : Keeps r s) :
    Keeps r (s.spdmSigned tr c request code fields) :=
  tell_keeps (.mk' (setConn_keeps h))

theorem attested_keeps {tr : Transport} (h : Keeps r s) : Keeps r (s.attested tr) := .both (bump_keeps h) h

theorem execChallenge_keeps {tr : Transport} {request : Bytes} (h : Keeps r s) : KeepsNext r (execChallenge tr request s) :=
  .next (spdm_keeps (attested_keeps h) (fun _ _ ht => spdmSigned_keeps (.mk' ht)))

theorem measure_keeps {tr : Transport} {b : Bool} {m : Bytes} (h : Keeps r s) : Keeps r (s.measure tr b m) := by
  refine spdm_keeps (attested_keeps h) fun t c ht => ?_
  extract_lets _ _ body
  clear_value body
  cases body with
  | none => exact spdmErr_keeps ht
  | some x => exact .both (spdmSigned_keeps ht) (spdmAnswer_keeps ht)

theorem execGetMeasurements_keeps {tr : Transport} {signed : Bool} {request : Bytes} (h : Keeps r s) :
    KeepsNext r (execGetMeasurements tr signed request s) :=
  .next (measure_keeps h)

theorem setSession_keeps {i : Nat} {x : Option SpdmSession} (h : Keeps r s) : Keeps r (s.setSession i x) := setSec_keeps h

theorem nextOrder_keeps (h : Keeps r s) : Keeps r s.nextOrder.1 := setSec_keeps h

theorem openSession_keeps {tr : Transport} {request : Bytes} (h : Keeps r s) : Keeps r (s.openSession tr request) := by
  unfold State.openSession
  refine spdm_keeps h fun _ _ ht => ?_
  split
  · exact spdmErr_keeps ht
  · split
    rename_i e
    exact tell_keeps (.mk' (setConn_keeps (.mk' (setSession_keeps (.ofFst e (nextOrder_keeps ht))))))

theorem execKeyExchange_keeps {tr : Transport} {request : Bytes} (h : Keeps r s) : KeepsNext r (execKeyExchange tr request s) :=
  .next (openSession_keeps h)

theorem within_keeps {i : Nat} {k : State → SpdmSession → State} (h : Keeps r s) (hk : ∀ t x, Keeps r t → Keeps r (k t x)) :
    Keeps r (s.within i k) := by
  unfold State.within
  split
  · exact spdmErr_keeps h
  · exact spdm_keeps h fun _ _ ht => hk _ _ ht

theorem finish_keeps {i : Nat} (h : Keeps r s) : Keeps r (s.finish i) := by
  unfold State.finish
  refine within_keeps h fun _ _ ht => ?_
  refine .both (spdmErr_keeps ht) ?_
  split
  rename_i e
  exact tell_keeps (setSession_keeps (.ofFst e (nextOrder_keeps ht)))

theorem attach_keeps {i t : Nat} (h : Keeps r s) : Keeps r (s.attach i t) := by
  unfold State.attach
  refine within_keeps h fun _ _ ht => ?_
  refine .both (spdmErr_keeps ht) ?_
  split
  rename_i e
  exact tell_keeps (setSession_keeps (.ofFst e (nextOrder_keeps ht)))

theorem cosignReq_keeps {tr : Transport} (h : Keeps r s) : Keeps r (s.cosignReq tr) := by
  unfold State.cosignReq
  refine spdm_keeps h fun t c ht => ?_
  split
  · exact spdmErr_keeps ht
  · exact spdmErr_keeps (setConn_keeps ht)

theorem execCosign_keeps {tr : Transport} (h : Keeps r s) : KeepsNext r (execCosign tr s) := .next (cosignReq_keeps h)

theorem respond_keeps {tr : Transport} (h : Keeps r s) : Keeps r (s.respond tr) := by
  unfold State.respond
  refine spdm_keeps h fun _ _ ht => ?_
  split
  · exact spdmErr_keeps ht
  · exact .both (tell_keeps (setConn_keeps ht)) (spdmErr_keeps ht)

theorem execRespondIfReady_keeps {tr : Transport} (h : Keeps r s) : KeepsNext r (execRespondIfReady tr s) := .next (respond_keeps h)

theorem relay_keeps {m : Bytes} (h : Keeps r s) : KeepsNext r (s.relay m) := by
  unfold State.relay
  extract_lets +onlyGivenNames _
  split
  · exact execGetVersion_keeps h
  · exact execGetCapabilities_keeps h
  · exact execNegotiateAlgorithms_keeps h
  · exact execGetDigests_keeps h
  · exact execGetCertificate_keeps h
  · exact execChallenge_keeps h
  · exact execGetMeasurements_keeps h
  · exact execKeyExchange_keeps h
  · exact execCosign_keeps h
  · exact execRespondIfReady_keeps h
  · exact .next (spdm_keeps h (fun _ _ ht => spdmErr_keeps ht))

theorem confReq_keeps {a : Agent} (h : Keeps r s) : Keeps r (s.confReq a) := by
  unfold State.confReq
  split
  · exact raise_keeps h
  · refine .both (raise_keeps h) ?_
    extract_lets +onlyGivenNames _ s1
    have h1 : Keeps r s1 := wf_keeps h
    exact .both h1 (setSec_keeps (wf_keeps (wf_keeps (wf_keeps (wf_keeps (wf_keeps h1))))))

theorem secWrite_keeps {a : Agent} {off : Nat} {k : State → State} (h : Keeps r s) (hk : ∀ t, Keeps r t → Keeps r (k t)) :
    Keeps r (s.secWrite a off k) :=
  onReady_keeps h fun _ ht => .both ht (hk _ ht)

theorem wrDbg_keeps {v : Word} (h : Keeps r s) : Keeps r (s.wrDbg v) := .both (raise_keeps h) (wf_keeps (wf_keeps (wf_keeps h)))

theorem setGran_keeps {g : Nat} {x : Granule} (h : Keeps r s) : Keeps r (s.setGran g x) := .mk' h

theorem wrGranule_keeps {a : Agent} {g : Nat} {v : Word} (h : Keeps r s) : KeepsSome r (s.wrGranule a g v) := by
  unfold State.wrGranule
  refine .both .none ?_
  refine .both (.some h) ?_
  refine .both ?_ (.some (setGran_keeps h))
  exact .both (.both (.some (setGran_keeps h)) (.some h)) (.both (.some h) (.some (raise_keeps h)))

theorem indDenied_keeps {g : Nat} (h : Keeps r s) : Keeps r (s.indDenied g) := raise_keeps h

theorem granZeroed_keeps {g : Nat} (h : Keeps r s) : Keeps r (s.granZeroed g) :=
  .both h (Keeps.clearMarks (zeroMem_keeps (setGran_keeps h)))

theorem kreqGo_keeps {a : Agent} (h : Keeps r s) : Keeps r (s.kreqGo a) := .both (raise_keeps h) (setSec_keeps (wf_keeps h))

theorem installKey_keeps {r' key : Bytes} (h : Keeps r s) : Keeps r (s.installKey r' key) := by
  unfold State.installKey
  extract_lets +onlyGivenNames _ _ _
  split
  · exact setFh_keeps h
  · exact setFh_keeps h
  · exact setSec_keeps h

theorem keyDone_keeps (h : Keeps r s) : Keeps r s.keyDone := by
  unfold State.keyDone
  split
  · exact h
  · extract_lets +onlyGivenNames _ s1
    have h1 : Keeps r s1 := setSec_keeps (wf_keeps h)
    refine .both (raise_keeps (unmapped_keeps h1)) ?_
    extract_lets +onlyGivenNames _ _
    split
    next t k e =>
      have ht : Keeps r t := by
        refine .ofFst e (.bothFst h1 (.bothFst h1 ?_))
        split
        · exact .pair (installKey_keeps h1)
        · exact h1
      exact .both (bump_keeps (wrBytes_keeps ht)) (raise_keeps (wrBytes_keeps ht))

theorem authenticate_keeps {l : Nat} {p : PeerHello} (h : Keeps r s) : Keeps r (s.authenticate l p) :=
  .both h (.both (shrKeyed_keeps (.mk' h)) (bump_keeps (fault_keeps (setShrState_keeps (.mk' h)))))

theorem secIndWrite_keeps {a : Agent} {i : Nat} {v : Word} (h : Keeps r s) : KeepsSome r (secIndWrite s a i v) := by
  unfold secIndWrite
  refine .both ?_ ?_
  · split
    · exact .some (setSec_keeps h)
    · exact .some (setSec_keeps h)
    · exact .none
  · exact .both (.both (.some (setSec_keeps h)) .none) (.both (wrGranule_keeps h) .none)

/-! ### Firmware components -/

theorem plainWrite_keeps {g off : Nat} {v : Word} (h : Keeps r s) : Keeps r (s.plainWrite g off v) := setWord_keeps h

theorem clearRead_keeps {g off : Nat} (h : Keeps r s) : Keeps r (s.clearRead g off) := .both (setWord_keeps h) h

theorem setFw_keeps {x : FwSt} (h : Keeps r s) : Keeps r (s.setFw x) := .mk' h

theorem setHealth_keeps {k : Nat} {h' : Health} (h : Keeps r s) : Keeps r (s.setHealth k h') := setFw_keeps h

theorem setFwld_keeps {v : Nat} (h : Keeps r s) : Keeps r (s.setFwld v) := wf_keeps h

theorem restart_keeps {k cause : Nat} (h : Keeps r s) : Keeps r (s.restart k cause) := by
  unfold State.restart
  refine .both h ?_
  extract_lets +onlyGivenNames _ s1
  have h1 : Keeps r s1 := fault_keeps (bump_keeps h)
  exact .both (post_keeps (setHealth_keeps h1)) (setHealth_keeps h1)

theorem takeImage_keeps {update : Bool} (h : Keeps r s) : Keeps r (s.takeImage update) := .both (setFw_keeps h) (setFw_keeps h)

theorem loadCmd_keeps (h : Keeps r s) : Keeps r s.loadCmd := .both (raise_keeps h) (takeImage_keeps (setFw_keeps (setFwld_keeps h)))

theorem updateCmd_keeps (h : Keeps r s) : Keeps r s.updateCmd := .both (takeImage_keeps h) (raise_keeps h)

theorem runImage_keeps (h : Keeps r s) : Keeps r s.runImage := by
  unfold State.runImage
  extract_lets +onlyGivenNames _ _ _ _ s3
  have h3 : Keeps r s3 := .foldl (wf_keeps (wf_keeps (setFw_keeps h))) fun _ _ ht => setHealth_keeps ht
  exact setFwld_keeps (setHealth_keeps h3)

theorem loadDone_keeps (h : Keeps r s) : Keeps r s.loadDone := by
  unfold State.loadDone
  refine .both ?_ ?_
  · extract_lets +onlyGivenNames _ s1
    have h1 : Keeps r s1 := setFw_keeps h
    exact .both (setFwld_keeps h1) (raise_keeps (wf_keeps (setFwld_keeps (setFw_keeps h1))))
  · exact .both (.both (runImage_keeps h) (fault_keeps (wf_keeps (setFwld_keeps (setFw_keeps h))))) h

theorem fwctlCmd_keeps {v : Word} (h : Keeps r s) : Keeps r (s.fwctlCmd v) := by
  unfold State.fwctlCmd
  refine .both h ?_
  refine .both (raise_keeps h) ?_
  extract_lets +onlyGivenNames s1
  have h1 : Keeps r s1 := wf_keeps h
  split
  · exact park_keeps h1
  · exact setFw_keeps h1
  · exact setFw_keeps h1
  · exact resumeFrom_keeps h1
  · exact h1

theorem wrIndLock_keeps {v : Word} (h : Keeps r s) : Keeps r (s.wrIndLock v) :=
  .both (wf_keeps (wf_keeps (.both (wf_keeps h) h))) (wf_keeps (.both (wf_keeps h) h))

theorem servoStep_keeps (h : Keeps r s) : Keeps r s.servoStep := by
  unfold State.servoStep
  exact wrTbStep_keeps (wf_keeps (wf_keeps (wf_keeps (wf_keeps h))))

theorem wrPtp_keeps {v : Word} (h : Keeps r s) : Keeps r (s.wrPtp v) := .both (servoStep_keeps (wf_keeps h)) (wf_keeps h)

theorem emuApply_keeps {i off : Nat} {v : Word} (h : Keeps r s) : Keeps r (s.emuApply i off v) := by
  unfold State.emuApply
  split
  · exact .both (updateCmd_keeps (.both (loadCmd_keeps h) h)) (.both (loadCmd_keeps h) h)
  · exact .both (raise_keeps h) (plainWrite_keeps h)
  · exact setFw_keeps (plainWrite_keeps h)
  · exact fwctlCmd_keeps h
  · exact wrIndLock_keeps h
  · exact wrPtp_keeps h
  · exact plainWrite_keeps h

theorem setQueue_keeps {i : Nat} {q : List (Nat × Word)} (h : Keeps r s) : Keeps r (s.setQueue i q) := setFw_keeps h

theorem setTrapped_keeps {i : Nat} {q : List (Nat × Option Word)} (h : Keeps r s) : Keeps r (s.setTrapped i q) := setFw_keeps h

theorem emuTake_keeps {i off : Nat} {v : Word} (h : Keeps r s) : Keeps r (s.emuTake i off v) :=
  .both (setQueue_keeps (emuApply_keeps (setQueue_keeps h))) (emuApply_keeps (setQueue_keeps h))

theorem emuPost_keeps {i off : Nat} {v : Word} (h : Keeps r s) : Keeps r (s.emuPost i off v) :=
  .both (emuTake_keeps h) (.both (setQueue_keeps h) (setTrapped_keeps h))

theorem emuWrite_keeps {a : Agent} {i off : Nat} {v : Word} (h : Keeps r s) : Keeps r (s.emuWrite a i off v) :=
  onReady_keeps h fun _ ht => emuPost_keeps ht

theorem emuGet_keeps {i off : Nat} (h : Keeps r s) : Keeps r (s.emuGet i off) := answer_keeps (clearRead_keeps h)

theorem emuRead_keeps {a : Agent} {i off : Nat} (h : Keeps r s) : Keeps r (s.emuRead a i off) :=
  .both (answer_keeps (unmapped_keeps h)) (.both (emuGet_keeps h) (setTrapped_keeps h))

theorem emuServe_keeps {i : Nat} (h : Keeps r s) : Keeps r (s.emuServe i) := by
  unfold State.emuServe
  refine .both h ?_
  extract_lets +onlyGivenNames _ _ _ s2
  have h2 : Keeps r s2 := .foldl (setTrapped_keeps (setQueue_keeps h)) fun _ _ ht => emuTake_keeps ht
  refine .foldl h2 fun t x ht => ?_
  split
  · exact emuTake_keeps ht
  · exact emuGet_keeps ht

theorem emuLate_keeps {i : Nat} (h : Keeps r s) : Keeps r (s.emuLate i) := by
  unfold State.emuLate
  split
  · exact h
  · exact .both (irq_keeps (setTrapped_keeps h)) (answer_keeps (irq_keeps (setTrapped_keeps h)))

theorem rollback_keeps (h : Keeps r s) : Keeps r s.rollback := by
  unfold State.rollback
  refine .both h ?_
  extract_lets +onlyGivenNames _ _ s2
  have h2 : Keeps r s2 := setFwld_keeps (setFw_keeps (.foldl h fun _ _ ht => setHealth_keeps ht))
  exact emuServe_keeps (emuServe_keeps (emuServe_keeps (fault_keeps h2)))

theorem complexExpire_keeps (h : Keeps r s) : Keeps r s.complexExpire := by
  unfold State.complexExpire
  refine .both h ?_
  exact .both (rollback_keeps h) (.both h (.foldl (setHealth_keeps h) fun _ _ ht => restart_keeps ht))

theorem restartDone_keeps {k : Nat} (h : Keeps r s) : Keeps r (s.restartDone k) := by
  unfold State.restartDone
  refine .both h ?_
  extract_lets +onlyGivenNames _ s1 _ _
  have h1 : Keeps r s1 := setHealth_keeps h
  exact .foldl (.both (setHealth_keeps h1) h1) fun _ _ ht => emuServe_keeps ht

/-! ### Indirect accesses -/

theorem fmemIndWrite_keeps {a : Agent} {f i : Nat} {v : Word} (h : Keeps r s) : Keeps r (s.fmemIndWrite a f i v).1 := by
  unfold State.fmemIndWrite
  split
  · exact h
  · exact .bothFst (setTag_keeps h) (windowDeny_keeps h)

theorem indErr_keeps {g : Nat} (h : Keeps r s) : Keeps r (s.indErr g) := raise_keeps h

theorem indRead_keeps {g i : Nat} (h : Keeps r s) : Keeps r (s.indRead g i).1 := by
  unfold State.indRead
  refine .bothFst h ?_
  split
  · exact indErr_keeps h
  · exact h

theorem indStore_keeps {a : Agent} {g i : Nat} {v : Word} (h : Keeps r s) : KeepsSome r (s.indStore a g i v) := by
  unfold State.indStore
  split
  · exact .both (.some (ccIndWrite_keeps h)) .none
  · exact .both (.some (mstIndWrite_keeps h)) .none
  · exact morIndWrite_keeps h
  · exact drcIndWrite_keeps h
  · exact .both (.some (detIndWrite_keeps h)) .none
  · exact fhIndWrite_keeps h
  · exact shrIndWrite_keeps h
  · exact .both (.some (.mk' h)) .none
  · exact secIndWrite_keeps h
  · exact mgmtIndWrite_keeps h
  · exact .none

theorem indWrite_keeps {a : Agent} {g i : Nat} {v : Word} (h : Keeps r s) : Keeps r (s.indWrite a g i v) := by
  unfold State.indWrite
  split
  · exact .both (fmemIndWrite_keeps h) (indErr_keeps (fmemIndWrite_keeps h))
  · exact .getD (indStore_keeps h) (indErr_keeps h)

theorem setInds_keeps {g : Nat} {q : List IndAcc} (h : Keeps r s) : Keeps r (s.setInds g q) := wf_keeps (.mk' h)

theorem indAccept_keeps {g : Nat} (h : Keeps r s) : Keeps r (s.indAccept g).1 := .both (wf_keeps h) h

theorem indServe_keeps {g : Nat} {x : IndAcc} {i : Nat} (h : Keeps r s) : Keeps r (s.indServe g x i) := by
  unfold State.indServe
  split
  · exact indWrite_keeps h
  · exact answer_keeps (indRead_keeps h)

theorem indRun_keeps {g : Nat} {xs : List IndAcc} (h : Keeps r s) : Keeps r (s.indRun g xs) := by
  induction xs generalizing s with
  | nil => exact setInds_keeps h
  | cons x xs ih =>
    refine .both (ih ?_) ?_
    · split
      · exact plainWrite_keeps h
      · exact answer_keeps h
    · extract_lets p
      have hp : Keeps r p.1 := by
        unfold p
        split
        · exact h
        · exact indAccept_keeps h
      exact .both (ih (indServe_keeps hp)) (setInds_keeps hp)

theorem indAccess_keeps {a : Agent} {g off : Nat} {v : Option Word} (h : Keeps r s) : Keeps r (s.indAccess a g off v) := indRun_keeps h

theorem indLate_keeps {g : Nat} (h : Keeps r s) : Keeps r (s.indLate g) := by
  unfold State.indLate
  split
  · exact h
  · exact .both (indRun_keeps h) (indRun_keeps (.both (indErr_keeps h) (answer_keeps (indErr_keeps h))))

/-! ### Resets and boot -/

theorem setPwr_keeps {x : PwrSt} (h : Keeps r s) : Keeps r (s.setPwr x) := .mk' h

theorem resetRegs_keeps {keep : Nat → Nat → Bool} (h : Keeps r s) : Keeps r (s.resetRegs keep) :=
  ⟨h.pending, fun x => let y := h.sound x
    { y with regs := Tab.wf_filter _ _ y.regs, live := fun _ => Nat.two_pow_pos 64 }⟩

theorem quiet_keeps {gs : List Nat} (h : Keeps r s) : Keeps r (s.quiet gs) := .foldl h fun _ _ ht => wf_keeps (wf_keeps (wf_keeps ht))

theorem clearUnits_keeps (h : Keeps r s) : Keeps r s.clearUnits :=
  ⟨h.pending, fun x => let y := h.sound x
    { y with mem := Tab.wf_clear _ _ _ y.mem, tags := Tab.wf_clear _ _ _ y.tags, side := rfl, accSide := rfl
             queues := fun _ => Nat.zero_le _, lost := fun _ => Nat.zero_le _ }⟩

theorem clearDram_keeps (h : Keeps r s) : Keeps r s.clearDram :=
  ⟨h.pending, fun x => let y := h.sound x
    { y with mem := Tab.wf_clear _ _ _ y.mem, tags := Tab.wf_clear _ _ _ y.tags, marks := rfl }⟩

theorem porReset_keeps {keepConf : Bool} (h : Keeps r s) : Keeps r (s.porReset keepConf) := by
  unfold State.porReset
  extract_lets _ _ _ s1 s2 s3 _ s4
  have h1 : Keeps r s1 := quiet_keeps (clearDram_keeps (clearUnits_keeps (resetRegs_keeps h)))
  clear_value s1
  have h4 : Keeps r s4 := setMgmt_keeps (wf_keeps h1.clearBases.mk')
  exact .both (wf_keeps (wf_keeps h4)) h4

theorem sysReset_keeps (h : Keeps r s) : Keeps r s.sysReset := by
  unfold State.sysReset
  extract_lets +onlyGivenNames _ s2 s3 _ _ _
  have h2 : Keeps r s2 := quiet_keeps (clearUnits_keeps (resetRegs_keeps h))
  have h3 : Keeps r s3 := .foldl (.mk' h2) fun _ i ht => setTb_keeps ht (ht.base i)
  exact setSec_keeps (.mk' (.foldl (wf_keeps (wf_keeps (wf_keeps h3))) fun _ _ ht => wf_keeps ht))

theorem cause_keeps {f : Fld} (h : Keeps r s) : Keeps r (s.cause f) := wf_keeps h

theorem porAssert_keeps (h : Keeps r s) : Keeps r s.porAssert := cause_keeps (setPwr_keeps (porReset_keeps h))

theorem bootStart_keeps (h : Keeps r s) : Keeps r s.bootStart := wf_keeps (wf_keeps h)

theorem coldStart_keeps {fwtop : Bool} {bootsrc : BitVec 2} (h : Keeps r s) : Keeps r (s.coldStart fwtop bootsrc) :=
  bootStart_keeps (setSec_keeps (deriveId_keeps (wf_keeps (wf_keeps (wf_keeps h)))))

theorem porRelease_keeps {fwtop : Bool} {bootsrc : BitVec 2} (h : Keeps r s) : Keeps r (s.porRelease fwtop bootsrc) :=
  .both h (coldStart_keeps (setPwr_keeps h))

theorem sysAssert_keeps {f : Fld} (h : Keeps r s) : Keeps r (s.sysAssert f) := cause_keeps (setPwr_keeps (sysReset_keeps h))

theorem sysRelease_keeps (h : Keeps r s) : Keeps r s.sysRelease := .both h (bootStart_keeps (wf_keeps (setPwr_keeps h)))

theorem warmCmd_keeps {a : Agent} {v : Word} (h : Keeps r s) : Keeps r (s.warmCmd a v) :=
  .both h (.both (raise_keeps h) (.both h (sysRelease_keeps (sysAssert_keeps h))))

theorem mgmtAssert_keeps (h : Keeps r s) : Keeps r s.mgmtAssert := by
  unfold State.mgmtAssert
  refine .both h ?_
  extract_lets +onlyGivenNames _ _ _ s2 _ _ _ _ _ _ _
  have h2 : Keeps r s2 := wf_keeps (wf_keeps (wf_keeps (resetPage_keeps (resetPage_keeps (mgmtDown_keeps h)))))
  exact setPwr_keeps (setSec_keeps (setMgmt_keeps (.mk' (wf_keeps (clearFlags_keeps h2)))))

theorem pcieReset_keeps (h : Keeps r s) : Keeps r s.pcieReset := .mk' (resetPage_keeps h)

theorem emuStart_keeps {i : Nat} (h : Keeps r s) : Keeps r (s.emuStart i) :=
  .both h (.both (setFw_keeps (resetPage_keeps h)) (resetPage_keeps h))

theorem blockReady_keeps {gr : ReadyGroup} (h : Keeps r s) : Keeps r (s.blockReady gr) := by
  unfold State.blockReady
  refine .both h ?_
  extract_lets +onlyGivenNames _ s1 _ _
  have h1 : Keeps r s1 := by
    unfold s1
    split
    · rename_i t1 _ t1_1
      exact .both h (setSec_keeps (deriveId_keeps h))
    · exact emuStart_keeps h
    · exact h
  exact .foldl (.foldl h1 fun _ _ ht => wf_keeps ht) fun _ _ ht => indRun_keeps ht

theorem powerLoss_keeps (h : Keeps r s) : Keeps r s.powerLoss :=
  ⟨h.pending, fun _ => ⟨rfl, rfl, rfl, rfl, rfl, rfl, fun _ => TimeBase.default_inRange, fun _ => Nat.zero_le _, fun _ => Nat.zero_le _,
    fun _ => Nat.two_pow_pos 64⟩⟩

theorem thermTrip_keeps (h : Keeps r s) : Keeps r s.thermTrip := .both h (log_keeps (cause_keeps (setPwr_keeps h)))

theorem bootCmd_keeps {v : Word} (h : Keeps r s) : Keeps r (s.bootCmd v) := by
  unfold State.bootCmd
  refine .both h ?_
  refine .both (bootStart_keeps h) ?_
  exact .both (wf_keeps (wf_keeps (.both (setPwr_keeps h) (setPwr_keeps h)))) (raise_keeps h)

theorem bootDone_keeps {image : Bytes} {readOk : Bool} (h : Keeps r s) : Keeps r (s.bootDone image readOk) := by
  unfold State.bootDone
  refine .both h ?_
  extract_lets +onlyGivenNames _ s1 _
  have h1 : Keeps r s1 := .both (setPwr_keeps h) h
  exact .both (wf_keeps (setPwr_keeps h1)) (fault_keeps (wf_keeps (wf_keeps h1)))

theorem appStart_keeps {a : Agent} {v : Word} (h : Keeps r s) : Keeps r (s.appStart a v) := .both (setPwr_keeps (wf_keeps h)) h

theorem idle_keeps (h : Keeps r s) : Keeps r s.idle := .both (.mk' h) (advance_keeps h)

/-! ### The register model -/

theorem wrCrcCommit_keeps {v : Word} (h : Keeps r s) : Keeps r (s.wrCrcCommit v) := .both (wf_keeps (.mk' h)) h

theorem wrCrcRef_keeps {v : Word} (h : Keeps r s) : Keeps r (s.wrCrcRef v) := wf_keeps (wf_keeps (wf_keeps (.mk' h)))

theorem sweepStart_keeps (h : Keeps r s) : Keeps r s.sweepStart := .both h (wf_keeps (.mk' h))

theorem drift_keeps {w : SweepSt} (h : Keeps r s) : Keeps r (s.drift w) := by
  unfold State.drift
  extract_lets +onlyGivenNames s1 s2 s3 _
  have h1 : Keeps r s1 := bump_keeps (raise_keeps h)
  have h2 : Keeps r s2 := by
    unfold s2
    split
    · exact wf_keeps (wf_keeps h1)
    · exact wf_keeps h1
  have h3 : Keeps r s3 := .both h2 (post_keeps h2)
  exact .mk' (.both (raise_keeps h3) h3)

theorem sweepEnd_keeps (h : Keeps r s) : Keeps r s.sweepEnd := by
  unfold State.sweepEnd
  split
  · exact h
  · extract_lets +onlyGivenNames _ _ s2
    have h2 : Keeps r s2 := bump_keeps (wf_keeps (wf_keeps (.mk' h)))
    exact .both (.mk' (wf_keeps (wf_keeps (wf_keeps h2)))) (.both (.both (.mk' h2) (drift_keeps h2)) h2)

theorem deliverVec_keeps {v : Nat} (h : Keeps r s) : Keeps r (s.deliverVec v) :=
  .both (.both (.mk' (bump_keeps (.mk' h))) (.mk' (bump_keeps (.mk' h)))) h

theorem eoi_keeps {v : Word} (h : Keeps r s) : Keeps r (s.eoi v) := .both (deliverVec_keeps (.mk' h)) h

theorem tbPut_keeps {i off : Nat} {v : Word} (h : Keeps r s) : Keeps r (s.tbPut i off v) := by
  unfold State.tbPut
  refine .both (wrTbIncFrac_keeps h) ?_
  exact .both (wrTbIncNs_keeps h) (.both (wrTbAdj_keeps h) (.both (wrTbStep_keeps h) (plainWrite_keeps h)))

theorem pgPut_keeps {a : Agent} {off : Nat} {v : Word} (h : Keeps r s) : Keeps r (s.pgPut a off v) := by
  unfold State.pgPut
  refine .both (plainWrite_keeps h) ?_
  refine .both (wrOwn_keeps h) ?_
  refine .both ?_ (asOwner_keeps h (fun _ ht => plainWrite_keeps ht))
  exact asOwner_keeps h fun _ ht => wrPgCmd_keeps (plainWrite_keeps ht)

theorem capPut_keeps {a : Agent} {off : Nat} {v : Word} (h : Keeps r s) : Keeps r (s.capPut a off v) := by
  unfold State.capPut
  refine .both (plainWrite_keeps h) ?_
  refine .both (wrOwn_keeps h) ?_
  refine .both (asOwner_keeps h (fun _ ht => plainWrite_keeps ht)) ?_
  exact .both (.both (asOwner_keeps h (fun _ ht => capPop_keeps ht)) h) (plainWrite_keeps h)

theorem fhPut_keeps {p off : Nat} {v : Word} (h : Keeps r s) : Keeps r (s.fhPut p off v) := by
  unfold State.fhPut
  refine .both (wrFhCtrl_keeps h) ?_
  refine .both (wrFhIdx_keeps h) ?_
  exact .both (wrFhIdx_keeps h) (.both (wrTxtsPop_keeps h) (.both (plainWrite_keeps h) h))

theorem shrPut_keeps {l off : Nat} {v : Word} (h : Keeps r s) : Keeps r (s.shrPut l off v) := by
  unfold State.shrPut
  refine .both (wrShrCtrl_keeps h) ?_
  exact .both (wrRank_keeps h) (.both (wrWin_keeps h) (.both (wrWin_keeps h) (plainWrite_keeps h)))

theorem mstPut_keeps {t : PageType} {off : Nat} {v : Word} (h : Keeps r s) : Keeps r (s.mstPut t off v) := by
  unfold State.mstPut
  split
  · exact .both (wrCommit_keeps h) (.both (wrAdpSwap_keeps h) (plainWrite_keeps h))
  · exact .both (wrPartCmd_keeps h) (wrPartCfg_keeps h)
  · refine .both (wrBeRing_keeps h) ?_
    exact .both (wrBeRing_keeps h) (.both (wrBeTail_keeps h) (.both (beFlush_keeps h) h))

theorem morPut_keeps {t : PageType} {off : Nat} {v : Word} (h : Keeps r s) : Keeps r (s.morPut t off v) := by
  unfold State.morPut
  split
  · exact .both (setMor_keeps h) (.both (wrAlloc_keeps h) (.both (acPop_keeps h) (plainWrite_keeps h)))
  · exact .both (wrRecCtrl_keeps h) (.both (wrAdpStart_keeps h) (plainWrite_keeps h))

theorem secPut_keeps {a : Agent} {off : Nat} {v : Word} (h : Keeps r s) : Keeps r (s.secPut a off v) := by
  unfold State.secPut
  refine .both (.both (confReq_keeps h) h) ?_
  exact .both (wrDbg_keeps h) (.both (.both (kreqGo_keeps h) h) (plainWrite_keeps h))

theorem detPut_keeps {off : Nat} {v : Word} (h : Keeps r s) : Keeps r (s.detPut off v) := .both (wrDetRing_keeps h) (plainWrite_keeps h)

theorem blockPut_keeps {a : Agent} {t : PageType} {i g off : Nat} {v : Word} (h : Keeps r s) : Keeps r (s.blockPut a t i g off v) := by
  unfold State.blockPut
  split
  · exact warmCmd_keeps h
  · exact bootCmd_keeps h
  · exact appStart_keeps h
  · exact eoi_keeps h
  · exact wrCrcCommit_keeps h
  · exact wrCrcRef_keeps h
  · exact wrKstart_keeps h
  · exact wrGaffIssue_keeps h
  · exact wrSparKstart_keeps h
  · exact wrMbox_keeps h
  · exact .both (scrubAsk_keeps h) h
  · exact wrCcCmd_keeps h
  · exact wrHalArm_keeps h
  · exact wrWsetClr_keeps h
  · exact wrFirnOp_keeps h
  · exact wrIw_keeps h
  · exact wrRemapCmd_keeps h
  · exact wrClkCtrl_keeps h
  · exact wrPtpCtrl_keeps h
  · exact wrPathDly_keeps h
  · exact wrMgmtCtrl_keeps h
  · exact detPut_keeps h
  · exact .both (wrWin_keeps h) (plainWrite_keeps h)
  · exact mstPut_keeps h
  · exact mstPut_keeps h
  · exact mstPut_keeps h
  · exact morPut_keeps h
  · exact morPut_keeps h
  · exact tbPut_keeps h
  · exact pgPut_keeps h
  · exact capPut_keeps h
  · exact fhPut_keeps h
  · exact shrPut_keeps h
  · exact secPut_keeps h
  · exact plainWrite_keeps h

theorem headPut_keeps {a : Agent} {g off : Nat} {v : Word} (h : Keeps r s) : Keeps r (s.headPut a g off v) := by
  unfold State.headPut
  refine .both (wrPageCtrl_keeps h) ?_
  exact .both (setWord_keeps h) (.both (indAccess_keeps h) (plainWrite_keeps h))

theorem regPut_keeps {a : Agent} {g o : Nat} {v : Word} (h : Keeps r s) : Keeps r (s.regPut a g o v) := by
  unfold State.regPut
  split
  · exact unmapped_keeps h
  · refine .both h ?_
    exact .both (headPut_keeps h) (.both (emuWrite_keeps h) (.both (blockPut_keeps h) (unmapped_keeps h)))

theorem sizeBad_keeps {a : Agent} {addr : Nat} (h : Keeps r s) : Keeps r (s.sizeBad a addr) := raise_keeps (bump_keeps (fabAddr_keeps h))

theorem regWrite_keeps {a : Agent} {r' : Nat} {size : Size} {data : Bytes} (h : Keeps r s) : Keeps r (s.regWrite a r' size data) := by
  unfold State.regWrite
  extract_lets +onlyGivenNames _ _ _
  split
  · exact .both (sizeBad_keeps h) (unmapped_keeps h)
  · exact .both (sizeBad_keeps h) (unmapped_keeps h)
  · exact regPut_keeps h
  · exact regPut_keeps (regPut_keeps h)
  · exact unmapped_keeps h

theorem blockGet_keeps {a : Agent} {t : PageType} {i g off : Nat} (h : Keeps r s) : Keeps r (s.blockGet a t i g off).1 := by
  unfold State.blockGet
  extract_lets +onlyGivenNames _
  split
  · exact .bothFst (rdTbNs_keeps h) (.bothFst h (.bothFst h (.bothFst h (clearRead_keeps h))))
  · exact .bothFst h (clearRead_keeps h)
  · exact .bothFst h (clearRead_keeps h)
  · exact clearRead_keeps h

theorem answerWord_keeps {w : Word} (h : Keeps r s) : Keeps r (s.answerWord w) := answer_keeps h

theorem regGet_keeps {a : Agent} {g o : Nat} (h : Keeps r s) : Keeps r (s.regGet a g o) := by
  unfold State.regGet
  split
  · exact answer_keeps (unmapped_keeps h)
  · refine .both (.both (indAccess_keeps h) (answerWord_keeps h)) ?_
    refine .both (emuRead_keeps h) ?_
    exact .both (answer_keeps (unmapped_keeps h)) (.both (answer_keeps h) (answerWord_keeps (blockGet_keeps h)))

theorem noAnswer_keeps (h : Keeps r s) : Keeps r s.noAnswer := .mk' h

theorem cutAnswer_keeps {o n : Nat} (h : Keeps r s) : Keeps r (s.cutAnswer o n) := by
  unfold State.cutAnswer
  split
  · exact answer_keeps h
  · exact h

theorem regRead_keeps {a : Agent} {r' : Nat} {size : Size} (h : Keeps r s) : Keeps r (s.regRead a r' size) := by
  unfold State.regRead
  extract_lets +onlyGivenNames _ _
  split
  · exact cutAnswer_keeps (regGet_keeps (noAnswer_keeps h))
  · exact cutAnswer_keeps (regGet_keeps (noAnswer_keeps h))
  · exact regGet_keeps (noAnswer_keeps h)
  · extract_lets +onlyGivenNames _ s2
    have h2 : Keeps r s2 := regGet_keeps (noAnswer_keeps (regGet_keeps (noAnswer_keeps h)))
    split
    · exact answer_keeps h2
    · exact h2
  · exact answer_keeps (unmapped_keeps h)

theorem dramAccess_keeps {a : Agent} {adr : Nat} {acc : Access} {ecc : Ecc} (h : Keeps r s) : Keeps r (s.dramAccess a adr acc ecc) := by
  unfold State.dramAccess
  split
  · refine .both (answer_keeps (unmapped_keeps h)) ?_
    exact .both (answer_keeps (granDeny_keeps h)) (answer_keeps (firnRead_keeps h))
  · exact .both (unmapped_keeps h) (.both (granDeny_keeps h) (firnWrite_keeps h))

theorem remoteLineOf_keeps {o : Nat} {data : Bytes} (h : Keeps r s) : Keeps r (s.remoteLineOf o data).1 := .bothFst h (.mk' h)

theorem apertureAccess_keeps {a : Agent} {adr : Nat} {acc : Access} (h : Keeps r s) : Keeps r (s.apertureAccess a adr acc) := by
  unfold State.apertureAccess
  extract_lets +onlyGivenNames _
  split
  · exact cutAnswer_keeps (remoteAccess_keeps (noAnswer_keeps h))
  · exact remoteAccess_keeps (remoteLineOf_keeps h)

theorem nowhere_keeps {a : Agent} {adr : Nat} {acc : Access} (h : Keeps r s) : Keeps r (s.nowhere a adr acc) := by
  unfold State.nowhere
  split
  · exact answer_keeps (unmapped_keeps h)
  · exact unmapped_keeps h

theorem access_keeps {a : Agent} {adr : Nat} {acc : Access} {ecc : Ecc} (h : Keeps r s) : Keeps r (s.access a adr acc ecc) := by
  unfold State.access
  refine .both ?_ ?_
  · split
    · exact regRead_keeps h
    · exact regWrite_keeps h
  · refine .both (window_keeps h) ?_
    refine .both (nowhere_keeps h) ?_
    exact .both (dramAccess_keeps h) (.both (apertureAccess_keeps h) (nowhere_keeps h))

theorem pcieUr_keeps {acc : Access} (h : Keeps r s) : Keeps r (s.pcieUr acc) := by
  unfold State.pcieUr
  split
  · exact answer_keeps (bump_keeps h)
  · exact h

theorem pcieTake_keeps {r' : PcieReq} (h : Keeps r s) : Keeps r (s.pcieTake r') :=
  .both (access_keeps h) (.both (access_keeps h) (pcieUr_keeps h))

theorem pcieAdmit_keeps {r' : PcieReq} (h : Keeps r s) : Keeps r (s.pcieAdmit r') :=
  .both (pcieUr_keeps h) (.both (pcieTake_keeps h) (pcieUr_keeps (bump_keeps (raise_keeps h))))

theorem pcieReq_keeps {r' : PcieReq} (h : Keeps r s) : Keeps r (s.pcieReq r') := by
  unfold State.pcieReq
  refine .both h ?_
  refine .both (pcieUr_keeps (discardWork_keeps h)) ?_
  extract_lets +onlyGivenNames s1
  have h1 : Keeps r s1 := tally_keeps h
  split
  · exact ideFail_keeps h1
  · exact .both (tdispError_keeps h1) (pcieAdmit_keeps h1)

end Sys2Proof.Machine.State
end

section
/-! SUPPORT. Every command keeps the queue, and keeps soundness. -/

namespace Sys2Proof.Machine

open State in
/-- One line for each command: the operation that it runs. -/
theorem exec_keeps (c : Instr) (s : State) : KeepsNext s (exec c s) := by
  have h : Keeps s s := .refl s
  cases c with
  | registerWrite => exact .next (access_keeps h)
  | rcCounterRead => exact .next (access_keeps h)
  | memoryAccess => exact .next (access_keeps h)
  | faultRecordForward => exact .next (forward_keeps h)
  | mmul => exact .next (issueMacro_keeps h)
  | cmmul => exact .next (issueMacro_keeps h)
  | bmmul => exact .next (issueMacro_keeps h)
  | tmmul => exact .next (issueMacro_keeps h)
  | attn => exact .next (issueMacro_keeps h)
  | conv1d => exact .next (issueMacro_keeps h)
  | gather => exact .next (issueMacro_keeps h)
  | combine => exact .next (issueMacro_keeps h)
  | quant => exact .next (issueMacro_keeps h)
  | dequant => exact .next (issueMacro_keeps h)
  | adaptStep => exact .next (issueMacro_keeps h)
  | gaffIssue => exact .next (onReady_keeps h fun _ ht => wrGaffIssue_keeps ht)
  | latchedMacroStart => exact .next (latchedStart_keeps h)
  | wingSignalTimeout => exact .next (signalTimeout_keeps h)
  | zeroDimComplete => exact .next (zeroDone_keeps h)
  | tileLoadComplete => exact .next (tileLoaded_keeps h)
  | passEnd => exact .next (passEnded_keeps h)
  | readoutComplete => exact .next (readoutDone_keeps h)
  | mergeRoundComplete => exact .next (mergeDone_keeps h)
  | shareComplete => exact .next (shareDone_keeps h)
  | wcOverrun => exact .next (gaffOverrun_keeps h)
  | gaffBrashAcquire => exact .next (gaffAcquire_keeps h)
  | cbDeferredLoadApply => exact .next (cbApply_keeps h)
  | vmov => exact .next (laneOp_keeps h)
  | vand => exact .next (laneOp_keeps h)
  | vor => exact .next (laneOp_keeps h)
  | vxor => exact .next (laneOp_keeps h)
  | vsel => exact .next (laneOp_keeps h)
  | vbcs => exact .next (broadcastSm_keeps h)
  | vbcx => exact .next (laneOp_keeps h)
  | vsld => exact .next (laneOp_keeps h)
  | vslu => exact .next (laneOp_keeps h)
  | vadd => exact .next (valOp_keeps h)
  | vsub => exact .next (valOp_keeps h)
  | vmin => exact .next (valOp_keeps h)
  | vmax => exact .next (valOp_keeps h)
  | vabs => exact .next (valOp_keeps h)
  | vneg => exact .next (valOp_keeps h)
  | vcmp => exact .next (laneOp_keeps h)
  | vmul => exact .next (valOp_keeps h)
  | vfma => exact .next (valOp_keeps h)
  | vcmul => exact .next (complexMul_keeps h)
  | vcmulj => exact .next (complexMul_keeps h)
  | vexp => exact .next (transOp_keeps h)
  | vrcp => exact .next (transOp_keeps h)
  | vrsq => exact .next (transOp_keeps h)
  | vcvt => exact .next (convertVec_keeps h)
  | vcbx => exact .next (codebookExpand_keeps h)
  | vcbq => exact .next (codebookQuant_keeps h)
  | vrsum => exact .next (reduceOp_keeps h)
  | vrmax => exact .next (reduceOp_keeps h)
  | vrmin => exact .next (reduceOp_keeps h)
  | vramax => exact .next (reduceOp_keeps h)
  | vrcnt => exact .next (reduceOp_keeps h)
  | vrany => exact .next (reduceOp_keeps h)
  | vrall => exact .next (reduceOp_keeps h)
  | vld => exact .next (vecLoad_keeps h)
  | vst => exact .next (vecStore_keeps h)
  | vldn => exact .next (vecLoad_keeps h)
  | vstn => exact .next (vecStore_keeps h)
  | vgath => exact .next (vecGather_keeps h)
  | vscat => exact .next (vecScatter_keeps h)
  | scalarAdd => exact .next (scalarRR_keeps h)
  | scalarSub => exact .next (scalarRR_keeps h)
  | scalarAnd => exact .next (scalarRR_keeps h)
  | scalarOr => exact .next (scalarRR_keeps h)
  | scalarXor => exact .next (scalarRR_keeps h)
  | sll => exact .next (scalarRR_keeps h)
  | srl => exact .next (scalarRR_keeps h)
  | sra => exact .next (scalarRR_keeps h)
  | slt => exact .next (scalarRR_keeps h)
  | sltu => exact .next (scalarRR_keeps h)
  | scalarMul => exact .next (scalarRR_keeps h)
  | scalarAddi => exact .next (scalarRI_keeps h)
  | andi => exact .next (scalarRI_keeps h)
  | ori => exact .next (scalarRI_keeps h)
  | lui => exact .next (scalarOp_keeps h)
  | lw => exact .next (loadWord_keeps h)
  | sw => exact .next (storeWord_keeps h)
  | setvl => exact .next (setVl_keeps h)
  | mvs => exact .next (moveSummary_keeps h)
  | beq => exact .next (branchRR_keeps h)
  | bne => exact .next (branchRR_keeps h)
  | blt => exact .next (branchRR_keeps h)
  | bge => exact .next (branchRR_keeps h)
  | bltu => exact .next (branchRR_keeps h)
  | bgeu => exact .next (branchRR_keeps h)
  | j => exact .next (jump_keeps h)
  | bsz => exact .next (branchSm_keeps h)
  | bsnz => exact .next (branchSm_keeps h)
  | bslt => exact .next (branchSm_keeps h)
  | bsge => exact .next (branchSm_keeps h)
  | kend => exact .next (kernelEnd_keeps h)
  | illegalInstruction => exact .next (illegalAt_keeps h)
  | floeKstart => exact .next (onReady_keeps h fun _ ht => wrKstart_keeps ht)
  | kernelPreloadStart => exact .next (preloadStart_keeps h)
  | kernelPreloadDone => exact .next (preloadDone_keeps h)
  | nativeOverrun => exact .next (nativeOverrunAt_keeps h)
  | pmov => exact .next (sparM_keeps h)
  | mpy => exact .next (sparM_keeps h)
  | mac => exact .next (sparM_keeps h)
  | msu => exact .next (sparM_keeps h)
  | sparAdd => exact .next (sparA_keeps h fun _ _ _ ht => putT_keeps ht)
  | sparSub => exact .next (sparA_keeps h fun _ _ _ ht => putT_keeps ht)
  | sparAnd => exact .next (sparBit_keeps h)
  | sparOr => exact .next (sparBit_keeps h)
  | sparXor => exact .next (sparBit_keeps h)
  | sparMin => exact .next (sparPick_keeps h)
  | sparMax => exact .next (sparPick_keeps h)
  | sparAbs => exact .next (sparA_keeps h fun _ _ _ ht => putT_keeps ht)
  | sparNeg => exact .next (sparA_keeps h fun _ _ _ ht => putT_keeps ht)
  | sparAddi => exact .next (sparA_keeps h fun _ _ _ ht => putT_keeps ht)
  | ldi => exact .next (sparA_keeps h fun _ _ _ ht => ht)
  | ldp => exact .next (sparLateA_keeps h)
  | ldm => exact .next (sparLateA_keeps h)
  | ldb => exact .next (sparLateA_keeps h)
  | ldl => exact .next (sparLateA_keeps h)
  | movp => exact .next (sparLateA_keeps h)
  | movt => exact .next (sparA_keeps h fun _ _ _ ht => ht)
  | movh => exact .next (sparA_keeps h fun _ _ _ ht => putT_keeps ht)
  | movl => exact .next (sparA_keeps h fun _ _ _ ht => ht)
  | mova => exact .next (sparA_keeps h fun _ _ _ ht => ht)
  | clr => exact .next (sparA_keeps h fun _ _ _ ht => ht)
  | adda => exact .next (sparA_keeps h fun _ _ _ ht => putAcc40_keeps ht)
  | suba => exact .next (sparA_keeps h fun _ _ _ ht => putAcc40_keeps ht)
  | ash => exact .next (sparA_keeps h fun _ _ _ ht => putAcc40_keeps ht)
  | sparExp => exact .next (sparA_keeps h fun _ _ _ ht => ht)
  | norm => exact .next (sparNorm_keeps h)
  | movs => exact .next (sparA_keeps h fun _ _ _ ht => ht)
  | sparB => exact .next (sparBranch_keeps h)
  | bz => exact .next (sparBranch_keeps h)
  | bnz => exact .next (sparBranch_keeps h)
  | bn => exact .next (sparBranch_keeps h)
  | bnn => exact .next (sparBranch_keeps h)
  | bv => exact .next (sparBranch_keeps h)
  | rep => exact .next (sparRepeat_keeps h)
  | rept => exact .next (sparRepeat_keeps h)
  | setie => exact .next (sparCtl_keeps h)
  | reti => exact .next (sparCtl_keeps h)
  | sparEnd => exact .next (sparCtl_keeps h)
  | nop => exact .next (sparIssue_keeps h fun _ _ _ ht => ht)
  | sparKstart => exact .next (onReady_keeps h fun _ ht => wrSparKstart_keeps ht)
  | sparPreloadDone => exact .next (sparPreloaded_keeps h)
  | sparKernelEnd => exact .next (sparEnded_keeps h)
  | sparOverrun => exact .next (sparOverAt_keeps h)
  | sparMbox => exact .next (onReady_keeps h fun _ ht => wrMbox_keeps ht)
  | tick => exact .next (sparTick_keeps h)
  | sparIrqAccept => exact .next (sparAccept_keeps h)
  | scratchpadAccess _ port => exact execScratchpadAccess_keeps (port := port) h
  | patrolScrubTurn => exact .next (.both (patrolTurn_keeps h) h)
  | floeMemInitDone => exact .next (memInit_keeps h)
  | windowAccess => exact .next (window_keeps h)
  | scrubRequest => exact .next (onReady_keeps h fun _ ht => scrubAsk_keeps ht)
  | scrubStart => exact .next (scrubBegin_keeps h)
  | scrubEnd => exact .next (scrubDone_keeps h)
  | firnRead => exact .next (.both (answer_keeps (firnRead_keeps h)) (answer_keeps (unmapped_keeps h)))
  | firnWrite => exact .next (.both (firnWrite_keeps h) (unmapped_keeps h))
  | firnInvalidate => exact .next (onReady_keeps h fun _ ht => firnStart_keeps ht)
  | firnUnpin => exact .next (onReady_keeps h fun _ ht => firnStart_keeps ht)
  | firnInvalidateUnpin => exact .next (onReady_keeps h fun _ ht => firnStart_keeps ht)
  | firnWalkEnd => exact .next (firnWalked_keeps h)
  | remoteFloeAccess => exact execRemoteFloeAccess_keeps h
  | fwinCtrl => exact .next (onReady_keeps h fun _ ht => wrWin_keeps ht)
  | windowCloseComplete => exact .next (winClosed_keeps h)
  | halArmGo => exact .next (onReady_keeps h fun _ ht => wrHalArm_keeps ht)
  | halCancel => exact .next (onReady_keeps h fun _ ht => wrHalArm_keeps ht)
  | halCancelAll => exact .next (onReady_keeps h fun _ ht => wrHalArm_keeps ht)
  | descActivate => exact .next (halStart_keeps h)
  | halLineDeliver => exact .next (halLine_keeps h)
  | halTransferComplete => exact .next (halComplete_keeps h)
  | halZeroRowComplete => exact .next (halZero_keeps h)
  | cancelEnd => exact .next (cancelDone_keeps h)
  | fronthaulFrameReceive => exact .next (rxFrame_keeps h)
  | partnerRetire => exact .next (retire_keeps h)
  | slotOpen => exact .next (openSlot_keeps h)
  | slotClose => exact .next (slotClose_keeps h)
  | allocPush => exact .next (onReady_keeps h fun _ ht => wrAlloc_keeps ht)
  | balAcPop => exact .next (onReady_keeps h fun _ ht => acPop_keeps ht)
  | adpStart => exact .next (onReady_keeps h fun _ ht => wrAdpStart_keeps ht)
  | adpSampleEmit => exact .next (adpEmit_keeps h)
  | replaySlot => exact .next (replaySlot_keeps h)
  | seracInputLine => exact .next (serInput_keeps h)
  | seracJobStart => exact .next (serStart_keeps h)
  | ldpc => exact .next (serLdpc_keeps h)
  | polar => exact .next (serPolar_keeps h)
  | tbCheck => exact .next (serTbCheck_keeps h)
  | wsetLoad => exact .next (serWset_keeps h)
  | seracJobEnd => exact .next (serEnd_keeps h)
  | seracRecordRead => exact execSeracRecordRead_keeps h
  | serWsetClr => exact .next (onReady_keeps h fun _ ht => wrWsetClr_keeps ht)
  | tableCommit => exact .next (onReady_keeps h fun _ ht => wrCommit_keeps ht)
  | tableVerifyEnd => exact .next (verifyEnd_keeps h)
  | tableActivate => exact .next (activateTable_keeps h)
  | periodBoundary => exact .next (periodEnd_keeps h)
  | stepRealign => exact .next (realign_keeps h)
  | issueMacro => exact .next (issueEntry_keeps h)
  | issueNkern => exact .next (issueEntry_keeps h)
  | issueSkern => exact .next (issueEntry_keeps h)
  | issueBal => exact .next (issueEntry_keeps h)
  | issueHal => exact .next (issueEntry_keeps h)
  | mstAdpSwap => exact .next (onReady_keeps h fun _ ht => wrAdpSwap_keeps ht)
  | mstBeTail => exact .next (onReady_keeps h fun _ ht => wrBeTail_keeps ht)
  | mstBeRingCfg => exact .next (onReady_keeps h fun _ ht => wrBeRing_keeps ht)
  | flush => exact .next (onReady_keeps h fun _ ht => beFlush_keeps ht)
  | beEvaluate => exact .next (beEvaluate_keeps h)
  | beRequestEnd => exact .next (beEnd_keeps h)
  | beHalTimeout => exact .next (beTimeout_keeps h)
  | form => exact .next (onReady_keeps h fun _ ht => form_keeps ht)
  | drain => exact .next (onReady_keeps h fun _ ht => drainPart_keeps ht)
  | kill => exact .next (onReady_keeps h fun _ ht => kill_keeps ht)
  | partitionDrained => exact .next (partDrained_keeps h)
  | partitionClearStart => exact .next (clearStart_keeps h)
  | partitionFree => exact .next (partFree_keeps h)
  | composeDigest => exact .next (compose_keeps h)
  | detRingCfg => exact .next (onReady_keeps h fun _ ht => wrDetRing_keeps ht)
  | tbIncFrac => exact .next (onReady_keeps h fun _ ht => wrTbIncFrac_keeps ht)
  | tbIncNs => exact .next (onReady_keeps h fun _ ht => wrTbIncNs_keeps ht)
  | tbAdj => exact .next (onReady_keeps h fun _ ht => wrTbAdj_keeps ht)
  | slewComplete => exact .next (advance_keeps h)
  | tbStepRequest => exact .next (onReady_keeps h fun _ ht => wrTbStep_keeps ht)
  | tbStepApply => exact .next (applyStep_keeps h)
  | tbRdNs => exact .next (.both (answer_keeps (rdTbNs_keeps h)) (answer_keeps (unmapped_keeps h)))
  | masterLost => exact .next (.both (servoReport_keeps (enterHoldover_keeps (raise_keeps h))) h)
  | synceLost => exact .next (.both h (raise_keeps (wf_keeps (wf_keeps h))))
  | synceRelock => exact .next (.both (wf_keeps (wf_keeps h)) h)
  | tsClkCtrl => exact .next (onReady_keeps h fun _ ht => wrClkCtrl_keeps ht)
  | claim => exact .next (onReady_keeps h fun _ ht => claimUnit_keeps ht)
  | release => exact .next (onReady_keeps h fun _ ht => asOwner_keeps ht (fun _ ht1 => freeUnit_keeps ht1))
  | arm => exact .next (onReady_keeps h fun _ ht => asOwner_keeps ht (fun _ ht1 => pgArm_keeps ht1))
  | disarm => exact .next (onReady_keeps h fun _ ht => asOwner_keeps ht (fun _ ht1 => disarmUnit_keeps ht1))
  | pgFire => exact .next (fire_keeps h)
  | snapshotComplete => exact .next (.both (irq_keeps (wf_keeps (wf_keeps h))) h)
  | pinPulseEnd => exact .next (pulseEnd_keeps h)
  | captureEdge => exact .next (capture_keeps h)
  | pop => exact .next (onReady_keeps h fun _ ht => asOwner_keeps ht (fun _ ht1 => capPop_keeps ht1))
  | fhCtrl => exact .next (onReady_keeps h fun _ ht => wrFhCtrl_keeps ht)
  | fhTxrWr => exact .next (onReady_keeps h fun _ ht => wrFhIdx_keeps ht)
  | fhFrameTransmit => exact .next (txNext_keeps h)
  | fhRxrRd => exact .next (onReady_keeps h fun _ ht => wrFhIdx_keeps ht)
  | fhTxtsPop => exact .next (onReady_keeps h fun _ ht => wrTxtsPop_keeps ht)
  | holdIdleFrame => exact .next (.both (holdIdle_keeps h) (.both (shrIdle_keeps h) h))
  | shroudTrainingDone => exact .next (.both (setShrState_keeps h) h)
  | shroudAuth => exact .next (authenticate_keeps h)
  | shroudFrameSend => exact .next (shrSend_keeps h)
  | shroudFrameReceive => exact .next (shrRx_keeps h)
  | shroudRetryTimeout => exact .next (shrRetry_keeps h)
  | shroudOldKeyExpire => exact execShroudOldKeyExpire_keeps h
  | shroudLaneFail => exact .next (shrLane_keeps h)
  | shroudRemapDone => exact .next (shrRemapped_keeps h)
  | shroudLinkDown => exact .next (shrDown_keeps h)
  | shroudRemoteAccess => exact .next (remoteAccess_keeps h)
  | shrRank => exact .next (onReady_keeps h fun _ ht => wrRank_keeps ht)
  | pcieRequest => exact .next (pcieReq_keeps h)
  | stopInterface => exact .next (.both h (tdispStop_keeps (.mk' h)))
  | moduleInsert => exact .next (modInsert_keeps h)
  | moduleRemove => exact .next (modRemove_keeps h)
  | modulePoll => exact .next (modPoll_keeps h)
  | lifeTableSave => exact .next (.both (lifeSave_keeps h) h)
  | eolUpdate => exact .next (eol_keeps h)
  | modPathDlyPs => exact .next (onReady_keeps h fun _ ht => wrPathDly_keeps ht)
  | dramRead => exact .next (.both (answer_keeps (drcRead_keeps h)) (answer_keeps (unmapped_keeps h)))
  | dramWrite => exact .next (.both (drcWrite_keeps h) (unmapped_keeps h))
  | dramPatrolRead => exact .next (.both (patrolLines_keeps h) h)
  | drcRemapCmd => exact .next (onReady_keeps h fun _ ht => wrRemapCmd_keeps ht)
  | remapStart => exact execRemapStart_keeps h
  | remapSwitch => exact execRemapSwitch_keeps h
  | drcIw => exact .next (onReady_keeps h fun _ ht => wrIw_keeps ht)
  | srst => exact .next (atPage_keeps h fun _ ht => wrPageCtrl_keeps ht)
  | pageCtrlEn => exact .next (atPage_keeps h fun _ ht => wrPageCtrl_keeps ht)
  | shutdownComplete => exact .next (shutDone_keeps h)
  | irqForce => exact .next (regPut_keeps h)
  | indDataRead => exact .next (regGet_keeps (noAnswer_keeps h))
  | indDataWrite => exact .next (regPut_keeps h)
  | indTimeout => exact .next (indLate_keeps h)
  | interruptDeliver => exact .next (deliverVec_keeps h)
  | iaggEoi => exact .next (onReady_keeps h fun _ ht => eoi_keeps ht)
  | cfgSweepStart => exact .next (sweepStart_keeps h)
  | cfgSweepEnd => exact .next (sweepEnd_keeps h)
  | crcCommit => exact .next (onReady_keeps h fun _ ht => wrCrcCommit_keeps ht)
  | cfgCrcRef => exact .next (onReady_keeps h fun _ ht => wrCrcRef_keeps ht)
  | load => exact .next (emuWrite_keeps h)
  | update => exact .next (emuWrite_keeps h)
  | fwLoadDone => exact .next (loadDone_keeps h)
  | fwldTopo => exact .next (emuWrite_keeps h)
  | fwWatchdogExpire => exact .next (.both h (.both (rollback_keeps h) (restart_keeps h)))
  | componentProgressMiss => exact .next (.both h (restart_keeps h))
  | complexWatchdogExpire => exact .next (complexExpire_keeps h)
  | fwRestartDone => exact .next (restartDone_keeps h)
  | checkpoint => exact .next (.both (.foldl h fun _ _ ht => setQueue_keeps ht) h)
  | emuAccess => exact .next (access_keeps h)
  | emuTimeout => exact .next (emuLate_keeps h)
  | handoffStart => exact .next (.both (setFwld_keeps h) h)
  | handoffDone => exact .next (.both h (emuServe_keeps (emuServe_keeps (emuServe_keeps (bump_keeps (runImage_keeps h))))))
  | updateRollback => exact .next (rollback_keeps h)
  | fwctlHeartbeat => exact .next (emuWrite_keeps h)
  | leaseExpire => exact .next (.both (park_keeps (bump_keeps (raise_keeps h))) h)
  | detach => exact .next (emuWrite_keeps h)
  | resume => exact .next (emuWrite_keeps h)
  | acquire => exact .next (emuWrite_keeps h)
  | indLockRelease => exact .next (emuWrite_keeps h)
  | indLockTimeout => exact .next (.both (raise_keeps (wf_keeps h)) h)
  | stepReq => exact .next (emuWrite_keeps h)
  | getVersion => exact execGetVersion_keeps h
  | getCapabilities => exact execGetCapabilities_keeps h
  | negotiateAlgorithms => exact execNegotiateAlgorithms_keeps h
  | getDigests => exact execGetDigests_keeps h
  | getCertificate => exact execGetCertificate_keeps h
  | challenge => exact execChallenge_keeps h
  | getMeasurements => exact execGetMeasurements_keeps h
  | keyExchange => exact execKeyExchange_keeps h
  | finish => exact .next (finish_keeps h)
  | endSession => exact .next (within_keeps h fun _ _ ht => tell_keeps (setSession_keeps ht))
  | cosign => exact execCosign_keeps h
  | cosignSignDone => exact .next (.both (setConn_keeps h) h)
  | respondIfReady => exact execRespondIfReady_keeps h
  | tenantAttach => exact .next (attach_keeps h)
  | secConfReq => exact .next (secWrite_keeps h fun _ ht => confReq_keeps ht)
  | secDbgCtrl => exact .next (secWrite_keeps h fun _ ht => wrDbg_keeps ht)
  | granuleRelease => exact .next (secWrite_keeps h fun _ ht => .getD (wrGranule_keeps ht) (indDenied_keeps ht))
  | granuleZeroDone => exact .next (granZeroed_keeps h)
  | keyRequest => exact .next (secWrite_keeps h fun _ ht => kreqGo_keeps ht)
  | keyRequestDone => exact .next (keyDone_keeps h)
  | telemetryWindow => exact .next (telemetry_keeps h)
  | mgmtStart => exact .next (mgmtBoot_keeps h)
  | sensorSample => exact .next (sample_keeps h)
  | loadDetectTest => exact .next (loadDetect_keeps h)
  | opEvaluate => exact .next (evaluate_keeps h)
  | fwpmApply => exact .next (.both (bump_keeps (wf_keeps (wf_keeps h))) h)
  | applyLate => exact .next (.both (raise_keeps h) h)
  | snapTriggerCheck => exact .next (snapCheck_keeps h)
  | logIntake => exact .next (log_keeps h)
  | logFlashWrite => exact .next (logFlush_keeps h)
  | mgmtLogRd => exact .next (onReady_keeps h fun _ ht => wf_keeps ht)
  | mctpControl => exact .next (mctp_keeps h)
  | pldmMessage => exact .next (pldm_keeps h)
  | spdmRelay => exact relay_keeps h
  | logReadRequest => exact .next (.both (reply_keeps h) h)
  | pldmFirmwareUpdate => exact .next (mgmtUpdate_keeps h)
  | activateFirmware => exact .next (.both h (.both (reply_keeps h) (setMgmt_keeps (wf_keeps (mgmtDown_keeps (reply_keeps h))))))
  | mgmtUpdateRollback => exact .next (.both h (logOwn_keeps (raise_keeps (mgmtUp_keeps (setMgmt_keeps (wf_keeps h))))))
  | handshakeTimeout => exact .next (fatal_keeps h)
  | floeFatal => exact .next (fatal_keeps h)
  | fence => exact .next (onReady_keeps h fun _ ht => fenceCmd_keeps ht)
  | spareMapDone => exact .next (spareMapped_keeps h)
  | restore => exact .next (onReady_keeps h fun _ ht => restoreCmd_keeps ht)
  | restoreComplete => exact .next (restored_keeps h)
  | seracEngineFence => exact .next (wrPageEn_keeps h)
  | porstNAssert => exact .next (.both h (porAssert_keeps h))
  | porstNRelease => exact .next (porRelease_keeps h)
  | sysrstNAssert => exact .next (.both h (sysAssert_keeps h))
  | sysrstNRelease => exact .next (sysRelease_keeps h)
  | warm => exact .next (onReady_keeps h fun _ ht => warmCmd_keeps ht)
  | mgmtRstNAssert => exact .next (mgmtAssert_keeps h)
  | mgmtRstNRelease => exact .next (.both (wf_keeps (setPwr_keeps h)) h)
  | pciePerstN => exact .next (.both (pcieReset_keeps (setPwr_keeps h)) (setPwr_keeps h))
  | blockReady => exact .next (blockReady_keeps h)
  | brownout => exact .next (.both h (cause_keeps (setPwr_keeps (porReset_keeps h))))
  | brownoutRestart => exact .next (.both (coldStart_keeps (setPwr_keeps h)) h)
  | seqErr => exact .next (cause_keeps h)
  | thermtrip => exact .next (thermTrip_keeps h)
  | sysBootCmd => exact .next (onReady_keeps h fun _ ht => bootCmd_keeps ht)
  | bootFetchDone => exact .next (bootDone_keeps h)
  | sysAppStart => exact .next (onReady_keeps h fun _ ht => appStart_keeps ht)
  | fhLinkUp => exact .next (portTrained_keeps h)
  | fhLinkDown => exact .next (portDown_keeps h)
  | pcieLinkUp => exact .next (.both (pcieUp_keeps h) h)
  | pcieLinkDown => exact .next (pcieDown_keeps h)
  | tdispLockInterface => exact .next (.both (setTdisp_keeps h) h)
  | tdispStartInterface => exact .next (.both (setTdisp_keeps h) h)
  | ideKmKeyProgramming => exact .next (setIde_keeps h)
  | shrCtrl => exact .next (onReady_keeps h fun _ ht => wrShrCtrl_keeps ht)
  | shroudKeyInstall => exact .next (shrInstall_keeps h)
  | dramFrameStart => exact execDramFrameStart_keeps h
  | timingPllLocked => exact .next (wf_keeps h)
  | mainRailsUp => exact .next (.both (setPwr_keeps h) h)
  | mainRailsDown => exact .next (.both (setPwr_keeps h) h)
  | standbyPowerLoss => exact .next (powerLoss_keeps h)

end Sys2Proof.Machine
end

section
/-! SUPPORT. What a tick of the timing clock changes, and the registers and units at the release of PORST_N. -/

namespace Sys2Proof.Machine

/-! ### A tick -/

/-- What a change of a time base leaves, the ticks that pass leave. -/
theorem foldl_setTb_field {α : Type} (p : State → α) (hp : ∀ s i t, p (State.setTb s i t) = p s) (f : State → Nat → TimeBase)
    (l : List Nat) (s : State) : p (l.foldl (fun s i => s.setTb i (f s i)) s) = p s := by
  induction l generalizing s with
  | nil => rfl
  | cons i l ih => rw [List.foldl_cons, ih, hp]

theorem advance_field {α : Type} (p : State → α) (hp : ∀ s i t, p (State.setTb s i t) = p s) (s : State) (n : Nat) :
    p (s.advance n) = p { s with ticks := s.ticks + n } :=
  foldl_setTb_field p hp _ _ _

/-- A tick counts itself, whether the time bases run or stand. -/
theorem idle_field {α : Type} (p : State → α) (hp : ∀ s i t, p (State.setTb s i t) = p s) (s : State) :
    p s.idle = p { s with ticks := s.ticks + 1 } := by
  unfold State.idle
  split
  · rfl
  · exact advance_field p hp s 1

/-! ### The registers at the release of PORST_N -/

/-- Every page has its header (R466): the rows that only some instances have lie above it. -/
theorem rowPresent_header (t : PageType) (i lo : Nat) {off : Nat} (ho : off < 0x40) : rowPresent t i off lo = true := by
  have hne : ∀ k, 0x40 ≤ k → off ≠ k := by omega
  unfold rowPresent
  split
  · simp [hne]
  · simp [hne, F.FH_CTRL_QUAD_MODE]
  · rfl

/-- The Reset column names a source for PAGE_ID and CFG_CLASS alone within the header (R466, R467). -/
theorem fieldReset_header (t : PageType) (i g : Nat) (r : FieldRow) {off : Nat} (ho : off < 0x40) (h0 : off ≠ 0) (hc : off ≠ 0x1C) :
    fieldReset t i g off r = r.reset := by
  have hne : ∀ k, 0x40 ≤ k → off ≠ k := by omega
  unfold fieldReset
  rw [if_neg h0, if_neg hc]
  split
  · exact if_neg (hne _ (by decide))
  · exact if_neg fun h => hne _ (by decide) h.1
  · exact if_neg fun h => hne _ (by decide) h.1
  · exact if_neg fun h => hne _ (by decide) h.1
  · rfl

/-- A header register other than PAGE_ID and CFG_CLASS has the value of its Reset column on every page (R12, R466). -/
theorem regReset_header {g off : Nat} (hp : (pageOf g).isSome = true) (ho : off < 0x40) (h4 : off % 4 = 0) (h0 : off ≠ 0)
    (hc : off ≠ 0x1C) :
    regReset (regIdx g off) = (rows_hdr.filter fun r => r.covers off).foldl (fun w r => putBits w r.hi r.lo r.reset) 0 := by
  obtain ⟨⟨t, i⟩, ht⟩ := Option.isSome_iff_exists.1 hp
  have hg : regIdx g off / 1024 = g := by unfold regIdx; omega
  have hoff : regIdx g off % 1024 * 4 = off := by unfold regIdx; omega
  simp only [regReset, hg, hoff, ht, rowsAt, ho, if_true, rowPresent_header t i _ ho, Bool.and_true, fieldReset_header t i g _ ho h0 hc]

theorem reset_header {g off : Nat} (hp : (pageOf g).isSome = true) (ho : off < 0x40) (h4 : off % 4 = 0) (h0 : off ≠ 0)
    (hc : off ≠ 0x1C) :
    State.reset.word g off = (rows_hdr.filter fun r => r.covers off).foldl (fun w r => putBits w r.hi r.lo r.reset) 0 :=
  regReset_header hp ho h4 h0 hc

theorem reset_enabled {g : Nat} (hp : (pageOf g).isSome = true) : State.reset.enabled g = true := by
  have hw := reset_header hp (off := F.PAGE_CTRL_EN.off) (by decide) (by decide) (by decide) (by decide)
  unfold State.enabled State.bit State.rf
  rw [hw]
  decide

theorem reset_ready {g : Nat} (hp : (pageOf g).isSome = true) : State.reset.ready g = false := by
  have hw := reset_header hp (off := F.PAGE_STAT_READY.off) (by decide) (by decide) (by decide) (by decide)
  unfold State.ready State.bit State.rf
  rw [hw]
  decide

theorem reset_irqStat {g : Nat} (hp : (pageOf g).isSome = true) : State.reset.word g 0x010 = 0 := by
  rw [reset_header hp (by decide) (by decide) (by decide) (by decide)]
  decide

theorem reset_irqMask {g : Nat} (hp : (pageOf g).isSome = true) : State.reset.word g 0x014 = 0xFFFFFFFF := by
  rw [reset_header hp (by decide) (by decide) (by decide) (by decide)]
  decide

theorem TimeBase.default_count : ({} : TimeBase).count = 0 := by decide

/-- The state at the release of PORST_N lists nothing and is sound. -/
theorem reset_sound : State.reset.Sound :=
  ⟨rfl, rfl, rfl, rfl, rfl, rfl, fun _ => TimeBase.default_inRange, fun _ => Nat.zero_le _, fun _ => Nat.zero_le _,
    fun _ => Nat.two_pow_pos 64⟩

end Sys2Proof.Machine
end

section
/-! PROOFS. The queue, the step and the state after reset. -/

namespace Sys2Proof.Machine

/-- Settles O58: every command keeps the queue, operation by operation. -/
theorem execKeepsTheQueue : Obligations.ExecKeepsTheQueue := fun c s t e => (exec_keeps c s t e).pending

/-- Settles O57: the front command is what the step runs; on an empty queue it changes the tick count and the time bases. -/
theorem stepRunsTheFrontCommand : Obligations.StepRunsTheFrontCommand := by
  refine ⟨fun c rest s hq => by rw [step, hq], fun s hq => ⟨s.idle, by rw [step, hq], ?_⟩⟩
  have left {α : Type} (p : State → α) (hp : ∀ s i t, p (State.setTb s i t) = p s) := idle_field p hp s
  refine ⟨left (·.ticks) fun _ _ _ => rfl, ?_, ⟨left (·.mem) fun _ _ _ => rfl, left (·.tags) fun _ _ _ => rfl⟩, ?_⟩
  · exact (left (·.pending) fun _ _ _ => rfl).trans hq
  · exact ⟨left (·.floes) fun _ _ _ => rfl, left (·.hals) fun _ _ _ => rfl, left (·.mst) fun _ _ _ => rfl,
      left (·.mor) fun _ _ _ => rfl, left (·.mgmt) fun _ _ _ => rfl, left (·.fw) fun _ _ _ => rfl⟩

/-- Settles O59: the header words follow from the Reset column, the rest from tables that list nothing. -/
theorem resetState : Obligations.ResetState := by
  refine ⟨reset_sound, rfl, rfl, fun g hp => ?_, fun i _ => TimeBase.default_count, fun f _ => ?_⟩
  · exact ⟨reset_enabled hp, reset_ready hp, reset_irqStat hp, reset_irqMask hp⟩
  · exact ⟨rfl, rfl, rfl⟩

end Sys2Proof.Machine
end

section
/-! SUPPORT. Rules used by the statements below: entries of a table, the outcome of a command, bytes of equal memories, and what reads of DRAM
leave. -/

namespace Sys2Proof

/-- An entry just written. -/
@[simp] theorem Tab.at_set_same {α : Type} [DecidableEq α] (t : Tab α) (k : Nat) (d v : α) : Tab.at (Tab.set t k d v) k d = v :=
  Tab.get_put_same _ _ _ _

/-- An entry that a write does not name. -/
theorem Tab.at_set_other {α : Type} [DecidableEq α] (t : Tab α) {i k : Nat} (d v : α) (h : i ≠ k) :
    Tab.at (Tab.set t k d v) i d = Tab.at t i d :=
  Tab.get_put_other _ _ _ h

end Sys2Proof

namespace Sys2Proof.Machine

/-- A command gives what the state says that its operation leads to. -/
theorem Gives.of {i : Instr} {s t u : State} {p : State → Prop} (h : t = u) (e : exec i s = .next t) (hp : p u) : Gives i s p :=
  ⟨t, e, h ▸ hp⟩

/-- Bytes read from memories that are the same. -/
theorem rdBytes_of_mem {s t : State} (h : t.mem = s.mem) (a n : Nat) : t.rdBytes a n = s.rdBytes a n :=
  rdBytes_congr fun x _ _ => by unfold State.rdByte; rw [h]

variable (s : State)

/-- The words of a page stand where a field of a lower page is written. -/
theorem word_wf_below {g h : Nat} {f : Fld} (hg : g < h) (hf : f.off < 4096) (v off : Nat) : (s.wf g f v).word h off = s.word h off :=
  word_setWord_other _ _ _ (by unfold regIdx; omega)

/-- A counter that rises with an answer (R77). -/
theorem counts_bump_answer {g : Nat} {c : Fld} (h : c.hi = 31 ∧ c.lo = 0) (bs : Bytes) (p : Bool) : Counts s ((s.bump g c).answer bs p) g c :=
  (rf_of_regs (answer_regs _ _ _) g c).trans (rf_bump s c h)

/-! ### A read of DRAM changes no byte (R251, R453) -/

@[simp] theorem setDrc_mem (n : Nat) (x : DrcSt) : (s.setDrc n x).mem = s.mem := by simp [State.setDrc]

@[simp] theorem remapTrigger_mem (n row : Nat) : (s.remapTrigger n row).mem = s.mem := by
  unfold State.remapTrigger
  dsimp only
  split <;> simp

@[simp] theorem trackRow_mem (n row words : Nat) : (s.trackRow n row words).mem = s.mem := by
  unfold State.trackRow
  dsimp only
  split <;> simp

@[simp] theorem drcCodes_mem (a : Nat) (rs : Bool) (ecc : Ecc) : (s.drcCodes a rs ecc).mem = s.mem := by
  unfold State.drcCodes
  cases ecc.ue with
  | none => simp [apply_ite State.mem]
  | some w => simp [apply_ite State.mem]

@[simp] theorem drcRead_mem (a : Nat) (wline int : Bool) (ecc : Ecc) : (s.drcRead a wline int ecc).mem = s.mem := by
  simp [State.drcRead, apply_ite State.mem]

end Sys2Proof.Machine
end

section
/-! PROOFS. Soundness along the steps. -/

namespace Sys2Proof.Machine

/-- Soundness does not speak of the queue. -/
theorem State.Sound.setPending {s : State} (h : s.Sound) (l : List Instr) : State.Sound { s with pending := l } :=
  ⟨h.mem, h.regs, h.tags, h.marks, h.side, h.accSide, h.bases, h.queues, h.lost, h.live⟩

/-- Settles O60: a tick keeps soundness by `idle_keeps`, and every command by `exec_keeps`, operation by operation. -/
theorem everyStepKeepsSoundness : Obligations.EveryStepKeepsSoundness := by
  intro s t hs e
  unfold step at e
  split at e
  · cases e
    exact (State.idle_keeps (.refl s)).sound hs
  · next c rest _ => exact (exec_keeps c _ t e).sound (hs.setPending rest)

end Sys2Proof.Machine
end

section
/-! PROOFS. An access to an address that no unit has. -/

namespace Sys2Proof.Machine

/-! ### What an unmapped access sets (R42, R488) -/

/-- UNMAPPED stands after an unmapped access. -/
theorem bit_unmapped (s : State) (a adr : Nat) (w : Bool) : (s.unmapped a adr w).bit pgFab F.SYS_FAB_ERR_STAT_UNMAPPED = true :=
  bit_fault _ _ _ _ _ _ rfl (by decide) (by decide)

/-- SYS_FAB_ERR_ADDR holds the low half of the address that was recorded. -/
theorem rf_unmapped_addr (s : State) (a adr : Nat) (w : Bool) : (s.unmapped a adr w).rf pgFab F.SYS_FAB_ERR_ADDR = adr % 2 ^ 32 := by
  unfold State.unmapped State.fabAddr
  rw [rf_fault_apart _ _ _ _ _ _ _ (by decide) (by decide), rf_bump_apart _ _ _ (by decide), rf_wf_apart _ _ _ _ (by decide),
    rf_wf_apart _ _ _ _ (by decide), rf_wf_apart _ _ _ _ (by decide), rf_wf_same _ _ _ _ (by decide)]
  exact Nat.mod_mod _ _

/-! ### A byte read in a page slot that holds no page -/

@[simp] theorem cutAnswer_regs (s : State) (o n : Nat) : (s.cutAnswer o n).regs = s.regs := by unfold State.cutAnswer; split <;> rfl

/-- A read where no page stands records the address that it is given. -/
theorem regGet_noPage {s : State} {a : Agent} {g o : Nat} (hg : pageOf g = none) :
    s.regGet a g o = (s.unmapped (agentCode a) (regAddr g o) false).answer (ones 4) false := by
  unfold State.regGet
  rw [hg]

/-- A byte read of register space where no page stands records the address of the word that holds the byte. -/
theorem regRead_byte_noPage_addr {s : State} {a : Agent} {r : Nat} (hg : pageOf (r / 0x1000) = none) :
    (s.regRead a r .b1).rf pgFab F.SYS_FAB_ERR_ADDR = regAddr (r / 0x1000) (r % 0x1000 / 4 * 4) % 2 ^ 32 := by
  unfold State.regRead
  simp only [regGet_noPage hg]
  rw [rf_of_regs (cutAnswer_regs _ _ _), rf_of_regs (answer_regs _ _ _), rf_unmapped_addr]

/-- Refutes O54: a byte read at 0x10_0000_5001, in a page slot that holds no page, is taken as a read of the word at 0x10_0000_5000, and
SYS_FAB_ERR_ADDR then holds 0x5000, which is no address of the access. -/
theorem not_unmappedAccess : ¬ Obligations.UnmappedAccess := by
  unfold Obligations.UnmappedAccess
  intro h
  obtain ⟨⟨t, ht, -, hu⟩, -⟩ := h (.fw 0) 0x10_0000_5001#40 .b1 State.reset ⟨by decide, fun _ _ => by decide⟩ (by decide)
  have hread : t = State.reset.regRead (.fw 0) 0x5001 .b1 := by
    cases ht
    rfl
  obtain ⟨-, ⟨x, hlo, hhi, haddr, -⟩, -⟩ := hu
  have hx : x = 0x10_0000_5001 := Nat.le_antisymm (Nat.le_of_lt_succ hhi) hlo
  rw [hread, regRead_byte_noPage_addr (by decide), hx] at haddr
  exact absurd haddr (by decide)

end Sys2Proof.Machine
end

section
/-! PROOFS. Interrupt delivery and the PCIe host's requests. -/

namespace Sys2Proof.Machine

/-! ### Delivery of a vector (R479) -/

/-- A vector is disarmed and counted as sent. -/
def State.disarmVec (s : State) (v : Nat) : State :=
  ({ s with iagg := { s.iagg with disarmed := Tab.set s.iagg.disarmed v false true } } : State).bump pgIagg F.IAGG_SENT_CNT

/-- A vector is pending, enabled and armed, and the aggregator works. -/
def State.vecReady (s : State) (v : Nat) : Bool := s.works pgIagg && s.pendingVec v && s.vecEnabled v && !Tab.at s.iagg.disarmed v false

section
variable (s : State) (v : Nat)

theorem disarmVec_disarmed : Tab.at (s.disarmVec v).iagg.disarmed v false = true := Tab.at_set_same s.iagg.disarmed v false true

theorem disarmVec_counts : Counts s (s.disarmVec v) pgIagg F.IAGG_SENT_CNT := rf_bump _ _ ⟨rfl, rfl⟩

theorem disarmVec_data : DataKept s (s.disarmVec v) := ⟨rfl, rfl⟩

theorem disarmVec_linkUp : (s.disarmVec v).bit pgPcie F.PCI_STAT_LINK_UP = s.bit pgPcie F.PCI_STAT_LINK_UP :=
  bit_bump_apart _ _ _ (by decide)

theorem disarmVec_dest (h : v < 64) : (s.disarmVec v).vecDest v = s.vecDest v := by
  unfold State.vecDest State.disarmVec
  rw [rf_bump_apart _ _ _ (Or.inl ⟨by simp only [F.IAGG_DEST, F.IAGG_SENT_CNT]; omega, rfl⟩)]
  rfl

end

section
variable {s : State} {v : Nat}

/-- A vector that is not pending, not enabled or disarmed stays where it is. -/
theorem deliverVec_idle (h : s.vecReady v = false) : s.deliverVec v = s :=
  if_neg (ne_true_of_eq_false h)

/-- A vector that is ready is disarmed and counted; then it waits for a host whose link is down, or leaves. -/
theorem deliverVec_ready (hv : v < 64) (h : s.vecReady v = true) :
    s.deliverVec v =
      if s.vecDest v = 1 ∧ s.bit pgPcie F.PCI_STAT_LINK_UP = false then
        { s.disarmVec v with pci := { s.pci with held := if s.pci.held.contains v then s.pci.held else s.pci.held ++ [v] } }
      else { s.disarmVec v with out := s.out ++ [Out.interrupt (s.vecDest v) v] } := by
  refine (if_pos h).trans ?_
  change (if (s.disarmVec v).vecDest v = 1 ∧ (!(s.disarmVec v).bit pgPcie F.PCI_STAT_LINK_UP) = true then _
    else { s.disarmVec v with out := s.out ++ [Out.interrupt ((s.disarmVec v).vecDest v) v] }) = _
  simp only [disarmVec_dest s v hv, disarmVec_linkUp, Bool.not_eq_true']
  rfl

/-- EOI arms a vector, and where it is not pending nothing else happens. -/
theorem eoi_arms {w : Word} (hgo : F.IAGG_EOI_GO.of w = 1) (hp : s.pendingVec (F.IAGG_EOI_VECTOR.of w) = false) :
    ∃ x, s.eoi w = { s with iagg := x } ∧ Tab.at x.disarmed (F.IAGG_EOI_VECTOR.of w) false = false := by
  have hidle : ∀ x, ({ s with iagg := { s.iagg with disarmed := x } } : State).vecReady (F.IAGG_EOI_VECTOR.of w) = false := by
    intro x
    have hp' : ({ s with iagg := { s.iagg with disarmed := x } } : State).pendingVec (F.IAGG_EOI_VECTOR.of w) = false := hp
    simp [State.vecReady, hp']
  by_cases hd : Tab.at s.iagg.disarmed (F.IAGG_EOI_VECTOR.of w) false = true
  · exact ⟨_, (if_pos ⟨hgo, hd⟩).trans (deliverVec_idle (hidle _)), Tab.at_set_same s.iagg.disarmed _ false false⟩
  · exact ⟨s.iagg, if_neg fun h => hd h.2, by simpa using hd⟩

end

/-! ### Requests of the host (R47, R438) -/

section
variable {s : State} {r : PcieReq}

theorem pcieReq_linkDown (h : s.bit pgPcie F.PCI_STAT_LINK_UP = false) : s.pcieReq r = s := by simp [State.pcieReq, h]

/-- A request without a stream reaches the interface once it is counted. -/
theorem pcieReq_plain (hr : s.ready pgPcie = true) (hl : s.bit pgPcie F.PCI_STAT_LINK_UP = true) (hw : s.works pgPcie = true)
    (hs : r.stream = none) (he : r.lockEvent = false) : s.pcieReq r = (s.tally pgPcie F.PCI_RX_TLP_LO 1).pcieAdmit r := by
  simp [State.pcieReq, hr, hl, hw, hs, he]

/-- An interface that is locked but not running, or in error, answers a read with ones and counts it. -/
theorem pcieAdmit_shut {z : Size} (hacc : r.acc = .read z) (ht : s.tdisp = 1 ∨ s.tdisp = 3) :
    s.pcieAdmit r = (s.bump pgPcie F.PCI_UR_CNT).answer (ones (sizeBytes z)) false := by
  have hshut : (s.pci.stopping || decide (s.tdisp = 1) || decide (s.tdisp = 3)) = true := by
    rcases ht with ht | ht <;> simp [ht]
  rw [State.pcieAdmit, if_pos hshut, hacc, State.pcieUr]

/-- An unlocked interface takes a request for the window of BAR2 to memory. -/
theorem pcieAdmit_open (ht : s.tdisp = 0) (hs : s.pci.stopping = false) (hb : r.bar2 = true) :
    s.pcieAdmit r = s.access .pcie r.offset.toNat r.acc r.ecc := by
  simp [State.pcieAdmit, State.pcieTake, ht, hs, hb]

/-- A read of a DRAM line that the host may reach answers what stands there, and changes no byte. -/
theorem access_pcie_dramLine {x : Nat} {ecc : Ecc} (hx : x < dramSize) (ha : x % 64 = 0) (hc : s.chanReady x = true)
    (hg : s.granOk (.agent .pcie) x = true) :
    (∃ p, Answers (s.access .pcie x (.read .line) ecc) (s.rdBytes x 64) p) ∧ (s.access .pcie x (.read .line) ecc).mem = s.mem := by
  have hline : x / 64 * 64 = x := by omega
  have hsize : dramSize = 0x8_0000_0000 := rfl
  have hread : s.access .pcie x (.read .line) ecc =
      (s.drcRead x false false ecc).answer ((s.drcRead x false false ecc).rdBytes x 64) ((s.drcRead x false false ecc).dramPoisonAt x) := by
    rw [State.access, if_neg (by omega), if_neg (by omega), placeOf, if_pos hx, if_neg (by decide), if_pos hx]
    simp only [State.dramAccess, sizeBytes, hline, hc, hg, Bool.not_true, Bool.false_eq_true, if_false, State.firnRead]
  have hmem : (s.drcRead x false false ecc).mem = s.mem := drcRead_mem _ _ _ _ _
  rw [hread, rdBytes_of_mem hmem]
  exact ⟨⟨_, rfl, rfl⟩, hmem⟩

end

/-- Settles O42: the cases of a delivery, the end of an interrupt, and the interface's state at a host's read. -/
theorem interruptsAndHost : Obligations.InterruptsAndHost := by
  intro s
  refine ⟨fun v hw hp he hd => ?_, fun v hv => .of (deliverVec_idle ?_) rfl rfl, fun a w hr hgo hp => ?_, fun r => ⟨fun hl => ?_, ?_⟩⟩
  · have hgo := deliverVec_ready v.isLt (show s.vecReady v = true by simp [State.vecReady, hw, hp, he, hd])
    refine ⟨fun hto => ?_, fun hto hl => ?_⟩
    · rw [if_neg fun h => hto.elim (· h.1) fun hl => by simp [h.2] at hl] at hgo
      exact .of hgo rfl ⟨rfl, disarmVec_disarmed s v, disarmVec_counts s v, disarmVec_data s v⟩
    · rw [if_pos ⟨hto, hl⟩] at hgo
      refine .of hgo rfl ⟨rfl, ?_, disarmVec_disarmed s v, disarmVec_data s v⟩
      dsimp only
      split
      · next hin => exact List.contains_iff_mem.1 hin
      · exact List.mem_append_right _ (List.mem_singleton_self _)
  · rcases hv with hv | hv <;> simp [State.vecReady, hv]
  · obtain ⟨x, heq, hx⟩ := eoi_arms hgo hp
    exact .of ((if_pos hr).trans heq) rfl ⟨hx, rfl, rfl, ⟨rfl, rfl⟩⟩
  · exact .of (pcieReq_linkDown hl) rfl rfl
  · intro z hr hl hw hs he hacc
    have hreq := pcieReq_plain hr hl hw hs he
    refine ⟨fun ht => ?_, fun ht hstop hb hz hx ha hc hg => ?_⟩
    · rw [pcieAdmit_shut (s := s.tally pgPcie F.PCI_RX_TLP_LO 1) hacc ht] at hreq
      exact .of hreq rfl ⟨⟨rfl, rfl⟩, counts_bump_answer (s.tally pgPcie F.PCI_RX_TLP_LO 1) ⟨rfl, rfl⟩ _ _, ⟨rfl, rfl⟩⟩
    · rw [pcieAdmit_open (s := s.tally pgPcie F.PCI_RX_TLP_LO 1) ht hstop hb, hacc, hz] at hreq
      exact .of hreq rfl (access_pcie_dramLine (s := s.tally pgPcie F.PCI_RX_TLP_LO 1) hx ha hc hg)

end Sys2Proof.Machine
end

section
/-! SUPPORT. Floe windows and remote windows: what an access through them does in each case of R246 and R256. -/

namespace Sys2Proof.Machine

/-! ### An access through a floe window (R246) -/

theorem sizeBytes_eq_count (z : Size) : sizeBytes z = Size.count z := by cases z <;> rfl

theorem sized_of_length {n : Nat} {bs : Bytes} (h : bs.length = n) : sized n bs = bs := by
  subst h
  simp [sized, zeros]

section
variable (s : State) (f : Nat)

/-- Codes that find nothing change nothing (R240 to R242). -/
@[simp] theorem floeCodes_clean (off : Nat) : s.floeCodes f off {} = s := by simp [State.floeCodes, State.floeCe]

/-- A read in which the codes find nothing. -/
theorem floeRead_clean (off n : Nat) : s.floeRead f off n {} = (s, s.rdBytes (floeBase f + off) n, s.tagAt (floeBase f + off)) := by
  simp [State.floeRead, Tag.addPoison]

@[simp] theorem wbWritten_mem (half a : Nat) : (s.wbWritten f half a).mem = s.mem := by
  unfold State.wbWritten
  split
  · rfl
  · split
    · rfl
    · simp [apply_ite State.mem]

@[simp] theorem wbWritten_tags (half a : Nat) : (s.wbWritten f half a).tags = s.tags := by
  unfold State.wbWritten
  split
  · rfl
  · split
    · rfl
    · simp [apply_ite State.tags]

theorem windowDeny_data : DataKept s (s.windowDeny f) := by simp [DataKept, State.windowDeny]

theorem windowDeny_flag : (s.windowDeny f).bit (pgFmem f) F.FMEM_ERR_STAT_WIN_DENIED = true :=
  bit_fault _ _ _ _ _ _ rfl (by decide) (by decide)

theorem windowDeny_counts : Counts s (s.windowDeny f) (pgFmem f) F.FMEM_WIN_DENY_CNT := by
  unfold Counts State.windowDeny
  rw [rf_fault_apart _ _ _ _ _ _ _ (Or.inl ⟨by decide, rfl⟩) (Or.inl ⟨by decide, rfl⟩), rf_bump _ _ ⟨rfl, rfl⟩]

end

section
variable {s : State} {a : Agent} {f : Nat} {off : BitVec 24} {z : Size}

/-- The model's test for an access that reaches a memory. -/
theorem inWindow_iff : (s.ready (pgFmem f) && hasWindows a && decide (regionOf f (off.toNat / Size.count z * Size.count z) ≠ .none)) = true ↔
    InWindow s a f off z := by
  simp [InWindow, and_assoc]

/-- A read that reaches a memory, by the table of R246. -/
theorem window_read_inWindow (h : InWindow s a f off z) :
    s.window a f off.toNat (.read z) {} =
      if s.windowOk a f (regionOf f (off.toNat / Size.count z * Size.count z)) false = true then
        s.answer (s.rdBytes (windowAt f off z) (Size.count z)) (Tag.poison (s.tagAt (windowAt f off z)))
      else (s.windowDeny f).answer (ones (Size.count z)) false := by
  simp only [State.window, sizeBytes_eq_count, inWindow_iff.2 h, Bool.not_true, Bool.false_eq_true, if_false, floeRead_clean]
  rfl

theorem window_read_nowhere (h : ¬ InWindow s a f off z) :
    s.window a f off.toNat (.read z) {} = (s.unmapped (agentCode a) (windowAt f off z) false).answer (ones (Size.count z)) false := by
  simp only [State.window, sizeBytes_eq_count, eq_false_of_ne_true (mt inWindow_iff.1 h), Bool.not_false, if_true]
  rfl

/-- A write that the table of R246 allows stores its bytes, and leaves the tags. -/
theorem window_write_allowed {d : Bytes} (hd : d.length = Size.count z) (h : InWindow s a f off z)
    (hok : s.windowOk a f (regionOf f (off.toNat / Size.count z * Size.count z)) true = true) :
    (s.window a f off.toNat (.write z d) {}).mem = (s.wrBytes (windowAt f off z) d).mem ∧
      (s.window a f off.toNat (.write z d) {}).tags = s.tags := by
  simp only [State.window, sizeBytes_eq_count, inWindow_iff.2 h, hok, Bool.not_true, Bool.false_eq_true, if_false, if_true,
    floeCodes_clean, ite_self, sized_of_length hd]
  split
  · exact ⟨wbWritten_mem _ _ _ _, by simp⟩
  · exact ⟨rfl, by simp⟩

theorem window_write_denied {d : Bytes} (h : InWindow s a f off z)
    (hok : s.windowOk a f (regionOf f (off.toNat / Size.count z * Size.count z)) true = false) :
    s.window a f off.toNat (.write z d) {} = s.windowDeny f := by
  simp only [State.window, sizeBytes_eq_count, inWindow_iff.2 h, hok, Bool.not_true, Bool.false_eq_true, if_false]

theorem window_write_nowhere {d : Bytes} (h : ¬ InWindow s a f off z) :
    s.window a f off.toNat (.write z d) {} = s.unmapped (agentCode a) (windowAt f off z) true := by
  simp only [State.window, sizeBytes_eq_count, eq_false_of_ne_true (mt inWindow_iff.1 h), Bool.not_false, if_true]
  rfl

end

end Sys2Proof.Machine
end
section
/-! SUPPORT. The control register of a remote window (R256, R257, R434): one page and offset, six fields. -/

namespace Sys2Proof.Machine

theorem fldOf_mod (f : Fld) (v : Word) : f.of v % 2 ^ (f.hi + 1 - f.lo) = f.of v := Nat.mod_eq_of_lt (bits_lt _ _ _)

/-- The fields of a window's control stand in one register, which lies above the header. -/
structure WinRegs.Placed (x : WinRegs) (o : Nat) : Prop where
  high : 0x040 ≤ o
  en : x.en = ⟨o, 0, 0⟩
  rd : x.rd = ⟨o, 1, 1⟩
  wr : x.wr = ⟨o, 2, 2⟩
  tenant : x.tenant = ⟨o, 5, 3⟩
  closing : x.closing = ⟨o, 6, 6⟩
  bad : x.bad = ⟨o, 7, 7⟩

theorem winRegs_placed (s : State) (w : WinRef) : ∃ o, (s.winRegs w).Placed o := by
  cases w with
  | floe n k => exact ⟨0x04C + 16 * k, by omega, rfl, rfl, rfl, rfl, rfl, rfl⟩
  | dram k => exact ⟨0x08C + 16 * (k % 2), by omega, rfl, rfl, rfl, rfl, rfl, rfl⟩

/-- A write of the control leaves the window's base, size and peers. -/
theorem winRegs_wf {s : State} {w : WinRef} {x : WinRegs} {f : Fld} {v : Nat} (h : s.winRegs w = x) (hf : f.off = x.en.off) :
    (s.wf x.page f v).winRegs w = x := by
  subst h
  cases w with
  | floe n k =>
    have hoff : f.off = 0x04C + 16 * k := hf
    have hrf : ∀ f' : Fld, f'.off / 4 ≠ f.off / 4 → (s.wf (pgFwin n) f v).rf (pgFwin n) f' = s.rf (pgFwin n) f' :=
      fun f' h => rf_wf_apart _ _ _ _ (Or.inl ⟨h, rfl⟩)
    simp only [State.winRegs]
    rw [hrf (F.FWIN_BASE k) (by simp only [F.FWIN_BASE]; omega), hrf (F.FWIN_SIZE k) (by simp only [F.FWIN_SIZE]; omega),
      hrf (F.FWIN_PEERS k) (by simp only [F.FWIN_PEERS]; omega)]
  | dram k =>
    have hoff : f.off = 0x08C + 16 * (k % 2) := hf
    have hrf : ∀ f' : Fld, f'.off / 4 ≠ f.off / 4 → (s.wf (pgShr (k / 2)) f v).rf (pgShr (k / 2)) f' = s.rf (pgShr (k / 2)) f' :=
      fun f' h => rf_wf_apart _ _ _ _ (Or.inl ⟨h, rfl⟩)
    simp only [State.winRegs]
    rw [hrf (F.SHR_WIN_BASE (k % 2)) (by simp only [F.SHR_WIN_BASE]; omega), hrf (F.SHR_WIN_SIZE (k % 2)) (by simp only [F.SHR_WIN_SIZE]; omega),
      hrf (F.SHR_WIN_PEERS (k % 2)) (by simp only [F.SHR_WIN_PEERS]; omega)]

/-- What a write of the control does before it looks at EN: WIN_CFG_BAD is cleared where the word has its bit, and RD, WR and TENANT are set. -/
def State.winFields (s : State) (x : WinRegs) (v : Word) : State :=
  let s := if x.bad.of v = 1 then s.wf x.page x.bad 0 else s
  ((s.wf x.page x.rd (x.rd.of v)).wf x.page x.wr (x.wr.of v)).wf x.page x.tenant (x.tenant.of v)

section
variable {s : State} {w : WinRef} {x : WinRegs} {o : Nat} (hp : x.Placed o)
include hp

theorem winFields_winRegs (v : Word) (h : s.winRegs w = x) : (s.winFields x v).winRegs w = x := by
  have hoff : x.bad.off = x.en.off ∧ x.rd.off = x.en.off ∧ x.wr.off = x.en.off ∧ x.tenant.off = x.en.off := by
    simp [hp.en, hp.rd, hp.wr, hp.tenant, hp.bad]
  obtain ⟨hbad, hrd, hwr, htn⟩ := hoff
  unfold State.winFields
  refine winRegs_wf (winRegs_wf (winRegs_wf ?_ hrd) hwr) htn
  split
  · exact winRegs_wf h hbad
  · exact h

/-- RD, WR and TENANT take the fields of the word; EN and CLOSING stay. -/
theorem rf_winFields (v : Word) :
    (s.winFields x v).rf x.page x.rd = x.rd.of v ∧ (s.winFields x v).rf x.page x.wr = x.wr.of v ∧
      (s.winFields x v).rf x.page x.tenant = x.tenant.of v ∧ (s.winFields x v).rf x.page x.en = s.rf x.page x.en ∧
      (s.winFields x v).rf x.page x.closing = s.rf x.page x.closing := by
  have hrd := fldOf_mod x.rd v
  have hwr := fldOf_mod x.wr v
  have htn := fldOf_mod x.tenant v
  unfold State.winFields
  simp only [hp.en, hp.rd, hp.wr, hp.tenant, hp.closing, hp.bad] at hrd hwr htn ⊢
  split <;> simp (disch := simp [Fld.ok]) only [rf_wf_bits, rf_wf_same, hrd, hwr, htn, and_self]

/-- A write of EN to a window leaves the other fields, and EN is what is written. -/
theorem rf_wf_en (b : Nat) :
    (s.wf x.page x.en b).rf x.page x.en = b % 2 ∧ (s.wf x.page x.en b).rf x.page x.rd = s.rf x.page x.rd ∧
      (s.wf x.page x.en b).rf x.page x.wr = s.rf x.page x.wr ∧ (s.wf x.page x.en b).rf x.page x.tenant = s.rf x.page x.tenant := by
  simp only [hp.en, hp.rd, hp.wr, hp.tenant]
  simp (disch := simp [Fld.ok]) [rf_wf_bits, rf_wf_same]

/-- A write of CLOSING to a window leaves EN. -/
theorem bit_wf_closing (b : Nat) :
    (s.wf x.page x.closing b).bit x.page x.closing = decide (b % 2 = 1) ∧
      (s.wf x.page x.closing b).bit x.page x.en = s.bit x.page x.en := by
  simp only [State.bit, hp.en, hp.closing]
  simp (disch := simp [Fld.ok]) [rf_wf_bits, rf_wf_same]

/-- WIN_CFG_BAD is raised, and the other fields stay. -/
theorem rf_raise_bad :
    (s.raise x.page x.bad).bit x.page x.bad = true ∧ (s.raise x.page x.bad).rf x.page x.en = s.rf x.page x.en ∧
      (s.raise x.page x.bad).rf x.page x.rd = s.rf x.page x.rd ∧ (s.raise x.page x.bad).rf x.page x.wr = s.rf x.page x.wr ∧
      (s.raise x.page x.bad).rf x.page x.tenant = s.rf x.page x.tenant := by
  have hhigh : o / 4 ≠ 4 := by have := hp.high; omega
  simp only [hp.en, hp.rd, hp.wr, hp.tenant, hp.bad]
  have hkeep : ∀ hi lo, hi < 7 → (s.raise x.page ⟨o, 7, 7⟩).rf x.page ⟨o, hi, lo⟩ = s.rf x.page ⟨o, hi, lo⟩ :=
    fun hi lo h => rf_raise_bits _ _ _ (by simp [Fld.ok]) rfl (Or.inl h) hhigh
  exact ⟨bit_raise _ _ rfl (by simp) hhigh, hkeep 0 0 (by decide), hkeep 1 1 (by decide), hkeep 2 2 (by decide), hkeep 5 3 (by decide)⟩

/-- An enable sets EN where the limits hold, and WIN_CFG_BAD where they do not. -/
theorem winEnable_fields (h : s.winRegs w = x) :
    (s.winEnable w).bit x.page x.en = winOk w x ∧ (winOk w x = false → (s.winEnable w).bit x.page x.bad = true) ∧
      (s.winEnable w).rf x.page x.rd = s.rf x.page x.rd ∧ (s.winEnable w).rf x.page x.wr = s.rf x.page x.wr ∧
      (s.winEnable w).rf x.page x.tenant = s.rf x.page x.tenant ∧ DataKept s (s.winEnable w) := by
  unfold State.winEnable
  simp only [h]
  by_cases hok : winOk w x = true
  · obtain ⟨hen, hrd, hwr, htn⟩ := rf_wf_en (s := s) hp 1
    simp [hok, State.bit, hen, hrd, hwr, htn, DataKept]
  · obtain ⟨hen, hrd, hwr, htn⟩ := rf_wf_en (s := s) hp 0
    obtain ⟨hbad, hen', hrd', hwr', htn'⟩ := rf_raise_bad (s := s.wf x.page x.en 0) hp
    rw [if_neg hok]
    refine ⟨?_, fun _ => hbad, hrd'.trans hrd, hwr'.trans hwr, htn'.trans htn, by simp [DataKept]⟩
    rw [State.bit, hen', hen, Bool.eq_false_of_not_eq_true hok]
    rfl

end

section
variable {s : State} {w : WinRef} {x : WinRegs} {v : Word} {o : Nat}

@[simp] theorem setWinPend_mem (k : Nat) (p : Bool) : (s.setWinPend k p).mem = s.mem := rfl

@[simp] theorem setWinPend_tags (k : Nat) (p : Bool) : (s.setWinPend k p).tags = s.tags := rfl

theorem winFields_data : DataKept s (s.winFields x v) := by
  unfold State.winFields DataKept
  split <;> exact ⟨rfl, rfl⟩

/-- A write with EN to a window that is not closing enables it. -/
theorem wrWin_enable (hp : x.Placed o) (h : s.winRegs w = x) (hc : s.bit x.page x.closing = false) (he : x.en.of v = 1) :
    s.wrWin w v = (s.winFields x v).winEnable w := by
  obtain ⟨-, -, -, -, hclosing⟩ := rf_winFields (s := s) hp v
  have hc' : (s.winFields x v).bit x.page x.closing = false := by rw [State.bit, hclosing]; exact hc
  subst h
  exact (if_pos he).trans (if_neg (ne_true_of_eq_false hc'))

/-- A write without EN to an open window starts its close (R257). -/
theorem wrWin_close (hp : x.Placed o) (h : s.winRegs w = x) (hen : s.bit x.page x.en = true) (he : x.en.of v = 0) :
    s.wrWin w v = (((s.winFields x v).setWinPend x.key false).wf x.page x.en 0).wf x.page x.closing 1 := by
  obtain ⟨-, -, -, hopen, -⟩ := rf_winFields (s := s) hp v
  have hen' : (s.winFields x v).bit x.page x.en = true := by rw [State.bit, hopen]; exact hen
  subst h
  exact (if_neg (by rw [he]; decide)).trans (if_pos hen')

end

end Sys2Proof.Machine
end
section
/-! PROOFS. Floe windows, the control of remote windows, and remote accesses to a floe. -/

namespace Sys2Proof.Machine

/-! ### One line of a remote access (R256) -/

section
variable {s : State} {src tenant f o : Nat} {line : Option TaggedLine}

/-- The counters of a floe's remote windows are no part of who owns the floe. -/
theorem floeTenant_bump_fwin {c : Fld} (hf : f < 64) (hc : c.off < 4096) : (s.bump (pgFwin f) c).floeTenant f = s.floeTenant f := by
  have hword : ∀ off, (s.bump (pgFwin f) c).word (pgMst 1) off = s.word (pgMst 1) off :=
    word_wf_below s (by unfold pgFwin pgFloe pgMst; omega) hc _
  have hstate : (s.bump (pgFwin f) c).partState = s.partState := by
    funext p
    simp only [State.partState, State.rf, hword]
  have hhas : (s.bump (pgFwin f) c).partHasFloe = s.partHasFloe := by
    funext p n
    simp only [State.partHasFloe, hword]
  have htenant : (s.bump (pgFwin f) c).partTenant = s.partTenant := by
    funext p
    simp only [State.partTenant, State.rf, hword]
  simp only [State.floeTenant, State.floePart, hstate, hhas, htenant]

theorem floeClosed_bump_fwin {c : Fld} (hc : c.off < 4096) : (s.bump (pgFwin f) c).floeClosed f = s.floeClosed f := by
  have hpage : pgFmem f ≠ pgFwin f := by unfold pgFmem pgFwin pgFloe; omega
  unfold State.floeClosed
  rw [bit_bump_apart _ _ _ (Or.inr ⟨hpage, by decide, hc⟩), bit_bump_apart _ _ _ (Or.inr ⟨hpage, by decide, hc⟩)]

/-- Whether some window of the floe admits an access. -/
def State.someAdmits (s : State) (src tenant f o : Nat) (write : Bool) : Bool :=
  (List.finRange 8).any fun k => s.winAdmits (.floe (Fin.ofNat 64 f) k) src tenant o write

theorem someAdmits_iff {f : Fin 64} {write : Bool} :
    s.someAdmits src tenant f o write = true ↔ ∃ j : Fin 8, s.winAdmits (.floe f j) src tenant o write = true := by
  simp [State.someAdmits]

/-- An access that no window admits is refused and counted. -/
theorem remoteFloeLine_denied {ecc : Ecc} (h : s.someAdmits src tenant f o line.isSome = false) :
    s.remoteFloeLine src tenant f o ecc line = (s.bump (pgFwin f) F.FWIN_DENY_CNT, none) := by
  unfold State.someAdmits at h
  simp only [State.remoteFloeLine, h, Bool.and_false, Bool.not_false, if_true]

/-- A read that a window admits gives the line and its tag. -/
theorem remoteFloeLine_read (hr : s.ready (pgFwin f) = true) (hc : s.floeClosed f = false)
    (h : s.someAdmits src tenant f o false = true) :
    s.remoteFloeLine src tenant f o {} none =
      (s.bump (pgFwin f) F.FWIN_RD_CNT, some { data := s.rdBytes (floeBase f + o) 64, tag := s.tagAt (floeBase f + o) }) := by
  unfold State.someAdmits at h
  simp only [State.remoteFloeLine, Option.isSome_none, hr, h, Bool.and_true, Bool.not_true, Bool.false_eq_true, if_false,
    floeClosed_bump_fwin (s := s) (f := f) (c := F.FWIN_RD_CNT) (by decide), hc, floeRead_clean]
  rw [rdBytes_of_mem (bump_mem _ _ _)]
  rfl

/-- A write that a window admits, of the tenant that the floe has or to a floe of none, replaces the line and its tag. -/
theorem remoteFloeLine_write {l : TaggedLine} {ecc : Ecc} (hf : f < 64) (hr : s.ready (pgFwin f) = true) (hc : s.floeClosed f = false)
    (h : s.someAdmits src tenant f o true = true) (ht : s.floeTenant f = none ∨ s.floeTenant f = some (Tag.tenant l.tag))
    (hl : l.data.length = 64) :
    s.remoteFloeLine src tenant f o ecc (some l) =
      ((s.bump (pgFwin f) F.FWIN_WR_CNT).wrLine (floeBase f + o) l.data l.tag, some l) := by
  have howner : ¬((s.floeTenant f).isSome = true ∧ s.floeTenant f ≠ some (Tag.tenant l.tag)) := by
    rcases ht with ht | ht <;> simp [ht]
  unfold State.someAdmits at h
  simp only [State.remoteFloeLine, Option.isSome_some, hr, h, Bool.and_true, Bool.not_true, Bool.false_eq_true, if_false,
    floeClosed_bump_fwin (s := s) (f := f) (c := F.FWIN_WR_CNT) (by decide), floeTenant_bump_fwin (s := s) (c := F.FWIN_WR_CNT) hf (by decide),
    hc, howner, sized_of_length hl]

/-- An aperture offset in a floe's part is an access to that floe (R44). -/
theorem remoteLine_floe {link : Nat} {ecc : Ecc} (hf : f < 64) (ho : o < 0x100_0000) (h64 : o % 64 = 0) :
    s.remoteLine link src tenant (dramSize + f * 0x100_0000 + o) ecc line = s.remoteFloeLine src tenant f o ecc line := by
  have hsize : dramSize = 0x8_0000_0000 := rfl
  have hline : (dramSize + f * 0x100_0000 + o) / 64 * 64 = dramSize + f * 0x100_0000 + o := by omega
  have hfloe : (dramSize + f * 0x100_0000 + o - dramSize) / 0x100_0000 = f := by omega
  have hoff : (dramSize + f * 0x100_0000 + o - dramSize) % 0x100_0000 = o := by omega
  rw [State.remoteLine, hline, if_neg (by omega), if_pos (by omega), hfloe, hoff]

end

section
variable {s : State} {k : Fin 8} {f : Fin 64} {r : RemoteAccess} {o : Nat}

/-- A remote read of one line of a floe answers what the floe gives, and ones where it gives nothing. -/
theorem exec_remoteRead (hro : r.offset.toNat = dramSize + f * 0x100_0000 + o) (ho : o < 0x100_0000) (h64 : o % 64 = 0)
    (hl : r.lines = none) (hn : r.n = 1) {u : State} {x : Option TaggedLine}
    (h : s.remoteFloeLine r.src r.tenant f o r.ecc none = (u, x)) :
    exec (.remoteFloeAccess k r) s =
      .next (u.answer ((x.map (·.data)).getD (ones 64)) ((x.map fun t => Tag.poison t.tag).getD false)) := by
  have hitems : remoteItems r = [none] := by simp [remoteItems, hl, hn]
  have hserve : s.remoteServe k r = (u, [x]) := by
    simp only [State.remoteServe, hitems, State.remoteLines, hro, remoteLine_floe f.isLt ho h64, h]
  refine Eq.trans (b := execRemoteFloeAccess k r s) rfl ?_
  cases x <;> simp [execRemoteFloeAccess, hserve, hl]

/-- A remote write of one line of a floe is what the floe does with it. -/
theorem exec_remoteWrite (hro : r.offset.toNat = dramSize + f * 0x100_0000 + o) (ho : o < 0x100_0000) (h64 : o % 64 = 0)
    {l : TaggedLine} (hl : r.lines = some [l]) {u : State} {x : Option TaggedLine}
    (h : s.remoteFloeLine r.src r.tenant f o r.ecc (some l) = (u, x)) : exec (.remoteFloeAccess k r) s = .next u := by
  have hitems : remoteItems r = [some l] := by simp [remoteItems, hl]
  have hserve : s.remoteServe k r = (u, [x]) := by
    simp only [State.remoteServe, hitems, State.remoteLines, hro, remoteLine_floe f.isLt ho h64, h]
  refine Eq.trans (b := execRemoteFloeAccess k r s) rfl ?_
  simp [execRemoteFloeAccess, hserve, hl]

end

/-! ### The statement -/

/-- The bytes of a memory into which bytes were written: those written, and the others as they stood. -/
theorem bytes_of_wrBytes {s t : State} {x : Nat} {d : Bytes} (h : t.mem = (s.wrBytes x d).mem) :
    t.rdBytes x d.length = d ∧ BytesKept s t x (x + d.length) := by
  refine ⟨(rdBytes_of_mem h _ _).trans (rdBytes_wrBytes s d x), fun y hy => ?_⟩
  have hbyte : t.rdByte y = (s.wrBytes x d).rdByte y := by unfold State.rdByte; rw [h]
  rw [hbyte, rdByte_wrBytes, if_neg (by omega)]

/-- What is kept of a memory is kept of the same memory in another state. -/
theorem BytesKept.of_mem {s t u : State} {lo hi : Nat} (h : s.mem = u.mem) (hk : BytesKept s t lo hi) : BytesKept u t lo hi := fun x hx => by
  have hbyte : s.rdByte x = u.rdByte x := by unfold State.rdByte; rw [h]
  rw [hk x hx, hbyte]

/-- A whole line written: its bytes, the others as they stood, its tag, and the registers as they stood. -/
theorem wrLine_whole {s : State} {x : Nat} {d : Bytes} {tag : Tag} (h : d.length = 64) :
    (s.wrLine x d tag).rdBytes x 64 = d ∧ BytesKept s (s.wrLine x d tag) x (x + 64) ∧ (s.wrLine x d tag).tagAt x = tag ∧
      (s.wrLine x d tag).regs = s.regs := by
  have hmem : (s.wrLine x d tag).mem = (s.wrBytes x d).mem := by rw [State.wrLine, List.take_of_length_le h.le, setTag_mem]
  obtain ⟨hread, hkept⟩ := bytes_of_wrBytes hmem
  rw [h] at hread hkept
  exact ⟨hread, hkept, (tagAt_setTag _ _ _ _).trans (if_pos rfl), wrLine_regs s x d tag⟩

/-- Settles O21: the table of R246 for floe windows, the two writes of a window's control and the end of a close, and the remote line. -/
theorem floeWindows : Obligations.FloeWindows := by
  refine ⟨fun a f off z s => ⟨fun h hok => ?_, fun d hd h hok => ?_, fun h hok => ?_, fun d h hok => ?_, fun d h => ⟨?_, ?_⟩⟩,
    fun a w v s hr hc => ⟨fun he => ?_, fun he hen => ?_⟩, fun w s hc hpend => ?_,
    fun k f r o s hro ho h64 hecc => ⟨fun hl hn hr hc hadm => ?_, fun hl hn hadm => ?_, fun l hl hlen hr hc hadm ht => ?_⟩⟩
  · exact .of ((window_read_inWindow h).trans (if_pos hok)) rfl ⟨rfl, ⟨rfl, rfl⟩, rfl⟩
  · obtain ⟨hmem, htags⟩ := window_write_allowed hd h hok
    obtain ⟨hread, hkept⟩ := bytes_of_wrBytes hmem
    exact ⟨_, rfl, hd ▸ hread, hd ▸ hkept, htags⟩
  · exact .of ((window_read_inWindow h).trans (if_neg (ne_true_of_eq_false hok))) rfl
      ⟨⟨rfl, rfl⟩, windowDeny_data s f, (bit_of_regs (answer_regs _ _ _) _ _).trans (windowDeny_flag s f),
        (rf_of_regs (answer_regs _ _ _) _ _).trans (windowDeny_counts s f)⟩
  · exact .of (window_write_denied h hok) rfl ⟨windowDeny_data s f, windowDeny_flag s f, windowDeny_counts s f⟩
  · exact .of (window_read_nowhere h) rfl
      ⟨⟨rfl, rfl⟩, by simp [DataKept], (bit_of_regs (answer_regs _ _ _) _ _).trans (bit_unmapped s _ _ _)⟩
  · exact .of (window_write_nowhere h) rfl ⟨by simp [DataKept], bit_unmapped s _ _ _⟩
  · obtain ⟨p, hp⟩ := winRegs_placed s w
    obtain ⟨hrd, hwr, htn, -, -⟩ := rf_winFields (s := s) hp v
    obtain ⟨hen, hbad, hrd', hwr', htn', hdata⟩ := winEnable_fields hp (winFields_winRegs hp v (s := s) rfl)
    exact .of ((if_pos hr).trans (wrWin_enable hp rfl hc he)) rfl
      ⟨hen, hbad, hrd'.trans hrd, hwr'.trans hwr, htn'.trans htn, hdata.1.trans winFields_data.1, hdata.2.trans winFields_data.2⟩
  · obtain ⟨p, hp⟩ := winRegs_placed s w
    obtain ⟨hclosing, hopen⟩ := bit_wf_closing (s := ((s.winFields _ v).setWinPend (s.winRegs w).key false).wf _ (s.winRegs w).en 0) hp 1
    obtain ⟨hshut, -, -, -⟩ := rf_wf_en (s := (s.winFields (s.winRegs w) v).setWinPend (s.winRegs w).key false) hp 0
    refine .of ((if_pos hr).trans (wrWin_close hp rfl hen he)) rfl ⟨?_, hclosing, by simpa [DataKept] using winFields_data (s := s)⟩
    rw [hopen, State.bit, hshut]
    rfl
  · obtain ⟨p, hp⟩ := winRegs_placed s w
    have hclosed : s.winClosed w = s.wf (s.winRegs w).page (s.winRegs w).closing 0 :=
      (if_pos hc).trans (if_neg (ne_true_of_eq_false hpend))
    obtain ⟨hclosing, hopen⟩ := bit_wf_closing (s := s) hp 0
    exact .of hclosed rfl ⟨hclosing, hopen, ⟨rfl, rfl⟩⟩
  · have hline := remoteFloeLine_read hr hc (someAdmits_iff.2 hadm)
    rw [← hecc] at hline
    exact ⟨_, exec_remoteRead hro ho h64 hl hn hline, ⟨rfl, rfl⟩, ⟨rfl, rfl⟩, counts_bump_answer s ⟨rfl, rfl⟩ _ _⟩
  · have hnone : s.someAdmits r.src r.tenant f o false = false := by
      rw [← Bool.not_eq_true, someAdmits_iff]
      simpa using hadm
    exact ⟨_, exec_remoteRead hro ho h64 hl hn (remoteFloeLine_denied hnone), ⟨rfl, rfl⟩, ⟨rfl, rfl⟩, counts_bump_answer s ⟨rfl, rfl⟩ _ _⟩
  · have hline := remoteFloeLine_write (ecc := r.ecc) f.isLt hr hc (someAdmits_iff.2 hadm) ht hlen
    obtain ⟨hread, hkept, htag, hregs⟩ := wrLine_whole (s := s.bump (pgFwin f) F.FWIN_WR_CNT) (x := floeBase f + o) (tag := l.tag) hlen
    exact ⟨_, exec_remoteWrite hro ho h64 hl hline, hread, htag, hkept.of_mem (bump_mem _ _ _),
      (rf_of_regs hregs _ _).trans (rf_bump s _ ⟨rfl, rfl⟩)⟩

end Sys2Proof.Machine
end

section
/-! SUPPORT. The log, the pages of the management controller, and what its restart leaves. -/

namespace Sys2Proof.Machine

/-! ### The log (R548, R549) -/

section
variable (s : State) (source kind sev : Nat) (data : BitVec 64)

/-- A record changes the buffer and the next SEQ alone, and where one is dropped the LOG_DROP flag and its counter. -/
theorem log_cases : ∃ u buffer seq, (u = s ∨ u = s.logDrop) ∧
    s.log source kind sev data = u.setMgmt { u.mgmt with buffer := buffer, seq := seq } := by
  unfold State.log
  split
  · exact ⟨s, s.mgmt.buffer, s.mgmt.seq, .inl rfl, rfl⟩
  · split
    · exact ⟨s, _, _, .inl rfl, rfl⟩
    · split
      · exact ⟨s.logDrop, _, _, .inr rfl, rfl⟩
      · exact ⟨s.logDrop, s.logDrop.mgmt.buffer, s.logDrop.mgmt.seq, .inr rfl, rfl⟩

theorem logDrop_mgmt : s.logDrop.mgmt = s.mgmt := by simp [State.logDrop]

/-- What neither LOG_DROP nor the log buffer is part of, a record leaves. -/
theorem log_field {α : Type} (p : State → α) (hdrop : p s.logDrop = p s) (hset : ∀ u m, p (State.setMgmt u m) = p u) :
    p (s.log source kind sev data) = p s := by
  obtain ⟨u, _, _, hu, e⟩ := log_cases s source kind sev data
  rw [e, hset]
  rcases hu with rfl | rfl
  · rfl
  · exact hdrop

@[simp] theorem log_mem : (s.log source kind sev data).mem = s.mem :=
  log_field s source kind sev data (·.mem) (by simp [State.logDrop]) fun _ _ => rfl

@[simp] theorem log_tags : (s.log source kind sev data).tags = s.tags :=
  log_field s source kind sev data (·.tags) (by simp [State.logDrop]) fun _ _ => rfl

@[simp] theorem log_faultQ : (s.log source kind sev data).faultQ = s.faultQ := by
  refine log_field s source kind sev data (·.faultQ) ?_ fun _ _ => rfl
  simp [State.logDrop]

/-- The controller's own state but for its log. -/
theorem log_mgmt : ∃ buffer seq, (s.log source kind sev data).mgmt = { s.mgmt with buffer := buffer, seq := seq } := by
  obtain ⟨u, buffer, seq, hu, e⟩ := log_cases s source kind sev data
  refine ⟨buffer, seq, ?_⟩
  rw [e]
  rcases hu with rfl | rfl
  · rfl
  · change ({ s.logDrop.mgmt with buffer := buffer, seq := seq } : MgmtSt) = _
    rw [logDrop_mgmt]

theorem log_up : (s.log source kind sev data).mgmt.up = s.mgmt.up := by
  obtain ⟨_, _, e⟩ := log_mgmt s source kind sev data
  rw [e]

theorem log_staged : (s.log source kind sev data).mgmt.staged = s.mgmt.staged := by
  obtain ⟨_, _, e⟩ := log_mgmt s source kind sev data
  rw [e]

theorem log_activating : (s.log source kind sev data).mgmt.activating = s.mgmt.activating := by
  obtain ⟨_, _, e⟩ := log_mgmt s source kind sev data
  rw [e]

theorem log_data : DataKept s (s.log source kind sev data) := ⟨log_mem _ _ _ _ _, log_tags _ _ _ _ _⟩

/-- A register other than the flags, LOG_DROP_CNT and IRQ_STAT of the controller. -/
theorem rf_log_apart {h : Nat} (f : Fld) (a : Apart h f.off pgMgmt 0x04C) (b : Apart h f.off pgMgmt 0x058) (c : Apart h f.off pgMgmt 0x010) :
    (s.log source kind sev data).rf h f = s.rf h f := by
  refine log_field s source kind sev data (·.rf h f) ?_ fun _ _ => rfl
  unfold State.logDrop
  exact (rf_bump_apart _ _ _ b).trans (rf_raise_apart _ _ _ a c)

/-- A flag of the controller other than LOG_DROP. -/
theorem rf_log_flag {hi lo : Nat} (h : hi < 2 ∨ 2 < lo) :
    (s.log source kind sev data).rf pgMgmt ⟨0x04C, hi, lo⟩ = s.rf pgMgmt ⟨0x04C, hi, lo⟩ := by
  refine log_field s source kind sev data (·.rf pgMgmt ⟨0x04C, hi, lo⟩) ?_ fun _ _ => rfl
  unfold State.logDrop
  exact (rf_bump_apart _ _ _ (Or.inl ⟨by simp [F.MGMT_LOG_DROP_CNT], rfl⟩)).trans (rf_raise_bits _ _ _ (by decide) rfl h (by decide))

/-- The same of a flag's one bit. -/
theorem bit_log_flag {k : Nat} (h : k < 2 ∨ 2 < k) : (s.log source kind sev data).bit pgMgmt ⟨0x04C, k, k⟩ = s.bit pgMgmt ⟨0x04C, k, k⟩ := by
  unfold State.bit
  rw [rf_log_flag s source kind sev data h]

variable {s} {sev}

/-- A record below the level is no record. -/
theorem log_below (h : sev < s.rf pgMgmt F.MGMT_LOG_LEVEL) : s.log source kind sev data = s := by simp [State.log, h]

/-- A record at or above the level enters a buffer with room. -/
theorem log_kept (hup : s.mgmt.up = true) (hsev : s.rf pgMgmt F.MGMT_LOG_LEVEL ≤ sev) (hroom : s.mgmt.buffer.length < 256) :
    s.log source kind sev data = s.logAppend s.mgmt.buffer source kind sev data.toNat := by
  simp [State.log, hup, hroom, Nat.not_lt.2 hsev]

theorem logs_logAppend (data : Nat) : Logs s (s.logAppend s.mgmt.buffer source kind sev data) source kind sev data :=
  ⟨rfl, _, rfl, rfl, rfl, rfl, rfl, rfl⟩

theorem logs_log (hup : s.mgmt.up = true) (hsev : s.rf pgMgmt F.MGMT_LOG_LEVEL ≤ sev) (hroom : s.mgmt.buffer.length < 256) :
    Logs s (s.log source kind sev data) source kind sev data.toNat := by
  rw [log_kept _ _ _ hup hsev hroom]
  exact logs_logAppend _ _ _

end

/-! ### Registers that stay -/

/-- A fold keeps what each of its steps keeps. -/
theorem foldl_field {α β : Type} (p : State → α) (f : State → β → State) (h : ∀ s b, p (f s b) = p s) (l : List β) (s : State) :
    p (l.foldl f s) = p s := by
  induction l generalizing s with
  | nil => rfl
  | cons b l ih => rw [List.foldl_cons, ih, h]

/-- READY of the pages to which it is written, and of the others. -/
theorem rf_ready_foldl (l : List Nat) (b h : Nat) (s : State) :
    (l.foldl (fun s g => s.wf g F.PAGE_STAT_READY b) s).rf h F.PAGE_STAT_READY =
      if h ∈ l then b % 2 else s.rf h F.PAGE_STAT_READY := by
  induction l generalizing s with
  | nil => rfl
  | cons g l ih =>
    rw [List.foldl_cons, ih]
    by_cases hl : h ∈ l
    · simp [hl]
    · by_cases hg : h = g
      · subst hg
        simp only [hl, if_false, List.mem_cons_self, if_true]
        exact rf_wf_same _ _ _ _ (by decide)
      · simp only [hl, if_false, List.mem_cons, hg, or_self]
        exact rf_wf_apart _ _ _ _ (Or.inr ⟨hg, by decide, by decide⟩)

/-- A register above PAGE_STAT, where READY of pages is written. -/
theorem rf_foldl_ready_apart {h : Nat} {f : Fld} (h3 : f.off / 4 ≠ 3) (hf : f.off < 4096) (l : List Nat) (b : Nat) (s : State) :
    (l.foldl (fun s g => s.wf g F.PAGE_STAT_READY b) s).rf h f = s.rf h f := by
  refine foldl_field (·.rf h f) _ (fun t g => rf_wf_apart _ _ _ _ ?_) l s
  by_cases hg : h = g
  · exact Or.inl ⟨h3, hg⟩
  · exact Or.inr ⟨hg, hf, by decide⟩

section
variable (l : List Nat) (b : Nat) (s : State)

@[simp] theorem foldl_ready_mem : (l.foldl (fun s g => s.wf g F.PAGE_STAT_READY b) s).mem = s.mem :=
  foldl_field (·.mem) _ (fun t g => wf_mem t g _ _) l s

@[simp] theorem foldl_ready_tags : (l.foldl (fun s g => s.wf g F.PAGE_STAT_READY b) s).tags = s.tags :=
  foldl_field (·.tags) _ (fun t g => wf_tags t g _ _) l s

@[simp] theorem foldl_ready_mgmt : (l.foldl (fun s g => s.wf g F.PAGE_STAT_READY b) s).mgmt = s.mgmt :=
  foldl_field (·.mgmt) _ (fun t g => wf_mgmt t g _ _) l s

end

/-! ### The controller is ready, or stops (R539, R540) -/

section
variable (s : State)

theorem mgmtUp_mgmt : s.mgmtUp.mgmt = { s.mgmt with up := true, activating := false, started := s.ticks } := by
  rw [State.mgmtUp, wf_mgmt, foldl_ready_mgmt]
  rfl

theorem mgmtUp_data : DataKept s s.mgmtUp := by
  rw [State.mgmtUp]
  exact ⟨by rw [wf_mem, foldl_ready_mem, setMgmt_mem], by rw [wf_tags, foldl_ready_tags, setMgmt_tags]⟩

theorem mgmtUp_ready {g : Nat} (h : g ∈ mgmtPages) : s.mgmtUp.ready g = true := by
  unfold State.mgmtUp State.ready State.bit
  rw [rf_wf_apart, rf_ready_foldl, if_pos h]
  · rfl
  · by_cases hg : g = pgMpwr
    · exact Or.inl ⟨by decide, hg⟩
    · exact Or.inr ⟨hg, by decide, by decide⟩

theorem mgmtUp_inhibit : s.mgmtUp.bit pgMpwr F.MPWR_STAT_SPRINT_INHIBIT = false := by
  unfold State.mgmtUp
  rw [bit_wf_same _ _ _ _ (by decide) rfl]
  rfl

/-- A register of the MGMT page above its header. -/
theorem rf_mgmtUp {f : Fld} (h3 : f.off / 4 ≠ 3) (hf : f.off < 4096) : s.mgmtUp.rf pgMgmt f = s.rf pgMgmt f := by
  unfold State.mgmtUp
  rw [rf_wf_apart _ _ _ _ (Or.inr ⟨by decide, hf, by decide⟩), rf_foldl_ready_apart h3 hf]
  rfl

/-- Freeing a timing unit writes registers of the timing pages. -/
theorem freeUnit_field {α : Type} (p : State → α) (hwf : ∀ s g f v, g < pgMgmt → f.off < 4096 → p (State.wf s g f v) = p s)
    (u : TimingUnit) : p (s.freeUnit u) = p s := by
  have harm : ∀ (t : State) (g : Fin 8), p (t.setArmed g false) = p t := by
    intro t g
    have hoff : (F.PG_CMD_ARMED g).off < 4096 := by simp only [F.PG_CMD_ARMED]; omega
    unfold State.setArmed
    dsimp only
    split
    · rw [hwf _ _ _ _ (by decide) (by decide), hwf _ _ _ _ (by decide) (by decide), hwf _ _ _ _ (by decide) hoff]
    · exact hwf _ _ _ _ (by decide) hoff
  unfold State.freeUnit State.disarmUnit
  cases u with
  | gen g =>
    refine (hwf _ _ _ _ (by simp only [unitPage]; decide) (by simp only [unitOwner, F.PG_OWN_OWNER]; omega)).trans ?_
    dsimp only
    split
    · exact harm s g
    · rfl
  | cap c => exact hwf _ _ _ _ (by simp only [unitPage]; decide) (by simp only [unitOwner, F.CAP_OWN_OWNER]; omega)

/-- What a restart of the controller leaves: all but the controller's own state, the registers of its pages, and the timing units. -/
theorem freeMgmtUnits_field {α : Type} (p : State → α) (hwf : ∀ s g f v, g < pgMgmt → f.off < 4096 → p (State.wf s g f v) = p s)
    (hcaps : ∀ (s : State) x, p { s with caps := x } = p s) : p s.freeMgmtUnits = p s := by
  unfold State.freeMgmtUnits
  refine (foldl_field p _ (fun t c => ?_) _ _).trans (foldl_field p _ (fun t g => ?_) _ _)
  · split
    · exact (hcaps _ _).trans (freeUnit_field t p hwf _)
    · rfl
  · split
    · exact freeUnit_field t p hwf _
    · rfl

theorem mgmtDown_up : s.mgmtDown.mgmt.up = false := by simp only [State.mgmtDown, State.setMgmt]

/-- A part of the state that is neither a register, nor a capture list, nor the controller's. -/
theorem mgmtDown_field {α : Type} (p : State → α) (hwf : ∀ s g f v, p (State.wf s g f v) = p s)
    (hcaps : ∀ (s : State) x, p { s with caps := x } = p s) (hset : ∀ (s : State) m, p (s.setMgmt m) = p s) : p s.mgmtDown = p s := by
  unfold State.mgmtDown
  refine (hset _ _).trans ((freeMgmtUnits_field _ p (fun t g f v _ _ => hwf t g f v) hcaps).trans ((hwf _ _ _ _).trans ?_))
  exact foldl_field p _ (fun t g => hwf _ _ _ _) _ _

theorem mgmtDown_ready : s.mgmtDown.ready pgMgmt = false := by
  have hfree := freeMgmtUnits_field ((mgmtPages.foldl (fun s g => s.wf g F.PAGE_STAT_READY 0) s).wf pgMpwr F.MPWR_STAT_SPRINT_INHIBIT 1)
    (·.rf pgMgmt F.PAGE_STAT_READY) (fun t g f v hg hf => rf_wf_apart _ _ _ _ (Or.inr ⟨hg.ne', by decide, hf⟩)) (fun _ _ => rfl)
  have hready : s.mgmtDown.rf pgMgmt F.PAGE_STAT_READY = 0 := by
    unfold State.mgmtDown
    rw [rf_of_regs (setMgmt_regs _ _)]
    refine hfree.trans ?_
    rw [rf_wf_apart _ _ _ _ (by decide), rf_ready_foldl, if_pos (by simp [mgmtPages])]
  unfold State.ready State.bit
  rw [hready]
  rfl

end

end Sys2Proof.Machine
end
section
/-! PROOFS. The log, MCTP and PLDM, and the controller's own image. -/

namespace Sys2Proof.Machine

/-! ### Fault records and flash writes (R549, R557) -/

section
variable (s : State)

/-- The processor that forwards the records of a queue (R557). -/
def forwarder (q : Nat) : Nat := if q < 8 then 3 + q else if q = 8 then 2 else 0

/-- The oldest record of a queue whose processor runs goes to the log. -/
theorem forward_oldest {q : Nat} {r : FaultRec} {rs : List FaultRec} (hq : Tab.at s.faultQ q [] = r :: rs)
    (hfw : s.fwRuns (forwarder q) = true) :
    s.forward q = ({ s with faultQ := Tab.set s.faultQ q [] rs } : State).logOwn r.source 1
      [r.offset, r.bit, r.cls, r.lost, r.tag.toNat, r.id, r.detail, r.time] := by
  have hruns : ¬(forwarder q ≠ 0 ∧ (!s.fwRuns (forwarder q)) = true) := by simp [hfw]
  unfold State.forward
  rw [hq]
  exact if_neg hruns

/-- Where the level is 0, a record that leaves a queue enters a buffer with room. -/
theorem forward_logs (hup : s.mgmt.up = true) (hlev : s.rf pgMgmt F.MGMT_LOG_LEVEL = 0) (hroom : s.mgmt.buffer.length < 256)
    (l : Tab (List FaultRec)) (source kind : Nat) (what : List Nat) :
    ∃ sev data, Logs s (({ s with faultQ := l } : State).logOwn source kind what) source kind sev data := by
  have hlogs := logs_log (s := { s with faultQ := l }) source kind (sev := (Config.logSeverity kind what).val) (Config.logData kind what) hup
    (Nat.le_trans (Nat.le_of_eq hlev) (Nat.zero_le _)) hroom
  exact ⟨_, _, hlogs⟩

/-- A flash write empties the buffer into the sectors, the next one first where two attempts failed. -/
theorem logFlush_eq {n : Nat} (hup : s.mgmt.up = true) :
    s.logFlush n = (if 2 ≤ n then s.raise pgMgmt F.MGMT_ERR_STAT_FLASH_FAIL else s).setMgmt
      { s.mgmt with flash := s.mgmt.buffer.foldl putRecord (if 2 ≤ n then nextSector s.mgmt.flash else s.mgmt.flash), buffer := [] } := by
  unfold State.logFlush
  by_cases hn : 2 ≤ n <;> simp [hup, hn]

end

/-! ### Messages and images (R550, R551) -/

section
variable {s : State}

theorem reply_regs (s : State) (code : Nat) (fields : Bytes) : (s.reply code fields).regs = s.regs := rfl

theorem mctp_setEid (hup : s.mgmt.up = true) (e : BitVec 8) :
    s.mctp (.setEid e) = (s.setMgmt { s.mgmt with eid := e.toNat }).reply 0x0002 [e] := by simp [State.mctp, hup]

theorem pldm_setCap (hup : s.mgmt.up = true) (w : BitVec 9) :
    s.pldm (.setCap w) = (s.wf pgMpwr F.MPWR_PLDM_CAP w.toNat).reply 0x0231 [0] := by simp [State.pldm, hup]

theorem pldm_readSensor (hup : s.mgmt.up = true) {i : BitVec 7} {v : BitVec 16} (hi : isSensor i.toNat = true)
    (hv : s.shownSensor i.toNat = some v) : s.pldm (.readSensor i) = s.reply 0x0211 ([0] ++ leBytes 2 v.toNat) := by
  simp [State.pldm, hup, hi, hv]

/-- An update is written to the bank that does not run; `ok` is whether it may be started. -/
def State.writeBank (s : State) (version : Nat) (ok : Bool) : State :=
  s.setMgmt { s.mgmt with banks := Tab.set s.mgmt.banks (1 - s.bank) none (some version), staged := ok }

theorem bankVer_writeBank (version : Nat) (ok : Bool) (code : Nat) (fields : Bytes) :
    ((s.writeBank version ok).reply code fields).bankVer (1 - s.bank) = version := by
  simp [State.bankVer, State.writeBank, State.setMgmt, State.reply]

theorem mgmtUpdate_staged (hup : s.mgmt.up = true) {image r : Bytes} {version : Nat} (hrec : s.validRecord = some r)
    (hlen : 16608 ≤ image.length)
    (hkeys : imageKeysOk r (image.take (image.length - 16608)) (image.drop (image.length - 16608)) = true)
    (hver : leNat (slice r 84 4) ≤ version) : s.mgmtUpdate image version = (s.writeBank version true).reply 0x0512 [0] := by
  simp [State.mgmtUpdate, State.writeBank, hup, hrec, hlen, hkeys, hver]

theorem mgmtUpdate_noRecord (hup : s.mgmt.up = true) {image : Bytes} {version : Nat} (hrec : s.validRecord = none) :
    s.mgmtUpdate image version = ((s.writeBank version false).raise pgMgmt F.MGMT_ERR_STAT_UPD_BAD).reply 0x0512 [1] := by
  simp [State.mgmtUpdate, State.writeBank, hup, hrec]

/-- An SPDM request that the device takes breaks the row of a signed response, and goes on. -/
theorem spdm_heard {tr : Transport} {stage : Nat} (h : Heard s tr stage) (k : State → SpdmConn → State) :
    s.spdm tr stage k = k (s.setConn tr { s.sec.conn tr with signed := none }) { s.sec.conn tr with signed := none } := by
  obtain ⟨hcarries, hid, hstage⟩ := h
  simp [State.spdm, hcarries, hid, Nat.not_lt.2 hstage]

/-- A controller whose image verifies is ready; a new image records its start. -/
theorem mgmtBoot_start (hrst : s.pwr.mgmtRst = false) (hup : s.mgmt.up = false) :
    s.mgmtBoot true =
      if s.mgmt.activating then
        (s.mgmtUp.setMgmt { s.mgmtUp.mgmt with staged := false }).logOwn 0xFFFF 8 [0, s.mgmtUp.bankVer s.mgmtUp.bank]
      else s.mgmtUp := by
  simp [State.mgmtBoot, hrst, hup]

/-- What the start of the controller gives: it runs, its pages are READY, and the sprint is allowed. -/
def Started (s t : State) : Prop :=
  t.mgmt.up = true ∧ t.mgmt.activating = false ∧ t.ready pgMgmt = true ∧ t.ready pgMpwr = true ∧
    t.bit pgMpwr F.MPWR_STAT_SPRINT_INHIBIT = false ∧ DataKept s t

theorem started_mgmtUp : Started s s.mgmtUp := by
  refine ⟨?_, ?_, mgmtUp_ready s (by simp [mgmtPages]), mgmtUp_ready s (by simp [mgmtPages]), mgmtUp_inhibit s, mgmtUp_data s⟩
  · rw [mgmtUp_mgmt]
  · rw [mgmtUp_mgmt]

/-- A record leaves what the start gives. -/
theorem Started.log {t : State} (h : Started s t) (source kind sev : Nat) (data : BitVec 64) : Started s (t.log source kind sev data) := by
  obtain ⟨hup, hact, hready, hpwr, hinhibit, hmem, htags⟩ := h
  have hrf : ∀ g f, Apart g f.off pgMgmt 0x04C → Apart g f.off pgMgmt 0x058 → Apart g f.off pgMgmt 0x010 →
      (t.log source kind sev data).bit g f = t.bit g f := by
    intro g f a b c
    unfold State.bit
    rw [rf_log_apart _ _ _ _ _ f a b c]
  refine ⟨(log_up ..).trans hup, (log_activating ..).trans hact, ?_, ?_, ?_, (log_mem ..).trans hmem, (log_tags ..).trans htags⟩
  · exact (hrf _ _ (by decide) (by decide) (by decide)).trans hready
  · exact (hrf _ _ (by decide) (by decide) (by decide)).trans hpwr
  · exact (hrf _ _ (by decide) (by decide) (by decide)).trans hinhibit

/-- What the controller keeps for an update is no part of what the start gives. -/
theorem Started.setStaged {t : State} (h : Started s t) (b : Bool) : Started s (t.setMgmt { t.mgmt with staged := b }) := by
  obtain ⟨hup, hact, hready, hpwr, hinhibit, hmem, htags⟩ := h
  have hbit : ∀ g f, (t.setMgmt { t.mgmt with staged := b }).bit g f = t.bit g f := bit_of_regs (setMgmt_regs _ _)
  exact ⟨hup, hact, (hbit _ _).trans hready, (hbit _ _).trans hpwr, (hbit _ _).trans hinhibit, hmem, htags⟩

theorem started_mgmtBoot (hrst : s.pwr.mgmtRst = false) (hup : s.mgmt.up = false) : Started s (s.mgmtBoot true) := by
  rw [mgmtBoot_start hrst hup]
  split
  · exact (started_mgmtUp.setStaged false).log _ _ _ _
  · exact started_mgmtUp

end

/-! ### Activation and the way back (R551) -/

section
variable {s : State}

/-- The activation of a staged update: the controller stops, on the other bank. -/
theorem activate_gives (hup : s.mgmt.up = true) (hst : s.mgmt.staged = true) :
    Gives .activateFirmware s fun t => t.mgmt.up = false ∧ t.mgmt.activating = true ∧ t.bank = (1 - s.bank) % 2 ∧ t.ready pgMgmt = false ∧
      Replies s t 0x051A [0] ∧ DataKept s t := by
  have hout : (s.reply 0x051A [0]).mgmtDown.out = s.out ++ [Out.message (Config.encodeMessage 0x051A [0])] :=
    mgmtDown_field _ (·.out) (fun _ _ _ _ => rfl) (fun _ _ => rfl) fun _ _ => rfl
  have hmem : (s.reply 0x051A [0]).mgmtDown.mem = s.mem := mgmtDown_field _ (·.mem) (fun _ _ _ _ => rfl) (fun _ _ => rfl) fun _ _ => rfl
  have htags : (s.reply 0x051A [0]).mgmtDown.tags = s.tags := mgmtDown_field _ (·.tags) (fun _ _ _ _ => rfl) (fun _ _ => rfl) fun _ _ => rfl
  have hup' := mgmtDown_up (s.reply 0x051A [0])
  have hready := mgmtDown_ready (s.reply 0x051A [0])
  refine .of ((if_neg (by simp [hup])).trans (if_neg (by simp [hst]))) rfl ?_
  generalize (s.reply 0x051A [0]).mgmtDown = u at hout hmem htags hup' hready
  exact ⟨hup', rfl, (rf_of_regs (setMgmt_regs _ _) _ _).trans (rf_wf_same _ _ _ _ (by decide)),
    (bit_of_regs (setMgmt_regs _ _) _ _).trans ((bit_wf_apart _ _ _ _ (by decide)).trans hready), hout, hmem, htags⟩

/-- The record of a way back, and the flag before it, leave the bank and what the controller keeps. -/
theorem rollback_record (w : State) (kind sev : Nat) (data : BitVec 64) :
    let t := (w.raise pgMgmt F.MGMT_ERR_STAT_UPD_ROLLBACK).log 0xFFFF kind sev data
    t.bank = w.bank ∧ t.mgmt.up = w.mgmt.up ∧ t.mgmt.staged = w.mgmt.staged ∧ t.bit pgMgmt F.MGMT_ERR_STAT_UPD_ROLLBACK = true ∧
      DataKept w t := by
  have hmgmt := raise_mgmt w pgMgmt F.MGMT_ERR_STAT_UPD_ROLLBACK
  refine ⟨?_, (log_up ..).trans (by rw [hmgmt]), (log_staged ..).trans (by rw [hmgmt]), ?_, by simp [DataKept]⟩
  · exact (rf_log_apart _ _ _ _ _ _ (by decide) (by decide) (by decide)).trans (rf_raise_apart _ _ _ (by decide) (by decide))
  · exact (bit_log_flag _ _ _ _ _ (.inr (by decide))).trans (bit_raise _ _ rfl (by decide) (by decide))

/-- The other bank is selected, and no update is staged. -/
def State.switchBack (s : State) : State := (s.wf pgMgmt F.MGMT_STAT_BANK (1 - s.bank)).setMgmt { s.mgmt with staged := false }

theorem switchBack_bank : s.switchBack.bank = (1 - s.bank) % 2 :=
  (rf_of_regs (setMgmt_regs _ _) _ _).trans (rf_wf_same _ _ _ _ (by decide))

/-- A new image that has not reported ready: the controller runs on the old bank, and says so. -/
theorem rollback_gives (hact : s.mgmt.activating = true) (hrst : s.pwr.mgmtRst = false) :
    Gives .mgmtUpdateRollback s fun t => t.bank = (1 - s.bank) % 2 ∧ t.mgmt.up = true ∧ t.mgmt.staged = false ∧
      t.bit pgMgmt F.MGMT_ERR_STAT_UPD_ROLLBACK = true ∧ DataKept s t := by
  have hdo : execMgmtUpdateRollback s = .next ((s.switchBack.mgmtUp.raise pgMgmt F.MGMT_ERR_STAT_UPD_ROLLBACK).logOwn 0xFFFF 8
      [1, s.switchBack.mgmtUp.bankVer s.switchBack.mgmtUp.bank]) :=
    congrArg _ (if_neg (by simp [hact, hrst]))
  have hmgmt := mgmtUp_mgmt s.switchBack
  obtain ⟨hmem, htags⟩ := mgmtUp_data s.switchBack
  obtain ⟨hbank, hup, hst, hflag, hm, ht⟩ := rollback_record s.switchBack.mgmtUp 8 _ _
  exact ⟨_, hdo, hbank.trans ((rf_mgmtUp _ (by decide) (by decide)).trans switchBack_bank), hup.trans (by rw [hmgmt]),
    hst.trans (by rw [hmgmt]; rfl), hflag, hm.trans hmem, ht.trans htags⟩

end

/-- Settles O50: the log's intake, forwarding and flash, the messages, an update with its activation, start and way back. -/
theorem logAndManagement : Obligations.LogAndManagement := by
  intro s
  refine ⟨fun r hup => ⟨fun hlev hroom => ?_, fun hlev => ?_⟩, fun q r rs hq hfw => ?_, fun n hup => ?_, fun a v hr => ?_,
    fun hup => ⟨fun e => ?_, fun w => ?_, fun i v hi hv => ?_, fun q => ?_, fun im v => ⟨fun r hrec hlen hkeys hver => ?_, fun hrec => ?_⟩,
      fun hst => ?_⟩, fun m => ⟨fun h => ?_, fun h => ?_, fun h => ?_, fun h hheard => ?_⟩, fun hrst hup => ⟨?_, ?_⟩, fun hact hrst => ?_⟩
  · exact .of (log_kept _ _ _ hup hlev hroom) rfl ⟨logs_logAppend _ _ _, rfl, ⟨rfl, rfl⟩⟩
  · exact .of (log_below _ _ _ hlev) rfl rfl
  · refine .of (forward_oldest s hq hfw) rfl ⟨?_, fun k hk => ?_, fun hup hlev hroom => forward_logs s hup hlev hroom _ _ _ _,
      log_data ..⟩
    · rw [State.logOwn, log_faultQ]
      exact Tab.at_set_same _ _ _ _
    · rw [State.logOwn, log_faultQ]
      exact Tab.at_set_other _ _ _ hk
  · refine .of (logFlush_eq s hup) rfl ⟨rfl, fun hn => ?_, fun hn => ?_, ?_⟩
    · rw [if_neg (Nat.not_le.2 hn), if_neg (Nat.not_le.2 hn)]
      exact ⟨rfl, rfl⟩
    · rw [if_pos hn.ge, if_pos hn.ge]
      exact ⟨rfl, (bit_of_regs (setMgmt_regs _ _) _ _).trans (bit_raise _ _ rfl (by decide) (by decide))⟩
    · simp [DataKept, apply_ite State.mem, apply_ite State.tags]
  · exact .of (if_pos hr) rfl ⟨(rf_wf_same _ _ _ _ (by decide)).trans (Nat.mod_eq_of_lt v.isLt), rfl, ⟨rfl, rfl⟩⟩
  · exact .of (mctp_setEid hup e) rfl ⟨rfl, rfl, rfl, ⟨rfl, rfl⟩⟩
  · exact .of (pldm_setCap hup w) rfl
      ⟨(rf_of_regs (reply_regs _ _ _) _ _).trans ((rf_wf_same _ _ _ _ (by decide)).trans (Nat.mod_eq_of_lt w.isLt)), rfl, ⟨rfl, rfl⟩⟩
  · exact .of (pldm_readSensor hup hi hv) rfl ⟨rfl, rfl, ⟨rfl, rfl⟩⟩
  · exact .of (if_pos hup) rfl ⟨rfl, rfl, ⟨rfl, rfl⟩⟩
  · exact .of (mgmtUpdate_staged hup hrec hlen hkeys hver) rfl ⟨rfl, bankVer_writeBank _ _ _ _, rf_of_regs rfl _ _, rfl, rfl, ⟨rfl, rfl⟩⟩
  · refine .of (mgmtUpdate_noRecord hup hrec) rfl
      ⟨?_, (bit_of_regs (reply_regs _ _ _) _ _).trans (bit_raise _ _ rfl (by decide) (by decide)), ?_, ?_⟩
    · exact congrArg MgmtSt.staged (raise_mgmt (s.writeBank v.toNat false) _ _)
    · exact congrArg (· ++ _) (raise_out (s.writeBank v.toNat false) _ _)
    · exact ⟨raise_mem (s.writeBank v.toNat false) _ _, raise_tags (s.writeBank v.toNat false) _ _⟩
  · exact activate_gives hup hst
  · change s.relay m = _; rw [State.relay, h]; rfl
  · change s.relay m = _; rw [State.relay, h]; rfl
  · change s.relay m = _; rw [State.relay, h]; rfl
  · have hrelay : s.relay m = .next (s.spdm .mctp 0 fun s _ => s.spdmErr errUnexpected) := by
      rw [State.relay, h]
      rfl
    rw [spdm_heard hheard] at hrelay
    exact ⟨_, hrelay, rfl, rfl, ⟨rfl, rfl⟩⟩
  · exact ⟨_, rfl, started_mgmtBoot hrst hup⟩
  · exact .of (if_pos (by simp)) rfl rfl
  · exact rollback_gives hact hrst

end Sys2Proof.Machine
end

section
/-! SUPPORT. The steps of a share: what the start of a pass and the end of a share leave, and what an accumulator holds after a write. -/

namespace Sys2Proof.Machine

/-! ### The share in execution -/

@[simp] theorem gaffExec_setExec (s : State) (f : Nat) (x : Option GaffExec) : ((s.setExec f x).floe f).exec = x := by
  simp [State.setExec]

section
variable (s : State) (f : Nat)

/-- The start of a pass changes the floe's units and registers only. -/
@[simp] theorem startPass_stores :
    (s.startPass f).mem = s.mem ∧ (s.startPass f).tags = s.tags ∧ (s.startPass f).accSide = s.accSide := by
  unfold State.startPass
  dsimp only
  split
  · exact ⟨rfl, rfl, rfl⟩
  · split <;> exact ⟨rfl, rfl, rfl⟩

/-- The end of a share's work changes the floe's units only. -/
@[simp] theorem settleShare_stores :
    (s.settleShare f).mem = s.mem ∧ (s.settleShare f).tags = s.tags ∧ (s.settleShare f).accSide = s.accSide := by
  unfold State.settleShare
  split
  · exact ⟨rfl, rfl, rfl⟩
  · split <;> exact ⟨rfl, rfl, rfl⟩

@[simp] theorem closeTile_tags (p : PassAt) : (s.closeTile f p).tags = s.tags := by
  unfold State.closeTile
  dsimp only
  split
  · rfl
  · split <;> rfl

/-- A pass that starts copies the shadow registers, and leaves them (R115). -/
@[simp] theorem shadow_startPass : ((s.startPass f).floe f).rime.shadow = (s.floe f).rime.shadow := by
  unfold State.startPass
  dsimp only
  split
  · rfl
  · split
    · rw [floe_of_floes (bump_floes _ _ _), floe_setFloe]
    · rfl

end

section
variable {s : State} {f : Nat} {x : GaffExec}

/-- The start of a pass changes where the share's tiles stand, and nothing else of the share. -/
theorem gaffExec_startPass (h : (s.floe f).exec = some x) :
    ∃ loaded passOn gate, ((s.startPass f).floe f).exec = some { x with loaded := loaded, passOn := passOn, gate := gate } := by
  unfold State.startPass
  simp only [h]
  split
  · rw [floe_of_floes (bump_floes _ _ _), floe_setFloe]
    exact ⟨_, _, _, rfl⟩
  · exact ⟨_, _, _, h⟩

/-- The end of a share's work changes its phase, and nothing else of the share. -/
theorem gaffExec_settleShare (h : (s.floe f).exec = some x) :
    ∃ phase, ((s.settleShare f).floe f).exec = some { x with phase := phase } := by
  unfold State.settleShare
  simp only [h]
  split
  · exact ⟨_, gaffExec_setExec _ _ _⟩
  · exact ⟨_, h⟩

/-- What the next pass and the end of the work leave of a share. -/
theorem gaffExec_settleShare_startPass (h : (s.floe f).exec = some x) :
    ∃ phase loaded passOn gate, (((s.startPass f).settleShare f).floe f).exec =
      some { x with phase := phase, loaded := loaded, passOn := passOn, gate := gate } := by
  obtain ⟨loaded, passOn, gate, hstart⟩ := gaffExec_startPass h
  obtain ⟨phase, hsettle⟩ := gaffExec_settleShare hstart
  exact ⟨phase, loaded, passOn, gate, hsettle⟩

/-- A region that waits or is deferred changes the share's phase and its list of regions, and nothing else of the share. -/
theorem gaffExec_closeTile (p : PassAt) (h : (s.floe f).exec = some x) :
    ∃ phase regions, ((s.closeTile f p).floe f).exec = some { x with phase := phase, regions := regions } := by
  unfold State.closeTile
  simp only [h]
  split
  · rw [floe_setFloe]
    exact ⟨_, _, rfl⟩
  · exact ⟨_, _, gaffExec_setExec _ _ _⟩

end

/-! ### Accumulators and their side bits (R67, R124) -/

theorem acc_of_mem {s t : State} (h : t.mem = s.mem) (f i : Nat) : t.acc f i = s.acc f i := by
  unfold State.acc State.rdLe
  rw [rdBytes_of_mem h]

theorem accPoison_of_accSide {s t : State} (h : t.accSide = s.accSide) (f i : Nat) : t.accPoison f i = s.accPoison f i := by
  unfold State.accPoison
  rw [h]

/-- The value of the low bits counts no bit above them. -/
theorem sInt_mod (w v : Nat) : sInt w (v % 2 ^ w) = sInt w v := by
  unfold sInt
  rw [Nat.mod_mod]

theorem acc_setAcc_same (s : State) (f i : Nat) (v : Int) : (s.setAcc f i v).acc f i = sInt 96 (lowBits 96 v) := by
  unfold State.acc State.setAcc
  rw [rdLe_wrLe]
  exact sInt_mod 96 _

/-- The accumulators of a floe lie apart, and apart from those of every other floe (R41, R43). -/
theorem acc_setAcc_other (s : State) {f i k a : Nat} (v : Int) (hi : i < 32768) (ha : a < 32768) (h : ¬(k = f ∧ a = i)) :
    (s.setAcc f i v).acc k a = s.acc k a := by
  have hbytes : (s.setAcc f i v).rdBytes (floeBase k + offAcc + 12 * a) 12 = s.rdBytes (floeBase k + offAcc + 12 * a) 12 := by
    refine rdBytes_congr fun x hlo hhi => rdByte_wrLe _ _ _ _ _ ?_
    unfold floeBase offAcc at *
    rcases Nat.lt_trichotomy k f with hk | hk | hk <;> omega
  unfold State.acc State.rdLe
  rw [hbytes]

theorem accPoison_setAccPoison (s : State) {f i k a : Nat} (p : Bool) (hi : i < 32768) (ha : a < 32768) :
    (s.setAccPoison f i p).accPoison k a = if k = f ∧ a = i then p else s.accPoison k a := by
  unfold State.accPoison State.setAccPoison
  have hkey : k * 32768 + a = f * 32768 + i ↔ k = f ∧ a = i := by omega
  simp only [Tab.get_put, hkey]

section
variable (s : State) (f i : Nat) (v : Int) (p : Bool) (seen : List Nat)

@[simp] theorem putAcc_mem : (s.putAcc f i v p seen).1.mem = (s.setAcc f i v).mem := by
  unfold State.putAcc
  dsimp only
  split <;> simp

@[simp] theorem putAcc_tags : (s.putAcc f i v p seen).1.tags = s.tags := by
  unfold State.putAcc
  dsimp only
  split <;> simp

@[simp] theorem putAcc_accSide : (s.putAcc f i v p seen).1.accSide = (s.setAccPoison f i p).accSide := by
  unfold State.putAcc
  dsimp only
  split <;> simp [State.setAccPoison]

end

/-- What the accumulators hold after one takes a sum. -/
theorem acc_putAcc (s : State) {f i k a : Nat} (v : Int) (p : Bool) (seen : List Nat) (hi : i < 32768) (ha : a < 32768) :
    (s.putAcc f i v p seen).1.acc k a = if k = f ∧ a = i then sInt 96 (lowBits 96 v) else s.acc k a := by
  rw [acc_of_mem (putAcc_mem s f i v p seen)]
  split
  · next h =>
    obtain ⟨rfl, rfl⟩ := h
    exact acc_setAcc_same s k a v
  · next h => exact acc_setAcc_other s v hi ha h

theorem accPoison_putAcc (s : State) {f i k a : Nat} (v : Int) (p : Bool) (seen : List Nat) (hi : i < 32768) (ha : a < 32768) :
    (s.putAcc f i v p seen).1.accPoison k a = if k = f ∧ a = i then p else s.accPoison k a := by
  rw [accPoison_of_accSide (putAcc_accSide s f i v p seen), accPoison_setAccPoison s p hi ha]

end Sys2Proof.Machine
end

section
/-! PROOFS. A tile load, a pass, a merge round and a readout. -/

namespace Sys2Proof.Machine

/-! ### A tile load (R115 to R121) -/

section
variable {s : State} {f : Fin 64} {x : GaffExec}

@[simp] theorem nonfinite_mem (s : State) (f n : Nat) : (s.nonfinite f n).mem = s.mem := by
  simp [State.nonfinite, apply_ite State.mem]

@[simp] theorem nonfinite_tags (s : State) (f n : Nat) : (s.nonfinite f n).tags = s.tags := by
  simp [State.nonfinite, apply_ite State.tags]

/-- A tile load whose lines have no errors loads the tile, and the pass starts where it may. -/
theorem exec_tileLoadComplete_clean {idx : Nat} (hx : (s.floe f).exec = some x) (hidx : x.loading f = some idx) :
    exec (.tileLoadComplete f []) s = .next ((s.loadShadow f x idx).startPass f) := by
  change Host.Outcome.next (s.tileLoaded f []) = _
  simp [State.tileLoaded, State.codesMet, hx, hidx]

theorem shadow_loadShadow (s : State) (f : Nat) (x : GaffExec) (idx : Nat) :
    ((s.loadShadow f x idx).floe f).rime.shadow = tileOfPass s f x idx := by
  unfold State.loadShadow
  dsimp only
  rw [floe_setFloe]
  rfl

theorem loadShadow_mem (s : State) (f : Nat) (x : GaffExec) (idx : Nat) : (s.loadShadow f x idx).mem = s.mem := by
  unfold State.loadShadow
  exact nonfinite_mem _ _ _

theorem loadShadow_tags (s : State) (f : Nat) (x : GaffExec) (idx : Nat) : (s.loadShadow f x idx).tags = s.tags := by
  unfold State.loadShadow
  exact nonfinite_tags _ _ _

/-! ### A pass (R126) -/

/-- A pass without errors ends with its sums. -/
theorem exec_passEnd_clean {par : List ParErr} (hx : (s.floe f).exec = some x) (hwork : x.phase = .work) (hon : x.passOn = true) :
    exec (.passEnd f par []) s = .next (s.endPass f x par) := by
  change Host.Outcome.next (s.passEnded f par []) = _
  simp [State.passEnded, State.codesMet, hx, hwork, hon]

@[simp] theorem reportSum_tags (s : State) (f : Nat) (r : Sum) : (s.reportSum f r).tags = s.tags := by
  simp [State.reportSum, apply_ite State.tags]

@[simp] theorem enterAcc_tags (s : State) (f : Nat) (ebase : Int) (first : Bool) (i : Nat) (ps : List (Op × Op × Bool))
    (seen : List Nat) : (s.enterAcc f ebase first i ps seen).1.tags = s.tags := by
  simp [State.enterAcc]

/-- A fold over a state and a list keeps the tags where each of its steps does. -/
theorem foldl_fst_tags {α β : Type} {r : State × β → α → State × β} (hr : ∀ st a, (r st a).1.tags = st.1.tags) (l : List α)
    (st : State × β) : (l.foldl r st).1.tags = st.1.tags :=
  List.foldlRecOn (motive := fun u => u.1.tags = st.1.tags) l r rfl fun u hu a _ => (hr u a).trans hu

/-- The sums of a pass go to accumulators, which have no tags. -/
theorem passSums_tags (s : State) (f : Nat) (x : GaffExec) (par : List ParErr) : (s.passSums f x par).1.tags = s.tags := by
  unfold State.passSums
  refine foldl_fst_tags (fun st v => ?_) _ _
  dsimp only
  rw [nonfinite_tags, apply_ite State.tags, tally_tags, tally_tags, ite_self]
  exact foldl_fst_tags (fun u o => enterAcc_tags _ _ _ _ _ _ _) _ _

theorem endPass_tags (s : State) (f : Nat) (x : GaffExec) : (s.endPass f x []).tags = s.tags := by
  simp [State.endPass, State.parityErrors, apply_ite State.tags, passSums_tags]

/-- The end of a pass moves the share's walk on by one. -/
theorem gaffExec_endPass (s : State) (f : Nat) (x : GaffExec) :
    ∃ phase loaded passOn gate regions poisoned, ((s.endPass f x []).floe f).exec =
      some { x with phase := phase, loaded := loaded, passOn := passOn, gate := gate, regions := regions, poisoned := poisoned,
                    pass := x.pass + 1 } := by
  simp only [State.endPass, State.parityErrors, List.isEmpty_nil, if_true]
  split
  · obtain ⟨_, _, hclose⟩ := gaffExec_closeTile (passAt x.g (x.share f) x.pass) (gaffExec_setExec _ f _)
    obtain ⟨_, _, _, _, hend⟩ := gaffExec_settleShare_startPass hclose
    exact ⟨_, _, _, _, _, _, hend⟩
  · obtain ⟨_, _, _, _, hend⟩ := gaffExec_settleShare_startPass (gaffExec_setExec _ f _)
    exact ⟨_, _, _, _, _, _, hend⟩

/-! ### A merge round (R150) -/

/-- A merge round whose reads have no errors adds the sender's region. -/
theorem exec_mergeRoundComplete_clean {y : GaffExec} {r q : Region} {rs : List Region} {k p : Nat} (hx : (s.floe f).exec = some x)
    (hr : x.regions = r :: rs) (hnext : r.nextMerge x.g f = some (k, p)) (hy : (s.floe p).exec = some y)
    (hq : y.regions.find? (fun z => decide (z.visit = r.visit)) = some q) (hxw : x.phase = .work) (hyw : y.phase = .work)
    (hrun : y.run = x.run) (hdone : q.nextMerge y.g p = none) :
    exec (.mergeRoundComplete f [] []) s = .next (s.mergeRound f p k x y r) := by
  change Host.Outcome.next (s.mergeDone f [] []) = _
  simp [State.mergeDone, State.codesMet, hx, hr, hnext, hy, hq, hxw, hyw, hrun, hdone]

/-- A partial of one accumulator more adds that one last. -/
theorem addPartial_succ (s : State) (f p base n : Nat) (seen : List Nat) :
    s.addPartial f p base (n + 1) seen =
      let st := s.addPartial f p base n seen
      st.1.putAcc f (base + n) (st.1.acc f (base + n) + st.1.acc p (base + n))
        (st.1.accPoison f (base + n) || st.1.accPoison p (base + n))
        (if st.1.accPoison f (base + n) then (base + n) :: st.2 else st.2) := by
  rw [State.addPartial, List.range_succ, List.foldl_append]
  rfl

/-- The accumulators after a partial of `n` from member `p` was added at `base` into member `f`: by induction on `n`, the sender's own
accumulators standing all the while. -/
theorem addPartial_accs (s : State) {f p base n : Nat} (seen : List Nat) (hp : p ≠ f) (hn : base + n ≤ 32768) {k a : Nat}
    (ha : a < 32768) :
    (s.addPartial f p base n seen).1.acc k a =
        (if k = f ∧ base ≤ a ∧ a < base + n then sInt 96 (lowBits 96 (s.acc f a + s.acc p a)) else s.acc k a) ∧
      (s.addPartial f p base n seen).1.accPoison k a =
        (if k = f ∧ base ≤ a ∧ a < base + n then s.accPoison f a || s.accPoison p a else s.accPoison k a) := by
  induction n generalizing k a with
  | zero =>
    have hnone : ¬(k = f ∧ base ≤ a ∧ a < base + 0) := by omega
    rw [if_neg hnone, if_neg hnone]
    exact ⟨rfl, rfl⟩
  | succ n ih =>
    have hlast : base + n < 32768 := by omega
    obtain ⟨hacc, hside⟩ := ih (by omega) (k := k) ha
    obtain ⟨haccF, hsideF⟩ := ih (by omega) (k := f) hlast
    obtain ⟨haccP, hsideP⟩ := ih (by omega) (k := p) hlast
    rw [if_neg (by omega)] at haccF hsideF haccP hsideP
    rw [addPartial_succ]
    dsimp only
    rw [acc_putAcc _ _ _ _ hlast ha, accPoison_putAcc _ _ _ _ hlast ha, haccF, hsideF, haccP, hsideP, hacc, hside]
    by_cases hnew : k = f ∧ a = base + n
    · obtain ⟨rfl, rfl⟩ := hnew
      simp
    · have hrest : (k = f ∧ base ≤ a ∧ a < base + (n + 1)) ↔ (k = f ∧ base ≤ a ∧ a < base + n) := by omega
      simp only [hnew, hrest, if_false, and_self]

theorem mergeRound_mem (s : State) (f p t : Nat) (x y : GaffExec) (r : Region) :
    (s.mergeRound f p t x y r).mem = (s.addPartial f p r.base (r.rows * x.g.regionPitch) x.poisoned).1.mem := by
  simp [State.mergeRound]

theorem mergeRound_accSide (s : State) (f p t : Nat) (x y : GaffExec) (r : Region) :
    (s.mergeRound f p t x y r).accSide = (s.addPartial f p r.base (r.rows * x.g.regionPitch) x.poisoned).1.accSide := by
  simp [State.mergeRound]

/-! ### A readout (R127) -/

/-- A readout whose reads have no errors reads the region out. -/
theorem exec_readoutComplete_clean {r : Region} {rs : List Region} (hx : (s.floe f).exec = some x) (hr : x.regions = r :: rs)
    (hwork : x.phase = .work) (hrk : (x.share f).rk = 0) (hnext : r.nextMerge x.g f = none) :
    exec (.readoutComplete f []) s = .next (s.readoutRegion f x r) := by
  change Host.Outcome.next (s.readoutDone f []) = _
  simp [State.readoutDone, State.codesMet, hx, hr, hwork, hrk, hnext]

/-- A readout takes the first region off the share's list and counts it. -/
theorem gaffExec_readoutRegion (s : State) (f : Nat) (x : GaffExec) (r : Region) :
    ∃ phase loaded passOn gate held, ((s.readoutRegion f x r).floe f).exec =
      some { x with phase := phase, loaded := loaded, passOn := passOn, gate := gate, held := held, regions := x.regions.drop 1,
                    written := x.written + 1 } := by
  unfold State.readoutRegion
  obtain ⟨_, _, _, _, hend⟩ := gaffExec_settleShare_startPass (gaffExec_setExec _ f _)
  exact ⟨_, _, _, _, _, hend⟩

end

/-- Settles O17: each event, when the codes find no error, is its step of the walk. -/
theorem gaffWalk : Obligations.GaffWalk := by
  intro f s x hx
  refine ⟨fun idx hidx => ?_, fun hwork hon => ?_, fun y r q rs k p hr hnext hp hy hq hxw hyw hrun hdone hfit => ?_,
    fun r rs hr hwork hrk hnext => ?_⟩
  · obtain ⟨hmem, htags, -⟩ := startPass_stores (s.loadShadow f x idx) f
    exact ⟨_, exec_tileLoadComplete_clean hx hidx, (shadow_startPass _ _).trans (shadow_loadShadow ..),
      hmem.trans (loadShadow_mem ..), htags.trans (loadShadow_tags ..)⟩
  · obtain ⟨_, _, _, _, _, _, hexec⟩ := gaffExec_endPass s f x
    exact ⟨_, _, exec_passEnd_clean hx hwork hon, hexec, rfl, rfl, rfl, endPass_tags s f x⟩
  · refine ⟨_, exec_mergeRoundComplete_clean hx hr hnext hy hq hxw hyw hrun hdone, fun a ha => ?_⟩
    obtain ⟨hacc, hside⟩ := addPartial_accs s x.poisoned hp hfit (k := f) ha
    rw [acc_of_mem (mergeRound_mem ..), accPoison_of_accSide (mergeRound_accSide ..), hacc, hside]
    by_cases hin : r.base ≤ a ∧ a < r.base + r.rows * x.g.regionPitch <;> simp [hin]
  · obtain ⟨_, _, _, _, _, hexec⟩ := gaffExec_readoutRegion s f x r
    exact ⟨_, _, exec_readoutComplete_clean hx hr hwork hrk hnext, hexec, congrArg (List.drop 1) hr, rfl, rfl, rfl⟩

end Sys2Proof.Machine
end

section
/-! SUPPORT. What the outputs, the statuses and the counters of the Gaff leave: the units of the floes, the number of the next run, and the
registers that none of them writes. -/

namespace Sys2Proof.Machine

/-! ### Registers and units that an operation keeps -/

/-- A register offset lies apart from those listed. -/
abbrev ClearOf (offs : List Nat) (o : Nat) : Prop := ∀ k ∈ offs, k / 4 ≠ o / 4 ∧ k < 4096 ∧ o < 4096

/-- On every page, the words of `r` at these offsets stand in `s`, and so does the number of the next run. -/
structure KeepsWords (offs : List Nat) (r s : State) : Prop where
  nextRun : s.nextRun = r.nextRun
  word : ∀ g, ∀ o ∈ offs, s.word g o = r.word g o

/-- The units of the floes stand as well. -/
structure KeepsUnits (offs : List Nat) (r s : State) : Prop extends KeepsWords offs r s where
  floes : s.floes = r.floes

/-- The registers that no output and no status writes: CTRL, the worst-case cycles and the completions of the Gaff (R110, R165). -/
abbrev settled : List Nat := [0x040, 0x054, 0x060]

section
variable {offs : List Nat} {r s t : State}

theorem KeepsWords.refl (s : State) : KeepsWords offs s s := ⟨rfl, fun _ _ _ => rfl⟩

theorem KeepsWords.trans (h : KeepsWords offs r s) (k : KeepsWords offs s t) : KeepsWords offs r t :=
  ⟨k.nextRun.trans h.nextRun, fun g o ho => (k.word g o ho).trans (h.word g o ho)⟩

theorem KeepsWords.rf (h : KeepsWords offs r s) (g : Nat) (f : Fld) (hf : f.off ∈ offs) : s.rf g f = r.rf g f := by
  unfold State.rf
  rw [h.word g _ hf]

theorem KeepsWords.bit (h : KeepsWords offs r s) (g : Nat) (f : Fld) (hf : f.off ∈ offs) : s.bit g f = r.bit g f := by
  unfold State.bit
  rw [h.rf g f hf]

theorem KeepsWords.ofRegs (hn : s.nextRun = r.nextRun) (hr : s.regs = r.regs) : KeepsWords offs r s :=
  ⟨hn, fun _ _ _ => by unfold State.word; rw [hr]⟩

theorem KeepsWords.setFloe {f : Nat} {x : FloeSt} (h : KeepsWords offs r s) : KeepsWords offs r (s.setFloe f x) :=
  h.trans (.ofRegs rfl rfl)

theorem KeepsUnits.refl (s : State) : KeepsUnits offs s s := ⟨.refl s, rfl⟩

theorem KeepsUnits.trans (h : KeepsUnits offs r s) (k : KeepsUnits offs s t) : KeepsUnits offs r t :=
  ⟨h.toKeepsWords.trans k.toKeepsWords, k.floes.trans h.floes⟩

theorem KeepsUnits.floe (h : KeepsUnits offs r s) (f : Nat) : s.floe f = r.floe f := floe_of_floes h.floes f

/-- A change of the other parts of the state. -/
theorem KeepsUnits.upd (h : KeepsUnits offs r s) (hf : t.floes = s.floes) (hn : t.nextRun = s.nextRun) (hr : t.regs = s.regs) :
    KeepsUnits offs r t :=
  h.trans ⟨.ofRegs hn hr, hf⟩

theorem KeepsUnits.both {c : Prop} [Decidable c] (h : KeepsUnits offs r s) (k : KeepsUnits offs r t) :
    KeepsUnits offs r (if c then s else t) :=
  iteInduction (fun _ => h) fun _ => k

theorem KeepsUnits.bothFst {α : Type} {p q : State × α} {c : Prop} [Decidable c] (h : KeepsUnits offs r p.1)
    (k : KeepsUnits offs r q.1) : KeepsUnits offs r (if c then p else q).1 :=
  iteInduction (motive := fun p : State × α => KeepsUnits offs r p.1) (fun _ => h) fun _ => k

theorem KeepsUnits.foldl {α : Type} {f : State → α → State} {l : List α} (h : KeepsUnits offs r s)
    (hf : ∀ t a, KeepsUnits offs r t → KeepsUnits offs r (f t a)) : KeepsUnits offs r (l.foldl f s) :=
  List.foldlRecOn l f h fun t ht a _ => hf t a ht

theorem KeepsUnits.foldlFst {α β : Type} {p : State × β} {f : State × β → α → State × β} {l : List α}
    (h : KeepsUnits offs r p.1) (hf : ∀ t a, KeepsUnits offs r t.1 → KeepsUnits offs r (f t a).1) : KeepsUnits offs r (l.foldl f p).1 :=
  List.foldlRecOn (motive := fun p => KeepsUnits offs r p.1) l f h fun t ht a _ => hf t a ht

end

/-! ### Flags, counters and records -/

namespace State

section
variable {offs : List Nat} {r s : State} {g : Nat} {f : Fld}

theorem setWord_units {o : Nat} {w : Word} (h : KeepsUnits offs r s) (ho : ClearOf offs o) : KeepsUnits offs r (s.setWord g o w) := by
  refine h.trans ⟨⟨rfl, fun g' k hk => word_setWord_other s g w ?_⟩, rfl⟩
  obtain ⟨hne, hlt, hlt'⟩ := ho k hk
  unfold regIdx
  omega

theorem wf_units {v : Nat} (h : KeepsUnits offs r s) (ho : ClearOf offs f.off := by decide) : KeepsUnits offs r (s.wf g f v) :=
  setWord_units h ho

theorem bumpN_units {n : Nat} (h : KeepsUnits offs r s) (ho : ClearOf offs f.off := by decide) : KeepsUnits offs r (s.bumpN g f n) :=
  wf_units h ho

theorem bump_units (h : KeepsUnits offs r s) (ho : ClearOf offs f.off := by decide) : KeepsUnits offs r (s.bump g f) := wf_units h ho

theorem irq_units {b : Nat} (h : KeepsUnits offs r s) (hi : ClearOf offs 0x010 := by decide) : KeepsUnits offs r (s.irq g b) :=
  setWord_units h hi

theorem raise_units (h : KeepsUnits offs r s) (ho : ClearOf offs f.off := by decide) (hi : ClearOf offs 0x010 := by decide) :
    KeepsUnits offs r (s.raise g f) := by
  unfold State.raise
  extract_lets +onlyGivenNames s1
  have hset : KeepsUnits offs r s1 := wf_units h ho
  split
  · exact .both hset (irq_units hset hi)
  · exact hset

theorem post_units {cls : Nat} {tag : Tag} {id : Nat} {detail : Option Nat} (h : KeepsUnits offs r s)
    (hi : ClearOf offs 0x010 := by decide) : KeepsUnits offs r (s.post g f cls tag id detail) := by
  unfold State.post
  extract_lets _ s1 q recs lost s2
  have hirq : KeepsUnits offs r s2 := irq_units (.both (h.upd rfl rfl rfl) h) hi
  exact .both (hirq.upd rfl rfl rfl) (hirq.upd rfl rfl rfl)

theorem fault_units {cls : Nat} {tag : Tag} {id : Nat} {detail : Option Nat} (h : KeepsUnits offs r s)
    (ho : ClearOf offs f.off := by decide) (hi : ClearOf offs 0x010 := by decide) :
    KeepsUnits offs r (s.fault g f cls tag id detail) :=
  post_units (raise_units h ho hi) hi

theorem tally_units {n : Nat} (h : KeepsUnits offs r s) : KeepsUnits offs r (s.tally g f n) := h.upd rfl rfl rfl

/-! ### Memory, tags and runs -/

theorem wrBytes_units {a : Nat} {bs : Bytes} (h : KeepsUnits offs r s) : KeepsUnits offs r (s.wrBytes a bs) := by
  rw [wrBytes_eq]
  exact h.upd rfl rfl rfl

theorem wrLe_units {a n v : Nat} (h : KeepsUnits offs r s) : KeepsUnits offs r (s.wrLe a n v) := wrBytes_units h

theorem wrByte_units {a : Nat} {b : Byte} (h : KeepsUnits offs r s) : KeepsUnits offs r (s.wrByte a b) := h.upd rfl rfl rfl

theorem zeroMem_units {lo hi : Nat} (h : KeepsUnits offs r s) : KeepsUnits offs r (s.zeroMem lo hi) := h.upd rfl rfl rfl

theorem setTag_units {a : Nat} {t : Tag} (h : KeepsUnits offs r s) : KeepsUnits offs r (s.setTag a t) := h.upd rfl rfl rfl

theorem setSide_units {k half slot : Nat} {x : SideSlot} (h : KeepsUnits offs r s) : KeepsUnits offs r (s.setSide k half slot x) :=
  h.upd rfl rfl rfl

theorem setAccPoison_units {k i : Nat} {p : Bool} (h : KeepsUnits offs r s) : KeepsUnits offs r (s.setAccPoison k i p) :=
  h.upd rfl rfl rfl

theorem setRun_units {k : Nat} {q : Option Run} (h : KeepsUnits offs r s) : KeepsUnits offs r (s.setRun k q) := h.upd rfl rfl rfl

theorem updRun_units {x : GaffExec} {k : Run → Run} (h : KeepsUnits offs r s) : KeepsUnits offs r (s.updRun x k) := by
  unfold State.updRun
  split
  · exact h
  · split
    · exact h
    · exact setRun_units h

theorem workDone_units {c : WorkCtx} (h : KeepsUnits offs r s) : KeepsUnits offs r (s.workDone c) := by
  unfold State.workDone
  split
  · exact h
  · split
    · exact h
    · exact h.upd rfl rfl rfl

theorem markLine_units {c : WorkCtx} {a : Nat} (h : KeepsUnits offs r s) : KeepsUnits offs r (s.markLine c a) := by
  unfold State.markLine
  split
  · exact h
  · split
    · exact h
    · exact h.upd rfl rfl rfl

theorem commitLine_units {c : WorkCtx} {a : Nat} {bs : Bytes} {t : Tag} (h : KeepsUnits offs r s) :
    KeepsUnits offs r (s.commitLine c a bs t) :=
  markLine_units (setTag_units (wrBytes_units h))

theorem commitLines_units {c : WorkCtx} {a : Nat} {bs : Bytes} {t : Tag} {pois : Nat → Bool} (h : KeepsUnits offs r s) :
    KeepsUnits offs r (s.commitLines c a bs t pois) :=
  .foldl h fun _ _ ht => commitLine_units ht

end

/-! ### Runs of an output (R75, R98 to R106) -/

section
variable {r s : State} {c : WorkCtx} {f : Nat} {y : TDesc}

theorem reportWr_units {w : Wr} (h : KeepsUnits settled r s) : KeepsUnits settled r (s.reportWr f w) := by
  unfold State.reportWr
  extract_lets +onlyGivenNames s1 s2 s3 s4
  have h1 : KeepsUnits settled r s1 := .both (raise_units h) h
  have h2 : KeepsUnits settled r s2 := .both (raise_units h1) h1
  have h3 : KeepsUnits settled r s3 := .both (bump_units h2) h2
  have h4 : KeepsUnits settled r s4 := .both (raise_units h3) h3
  exact .both (bump_units h4) h4

theorem codeRun_units {sat : Bool} {hist : Val} {dequant : Bool} {o : OutRun} (h : KeepsUnits settled r s) :
    KeepsUnits settled r (s.codeRun c f y sat hist dequant o).1 := by
  unfold State.codeRun
  split
  · exact h
  · exact .foldl (.both (bump_units (raise_units h)) h) fun _ _ ht => reportWr_units (.both (raise_units ht) ht)

theorem putScale_units {row q code : Nat} {t : Tag} {pois : Bool} (h : KeepsUnits settled r s) :
    KeepsUnits settled r (s.putScale c f y row q code t pois) :=
  .both h (markLine_units (setTag_units (wrLe_units h)))

theorem putSmap_units {row q groups n : Nat} {first : Bool} (h : KeepsUnits settled r s) :
    KeepsUnits settled r (s.putSmap f y row q groups n first) :=
  .both h (zeroMem_units (wrByte_units h))

theorem writeRun_units {sat : Bool} {hist : Val} {dequant strict : Bool} {reals : Nat} {acc : OutSum} {o : OutRun}
    (h : KeepsUnits settled r s) : KeepsUnits settled r (s.writeRun c f y sat hist dequant strict reals acc o).1 := by
  unfold State.writeRun
  extract_lets +onlyGivenNames _ _ p1 _ _ _ _ _ _ _ s2 _ _ _ _ _
  have hcoded : KeepsUnits settled r p1.1 := .foldlFst h fun _ _ ht =>
    .both (putSmap_units ((codeRun_units ht).upd rfl rfl rfl)) ((codeRun_units ht).upd rfl rfl rfl)
  have hlines : KeepsUnits settled r s2 := commitLines_units hcoded
  exact .foldl (.both hlines (.both hlines (zeroMem_units hlines))) fun _ _ ht => putScale_units ht

theorem amaxUpdate_units {a : Nat} {amax : Val} {clamps : Nat} {poison : Bool} (h : KeepsUnits settled r s) :
    KeepsUnits settled r (s.amaxUpdate a amax clamps poison) := by
  unfold State.amaxUpdate
  extract_lets +onlyGivenNames _ _ _ _ _ _ _ s4
  have hrec : KeepsUnits settled r s4 := wrLe_units (wrLe_units (wrLe_units (wrLe_units h)))
  exact .both (wrLe_units hrec) hrec

theorem settleAmax_units {q : Run} (h : KeepsUnits settled r s) : KeepsUnits settled r (s.settleAmax q) := by
  unfold State.settleAmax
  extract_lets +onlyGivenNames _
  split
  · exact h
  · refine .both h ?_
    extract_lets +onlyGivenNames s1 s2 s3 _ _
    have h1 : KeepsUnits settled r s1 := amaxUpdate_units h
    have h2 : KeepsUnits settled r s2 := raise_units (bump_units h1)
    have h3 : KeepsUnits settled r s3 := .both h1 (.both (fault_units h2) h2)
    exact .both (raise_units (bump_units h3)) h3

theorem histZero_units {hist : Val} (h : KeepsUnits settled r s) : KeepsUnits settled r (s.histZero f y hist) :=
  .both (raise_units (bump_units h)) h

/-! ### GATHER and conversions (R100, R101, R160) -/

theorem gatherRow_units {x : TDesc} {row : Nat} {src : Option Nat} {idxPoison : Bool} {n : Nat} (h : KeepsUnits settled r s) :
    KeepsUnits settled r (s.gatherRow c f x y row src idxPoison n) := by
  unfold State.gatherRow
  refine .foldl h fun t l ht => ?_
  extract_lets +onlyGivenNames _
  split
  · exact commitLine_units ht
  · exact commitLine_units ht

theorem gather_units {m : Macro} (h : KeepsUnits settled r s) : KeepsUnits settled r (s.gather c f m) :=
  .foldl h fun _ _ ht => .both (raise_units (bump_units (gatherRow_units ht))) (gatherRow_units ht)

theorem convert_units {m : Macro} {hist : Val} {dequant : Bool} (h : KeepsUnits settled r s) :
    KeepsUnits settled r (s.convert c f m hist dequant).1 :=
  .foldlFst h fun _ _ ht => writeRun_units ht

/-! ### ATTN (R157, R158) -/

theorem reportSum_units {u : Sum} (h : KeepsUnits settled r s) : KeepsUnits settled r (s.reportSum f u) := by
  unfold State.reportSum
  extract_lets +onlyGivenNames s1
  have hclamps : KeepsUnits settled r s1 := .both h (raise_units (bumpN_units h))
  exact .both hclamps (bumpN_units hclamps)

theorem readSums_units {ebase : Int} {us : List Sum} (h : KeepsUnits settled r s) : KeepsUnits settled r (s.readSums f ebase us).1 := by
  unfold State.readSums
  extract_lets +onlyGivenNames _ s1 s2 _ _ _
  have h1 : KeepsUnits settled r s1 := .foldl h fun _ _ ht => reportSum_units ht
  have h2 : KeepsUnits settled r s2 := .both h1 (raise_units (bumpN_units h1))
  exact tally_units (.both h2 (raise_units (bumpN_units h2)))

theorem putCode_units {a w e v : Nat} (h : KeepsUnits settled r s) : KeepsUnits settled r (s.putCode a w e v) :=
  .both (wrByte_units h) (wrLe_units h)

theorem cacheColumn_units {g : CacheGeo} {sat : Bool} {k : Nat} {row : List (Val × Bool)} {t : Tag} (h : KeepsUnits settled r s) :
    KeepsUnits settled r (s.cacheColumn f g sat k row t) := by
  unfold State.cacheColumn
  extract_lets +onlyGivenNames _ _
  split
  · extract_lets +onlyGivenNames s1 _
    have hcodes : KeepsUnits settled r s1 :=
      .foldl h fun _ _ ht => .foldl (.both ht (setSide_units ht)) fun _ _ hu => putCode_units hu
    exact .foldl hcodes fun _ _ ht => setTag_units ht
  · exact h

theorem attnAppend_units {m : Macro} {head : Nat} (h : KeepsUnits settled r s) : KeepsUnits settled r (s.attnAppend c f m head) :=
  .foldl h fun _ _ ht => writeRun_units (writeRun_units (cacheColumn_units (cacheColumn_units ht)))

theorem attnHead_units {m : Macro} {hist : Val} {head : Nat} {acc : OutSum} (h : KeepsUnits settled r s) :
    KeepsUnits settled r (s.attnHead c f m hist head acc).1 := by
  unfold State.attnHead
  extract_lets +onlyGivenNames _ _ _ _ _ _ _ _ _ s2 _ _ _ _ _ s3
  have h2 : KeepsUnits settled r s2 := bumpN_units (attnAppend_units h)
  have h3 : KeepsUnits settled r s3 := .both (raise_units h2) h2
  exact .foldlFst h3 fun _ _ ht => writeRun_units (readSums_units (writeRun_units (readSums_units ht)))

theorem attn_units {m : Macro} {hist : Val} (h : KeepsUnits settled r s) : KeepsUnits settled r (s.attn c f m hist).1 :=
  .foldlFst h fun _ _ ht => attnHead_units ht

/-! ### ADAPT_STEP (R161 to R163) -/

theorem adaptParam_units {sat : Bool} {o : OptRec} {theta vel : Nat} {g : Val} (h : KeepsUnits settled r s) :
    KeepsUnits settled r (s.adaptParam sat o theta vel g) :=
  wrLe_units (wrLe_units h)

theorem adaptStage_units {sat : Bool} {x : TDesc} {rows n : Nat} (h : KeepsUnits settled r s) :
    KeepsUnits settled r (s.adaptStage c f sat x y rows n) :=
  .foldl h fun _ _ ht => writeRun_units ht

theorem adapt_units {members : List Nat} {m : Macro} (h : KeepsUnits settled r s) : KeepsUnits settled r (s.adapt c f members m) := by
  unfold State.adapt
  extract_lets +onlyGivenNames _ _ _ _ _ _ _ _ _ _ _ _ _ s3 _
  have h3 : KeepsUnits settled r s3 := readSums_units (readSums_units (.foldl h fun _ _ ht => readSums_units ht))
  refine .both (raise_units (bump_units (wrLe_units h3))) ?_
  extract_lets +onlyGivenNames _ s4 s5 _ _
  have h4 : KeepsUnits settled r s4 := .foldl h3 fun _ _ ht => .foldl ht fun _ _ hu => adaptParam_units hu
  have h5 : KeepsUnits settled r s5 := .foldl h4 fun _ _ ht => .foldl ht fun _ _ hu => adaptParam_units hu
  exact wrLe_units (adaptStage_units (adaptStage_units h5))

/-! ### Poison of a stopped share (R156) -/

theorem poisonRun_units {src : Tag} {row e0 n : Nat} (h : KeepsUnits settled r s) :
    KeepsUnits settled r (s.poisonRun f y src row e0 n) :=
  .foldl h fun _ _ ht => setTag_units ht

theorem poisonUnwritten_units {x : GaffExec} (h : KeepsUnits settled r s) : KeepsUnits settled r (s.poisonUnwritten f x) := by
  unfold State.poisonUnwritten
  refine .both ?_ (.both ?_ h)
  · exact .foldl h fun _ _ ht => .foldl ht fun _ _ hu => poisonRun_units hu
  · exact .foldl h fun _ _ ht => .foldl ht fun _ _ hu => poisonRun_units hu

theorem poisonRegion_units {base n : Nat} (h : KeepsUnits settled r s) : KeepsUnits settled r (s.poisonRegion f base n) :=
  .foldl h fun _ _ ht => setAccPoison_units ht

end

end State

end Sys2Proof.Machine
end

section
/-! SUPPORT. The checks at issue read the memory, the tags, the registers and the deferred regions, and nothing else (R142, R143, R153). -/

namespace Sys2Proof.Machine

/-- Two states with the same memory, tags, registers and deferred regions. -/
structure ChecksAlike (r s : State) : Prop where
  mem : s.mem = r.mem
  tags : s.tags = r.tags
  regs : s.regs = r.regs
  deferred : ∀ k, (s.floe k).deferred = (r.floe k).deferred

namespace ChecksAlike

variable {r s : State} (h : ChecksAlike r s)

include h

theorem readDesc_eq (f off : Nat) : readDesc s f off = readDesc r f off := by
  unfold readDesc State.rdLe
  simp only [rdBytes_of_mem h.mem]

theorem sliceSlot_eq (f : Nat) (d : TDesc) (i : Nat) : sliceSlot s f d i = sliceSlot r f d i := by
  unfold sliceSlot State.rdByte State.poisonAt State.tagAt
  rw [h.mem, h.tags]

theorem slotServes_eq (f j fmt : Nat) : slotServes s f j fmt = slotServes r f j fmt := by
  unfold slotServes
  rw [bit_of_regs h.regs, rf_of_regs h.regs]

theorem inAlloc_eq (f : Nat) (sp : Nat × Nat) : inAlloc s f sp = inAlloc r f sp := by
  unfold inAlloc
  rw [rf_of_regs h.regs, rf_of_regs h.regs]

theorem fmtIllegal_eq (m : Macro) (f : Nat) : fmtIllegal s m f = fmtIllegal r m f := by
  unfold fmtIllegal
  simp only [h.readDesc_eq]

theorem cbMissing_eq (m : Macro) (f : Nat) (sh : Share) : cbMissing s m f sh = cbMissing r m f sh := by
  unfold cbMissing
  simp only [h.readDesc_eq, h.sliceSlot_eq, h.slotServes_eq]

theorem shapeCause_eq (m : Macro) (f : Nat) (sh : Share) (d : Option Deferred) : shapeCause s m f sh d = shapeCause r m f sh d := by
  unfold shapeCause
  simp only [h.readDesc_eq, h.inAlloc_eq]

theorem memberCycles_eq (m : Macro) (f : Nat) (d : Option Deferred) : memberCycles s m f d = memberCycles r m f d := by
  unfold memberCycles
  simp only [h.readDesc_eq]

theorem wcOf_eq (m : Macro) : wcOf s m = wcOf r m := by
  unfold wcOf
  simp only [h.memberCycles_eq, h.deferred]

theorem checkShare_eq (m : Macro) (f : Nat) (p : Bool) : checkShare s m f p = checkShare r m f p := by
  unfold checkShare
  simp only [h.deferred, h.fmtIllegal_eq, h.cbMissing_eq, h.shapeCause_eq, h.wcOf_eq]

end ChecksAlike

end Sys2Proof.Machine
end

section
/-! SUPPORT. A delivery to a single member: its checks, and what the start or the refusal of its share leaves. -/

namespace Sys2Proof.Machine

@[simp] theorem run_setRun (s : State) (r : Nat) (q : Option Run) : (s.setRun r q).run r = q := by
  simp [State.setRun, State.run]

/-! ### The checks of one member (R142, R144) -/

section
variable {s : State} {r f : Nat} {q : Run} {x : GaffExec}

theorem checkRun_fails (hq : q.members = [f]) (hx : (s.floe f).exec = some x)
    (hv : (checkShare s (macroOf x.word) f x.badWord).fails = true) :
    s.checkRun r q = s.refuseRun r q [(f, (macroOf x.word).id, checkShare s (macroOf x.word) f x.badWord)] := by
  simp [State.checkRun, hq, hx, hv]

/-- Between the checks and the start, the run learns its readers, and a reader's history of zeros is reported (R103). -/
theorem checkRun_passes (hq : q.members = [f]) (hx : (s.floe f).exec = some x)
    (hv : (checkShare s (macroOf x.word) f x.badWord).fails = false) :
    ∃ t hist, KeepsUnits settled s t ∧ s.checkRun r q = t.beginShare f x (checkShare s (macroOf x.word) f x.badWord) q.ctx hist := by
  simp only [State.checkRun, hq, hx, List.filterMap_cons, List.filterMap_nil, Option.map_some, List.map_cons, List.map_nil, List.any_cons,
    List.any_nil, hv, Bool.or_false, Bool.false_eq_true, if_false, List.foldl_cons, List.foldl_nil]
  exact ⟨_, _, .both (State.setRun_units (.refl s)) (.foldl (State.setRun_units (.refl s)) fun _ _ ht => State.histZero_units ht), rfl⟩

end

/-! ### The start of a share (R145, R147, R152, R157, R160) -/

/-- What the start of a share leaves: the share in execution with its word and run at a phase, the next run's number, and the worst case. -/
structure Begun (f : Nat) (x : GaffExec) (p : GaffPhase) (next wc : Nat) (t : State) : Prop where
  exec : ∃ y, (t.floe f).exec = some y ∧ y.word = x.word ∧ y.run = x.run ∧ y.phase = p
  nextRun : t.nextRun = next
  cycles : t.rf (pgGaff f) F.GAFF_WC_CYC = wc

section
variable {f : Nat} {x y : GaffExec} {p : GaffPhase} {next wc : Nat} {s t : State}

/-- A floe that takes a share after its worst case was written. -/
theorem Begun.setFloe {v : Verdict} {fl : FloeSt} (h : KeepsWords settled (s.wf (pgGaff f) F.GAFF_WC_CYC v.wc) t)
    (hexec : fl.exec = some y) (hword : y.word = x.word) (hrun : y.run = x.run) (hphase : y.phase = p) :
    Begun f x p s.nextRun (v.wc % 2 ^ 32) (t.setFloe f fl) where
  exec := ⟨y, by rw [floe_setFloe, hexec], hword, hrun, hphase⟩
  nextRun := h.nextRun
  cycles := (rf_of_regs (setFloe_regs ..) _ _).trans ((h.rf _ _ (by decide)).trans (rf_wf_same _ _ _ _ (by decide)))

theorem Begun.trans (h : Begun f x p next wc s) (k : KeepsUnits settled s t) : Begun f x p next wc t where
  exec := by rw [k.floe]; exact h.exec
  nextRun := k.nextRun.trans h.nextRun
  cycles := (k.rf _ _ (by decide)).trans h.cycles

/-- A deferred region that is lost is reported (R152). -/
theorem dropDeferred_words (h : KeepsWords settled s t) (f : Nat) : KeepsWords settled s (t.dropDeferred f) := by
  unfold State.dropDeferred
  dsimp only
  split
  · exact h.setFloe.trans (State.raise_units (.refl _)).toKeepsWords
  · exact h

/-- The phase and the state that follow one test. -/
theorem Begun.both {q : GaffPhase} {c : Prop} [Decidable c] (h : Begun f x p next wc s) (k : Begun f x q next wc t) :
    Begun f x (if c then p else q) next wc (if c then s else t) := by
  split
  · exact h
  · exact k

/-- A share begins at the phase that its shape and its opcode give. -/
theorem beginShare_begun {r : State} {v : Verdict} (c : WorkCtx) (hist : Val)
    (hidle : v.idle = (checkShare r (macroOf x.word) f false).idle) (hregion : hasRegion (s.floe f) = hasRegion (r.floe f)) :
    Begun f x (startPhase r f (macroOf x.word)) s.nextRun (v.wc % 2 ^ 32) (s.beginShare f x v c hist) := by
  have hwc : KeepsWords settled (s.wf (pgGaff f) F.GAFF_WC_CYC v.wc) (s.wf (pgGaff f) F.GAFF_WC_CYC v.wc) := .refl _
  have hdrop := dropDeferred_words hwc f
  unfold State.beginShare startPhase
  rw [← hidle, ← hregion]
  refine .both ?idle (.both ?region (.both ?tiled (.both ?brash ?once)))
  case idle => exact .setFloe (iteInduction (fun _ => hwc) fun _ => hdrop) rfl rfl rfl rfl
  case region =>
    have hfloe : (s.wf (pgGaff f) F.GAFF_WC_CYC v.wc).floe f = s.floe f := rfl
    simp only [hfloe]
    rcases hd : (s.floe f).deferred with _ | ⟨w, _ | g⟩
    · exact .setFloe hwc rfl rfl rfl (by simp [hasRegion, hd])
    · exact .setFloe hwc rfl rfl rfl (by simp [hasRegion, hd])
    · exact .setFloe hwc rfl rfl rfl (by simp [hasRegion, hd])
  case tiled => exact .setFloe hdrop rfl rfl rfl rfl
  case brash =>
    exact .setFloe (iteInduction (fun _ => hdrop) fun _ => hdrop.trans (State.raise_units (.refl _)).toKeepsWords) rfl rfl rfl rfl
  case once =>
    refine .trans ?_ (State.updRun_units (.refl _))
    exact .setFloe (hdrop.trans (KeepsUnits.bothFst (State.gather_units (.refl _)) (State.convert_units (.refl _))).toKeepsWords)
      rfl rfl rfl rfl

end

/-! ### The refusal of a share (R142, R144) -/

section
variable (s : State) (f id : Nat) (v : Verdict)

theorem exec_refuseMember : ((s.refuseMember f id v).floe f).exec = none := gaffExec_setExec _ f none

/-- A refusal stores nothing. -/
theorem refuseMember_stores : (s.refuseMember f id v).mem = s.mem ∧ (s.refuseMember f id v).tags = s.tags := by
  simp [State.refuseMember, apply_ite State.mem, apply_ite State.tags]

/-- A refusal is counted with the word's ID, and the flags that it sets are apart from both. -/
theorem refuseMember_counts :
    (s.refuseMember f id v).rf (pgGaff f) F.GAFF_FAULT_CNT = min (s.rf (pgGaff f) F.GAFF_FAULT_CNT + 1) 0xFFFFFFFF ∧
      (s.refuseMember f id v).rf (pgGaff f) F.GAFF_FAULT_ID = id % 2 ^ 32 := by
  let r := (s.bump (pgGaff f) F.GAFF_FAULT_CNT).wf (pgGaff f) F.GAFF_FAULT_ID id
  have hkeeps : KeepsWords [0x068, 0x050] r (s.refuseMember f id v) := by
    unfold State.refuseMember
    extract_lets +onlyGivenNames _ _ s2 s3 s4 s5 s6 s7 s8 s9 _
    have h2 : KeepsUnits [0x068, 0x050] r s2 := State.wf_units (.refl r)
    have h3 : KeepsUnits [0x068, 0x050] r s3 := .both (State.wf_units h2) h2
    have h4 : KeepsUnits [0x068, 0x050] r s4 := .both (State.raise_units h3) h3
    have h5 : KeepsUnits [0x068, 0x050] r s5 := .both (State.raise_units h4) h4
    have h6 : KeepsUnits [0x068, 0x050] r s6 := .both (State.raise_units h5) h5
    have h7 : KeepsUnits [0x068, 0x050] r s7 := .both (State.raise_units h6) h6
    have h8 : KeepsUnits [0x068, 0x050] r s8 := .both (State.raise_units h7) h7
    have h9 : KeepsUnits [0x068, 0x050] r s9 := .both (State.raise_units h8) h8
    exact (KeepsUnits.both h9 (State.raise_units h9)).toKeepsWords.setFloe
  refine ⟨(hkeeps.rf _ _ (by decide)).trans ?_, (hkeeps.rf _ _ (by decide)).trans (rf_wf_same _ _ _ _ (by decide))⟩
  exact (rf_wf_apart _ _ _ _ (.inl ⟨by decide, rfl⟩)).trans (rf_bump _ _ ⟨rfl, rfl⟩)

end

/-- Work without cells marks none as failed (R355). -/
theorem workRefused_units {offs : List Nat} {r s : State} {c : WorkCtx} (h : KeepsUnits offs r s) (hc : c.cells = []) :
    KeepsUnits offs r (s.workRefused c) := by
  unfold State.workRefused State.markFailed
  rw [hc]
  exact h.upd rfl rfl rfl

/-- A refusal of the only member is its own, and the record (R144). -/
theorem refuseRun_alone (s : State) (r : Nat) (q : Run) (f id : Nat) {v : Verdict} (hv : v.fails = true) :
    s.refuseRun r q [(f, id, v)] =
      (((s.refuseMember f id v).post (pgGaff f) v.flag 5 0 id (some v.cause)).workRefused q.ctx).setRun r none := by
  simp [State.refuseRun, hv]

/-! ### A member takes its word (R135, R136) -/

/-- The share of a member that has taken its word, before the checks. -/
def takenShare (r : Nat) (w : BitVec 512) (bad : Bool) : GaffExec :=
  { run := some r, word := w, badWord := bad, geo := w, phase := .peers }

/-- A member has taken its word, and its run knows it. -/
def State.taken (s : State) (f r : Nat) (w : BitVec 512) (bad : Bool) (q : Run) : State :=
  (s.setExec f (some (takenShare r w bad))).setRun r (some { q with started := q.started ++ [f] })

section
variable {s : State} {f r : Nat} {w : BitVec 512} {bad : Bool} {q : Run}

/-- The last member to start brings the checks. -/
theorem startMember_last (hrun : s.run r = some q) (hall : ∀ k ∈ q.members, k ∈ q.started ++ [f]) :
    s.startMember f r w bad = (s.taken f r w bad q).checkRun r { q with started := q.started ++ [f] } := by
  have hrun' : (s.setExec f (some (takenShare r w bad))).run r = some q := hrun
  unfold takenShare at hrun'
  simp only [State.startMember, hrun', List.all_eq_true, List.contains_iff_mem, if_pos hall]
  rfl

/-- A member waits while another has not started. -/
theorem startMember_waits (hrun : s.run r = some q) (hwait : ∃ k ∈ q.members, k ∉ q.started ++ [f]) :
    s.startMember f r w bad = s.taken f r w bad q := by
  have hrun' : (s.setExec f (some (takenShare r w bad))).run r = some q := hrun
  have hnot : ¬∀ k ∈ q.members, k ∈ q.started ++ [f] := by simpa using hwait
  unfold takenShare at hrun'
  simp only [State.startMember, hrun', List.all_eq_true, List.contains_iff_mem, if_neg hnot]
  rfl

theorem exec_taken (s : State) (f r : Nat) (w : BitVec 512) (bad : Bool) (q : Run) :
    ((s.taken f r w bad q).floe f).exec = some (takenShare r w bad) :=
  gaffExec_setExec s f (some (takenShare r w bad))

/-- A share that starts or ends leaves the deferred regions. -/
theorem deferred_setExec (s : State) (f : Nat) (x : Option GaffExec) (k : Nat) :
    ((s.setExec f x).floe k).deferred = (s.floe k).deferred := by
  unfold State.setExec
  by_cases hk : k = f
  · rw [hk, floe_setFloe]
  · rw [floe_setFloe_other _ _ hk]

end

/-! ### The delivery of a word to its only member (R136) -/

/-- The run of a delivered word with one member. -/
def aloneRun (f : Nat) (w : BitVec 512) : Run := { word := w, sw := false, members := [f], started := [], left := [f] }

/-- A new run for a delivered word with one member. -/
def State.openRun (s : State) (f : Nat) (w : BitVec 512) : State :=
  { s with nextRun := s.nextRun + 1 }.setRun s.nextRun (some (aloneRun f w))

/-- The only member of a delivered word has taken it, and the checks are due. -/
def State.delivered (s : State) (f : Nat) (w : BitVec 512) : State := (s.openRun f w).taken f s.nextRun w false (aloneRun f w)

section
variable {s : State} {f : Nat} {w : BitVec 512}

/-- A word for a working idle floe that is its only member reaches the checks at once. -/
theorem issueMacro_alone (hworks : s.works (pgGaff f) = true) (hidle : (s.floe f).exec = none) (hwing : (macroOf w).wingOk = true)
    (hmem : (macroOf w).members = [f]) :
    s.issueMacro {} f w = (s.delivered f w).checkRun s.nextRun { aloneRun f w with started := [f] } := by
  have hidle' : ((s.openRun f w).floe f).exec = none := hidle
  have hstart : s.issueMacro {} f w = (s.openRun f w).startMember f s.nextRun w false := by
    unfold State.openRun aloneRun at hidle'
    simp [State.issueMacro, State.deliverMacro, hwing, hmem, hworks, hidle, hidle', State.openRun, aloneRun]
  exact hstart.trans (startMember_last (run_setRun ..) (by simp [aloneRun]))

/-- A delivery changes nothing that the checks read. -/
theorem delivered_checksAlike : ChecksAlike s (s.delivered f w) :=
  ⟨rfl, rfl, rfl, deferred_setExec (s.openRun f w) f (some (takenShare s.nextRun w false))⟩

/-- A word that passes the checks begins its share (R142, R145, R147). -/
theorem issueMacro_begins (hacc : Accepted s f (macroOf w)) :
    Begun f (takenShare s.nextRun w false) (startPhase s f (macroOf w)) (s.nextRun + 1) ((checkShare s (macroOf w) f false).wc % 2 ^ 32)
      (s.issueMacro {} f w) := by
  obtain ⟨hworks, hidle, hwing, hmem, hpass⟩ := hacc
  have halike := delivered_checksAlike (s := s) (f := f) (w := w)
  have hexec : ((s.delivered f w).floe f).exec = some (takenShare s.nextRun w false) := exec_taken ..
  have hcheck : checkShare (s.delivered f w) (macroOf (takenShare s.nextRun w false).word) f false = checkShare s (macroOf w) f false :=
    halike.checkShare_eq ..
  obtain ⟨t, hist, hkeeps, hbegin⟩ := checkRun_passes (q := { aloneRun f w with started := [f] }) (r := s.nextRun) rfl hexec
    ((congrArg Verdict.fails hcheck).trans hpass)
  have hregion : hasRegion (t.floe f) = hasRegion (s.floe f) := by
    unfold hasRegion
    rw [hkeeps.floe, halike.deferred]
  rw [issueMacro_alone hworks hidle hwing hmem, hbegin]
  have hb := beginShare_begun (x := takenShare s.nextRun w false) (v := checkShare (s.delivered f w) (macroOf w) f false) (r := s) {} hist
    (congrArg Verdict.idle hcheck) hregion
  rw [hkeeps.nextRun] at hb
  exact hcheck ▸ hb

/-- A word that fails a check is refused by its only member (R142, R144). -/
theorem issueMacro_refused (hworks : s.works (pgGaff f) = true) (hidle : (s.floe f).exec = none) (hwing : (macroOf w).wingOk = true)
    (hmem : (macroOf w).members = [f]) (hfails : (checkShare s (macroOf w) f false).fails = true) :
    ∃ t, s.issueMacro {} f w = t ∧ (t.floe f).exec = none ∧ t.mem = s.mem ∧ t.tags = s.tags ∧
      t.rf (pgGaff f) F.GAFF_FAULT_CNT = min (s.rf (pgGaff f) F.GAFF_FAULT_CNT + 1) 0xFFFFFFFF ∧
      t.rf (pgGaff f) F.GAFF_FAULT_ID = (macroOf w).id % 2 ^ 32 := by
  have hexec : ((s.delivered f w).floe f).exec = some (takenShare s.nextRun w false) := exec_taken ..
  have hcheck : checkShare (s.delivered f w) (macroOf (takenShare s.nextRun w false).word) f false = checkShare s (macroOf w) f false :=
    delivered_checksAlike.checkShare_eq ..
  have hfails' := (congrArg Verdict.fails hcheck).trans hfails
  have hrefuse := (checkRun_fails (r := s.nextRun) (q := { aloneRun f w with started := [f] }) rfl hexec hfails').trans
    (refuseRun_alone _ _ _ _ _ hfails')
  refine ⟨_, (issueMacro_alone hworks hidle hwing hmem).trans hrefuse, ?_⟩
  generalize checkShare (s.delivered f w) _ f _ = v
  have hunits : KeepsUnits [0x068, 0x050] ((s.delivered f w).refuseMember f (macroOf w).id v)
      (((((s.delivered f w).refuseMember f (macroOf w).id v).post (pgGaff f) v.flag 5 0 (macroOf w).id (some v.cause)).workRefused
        {}).setRun s.nextRun none) :=
    State.setRun_units (workRefused_units (State.post_units (.refl _)) rfl)
  obtain ⟨hcount, hid⟩ := refuseMember_counts (s.delivered f w) f (macroOf w).id v
  obtain ⟨hmem', htags⟩ := refuseMember_stores (s.delivered f w) f (macroOf w).id v
  refine ⟨?_, ?_, ?_, ?_, ?_⟩
  · exact (congrArg FloeSt.exec (hunits.floe f)).trans (exec_refuseMember ..)
  · rw [setRun_mem, workRefused_mem, post_mem]
    exact hmem'
  · rw [setRun_tags, workRefused_tags, post_tags]
    exact htags
  · exact (hunits.rf _ _ (by decide)).trans hcount
  · exact (hunits.rf _ _ (by decide)).trans hid

end

end Sys2Proof.Machine
end

section
/-! PROOFS. The opcodes of the Gaff. -/

namespace Sys2Proof.Machine

section
variable {i : Fin 64 → BitVec 512 → Instr} {opc : Nat}
  (hi : ∀ rx w s, exec (i rx w) s = .next (s.issueMacro {} rx (withOpc w opc)))

include hi

/-- An opcode whose command delivers its word begins an accepted share. -/
theorem gaffStarts_of_issue : GaffStarts i opc := by
  intro rx w s hacc
  obtain ⟨⟨x, hx, hword, hrun, hphase⟩, hnext, hcycles⟩ := issueMacro_begins hacc
  exact ⟨_, x, hi rx w s, hx, hword, hrun, hphase, hnext, hcycles⟩

/-- An opcode whose command delivers its word refuses a share that fails a check. -/
theorem gaffRefuses_of_issue : GaffRefuses i opc := by
  intro rx w s hworks hidle hwing hmem hfails
  obtain ⟨t, ht, hrest⟩ := issueMacro_refused hworks hidle hwing hmem hfails
  exact ⟨t, (hi rx w s).trans (congrArg _ ht), hrest⟩

end

/-- Settles O15: each opcode's command delivers the word with its opcode, and one lemma each says what an accepted and a refused delivery
to a single member leave. The outputs that GATHER, QUANT and DEQUANT write at the start (assumption 32) leave the share and
GAFF_WC_CYC alone. -/
theorem gaffOpcodes : Obligations.GaffOpcodes :=
  ⟨⟨gaffStarts_of_issue fun _ _ _ => rfl, gaffStarts_of_issue fun _ _ _ => rfl, gaffStarts_of_issue fun _ _ _ => rfl,
      gaffStarts_of_issue fun _ _ _ => rfl, gaffStarts_of_issue fun _ _ _ => rfl, gaffStarts_of_issue fun _ _ _ => rfl,
      gaffStarts_of_issue fun _ _ _ => rfl, gaffStarts_of_issue fun _ _ _ => rfl, gaffStarts_of_issue fun _ _ _ => rfl,
      gaffStarts_of_issue fun _ _ _ => rfl, gaffStarts_of_issue fun _ _ _ => rfl⟩,
    gaffRefuses_of_issue fun _ _ _ => rfl, gaffRefuses_of_issue fun _ _ _ => rfl, gaffRefuses_of_issue fun _ _ _ => rfl,
    gaffRefuses_of_issue fun _ _ _ => rfl, gaffRefuses_of_issue fun _ _ _ => rfl, gaffRefuses_of_issue fun _ _ _ => rfl,
    gaffRefuses_of_issue fun _ _ _ => rfl, gaffRefuses_of_issue fun _ _ _ => rfl, gaffRefuses_of_issue fun _ _ _ => rfl,
    gaffRefuses_of_issue fun _ _ _ => rfl, gaffRefuses_of_issue fun _ _ _ => rfl⟩

end Sys2Proof.Machine
end

section
/-! PROOFS. Software issue, the latch, and the time-out of a wing (R135 to R137). -/

namespace Sys2Proof.Machine

/-! ### GO in GAFF_ISSUE (R136) -/

section
variable {s : State} {f : Fin 64} {a : Agent} {v : Word}

theorem exec_gaffIssue_go (hready : s.ready (pgGaff f) = true) (hgo : F.GAFF_ISSUE_GO.of v = 1) :
    exec (.gaffIssue a f v) s = .next (s.gaffGo f (F.GAFF_ISSUE_OFFSET.of v)) := by
  change Host.Outcome.next (s.onReady a (pgGaff f) 0x040 fun s => s.wrGaffIssue f v) = _
  simp only [State.onReady, State.wrGaffIssue, hready, hgo, if_true]

theorem gaffGo_denied {off : Nat} (hpart : (s.floePart f).isSome = true) :
    s.gaffGo f off = s.raise (pgGaff f) F.GAFF_ERR_STAT_ISSUE_DENIED := if_pos hpart

/-- The word that a write of GAFF_ISSUE names, in the latch (R136). -/
def issuedLatch (s : State) (f : Nat) (v : Word) : GaffLatch :=
  { run := none, word := BitVec.ofNat 512 (s.rdLe (issueWordAt f v) 64), badWord := s.poisonAt (issueWordAt f v) }

/-- On a busy working floe of no partition, the word goes to the latch or overruns it. -/
theorem gaffGo_busy (hpart : s.floePart f = none) (hworks : s.works (pgGaff f) = true) (hbusy : (s.floe f).exec.isSome = true) :
    s.gaffGo f (F.GAFF_ISSUE_OFFSET.of v) =
      if (s.floe f).glatch.isSome then
        s.fault (pgGaff f) F.GAFF_ERR_STAT_ISSUE_OVERRUN 4 0 (macroOf (issuedLatch s f v).word).id
      else s.setFloe f { s.floe f with glatch := some (issuedLatch s f v) } := by
  simp [State.gaffGo, hpart, hworks, hbusy, issueWordAt, issuedLatch]

end

/-! ### The latched word (R135) -/

/-- The latched word of a run is taken by its member once nothing executes. -/
theorem exec_latchedMacroStart_run {s : State} {f : Fin 64} {l : GaffLatch} {r : Nat} (hidle : (s.floe f).exec = none)
    (hlatch : (s.floe f).glatch = some l) (hen : s.enabled (pgGaff f) = true) (hrun : l.run = some r) :
    exec (.latchedMacroStart f) s = .next ((s.setFloe f { s.floe f with glatch := none }).startMember f r l.word l.badWord) := by
  change Host.Outcome.next (s.latchedStart f) = _
  simp [State.latchedStart, hidle, hlatch, hen, hrun]

theorem glatch_taken (s : State) (f r : Nat) (w : BitVec 512) (bad : Bool) (q : Run) :
    ((s.taken f r w bad q).floe f).glatch = (s.floe f).glatch := by
  change ((s.setExec f (some (takenShare r w bad))).floe f).glatch = _
  rw [State.setExec, floe_setFloe]

/-! ### A wing that has not signalled in time (R137) -/

/-- A member whose wing has not signalled in time gives up its word. -/
def State.signalLost (s : State) (f id : Nat) : State :=
  (((((s.bump (pgGaff f) F.GAFF_FAULT_CNT).wf (pgGaff f) F.GAFF_FAULT_ID id).raise (pgGaff f) F.GAFF_ERR_STAT_WING_BAD).wf (pgGaff f)
    F.GAFF_SHAPE_CAUSE 0).setExec f none).post (pgGaff f) F.GAFF_ERR_STAT_WING_BAD 5 0 id (some 0)

theorem exec_wingSignalTimeout_alone {s : State} {f : Fin 64} {x : GaffExec} (hx : (s.floe f).exec = some x) (hphase : x.phase = .signal)
    (halone : s.signalled (macroOf x.word) = [((f : Nat), x)]) :
    exec (.wingSignalTimeout f) s = .next (s.signalLost f (macroOf x.word).id) := by
  change Host.Outcome.next (s.signalTimeout f) = _
  simp [State.signalTimeout, hx, hphase, halone, State.signalLost]

section
variable (s : State) (f id : Nat)

theorem signalLost_exec : ((s.signalLost f id).floe f).exec = none :=
  (congrArg FloeSt.exec (floe_of_floes (post_floes ..) f)).trans (gaffExec_setExec _ f none)

theorem signalLost_stores : (s.signalLost f id).mem = s.mem ∧ (s.signalLost f id).tags = s.tags := by
  simp [State.signalLost]

/-- The flag, the count and the ID of a wing that has not signalled: the writes that follow each are apart from it. -/
theorem signalLost_registers :
    (s.signalLost f id).bit (pgGaff f) F.GAFF_ERR_STAT_WING_BAD = true ∧
      (s.signalLost f id).rf (pgGaff f) F.GAFF_FAULT_CNT = min (s.rf (pgGaff f) F.GAFF_FAULT_CNT + 1) 0xFFFFFFFF ∧
      (s.signalLost f id).rf (pgGaff f) F.GAFF_FAULT_ID = id % 2 ^ 32 := by
  let counted := (s.bump (pgGaff f) F.GAFF_FAULT_CNT).wf (pgGaff f) F.GAFF_FAULT_ID id
  let flagged := counted.raise (pgGaff f) F.GAFF_ERR_STAT_WING_BAD
  have hcounted : KeepsWords [0x068, 0x050] counted flagged := (State.raise_units (.refl counted)).toKeepsWords
  let caused := flagged.wf (pgGaff f) F.GAFF_SHAPE_CAUSE 0
  have hcaused : KeepsWords [0x068, 0x050, 0x048] flagged caused := (State.wf_units (.refl flagged)).toKeepsWords
  have hposted : KeepsWords [0x068, 0x050, 0x048] (caused.setExec f none) (s.signalLost f id) := (State.post_units (.refl _)).toKeepsWords
  have hflagged : KeepsWords [0x068, 0x050, 0x048] flagged (s.signalLost f id) := hcaused.setFloe.trans hposted
  refine ⟨?_, ?_, ?_⟩
  · exact (hflagged.bit _ _ (by decide)).trans (bit_raise _ _ rfl (by decide) (by decide))
  · exact (hflagged.rf _ _ (by decide)).trans ((hcounted.rf _ _ (by decide)).trans
      ((rf_wf_apart _ _ _ _ (.inl ⟨by decide, rfl⟩)).trans (rf_bump _ _ ⟨rfl, rfl⟩)))
  · exact (hflagged.rf _ _ (by decide)).trans ((hcounted.rf _ _ (by decide)).trans (rf_wf_same _ _ _ _ (by decide)))

end

/-- Settles O16: a write with GO is the branch of R136 that the floe is in, a latched word is taken by its member, and a wing that has not
signalled gives up. -/
theorem gaffIssueAndLatch : Obligations.GaffIssueAndLatch := by
  intro f s
  refine ⟨fun a v hready hgo => ⟨?latch, ?overrun, ?denied⟩, ?wait, ?timeout⟩
  case latch =>
    intro hpart hworks hbusy hlatch
    refine ⟨_, exec_gaffIssue_go hready hgo, ?_⟩
    rw [gaffGo_busy hpart hworks hbusy, hlatch, if_neg (by simp)]
    simp [issuedLatch]
  case overrun =>
    intro hpart hworks hbusy hlatch
    refine ⟨_, exec_gaffIssue_go hready hgo, ?_⟩
    rw [gaffGo_busy hpart hworks hbusy, if_pos hlatch]
    exact ⟨fault_floes .., bit_fault _ _ _ _ _ _ rfl (by decide) (by decide), fault_mem .., fault_tags ..⟩
  case denied =>
    intro hpart
    refine ⟨_, exec_gaffIssue_go hready hgo, ?_⟩
    rw [gaffGo_denied hpart]
    exact ⟨raise_floes .., bit_raise _ _ rfl (by decide) (by decide), raise_mem .., raise_tags ..⟩
  case wait =>
    rintro l r q hidle hlatch hen hrun hq ⟨k, hk, hkf, hkq⟩
    have hwait : ∃ k ∈ q.members, k ∉ q.started ++ [(f : Nat)] := ⟨k, hk, by simp [hkf, hkq]⟩
    refine ⟨_, exec_latchedMacroStart_run hidle hlatch hen hrun, ?_⟩
    rw [startMember_waits (s := s.setFloe f { s.floe f with glatch := none }) hq hwait]
    exact ⟨(glatch_taken ..).trans (congrArg FloeSt.glatch (floe_setFloe ..)), exec_taken .., run_setRun .., rfl, rfl⟩
  case timeout =>
    intro x hx hphase halone
    obtain ⟨hflag, hcount, hid⟩ := signalLost_registers s f (macroOf x.word).id
    obtain ⟨hmem, htags⟩ := signalLost_stores s f (macroOf x.word).id
    exact ⟨_, exec_wingSignalTimeout_alone hx hphase halone, signalLost_exec .., hflag, hcount, hid, hmem, htags⟩

end Sys2Proof.Machine
end

section
/-! PROOFS. How a share ends, what takes Brash, and a codebook load that waited (R136, R145, R156, R197, R89). -/

namespace Sys2Proof.Machine

/-! ### Completion (R136, R145, R147) -/

/-- The floe executes nothing, and Brash is free of the Gaff. -/
def Freed (t : State) (f : Nat) : Prop := (t.floe f).exec = none ∧ (t.floe f).core.gaffHolds = false

theorem Freed.trans {s t : State} {f : Nat} {offs : List Nat} (h : Freed s f) (k : KeepsUnits offs s t) : Freed t f := by
  unfold Freed
  rw [k.floe]
  exact h

/-- Nothing executes on the floe any longer, and Brash is free of the Gaff. -/
def State.endShare (s : State) (f : Nat) : State :=
  s.setFloe f { s.floe f with exec := none, core := { (s.floe f).core with gaffHolds := false } }

theorem endShare_freed (s : State) (f : Nat) : Freed (s.endShare f) f := by
  unfold Freed State.endShare
  rw [floe_setFloe]
  exact ⟨rfl, rfl⟩

/-- What the last member settles concerns outputs and the scoreboard. -/
theorem memberDone_units (s : State) (f : Nat) (x : GaffExec) : KeepsUnits settled (s.endShare f) (s.memberDone f x) := by
  unfold State.memberDone
  extract_lets +onlyGivenNames _ _ s1
  have hend : KeepsUnits settled (s.endShare f) s1 := .refl _
  split
  · exact hend
  · split
    · exact hend
    · exact .both (State.setRun_units (State.workDone_units (State.settleAmax_units hend))) (State.setRun_units hend)

section
variable (s : State) (f : Nat) (x : GaffExec)

theorem memberDone_freed : Freed (s.memberDone f x) f := (endShare_freed s f).trans (memberDone_units s f x)

theorem memberDone_words : KeepsWords settled s (s.memberDone f x) :=
  (KeepsWords.refl s).setFloe.trans (memberDone_units s f x).toKeepsWords

end

section
variable {s : State} {f : Fin 64} {x : GaffExec}

/-- A completion that is counted before the member reports it. -/
theorem counted_memberDone {t : State} (h : KeepsUnits settled (s.bump (pgGaff f) F.GAFF_DONE_CNT) t) :
    ((t.memberDone f x).floe f).exec = none ∧ ((t.memberDone f x).floe f).core.gaffHolds = false ∧
      (t.memberDone f x).rf (pgGaff f) F.GAFF_DONE_CNT = min (s.rf (pgGaff f) F.GAFF_DONE_CNT + 1) 0xFFFFFFFF := by
  obtain ⟨hexec, hfree⟩ := memberDone_freed t f x
  exact ⟨hexec, hfree, ((h.toKeepsWords.trans (memberDone_words t f x)).rf _ _ (by decide)).trans (rf_bump _ _ ⟨rfl, rfl⟩)⟩

theorem exec_zeroDimComplete (hx : (s.floe f).exec = some x) (hphase : x.phase = .zero) :
    exec (.zeroDimComplete f) s =
      .next (((if (macroOf x.word).zeroDim then (s.bump (pgGaff f) F.GAFF_DONE_CNT).bump (pgGaff f) F.GAFF_ZERO_CNT
        else s.bump (pgGaff f) F.GAFF_DONE_CNT).tally (pgGaff f) F.GAFF_BUSY_CYC_LO 4).memberDone f x) := by
  change Host.Outcome.next (s.zeroDone f) = _
  simp only [State.zeroDone, hx, hphase, if_true]

theorem exec_shareComplete (c : BitVec 32) (hx : (s.floe f).exec = some x) (hphase : x.phase = .done) :
    exec (.shareComplete f c) s =
      .next (((s.bump (pgGaff f) F.GAFF_DONE_CNT).tally (pgGaff f) F.GAFF_BUSY_CYC_LO c.toNat).memberDone f x) := by
  change Host.Outcome.next (s.shareDone f c.toNat) = _
  simp only [State.shareDone, hx, hphase, if_true]

end

/-! ### Overrun (R156) -/

/-- A cluster whose AUTO_FENCE is 0 fences nothing by itself (R559). -/
theorem autoFence_off {s : State} {f : Nat} (cause fatal : Nat) (h : s.bit (pgCc (f / 8)) F.CC_CTRL_AUTO_FENCE = false) :
    s.autoFence f cause fatal = s := by
  simp [State.autoFence, h]

/-- What an overrun does last: the fault on a floe that was freed, and the automatic fence. -/
def OverrunOf (f : Nat) (x : GaffExec) (s t : State) : Prop :=
  ∃ u, Freed u f ∧ KeepsWords settled s u ∧
    t = (u.fault (pgGaff f) F.GAFF_ERR_STAT_WC_OVERRUN 3 0 (macroOf x.word).id).autoFence f 3 0

theorem gaffOverrun_overrunOf {s : State} {f : Nat} {x : GaffExec} (hx : (s.floe f).exec = some x) (hsignal : x.phase ≠ .signal)
    (hpeers : x.phase ≠ .peers) : OverrunOf f x s (s.gaffOverrun f) := by
  unfold State.gaffOverrun
  split
  · next y hy =>
    obtain rfl : x = y := Option.some.inj (hx.symm.trans hy)
    rw [if_neg (not_or.2 ⟨hsignal, hpeers⟩)]
    extract_lets +onlyGivenNames _ _ _ poisoned _ _ _ deferred _ _ ended left settledRun told
    have hpoisoned : KeepsUnits settled s poisoned :=
      .foldl (State.poisonUnwritten_units (.refl s)) fun _ _ ht => State.poisonRegion_units ht
    have hdeferred : KeepsWords settled s deferred :=
      iteInduction (fun _ => (State.poisonRegion_units hpoisoned).toKeepsWords.setFloe) fun _ => hpoisoned.toKeepsWords
    have hended : KeepsUnits settled (deferred.endShare f) ended := .refl _
    have hleft : KeepsUnits settled (deferred.endShare f) left := State.updRun_units hended
    have hrun : KeepsUnits settled (deferred.endShare f) settledRun := by
      unfold settledRun
      split
      · split
        · exact .both (State.setRun_units (State.settleAmax_units hleft)) hleft
        · exact hleft
      · exact hleft
    have htold : KeepsUnits settled (deferred.endShare f) told := State.tally_units hrun
    exact ⟨told, (endShare_freed deferred f).trans htold, hdeferred.setFloe.trans htold.toKeepsWords, rfl⟩
  · next hnone => exact absurd (hx.symm.trans hnone) (by simp)

theorem exec_wcOverrun {s : State} {f : Fin 64} {x : GaffExec} (hx : (s.floe f).exec = some x) (hsignal : x.phase ≠ .signal)
    (hpeers : x.phase ≠ .peers) (hauto : s.bit (pgCc (f / 8)) F.CC_CTRL_AUTO_FENCE = false) :
    ∃ t, exec (.wcOverrun f) s = .next t ∧ Freed t f ∧ t.bit (pgGaff f) F.GAFF_ERR_STAT_WC_OVERRUN = true := by
  obtain ⟨t, hfreed, hwords, heq⟩ := gaffOverrun_overrunOf hx hsignal hpeers
  have hfault : KeepsUnits settled t (t.fault (pgGaff f) F.GAFF_ERR_STAT_WC_OVERRUN 3 0 (macroOf x.word).id) :=
    State.fault_units (.refl t)
  have hoff := ((hwords.trans hfault.toKeepsWords).bit (pgCc (f / 8)) F.CC_CTRL_AUTO_FENCE (by decide)).trans hauto
  rw [autoFence_off _ _ hoff] at heq
  exact ⟨_, congrArg Host.Outcome.next heq, hfreed.trans hfault, bit_fault _ _ _ _ _ _ rfl (by decide) (by decide)⟩

/-! ### Brash (R197) -/

/-- Brash is held for a share whose phase is `done`, or which waits for its wing as ADAPT_STEP. -/
def HoldsBrash (f opc : Nat) (t : State) : Prop :=
  ∃ y, (t.floe f).exec = some y ∧ (t.floe f).core.gaffHolds = true ∧ (y.phase = .done ∨ y.phase = .held ∧ opc ≠ 5)

section
variable {s t : State} {f k opc : Nat}

theorem HoldsBrash.trans {offs : List Nat} (h : HoldsBrash f opc s) (hk : KeepsUnits offs s t) : HoldsBrash f opc t := by
  unfold HoldsBrash
  rw [hk.floe]
  exact h

/-- The floe's own share is done, and Brash is still held. -/
theorem holdsBrash_setExec_done {y : GaffExec} (hholds : (s.floe f).core.gaffHolds = true) (hy : y.phase = .done) :
    HoldsBrash f opc (s.setExec f (some y)) := by
  unfold HoldsBrash State.setExec
  rw [floe_setFloe]
  exact ⟨y, rfl, hholds, .inl hy⟩

/-- A member that is done lets every holder of Brash hold it. -/
theorem HoldsBrash.setExec {y : GaffExec} (h : HoldsBrash f opc s) (hy : y.phase = .done) : HoldsBrash f opc (s.setExec k (some y)) := by
  obtain ⟨z, hz, hholds, hphase⟩ := h
  by_cases hk : f = k
  · exact hk ▸ holdsBrash_setExec_done hholds hy
  · unfold HoldsBrash State.setExec
    rw [floe_setFloe_other _ _ hk]
    exact ⟨z, hz, hholds, hphase⟩

/-- The Gaff takes Brash from an idle core; ATTN is done with it at once, and ADAPT_STEP when its whole wing holds it. -/
theorem gaffAcquire_holds {x : GaffExec} (hx : (s.floe f).exec = some x) (hphase : x.phase = .brash)
    (hidle : (s.floe f).core.phase = .idle) : HoldsBrash f (macroOf x.word).opc (s.gaffAcquire f) := by
  unfold State.gaffAcquire
  extract_lets
  split
  · next y hy =>
    obtain rfl : x = y := Option.some.inj (hx.symm.trans hy)
    rw [if_pos ⟨hphase, .inl hidle⟩]
    extract_lets +onlyGivenNames _ _ s1
    have hholds : (s1.floe f).core.gaffHolds = true := congrArg (fun x => x.core.gaffHolds) (floe_setFloe s f _)
    refine iteInduction (fun _ => ?attn) fun hopc => ?adapt
    case attn =>
      extract_lets hist r
      have hattn : KeepsUnits settled s1 r.1 := State.attn_units (.refl s1)
      refine (holdsBrash_setExec_done ?_ rfl).trans (offs := settled) (State.updRun_units (.refl _))
      rw [hattn.floe]
      exact hholds
    case adapt =>
      have hheld : HoldsBrash f (macroOf x.word).opc s1 :=
        ⟨_, congrArg FloeSt.exec (floe_setFloe s f _), hholds, .inr ⟨rfl, hopc⟩⟩
      split
      · exact hheld
      · extract_lets ms ready
        clear_value ready ms
        split
        · refine List.foldlRecOn _ _ (hheld.trans (State.adapt_units (.refl s1))) fun t ht k _ => ?_
          split
          · exact ht.setExec rfl
          · exact ht
        · exact hheld
  · next hnone => exact absurd (hx.symm.trans hnone) (by simp)

end

/-! ### A codebook load that waited (R89) -/

section
variable (s : State) (g o hi lo v : Nat)

/-- A field just written, its bits given as numbers. -/
theorem rf_wf_range_same (h : lo ≤ hi ∧ hi < 32) : (s.wf g ⟨o, hi, lo⟩ v).rf g ⟨o, hi, lo⟩ = v % 2 ^ (hi + 1 - lo) :=
  rf_wf_same _ _ _ _ h

/-- A field of the register that a write of other bits leaves. -/
theorem rf_wf_range_apart {hi' lo' : Nat} (h : lo ≤ hi ∧ hi < 32) (hd : hi' < lo ∨ hi < lo') :
    (s.wf g ⟨o, hi, lo⟩ v).rf g ⟨o, hi', lo'⟩ = s.rf g ⟨o, hi', lo'⟩ := rf_wf_bits _ _ _ _ _ h rfl hd

end

section
variable (s : State) (f : Nat) (j : Fin 8) (l : CbLoad)

/-- A slot that holds a load, before its entries are looked at (R86). -/
def State.slotFilled : State :=
  (((((s.setFloe f ((s.floe f).setCb j { codes := l.codes, poison := l.poison, wait := none })).wf (pgRime f)
    (F.RIME_CB_SLOT_LOADING j) 0).wf (pgRime f) (F.RIME_CB_SLOT_DEFERRED j) 0).wf (pgRime f) (F.RIME_CB_SLOT_VALID j) 1).wf (pgRime f)
    (F.RIME_CB_SLOT_SIZE j) (if l.codes.length = 256 then 1 else 0)).wf (pgRime f) (F.RIME_CB_SLOT_CB_ID j) l.id.toNat

/-- The flag of an entry that is not finite stands apart from the slots' registers (R86). -/
theorem fillCb_units : KeepsUnits [0x100 + 4 * (j : Nat)] (s.slotFilled f j l) (s.fillCb f j l) := by
  have hslot : 0x100 + 4 * (j : Nat) < 0x120 := by omega
  have hclear : ∀ o, o < 0x100 ∨ 0x120 ≤ o → o < 4096 → ClearOf [0x100 + 4 * (j : Nat)] o := by
    intro o ho hlt k hk
    obtain rfl := List.mem_singleton.1 hk
    omega
  exact .both (.refl _) (State.raise_units (.refl _) (hclear _ (.inr (Nat.le_refl _)) (by decide)) (hclear _ (by decide) (by decide)))

theorem slotFilled_cb : ((s.slotFilled f j l).floe f).cb j = { codes := l.codes, poison := l.poison, wait := none } := by
  have hfloes : (s.slotFilled f j l).floes =
      (s.setFloe f ((s.floe f).setCb j { codes := l.codes, poison := l.poison, wait := none })).floes := by
    simp only [State.slotFilled, wf_floes]
  rw [floe_of_floes hfloes, floe_setFloe, FloeSt.cb, FloeSt.setCb, Tab.at_set_same]

/-- The slot's register: each field that was written is apart from those written after it. -/
theorem slotFilled_fields :
    (s.slotFilled f j l).rf (pgRime f) (F.RIME_CB_SLOT_VALID j) = 1 ∧
      (s.slotFilled f j l).rf (pgRime f) (F.RIME_CB_SLOT_DEFERRED j) = 0 ∧
      (s.slotFilled f j l).rf (pgRime f) (F.RIME_CB_SLOT_LOADING j) = 0 ∧
      (s.slotFilled f j l).rf (pgRime f) (F.RIME_CB_SLOT_CB_ID j) = l.id.toNat := by
  have hid : l.id.toNat % 2 ^ (31 + 1 - 16) = l.id.toNat := Nat.mod_eq_of_lt l.id.isLt
  simp (disch := decide) only [State.slotFilled, F.RIME_CB_SLOT_VALID, F.RIME_CB_SLOT_SIZE, F.RIME_CB_SLOT_LOADING,
    F.RIME_CB_SLOT_DEFERRED, F.RIME_CB_SLOT_CB_ID, rf_wf_range_same, rf_wf_range_apart, hid]
  decide

end

theorem fillCb_slot (s : State) (f : Nat) (j : Fin 8) (l : CbLoad) :
    ((s.fillCb f j l).floe f).cb j = { codes := l.codes, poison := l.poison, wait := none } ∧
      (s.fillCb f j l).bit (pgRime f) (F.RIME_CB_SLOT_VALID j) = true ∧
      (s.fillCb f j l).bit (pgRime f) (F.RIME_CB_SLOT_DEFERRED j) = false ∧
      (s.fillCb f j l).bit (pgRime f) (F.RIME_CB_SLOT_LOADING j) = false ∧
      (s.fillCb f j l).rf (pgRime f) (F.RIME_CB_SLOT_CB_ID j) = l.id.toNat := by
  have hunits := fillCb_units s f j l
  obtain ⟨hvalid, hdeferred, hloading, hid⟩ := slotFilled_fields s f j l
  have hkeep : ∀ c : Fld, c.off = 0x100 + 4 * (j : Nat) → (s.fillCb f j l).rf (pgRime f) c = (s.slotFilled f j l).rf (pgRime f) c :=
    fun c hc => hunits.rf _ c (List.mem_singleton.2 hc)
  refine ⟨?_, decide_eq_true ?_, decide_eq_false ?_, decide_eq_false ?_, (hkeep _ rfl).trans hid⟩
  · rw [hunits.floe]
    exact slotFilled_cb ..
  · rw [hkeep _ rfl, hvalid]
  · rw [hkeep _ rfl, hdeferred]
    decide
  · rw [hkeep _ rfl, hloading]
    decide

theorem fillCb_stores (s : State) (f j : Nat) (l : CbLoad) : (s.fillCb f j l).mem = s.mem ∧ (s.fillCb f j l).tags = s.tags := by
  simp [State.fillCb, apply_ite State.mem, apply_ite State.tags]

theorem exec_cbDeferredLoadApply {s : State} {f : Fin 64} {j : Fin 8} {l : CbLoad} (hwait : ((s.floe f).cb j).wait = some l)
    (huse : s.cbInUse f j = false) : exec (.cbDeferredLoadApply f j) s = .next (s.fillCb f j l) := by
  change Host.Outcome.next (s.cbApply f j) = _
  simp [State.cbApply, hwait, huse]

/-- Settles O18: a share that ends frees its floe and is counted, an overrun frees it and raises its fault, and a codebook load that
waited fills its slot. -/
theorem gaffCompletion : Obligations.GaffCompletion := by
  intro f s
  refine ⟨fun x hx => ⟨?zero, ?done, ?overrun, ?brash⟩, ?codebook⟩
  case zero =>
    intro hphase
    exact ⟨_, exec_zeroDimComplete hx hphase,
      counted_memberDone (State.tally_units (.both (State.bump_units (.refl _)) (.refl _)))⟩
  case done =>
    intro c hphase
    exact ⟨_, exec_shareComplete c hx hphase, counted_memberDone (State.tally_units (.refl _))⟩
  case overrun =>
    intro hsignal hpeers hauto
    obtain ⟨t, hexec, ⟨hnone, hfree⟩, hflag⟩ := exec_wcOverrun hx hsignal hpeers hauto
    exact ⟨t, hexec, hnone, hfree, hflag⟩
  case brash =>
    intro hphase hidle
    obtain ⟨y, hy, hholds, hdone⟩ := gaffAcquire_holds hx hphase hidle
    exact ⟨_, y, rfl, hy, hholds, hdone⟩
  case codebook =>
    intro j l hwait huse
    obtain ⟨hcb, hvalid, hdeferred, hloading, hid⟩ := fillCb_slot s f j l
    obtain ⟨hmem, htags⟩ := fillCb_stores s f j l
    exact ⟨_, exec_cbDeferredLoadApply hwait huse, hcb, hvalid, hdeferred, hloading, hid, hmem, htags⟩

end Sys2Proof.Machine
end

section
/-! SUPPORT. Tests: states that meet the hypotheses of the statements on the Gaff's commands. -/

namespace Sys2Proof.Tests

open Sys2Proof.Machine

/-- The machine at reset but for the Gaff of floe 0, which is ready and enabled. -/
def gaffOn : State := (State.reset.wf (pgGaff 0) F.PAGE_CTRL_EN 1).wf (pgGaff 0) F.PAGE_STAT_READY 1

/-- A share of the word whose fields are 0, at a phase. -/
def shareAt (p : GaffPhase) : GaffExec := { run := none, word := 0, geo := 0, phase := p }

/-- The floe executes the share. -/
def gaffAt (p : GaffPhase) : State := gaffOn.setExec 0 (some (shareAt p))

/-- A wing of floes 0 and 1 of which no member has started, and floe 0's latch holds its word. -/
def wingLatched : State :=
  (gaffOn.setFloe 0 { glatch := some { run := some 0, word := 0 } }).setRun 0
    (some { word := 0, sw := false, members := [0, 1], started := [], left := [0, 1] })

/-- A codebook of one entry waits for slot 0. -/
def codebookWaits : State :=
  gaffOn.setFloe 0 (({} : FloeSt).setCb 0 { wait := some { codes := [0], id := 7, poison := false } })

/-- An MMUL whose dimensions are 0 begins, and completes with nothing to do (R145). -/
theorem test_mmul_begins : ∃ t x, exec (.mmul 0 0) gaffOn = .next t ∧ (t.floe 0).exec = some x ∧ x.phase = .zero := by
  have hacc : Accepted gaffOn 0 (macroOf (withOpc 0 1)) := by
    refine ⟨?_, ?_, ?_, ?_, ?_⟩ <;> decide +kernel
  have hzero : startPhase gaffOn 0 (macroOf (withOpc 0 1)) = .zero := by decide +kernel
  obtain ⟨t, x, ht, hx, -, -, hphase, -⟩ := gaffOpcodes.1.1 0 0 gaffOn hacc
  exact ⟨t, x, ht, hx, hphase.trans hzero⟩

/-- An MMUL that divides no wing by 2 is refused (R146). -/
theorem test_mmul_refused : ∃ t, exec (.mmul 0 (1 <<< 42)) gaffOn = .next t ∧ t.rf (pgGaff 0) F.GAFF_FAULT_CNT = 1 := by
  obtain ⟨t, ht, -, -, -, hcount, -⟩ := gaffOpcodes.2.1 0 (1 <<< 42) gaffOn (by decide +kernel) (by decide +kernel) (by decide +kernel)
    (by decide +kernel) (by decide +kernel)
  exact ⟨t, ht, hcount.trans (by decide +kernel)⟩

/-- A second word goes to the latch. -/
theorem test_issue_latched : ∃ t, exec (.gaffIssue .mgmt 0 0x80000000) (gaffAt .work) = .next t ∧ (t.floe 0).glatch.isSome = true := by
  obtain ⟨hlatch, -, -⟩ := (gaffIssueAndLatch 0 (gaffAt .work)).1 .mgmt 0x80000000 (by decide +kernel) (by decide +kernel)
  obtain ⟨t, ht, hword, -⟩ := hlatch (by decide +kernel) (by decide +kernel) (by decide +kernel) (by decide +kernel)
  exact ⟨t, ht, congrArg Option.isSome hword⟩

/-- The latched word waits for the other member of its wing. -/
theorem test_latch_waits : ∃ t, exec (.latchedMacroStart 0) wingLatched = .next t ∧ (t.floe 0).glatch = none := by
  obtain ⟨t, ht, hlatch, -⟩ := (gaffIssueAndLatch 0 wingLatched).2.1 { run := some 0, word := 0 } 0 _ (by decide +kernel)
    (by decide +kernel) (by decide +kernel) rfl (run_setRun ..) ⟨1, by decide, by decide, by decide⟩
  exact ⟨t, ht, hlatch⟩

/-- A wing that has not signalled gives up. -/
theorem test_signal_lost : ∃ t, exec (.wingSignalTimeout 0) (gaffAt .signal) = .next t ∧ (t.floe 0).exec = none := by
  obtain ⟨t, ht, hexec, -⟩ := (gaffIssueAndLatch 0 (gaffAt .signal)).2.2 (shareAt .signal) (by decide +kernel) rfl (by decide +kernel)
  exact ⟨t, ht, hexec⟩

/-- A share with nothing to do completes. -/
theorem test_zero_completes : ∃ t, exec (.zeroDimComplete 0) (gaffAt .zero) = .next t ∧ t.rf (pgGaff 0) F.GAFF_DONE_CNT = 1 := by
  obtain ⟨hzero, -⟩ := (gaffCompletion 0 (gaffAt .zero)).1 (shareAt .zero) (by decide +kernel)
  obtain ⟨t, ht, -, -, hcount⟩ := hzero rfl
  exact ⟨t, ht, hcount.trans (by decide +kernel)⟩

/-- A share in its walk overruns in a cluster that fences nothing by itself. -/
theorem test_work_overruns :
    ∃ t, exec (.wcOverrun 0) ((gaffAt .work).wf (pgCc 0) F.CC_CTRL_AUTO_FENCE 0) = .next t ∧ (t.floe 0).exec = none := by
  obtain ⟨-, -, hoverrun, -⟩ := (gaffCompletion 0 ((gaffAt .work).wf (pgCc 0) F.CC_CTRL_AUTO_FENCE 0)).1 (shareAt .work)
    (by decide +kernel)
  obtain ⟨t, ht, hexec, -⟩ := hoverrun (by decide) (by decide) (by decide +kernel)
  exact ⟨t, ht, hexec⟩

/-- A share takes Brash from an idle core. -/
theorem test_brash_acquired : ∃ t, exec (.gaffBrashAcquire 0) (gaffAt .brash) = .next t ∧ (t.floe 0).core.gaffHolds = true := by
  obtain ⟨-, -, -, hbrash⟩ := (gaffCompletion 0 (gaffAt .brash)).1 (shareAt .brash) (by decide +kernel)
  obtain ⟨t, -, ht, -, hholds, -⟩ := hbrash rfl (by decide +kernel)
  exact ⟨t, ht, hholds⟩

/-- A codebook that waited fills its slot. -/
theorem test_codebook_applied :
    ∃ t, exec (.cbDeferredLoadApply 0 0) codebookWaits = .next t ∧ t.rf (pgRime 0) (F.RIME_CB_SLOT_CB_ID 0) = 7 := by
  obtain ⟨t, ht, -, -, -, -, hid, -⟩ := (gaffCompletion 0 codebookWaits).2 0 { codes := [0], id := 7, poison := false }
    (by decide +kernel) (by decide +kernel)
  exact ⟨t, ht, hid⟩

end Sys2Proof.Tests
end


section
/-! SUPPORT. The issue core and its vector registers: what an instruction's issue and its write of a register leave, and what the end of a
kernel does. -/

namespace Sys2Proof.Machine

/-! ### Registers of the core (R167, R190) -/

section
variable (c : CoreSt) (t occ next : Nat) (u : KUnit)

@[simp] theorem issued_pc : (c.issued t u occ next).pc = c.pc + 1 := by cases u <;> rfl
@[simp] theorem issued_v : (c.issued t u occ next).v = c.v := by cases u <;> rfl
@[simp] theorem issued_vPoison : (c.issued t u occ next).vPoison = c.vPoison := by cases u <;> rfl
@[simp] theorem issued_sm : (c.issued t u occ next).sm = c.sm := by cases u <;> rfl
@[simp] theorem issued_x : (c.issued t u occ next).x = c.x := by cases u <;> rfl
@[simp] theorem issued_vl : (c.issued t u occ next).vl = c.vl := by cases u <;> rfl
@[simp] theorem issued_latch : (c.issued t u occ next).latch = c.latch := by cases u <;> rfl
@[simp] theorem issued_phase : (c.issued t u occ next).phase = c.phase := by cases u <;> rfl

/-- A write of a scalar register changes the scalar registers alone. -/
theorem wx_eq (i : Nat) (v : Word) : c.wx i v = { c with x := (c.wx i v).x } := by
  unfold CoreSt.wx
  split <;> rfl

theorem rx_of_x {c d : CoreSt} (h : d.x = c.x) (k : Nat) : d.rx k = c.rx k := by unfold CoreSt.rx; rw [h]

theorem rsm_wsm (i k : Nat) (m : Summary) : (c.wsm i m).rsm k = if k = i then m else c.rsm k := Tab.get_put _ _ _ _ _

theorem reg_setReg (i k : Nat) (r : BitVec 4096) (p : Bool) : (c.setReg i r p).reg k = if k = i then r else c.reg k := Tab.get_put _ _ _ _ _

theorem vp_setReg (i k : Nat) (r : BitVec 4096) (p : Bool) : (c.setReg i r p).vp k = if k = i then p else c.vp k := Tab.get_put _ _ _ _ _

end

/-- The core after an instruction that issued in cycle `t` and writes `v` to scalar register `d`, ready in cycle `r`. -/
def CoreSt.wroteX (c : CoreSt) (t : Nat) (u : KUnit) (occ d : Nat) (v : Word) (r : Nat) : CoreSt :=
  ((c.issued t u occ 1).wx d v).readyX d r

section
variable (c : CoreSt) (t : Nat) (u : KUnit) (occ d : Nat) (v : Word) (r : Nat)

theorem wroteX_rx (k : Nat) : (c.wroteX t u occ d v r).rx k = if k = d ∧ k ≠ 0 then v else c.rx k := by
  have hissued := rx_of_x (issued_x c t occ 1 u) k
  exact (rx_wx _ d v k).trans (by rw [hissued])

/-- The write changes the scalar registers and the issue times alone, and the program counter moves by one. -/
theorem wroteX_kept :
    (c.wroteX t u occ d v r).pc = c.pc + 1 ∧ (c.wroteX t u occ d v r).v = c.v ∧ (c.wroteX t u occ d v r).vPoison = c.vPoison ∧
      (c.wroteX t u occ d v r).sm = c.sm ∧ (c.wroteX t u occ d v r).vl = c.vl ∧ (c.wroteX t u occ d v r).latch = c.latch := by
  unfold CoreSt.wroteX
  rw [wx_eq]
  simp [CoreSt.readyX]

end

/-! ### The issue core in the state -/

/-- The next state of a command, written otherwise. -/
theorem exec_next {i : Instr} {s t u : State} (h : t = u) (e : exec i s = .next t) : exec i s = .next u := e.trans (congrArg _ h)

section
variable {s t : State} {f : Nat}

theorem core_of_floes (h : t.floes = s.floes) (k : Nat) : t.core k = s.core k := congrArg FloeSt.core (floe_of_floes h k)

theorem floe_setCore_other {k : Nat} (c : CoreSt) (h : k ≠ f) : (s.setCore f c).floe k = s.floe k := floe_setFloe_other s _ h

theorem onlyCore_setCore (c : CoreSt) : OnlyCore f s (s.setCore f c) := by rw [OnlyCore, core_setCore]

theorem rdByte_of_mem (h : t.mem = s.mem) (x : Nat) : t.rdByte x = s.rdByte x := by unfold State.rdByte; rw [h]

/-! A range marked with POISON: tags alone change. -/

@[simp] theorem poisonRange_regs (r : Nat × Nat) : (s.poisonRange f r).regs = s.regs :=
  List.foldlRecOn (motive := fun u : State => u.regs = s.regs) _ _ rfl fun _ hu _ _ => hu

@[simp] theorem poisonRange_mem (r : Nat × Nat) : (s.poisonRange f r).mem = s.mem :=
  List.foldlRecOn (motive := fun u : State => u.mem = s.mem) _ _ rfl fun _ hu _ _ => hu

@[simp] theorem poisonRange_floes (r : Nat × Nat) : (s.poisonRange f r).floes = s.floes :=
  List.foldlRecOn (motive := fun u : State => u.floes = s.floes) _ _ rfl fun _ hu _ _ => hu

/-! ### An access outside the limits (R188) -/

theorem nativeOob_core (s : State) (f : Nat) : (s.nativeOob f).core f = { s.core f with oobRec := true } := by
  unfold State.nativeOob
  dsimp only
  split
  · next hrec =>
    rw [core_of_floes (s := s) (by simp)]
    exact (congrArg (fun b => { s.core f with oobRec := b }) hrec :)
  · rw [core_of_floes (post_floes _ _ _ _ _ _ _), core_setCore]

theorem nativeOob_floe {k : Nat} (h : k ≠ f) : (s.nativeOob f).floe k = s.floe k := by
  unfold State.nativeOob
  dsimp only
  split
  · exact floe_of_floes (by simp) k
  · rw [floe_of_floes (post_floes _ _ _ _ _ _ _), floe_setCore_other _ h]
    exact floe_of_floes (by simp) k

@[simp] theorem nativeOob_mem : (s.nativeOob f).mem = s.mem := by
  unfold State.nativeOob
  dsimp only
  split <;> simp

@[simp] theorem nativeOob_tags : (s.nativeOob f).tags = s.tags := by
  unfold State.nativeOob
  dsimp only
  split <;> simp

theorem nativeOob_flag : (s.nativeOob f).bit (pgCore f) F.FLOE_ERR_STAT_NATIVE_OOB = true := by
  have hraised : ((s.bump (pgCore f) F.FLOE_OOB_CNT).raise (pgCore f) F.FLOE_ERR_STAT_NATIVE_OOB).bit (pgCore f)
      F.FLOE_ERR_STAT_NATIVE_OOB = true := bit_raise _ _ rfl (by decide) (by decide)
  unfold State.nativeOob
  dsimp only
  split
  · exact hraised
  · rw [bit_post _ _ _ _ _ _ _ (.inl ⟨by decide, rfl⟩), bit_of_regs (setCore_regs _ _ _)]
    exact hraised

/-! ### The end of a kernel (R195) -/

/-- The core is idle, memory and tags stand, and FLOE_KCYC holds the count; the other registers of the page stand. -/
theorem kernelLeaves_core (s : State) (f n : Nat) : (s.kernelLeaves f n).core f = { s.core f with phase := .idle } := by
  unfold State.kernelLeaves
  dsimp only
  rw [core_of_floes (workDone_floes _ _)]
  exact core_setCore _ _ _

@[simp] theorem kernelLeaves_mem (n : Nat) : (s.kernelLeaves f n).mem = s.mem := workDone_mem _ _

@[simp] theorem kernelLeaves_tags (n : Nat) : (s.kernelLeaves f n).tags = s.tags := workDone_tags _ _

theorem kernelLeaves_cycles (n : Nat) : (s.kernelLeaves f n).rf (pgCore f) F.FLOE_KCYC = n % 2 ^ 32 :=
  (rf_of_regs (workDone_regs _ _) _ _).trans (rf_wf_same _ _ _ _ (by decide))

theorem kernelLeaves_rf (n : Nat) {d : Fld} (h : d.off / 4 ≠ F.FLOE_KCYC.off / 4) :
    (s.kernelLeaves f n).rf (pgCore f) d = s.rf (pgCore f) d :=
  (rf_of_regs (workDone_regs _ _) _ _).trans ((rf_wf_apart _ _ _ _ (.inl ⟨h, rfl⟩)).trans (rf_of_regs rfl _ _))

/-- What a kernel that stops early leaves: an idle core, its fault flag, one more fault, and its count (R40, R195). -/
structure Stopped (f n : Nat) (flag : Fld) (s t : State) : Prop where
  core : t.core f = { s.core f with phase := .idle }
  flag : t.bit (pgCore f) flag = true
  faults : t.rf (pgCore f) F.FLOE_KFAULT_CNT = min (s.rf (pgCore f) F.FLOE_KFAULT_CNT + 1) 0xFFFFFFFF
  cycles : t.rf (pgCore f) F.FLOE_KCYC = n % 2 ^ 32
  mem : t.mem = s.mem

theorem kernelStopped_stopped (s : State) (f n : Nat) {flag : Fld} (cls : Nat) (hoff : flag.off = 0x04C) (hbit : flag.hi = flag.lo)
    (hhi : flag.hi < 32) : Stopped f n flag s (s.kernelStopped f n flag cls) := by
  unfold State.kernelStopped
  dsimp only
  constructor
  · rw [kernelLeaves_core, core_of_floes (s := s) (by simp)]
  · unfold State.bit
    rw [kernelLeaves_rf _ (by rw [hoff]; decide)]
    exact bit_fault _ _ _ _ _ _ hbit hhi (by omega)
  · rw [kernelLeaves_rf _ (by decide), rf_fault_apart _ _ _ _ _ _ _ (.inl ⟨by rw [hoff]; decide, rfl⟩) (.inl ⟨by decide, rfl⟩),
      rf_bump _ _ ⟨rfl, rfl⟩, rf_of_regs (s := s) (by simp)]
  · exact kernelLeaves_cycles _
  · simp

end

end Sys2Proof.Machine
end

section
/-! PROOFS. Scalar operations and branches of the issue core. -/

namespace Sys2Proof.Machine

/-! ### Scalar operations (R191) -/

theorem scalarOp_result {i : Fin 64 → ScalarArgs → Instr} {srcs : ScalarArgs → List Nat} {v : ScalarArgs → CoreSt → Word} {lat : Nat}
    (hexec : ∀ f o s, exec (i f o) s = .next (s.scalarOp f o (srcs o) lat (v o))) : ScalarResult i srcs v := by
  rintro f o s ⟨hrun, hdecl⟩
  have hkept := wroteX_kept (s.core f) ((s.core f).issueAt [] [] (o.xd.toNat :: srcs o) .none) .none 0 o.xd.toNat (v o (s.core f))
    ((s.core f).issueAt [] [] (o.xd.toNat :: srcs o) .none + lat)
  refine ⟨_, exec_next (issueK_body _ hrun hdecl) (hexec f o s), onlyCore_setCore _, ?_⟩
  rw [core_setCore]
  exact ⟨wroteX_rx _ _ _ _ _ _ _, hkept⟩

/-- Settles O1: each operation is `scalarOp`, which writes one register and moves the program counter. -/
theorem scalarOperations : Obligations.ScalarOperations := by
  refine ⟨scalarOp_result fun _ _ _ => rfl, scalarOp_result fun _ _ _ => rfl, scalarOp_result fun _ _ _ => rfl,
    scalarOp_result fun _ _ _ => rfl, scalarOp_result fun _ _ _ => rfl, scalarOp_result fun _ _ _ => rfl,
    scalarOp_result fun _ _ _ => rfl, scalarOp_result fun _ _ _ => rfl, scalarOp_result (lat := 1) fun f o s => ?slt,
    scalarOp_result (lat := 1) fun f o s => ?sltu, scalarOp_result fun _ _ _ => rfl, scalarOp_result fun _ _ _ => rfl,
    scalarOp_result fun _ _ _ => rfl, scalarOp_result fun _ _ _ => rfl, scalarOp_result fun _ _ _ => rfl⟩
  case slt => simp only [← BitVec.slt_iff_toInt_lt]; rfl
  case sltu => simp only [← BitVec.lt_def, ← BitVec.ult_iff_lt]; rfl

/-! ### Branches (R191) -/

section
variable {s u : State} {f : Nat} {c : CoreSt} {n cost other : Nat} {off : BitVec 16}

theorem branchTo_notTaken : s.branchTo f c n false off other cost = s.setCore f (c.issued n .none 0 other) := rfl

theorem branchTo_inside (hlo : 0 ≤ (c.pc : Int) + off.toInt) (hhi : (c.pc : Int) + off.toInt < c.codeLen) :
    s.branchTo f c n true off other cost = s.setCore f { c.issued n .none 0 cost with pc := ((c.pc : Int) + off.toInt).toNat } :=
  if_pos ⟨hlo, hhi⟩

theorem branchTo_outside (h : (c.pc : Int) + off.toInt < 0 ∨ (c.codeLen : Int) ≤ (c.pc : Int) + off.toInt) :
    s.branchTo f c n true off other cost = s.kernelStopped f n F.FLOE_ERR_STAT_NATIVE_ILLEGAL 5 :=
  if_neg (by omega)

end

/-- A branch is decided in a state that has the floes, the memory, the tags and the registers of the one it issued in. -/
theorem branch_result {i : Fin 64 → BranchArgs → Instr} {sms xs : BranchArgs → List Nat} {ok taken : CoreSt → BranchArgs → Prop}
    {cond : CoreSt → BranchArgs → Bool} {other cost : Nat} (htaken : ∀ c o, cond c o = true ↔ taken c o)
    (hexec : ∀ (f : Fin 64) o s, Issues s f [] (sms o) (xs o) .none → ok (s.core f) o → ∃ u n,
      exec (i f o) s = .next (State.branchTo u f (s.core f) n (cond (s.core f) o) o.off other cost) ∧
        u.floes = s.floes ∧ u.mem = s.mem ∧ u.tags = s.tags ∧ u.regs = s.regs) : BranchResult i sms xs ok taken := by
  intro f o s hissues hok hlo hhi
  obtain ⟨u, n, hstep, hfloes, hmem, htags, hregs⟩ := hexec f o s hissues hok
  cases hcond : cond (s.core f) o with
  | false =>
    have hnot : ¬ taken (s.core f) o := fun h => by simp [(htaken _ _).2 h] at hcond
    rw [hcond, branchTo_notTaken] at hstep
    refine ⟨_, hstep, fun h => absurd h hnot, ?_⟩
    rw [core_setCore]
    exact ⟨fun _ => rfl, fun _ => rfl, rfl, rfl, rfl, rfl, hissues.1, hmem, htags, hregs,
      fun k hk => (floe_setCore_other _ hk).trans (floe_of_floes hfloes k)⟩
  | true =>
    rw [hcond, branchTo_inside hlo hhi] at hstep
    refine ⟨_, hstep, fun _ => ?_, fun h => absurd ((htaken _ _).1 hcond) h, ?_⟩
    · rw [core_setCore]
      exact Int.toNat_of_nonneg hlo
    · rw [core_setCore]
      exact ⟨fun _ => rfl, rfl, rfl, rfl, rfl, hissues.1, hmem, htags, hregs,
        fun k hk => (floe_setCore_other _ hk).trans (floe_of_floes hfloes k)⟩

theorem branchRR_result {i : Fin 64 → BranchArgs → Instr} {cond : Word → Word → Prop} {b : Word → Word → Bool}
    (hb : ∀ x y, b x y = true ↔ cond x y) (hexec : ∀ (f : Fin 64) o s, exec (i f o) s = .next (State.branchRR s f o b)) : BranchRR i cond :=
  branch_result (cond := fun c o => b (c.rx o.xa.toNat) (c.rx o.xb.toNat)) (fun _ _ => hb _ _) fun f o s hissues _ =>
    ⟨s, _, exec_next (issueK_body _ hissues.1 hissues.2) (hexec f o s), rfl, rfl, rfl, rfl⟩

theorem branchSm_result {i : Fin 64 → BranchArgs → Instr} {cond : Word → Word → Prop} {b : Word → Word → Bool}
    (hb : ∀ x y, b x y = true ↔ cond x y) (hexec : ∀ (f : Fin 64) o s, exec (i f o) s = .next (State.branchSm s f o b)) : BranchSm i cond := by
  refine branch_result (other := 4) (cost := 4) (cond := fun c o => b (c.rsm o.xb.toNat).val (c.rx o.xa.toNat)) (fun _ _ => hb _ _) ?_
  rintro f o s ⟨hrun, hdecl⟩ ⟨hfield, hclean⟩
  have hstep : s.branchSm f o b = (s.tally (pgCore f) F.FLOE_SBR_LO 1).branchTo f (s.core f)
      ((s.core f).issueAt [] [o.xb.toNat] [o.xa.toNat] .none)
      (b ((s.core f).rsm o.xb.toNat).val ((s.core f).rx o.xa.toNat)) o.off 4 4 := by
    rw [State.branchSm, if_neg (Nat.not_le.2 hfield)]
    refine (issueK_body _ hrun hdecl).trans ?_
    simp only [State.summaryUse, hclean]
    rfl
  exact ⟨_, _, exec_next hstep (hexec f o s), rfl, rfl, rfl, rfl⟩

theorem not_slt_iff (x y : Word) : (!x.slt y) = true ↔ y.toInt ≤ x.toInt := by simp [BitVec.slt_eq_decide]

theorem not_ult_iff (x y : Word) : (!x.ult y) = true ↔ y.toNat ≤ x.toNat := by simp [BitVec.ult_eq_decide]

/-- Settles O2: a branch of two registers or of a summary is `branchTo` with its condition; a jump outside the code stops the kernel. -/
theorem branches : Obligations.Branches := by
  refine ⟨⟨branchRR_result (fun _ _ => by simp) fun _ _ _ => rfl, branchRR_result (fun _ _ => by simp) fun _ _ _ => rfl,
    branchRR_result (fun _ _ => BitVec.slt_iff_toInt_lt) fun _ _ _ => rfl, branchRR_result not_slt_iff fun _ _ _ => rfl,
    branchRR_result (fun _ _ => BitVec.ult_iff_lt) fun _ _ _ => rfl, branchRR_result not_ult_iff fun _ _ _ => rfl,
    branch_result (cond := fun _ _ => true) (fun _ _ => by simp) fun f o s hissues _ =>
      ⟨s, _, exec_next (issueK_body _ hissues.1 hissues.2) rfl, rfl, rfl, rfl, rfl⟩,
    branchSm_result (fun _ _ => by simp) fun _ _ _ => rfl, branchSm_result (fun _ _ => by simp) fun _ _ _ => rfl,
    branchSm_result (fun _ _ => BitVec.slt_iff_toInt_lt) fun _ _ _ => rfl, branchSm_result not_slt_iff fun _ _ _ => rfl⟩,
    fun f o s hissues hout => ?_⟩
  have hstep : exec (.j f o) s = .next (s.kernelStopped f _ F.FLOE_ERR_STAT_NATIVE_ILLEGAL 5) :=
    exec_next ((issueK_body _ hissues.1 hissues.2).trans (branchTo_outside hout)) rfl
  obtain ⟨hcore, hflag, hfaults, -, -⟩ := kernelStopped_stopped s f ((s.core f).issueAt [] [] [] .none)
    (flag := F.FLOE_ERR_STAT_NATIVE_ILLEGAL) 5 rfl rfl (by decide)
  exact ⟨_, hstep, by rw [hcore], hflag, hfaults, fun k => rx_of_x (by rw [hcore]) k⟩

end Sys2Proof.Machine
end

section
/-! PROOFS. Loads, stores, SETVL and MVS of the issue core. -/

namespace Sys2Proof.Machine

/-- The core after LW that issued in cycle `n` and read `v`, with or without poison. -/
def CoreSt.loaded (c : CoreSt) (n : Nat) (o : ScalarArgs) (v : Word) (p : Bool) : CoreSt :=
  { c.wroteX n .mem 1 o.xd.toNat v (n + 7) with latch := c.latch || p }

section
variable {s : State} {f : Nat} {o : ScalarArgs}

/-! ### LW (R188, R191, R192) -/

theorem loaded_rx (c : CoreSt) (n : Nat) (v : Word) (p : Bool) (k : Nat) :
    (c.loaded n o v p).rx k = if k = o.xd.toNat ∧ k ≠ 0 then v else c.rx k := wroteX_rx c n .mem 1 _ v (n + 7) k

/-- A load reads its word in the allocation, and 0 and poison outside, where the access is counted. -/
theorem loadWord_eq (hissues : Issues s f [] [] [o.xd.toNat, o.xa.toNat] .mem) : ∃ n, s.loadWord f o =
    bif s.inFloeAlloc f (wordAt (s.core f) o) 4 then
      s.setCore f ((s.core f).loaded n o (BitVec.ofNat 32 (s.rdLe (floeBase f + wordAt (s.core f) o) 4))
        (s.readsPoison (s.core f).ctx (floeBase f + wordAt (s.core f) o) 4))
    else (s.setCore f ((s.core f).loaded n o 0 true)).nativeOob f := by
  refine ⟨(s.core f).issueAt [] [] [o.xd.toNat, o.xa.toNat] .mem, (issueK_body _ hissues.1 hissues.2).trans ?_⟩
  have haddr : ((s.core f).rx o.xa.toNat + imm12 o).toNat = wordAt (s.core f) o := rfl
  simp only [haddr]
  cases s.inFloeAlloc f (wordAt (s.core f) o) 4 with
  | false =>
    simp only [Bool.not_false, Bool.true_or, Bool.false_eq_true, if_false, cond_false]
    rfl
  | true =>
    simp only [Bool.not_true, Bool.false_or, if_true, cond_true]
    rfl

/-! ### SW (R188, R189, R191) -/

/-! The tag of a stored line is no byte, no register and no unit. -/

@[simp] theorem kernelTag_mem {c : CoreSt} {a fmt : Nat} {p : Bool} : (s.kernelTag f c a fmt p).mem = s.mem := by simp [State.kernelTag]
@[simp] theorem kernelTag_regs {c : CoreSt} {a fmt : Nat} {p : Bool} : (s.kernelTag f c a fmt p).regs = s.regs := by simp [State.kernelTag]
@[simp] theorem kernelTag_floes {c : CoreSt} {a fmt : Nat} {p : Bool} : (s.kernelTag f c a fmt p).floes = s.floes := by
  simp [State.kernelTag]

/-- A store into an output range writes its word; the tags of its lines change too. -/
theorem storeWord_inside (hissues : Issues s f [] [] [o.xa.toNat, o.xb.toNat] .mem)
    (hin : (s.core f).inOut (wordAt (s.core f) o) 4 = true) (hlim : wordAt (s.core f) o + 4 ≤ 0x40_0000) : ∃ n,
    (s.storeWord f o).mem = (s.wrLe (floeBase f + wordAt (s.core f) o) 4 ((s.core f).rx o.xb.toNat).toNat).mem ∧
      (s.storeWord f o).regs = s.regs ∧ (s.storeWord f o).core f = (s.core f).issued n .mem 1 1 := by
  refine ⟨(s.core f).issueAt [] [] [o.xa.toNat, o.xb.toNat] .mem, ?_⟩
  generalize hu : s.storeWord f o = u
  have hstored := hu.symm.trans ((issueK_body _ hissues.1 hissues.2).trans (if_pos (by
    change ((s.core f).inOut (wordAt (s.core f) o) 4 && decide (wordAt (s.core f) o + 4 ≤ 0x40_0000)) = true
    simp [hin, hlim])))
  refine ⟨?_, ?_, ?_⟩
  · rw [hstored]
    split <;> simp
    all_goals rfl
  · rw [hstored]
    split <;> simp
  · rw [hstored]
    split <;> exact (core_of_floes (by simp) f).trans (core_setCore s _ _)

theorem storeWord_outside (hissues : Issues s f [] [] [o.xa.toNat, o.xb.toNat] .mem)
    (hout : (s.core f).inOut (wordAt (s.core f) o) 4 = false ∨ 0x40_0000 < wordAt (s.core f) o + 4) : ∃ n,
    s.storeWord f o = (s.setCore f ((s.core f).issued n .mem 1 1)).nativeOob f := by
  refine ⟨_, (issueK_body _ hissues.1 hissues.2).trans (if_neg ?_)⟩
  change ¬ ((s.core f).inOut (wordAt (s.core f) o) 4 && decide (wordAt (s.core f) o + 4 ≤ 0x40_0000)) = true
  rcases hout with h | h
  · simp [h]
  · simp only [Bool.and_eq_true, decide_eq_true_eq]
    omega

/-! ### SETVL and MVS (R171, R174, R191, R192) -/

theorem setVl_eq (hissues : Issues s f [] [] [o.xd.toNat, o.xa.toNat] .none) : ∃ n, s.setVl f o =
    s.setCore f { (s.core f).wroteX n .none 0 o.xd.toNat (BitVec.ofNat 32 (min ((s.core f).rx o.xa.toNat).toNat 512)) (n + 1) with
      vl := min ((s.core f).rx o.xa.toNat).toNat 512 } :=
  ⟨(s.core f).issueAt [] [] [o.xd.toNat, o.xa.toNat] .none, issueK_body _ hissues.1 hissues.2⟩

/-- Using a summary sets the latch where the summary is poisoned; it is counted, which no byte and no unit shows. -/
theorem summaryUse_kept (p : Bool) : (s.summaryUse f p).mem = s.mem ∧ (s.summaryUse f p).tags = s.tags ∧
    (s.summaryUse f p).core f = { s.core f with latch := (s.core f).latch || p } := by
  cases p with
  | false => exact ⟨rfl, rfl, by simp only [Bool.or_false]; rfl⟩
  | true =>
    refine ⟨raise_mem _ _ _, raise_tags _ _ _, (core_of_floes (raise_floes _ _ _) f).trans ((core_setCore _ _ _).trans ?_)⟩
    simp only [Bool.or_true]
    rfl

theorem moveSummary_eq (hissues : Issues s f [] [o.xb.toNat % 8] [o.xd.toNat] .none) : ∃ n, s.moveSummary f o =
    (s.setCore f ((s.core f).wroteX n .none 0 o.xd.toNat ((s.core f).rsm (o.xb.toNat % 8)).val (n + 4))).summaryUse f
      ((s.core f).rsm (o.xb.toNat % 8)).poison := by
  unfold State.moveSummary
  exact ⟨(s.core f).issueAt [] [o.xb.toNat % 8] [o.xd.toNat] .none, issueK_body _ hissues.1 hissues.2⟩

end

/-- Settles O3: each instruction issues with its body, whose write of a register, of memory or of VL is as the rules give it. -/
theorem coreLoadsStores : Obligations.CoreLoadsStores := by
  refine fun f o s => ⟨fun hissues hin => ?lwIn, fun hissues hout => ?lwOut, fun hissues hin hlim => ?swIn, fun hissues hout => ?swOut,
    fun hissues => ?setvl, fun hissues => ?mvs⟩
  case lwIn =>
    obtain ⟨n, hstep⟩ := loadWord_eq hissues
    rw [hin, cond_true] at hstep
    refine ⟨_, exec_next hstep rfl, onlyCore_setCore _, ?_⟩
    rw [core_setCore]
    exact loaded_rx _ _ _ _
  case lwOut =>
    obtain ⟨n, hstep⟩ := loadWord_eq hissues
    rw [hout, cond_false] at hstep
    refine ⟨_, exec_next hstep rfl, nativeOob_flag, ?_⟩
    rw [nativeOob_core, core_setCore]
    exact ⟨Bool.or_true _, loaded_rx _ n 0 true, nativeOob_mem, nativeOob_tags⟩
  case swIn =>
    obtain ⟨n, hmem, hregs, hcore⟩ := storeWord_inside hissues hin hlim
    refine ⟨_, rfl, ?_, fun x hx => (rdByte_of_mem hmem x).trans (rdByte_wrLe _ _ _ _ _ hx), fun k => rx_of_x (by rw [hcore]; rfl) k, hregs⟩
    rw [State.rdLe, rdBytes_of_mem hmem]
    exact (rdLe_wrLe _ _ _ _).trans (Nat.mod_eq_of_lt ((s.core f).rx o.xb.toNat).isLt)
  case swOut =>
    obtain ⟨n, hstep⟩ := storeWord_outside hissues hout
    refine ⟨_, exec_next hstep rfl, nativeOob_flag, nativeOob_mem, nativeOob_tags, fun k => rx_of_x ?_ k⟩
    rw [nativeOob_core, core_setCore]
    rfl
  case setvl =>
    obtain ⟨n, hstep⟩ := setVl_eq hissues
    refine ⟨_, exec_next hstep rfl, onlyCore_setCore _, ?_⟩
    rw [core_setCore]
    exact ⟨rfl, wroteX_rx (s.core f) n .none 0 _ _ (n + 1)⟩
  case mvs =>
    obtain ⟨n, hstep⟩ := moveSummary_eq hissues
    obtain ⟨hmem, htags, hcore⟩ := summaryUse_kept (s := s.setCore f _) (f := f) ((s.core f).rsm (o.xb.toNat % 8)).poison
    obtain ⟨-, -, -, -, hvl, hlatch⟩ := wroteX_kept (s.core f) n .none 0 o.xd.toNat ((s.core f).rsm (o.xb.toNat % 8)).val (n + 4)
    rw [core_setCore] at hcore
    refine ⟨_, exec_next hstep rfl, hmem, htags, fun k => ?_, ?_, ?_⟩
    · exact (rx_of_x (congrArg CoreSt.x hcore) k).trans (wroteX_rx _ n .none 0 _ _ (n + 4) k)
    · exact (congrArg CoreSt.latch hcore).trans (congrArg (· || _) hlatch)
    · exact (congrArg CoreSt.vl hcore).trans hvl

end Sys2Proof.Machine
end

section
/-! PROOFS. A native kernel from its start to its end. -/

namespace Sys2Proof.Machine

/-! ### The start (R194, R197) -/

/-- The core after a start with a lawful header. -/
def CoreSt.started (c : CoreSt) (h : NatHdr) (off : Nat) : CoreSt :=
  { c with phase := if c.gaffHolds then .waitBrash else .preload, hdr := off, codeLen := h.codeLen, entry := h.entry, decl := h.decl,
           tagT := h.tagT, inTag := h.inTag, out0 := h.out0, out1 := h.out1, ctx := {}, oobRec := false }

section
variable {s : State} {f : Nat}

/-- The limits of a header are those of the allocation, which a register of the core's page is no part of. -/
theorem natHdrOk_wf_core {fl : Fld} (hoff : fl.off < 4096) (v : Nat) (h : NatHdr) (off : Nat) :
    h.ok (s.wf (pgCore f) fl v) f off = h.ok s f off := by
  have hrf : ∀ d : Fld, (s.wf (pgCore f) fl v).rf (pgGaff f) d = s.rf (pgGaff f) d := fun d => by
    unfold State.rf
    rw [word_wf_below s (by unfold pgCore pgGaff pgFloe; omega) hoff]
  simp only [NatHdr.ok, outRangeOk, State.inFloeAlloc, inAlloc, hrf]

/-- A start with a lawful header writes FLOE_KHDR and FLOE_KDECL and starts the core; where it waits for the Gaff, BRASH_WAIT is set. -/
theorem startKernel_lawful {w : Nat} (hcore : s.works (pgCore f) = true) (hbrash : s.works (pgBrash f) = true)
    (hidle : (s.core f).phase = .idle) (hok : (readNatHdr s f (w / 64 * 64)).ok s f (w / 64 * 64) = true) {u : State}
    (hu : u = ((s.wf (pgCore f) F.FLOE_KHDR (w / 64 * 64)).wf (pgCore f) F.FLOE_KDECL (readNatHdr s f (w / 64 * 64)).decl).setCore f
      ((s.core f).started (readNatHdr s f (w / 64 * 64)) (w / 64 * 64))) :
    s.startKernel {} f w = if (s.core f).gaffHolds then u.raise (pgCore f) F.FLOE_ERR_STAT_BRASH_WAIT else u := by
  subst hu
  unfold State.startKernel
  simp only [hcore, hbrash, hidle, natHdrOk_wf_core (show F.FLOE_KHDR.off < 4096 by decide),
    natHdrOk_wf_core (show F.FLOE_KDECL.off < 4096 by decide), hok]
  rfl

theorem wrKstart_go {v : Word} (hgo : F.FLOE_KSTART_GO.of v = 1) (hpart : s.floePart f = none) :
    s.wrKstart f v = s.startKernel {} f (F.FLOE_KSTART_OFFSET.of v) := by
  simp [State.wrKstart, hgo, hpart]

/-! ### The preload (R194) -/

/-- A table of words from a key on, without the words that an unlisted key reads as. -/
theorem get_preloaded (l : List Nat) (m k : Nat) :
    Tab.get (fun _ => (0 : Word)) (((l.zipIdx m).map fun x => (x.2 + 1, BitVec.ofNat 32 x.1)).filter fun e => decide (e.2 ≠ 0)) k =
      if m < k then BitVec.ofNat 32 (l.getD (k - (m + 1)) 0) else 0 := by
  induction l generalizing m with
  | nil => simp [Tab.get]
  | cons a l ih =>
    have hlist : (((a :: l).zipIdx m).map fun x => (x.2 + 1, BitVec.ofNat 32 x.1)) =
        (m + 1, BitVec.ofNat 32 a) :: ((l.zipIdx (m + 1)).map fun x => (x.2 + 1, BitVec.ofNat 32 x.1)) := rfl
    have hrest := ih (m + 1)
    rw [hlist, List.filter_cons]
    by_cases hk : k = m + 1
    · subst hk
      rw [if_neg (Nat.lt_irrefl _)] at hrest
      rw [if_pos (Nat.lt_succ_self m), Nat.sub_self, List.getD_cons_zero]
      split
      · exact if_pos rfl
      · next hzero => exact hrest.trans (by simpa using hzero : BitVec.ofNat 32 a = 0).symm
    · have hskip : ∀ t : Tab Word, Tab.get (fun _ => (0 : Word)) ((m + 1, BitVec.ofNat 32 a) :: t) k = Tab.get (fun _ => 0) t k :=
        fun t => if_neg fun h => hk h.symm
      have hword : (if m + 1 < k then BitVec.ofNat 32 (l.getD (k - (m + 1 + 1)) 0) else 0) =
          if m < k then BitVec.ofNat 32 ((a :: l).getD (k - (m + 1)) 0) else 0 := by
        by_cases hlt : m < k
        · rw [if_pos hlt, if_pos (by omega), show k - (m + 1) = k - (m + 1 + 1) + 1 by omega, List.getD_cons_succ]
        · rw [if_neg hlt, if_neg (by omega)]
      split
      · rw [hskip, hrest, hword]
      · rw [hrest, hword]

/-- The scalar registers of a preload: X1 to X7 hold X_INIT, and X8 to X15 hold 0. -/
theorem preloadDone_rx (hphase : (s.core f).phase = .preload) {i : Nat} (hi : 1 ≤ i) :
    ((s.preloadDone f).core f).rx i =
      BitVec.ofNat 32 (((List.range 7).map fun j => s.rdLe (floeBase f + (s.core f).hdr + (36 + 4 * j)) 4).getD (i - 1) 0) := by
  unfold State.preloadDone
  simp only [hphase, if_true, core_setCore]
  exact (if_neg (by omega)).trans ((get_preloaded _ 0 i).trans (if_pos (by omega)))

end

/-! ### The statement -/

section
variable {s : State} {f : Nat}

/-- The state after a lawful start at an offset of the scratchpad: the core, FLOE_KHDR, and the data as they stood. -/
theorem startKernel_leaves {w : Nat} (hw : w < 2 ^ 22) (hcore : s.works (pgCore f) = true) (hbrash : s.works (pgBrash f) = true)
    (hidle : (s.core f).phase = .idle) (hok : (readNatHdr s f (w / 64 * 64)).ok s f (w / 64 * 64) = true) :
    (s.startKernel {} f w).core f = (s.core f).started (readNatHdr s f (w / 64 * 64)) (w / 64 * 64) ∧
      (s.startKernel {} f w).rf (pgCore f) F.FLOE_KHDR = w / 64 * 64 % 2 ^ 32 ∧ (s.startKernel {} f w).mem = s.mem ∧
      (s.startKernel {} f w).tags = s.tags := by
  generalize hu : ((s.wf (pgCore f) F.FLOE_KHDR (w / 64 * 64)).wf (pgCore f) F.FLOE_KDECL
    (readNatHdr s f (w / 64 * 64)).decl).setCore f ((s.core f).started (readNatHdr s f (w / 64 * 64)) (w / 64 * 64)) = u
  have hcore' : u.core f = (s.core f).started (readNatHdr s f (w / 64 * 64)) (w / 64 * 64) := hu ▸ core_setCore _ _ _
  have hhdr : u.rf (pgCore f) F.FLOE_KHDR = w / 64 * 64 % 2 ^ 32 := by
    rw [← hu, rf_of_regs (setCore_regs _ _ _), rf_wf_apart _ _ _ _ (.inl ⟨by decide, rfl⟩), rf_wf_same _ _ _ _ (by decide)]
    change w / 64 * 64 % 2 ^ 22 = w / 64 * 64 % 2 ^ 32
    omega
  have hmem : u.mem = s.mem := by rw [← hu, setCore_mem, wf_mem, wf_mem]
  have htags : u.tags = s.tags := by rw [← hu, setCore_tags, wf_tags, wf_tags]
  rw [startKernel_lawful hcore hbrash hidle hok hu.symm]
  split
  · exact ⟨(core_of_floes (raise_floes _ _ _) f).trans hcore',
      (rf_raise_apart _ _ _ (.inl ⟨by decide, rfl⟩) (.inl ⟨by decide, rfl⟩)).trans hhdr, (raise_mem _ _ _).trans hmem,
      (raise_tags _ _ _).trans htags⟩
  · exact ⟨hcore', hhdr, hmem, htags⟩

/-- KEND before WC_DECL: the kernel is counted and leaves at its count. -/
theorem kernelEnd_leaves (hrun : (s.core f).phase = .running) (hdecl : max (s.core f).next (s.core f).last ≤ (s.core f).decl) :
    s.kernelEnd f = ((s.setCore f { s.core f with lastPc := (s.core f).pc }).bump (pgCore f) F.FLOE_KDONE_CNT).kernelLeaves f
      (max (s.core f).next (s.core f).last) :=
  (if_pos hrun).trans (if_neg (Nat.not_lt.2 hdecl))

end

/-- Settles O4: the start by its lawful header, the preload by what it leaves, and the three ends by how a kernel leaves the core. -/
theorem nativeKernelLife : Obligations.NativeKernelLife := by
  refine fun f s => ⟨?start, fun hwait hfree => ?preload, fun hphase => ?preloaded, fun hrun hdecl => ?kend, fun hrun => ?overrun,
    fun w hrun hdecl => ?illegal⟩
  case start =>
    rintro a v off hready hgo hpart hcore hbrash hidle rfl hok
    obtain ⟨hstarted, hhdr, hmem, htags⟩ := startKernel_leaves (bits_lt v.toNat _ _) hcore hbrash hidle hok
    refine ⟨_, exec_next ((if_pos hready).trans (wrKstart_go hgo hpart)) rfl, ?_⟩
    rw [hstarted]
    exact ⟨rfl, rfl, rfl, rfl, hhdr, hmem, htags⟩
  case preload =>
    exact ⟨_, exec_next (if_pos ⟨hwait, by simp [hfree]⟩) rfl, onlyCore_setCore _, by rw [core_setCore]⟩
  case preloaded =>
    have hleft : ∃ c : CoreSt, s.preloadDone f = s.setCore f c ∧ c.phase = .running ∧ c.pc = (s.core f).entry ∧ c.vl = 512 ∧ c.v = [] ∧
        c.vPoison = [] ∧ c.sm = [] := ⟨_, if_pos hphase, rfl, rfl, rfl, rfl, rfl, rfl⟩
    obtain ⟨c, hstep, hleft⟩ := hleft
    have hx := fun i => preloadDone_rx (i := i) hphase
    rw [hstep, core_setCore] at hx
    refine ⟨_, exec_next hstep rfl, onlyCore_setCore _, ?_⟩
    rw [core_setCore]
    obtain ⟨hrun, hpc, hvl, hv, hvp, hsm⟩ := hleft
    refine ⟨hrun, hpc, hvl, hv, hvp, hsm, fun i hlo hhi => ?_, fun i hi => ?_⟩
    · rw [hx i hlo, List.getD_eq_getElem _ _ (by simp; omega), List.getElem_map, List.getElem_range,
        show floeBase f + (s.core f).hdr + (36 + 4 * (i - 1)) = floeBase f + (s.core f).hdr + 32 + 4 * i by omega]
    · rw [hx i (by omega), List.getD_eq_default _ _ (by simp; omega)]
      rfl
  case kend =>
    refine ⟨_, exec_next (kernelEnd_leaves hrun hdecl) rfl, ?_, kernelLeaves_cycles _, ?_, ?_, ?_⟩
    · rw [kernelLeaves_core]
    · rw [kernelLeaves_rf _ (by decide), rf_bump _ _ ⟨rfl, rfl⟩, rf_of_regs (setCore_regs _ _ _)]
    · simp
    · simp
  case overrun =>
    obtain ⟨hcore, hflag, hfaults, hcycles, hmem⟩ := kernelStopped_stopped s f (s.core f).decl
      (flag := F.FLOE_ERR_STAT_NATIVE_OVERRUN) 4 rfl rfl (by decide)
    exact ⟨_, exec_next (if_pos hrun) rfl, congrArg CoreSt.phase hcore, hflag, hfaults, hcycles, hmem⟩
  case illegal =>
    obtain ⟨hcore, hflag, hfaults, -, hmem⟩ := kernelStopped_stopped s f (s.core f).next
      (flag := F.FLOE_ERR_STAT_NATIVE_ILLEGAL) 5 rfl rfl (by decide)
    exact ⟨_, exec_next ((if_pos hrun).trans (if_neg (Nat.not_lt.2 hdecl))) rfl, congrArg CoreSt.phase hcore, hflag, hfaults, hmem⟩

end Sys2Proof.Machine
end

section
/-! SUPPORT. The vector registers by their lanes (R167, R171), and what an instruction of Brash leaves. -/

namespace Sys2Proof.Machine

/-! ### Lanes of a register -/

theorem laneBits_cases (fmt : Nat) : laneBits fmt = 32 ∨ laneBits fmt = 16 ∨ laneBits fmt = 8 := by
  unfold laneBits
  split
  · exact .inl rfl
  · split
    · exact .inr (.inl rfl)
    · exact .inr (.inr rfl)

theorem laneBits_pos (fmt : Nat) : 0 < laneBits fmt := by
  rcases laneBits_cases fmt with h | h | h <;> omega

/-- A lane of a number made of lanes. -/
theorem foldr_lane (w : Nat) (l : List Nat) (k : Nat) :
    l.foldr (fun x a => x % 2 ^ w + 2 ^ w * a) 0 / 2 ^ (w * k) % 2 ^ w = l.getD k 0 % 2 ^ w := by
  induction l generalizing k with
  | nil => simp
  | cons x l ih =>
    have hpos := Nat.two_pow_pos w
    cases k with
    | zero => simp
    | succ k =>
      rw [List.foldr_cons, List.getD_cons_succ, ← ih k, Nat.mul_succ, Nat.add_comm (w * k) w, Nat.pow_add, ← Nat.div_div_eq_div_mul,
        Nat.add_mul_div_left _ _ hpos, Nat.div_eq_of_lt (Nat.mod_lt x hpos), Nat.zero_add]

/-- A lane of a vector that is wide enough for it. -/
theorem lane_ofNat {w k n : Nat} (h : w * k + w ≤ n) (v : Nat) :
    (BitVec.ofNat n v).toNat / 2 ^ (w * k) % 2 ^ w = v / 2 ^ (w * k) % 2 ^ w := by
  rw [BitVec.toNat_ofNat]
  apply Nat.eq_of_testBit_eq
  intro i
  simp only [Nat.testBit_mod_two_pow, Nat.testBit_div_two_pow]
  by_cases hi : i < w
  · simp [hi, show i + w * k < n by omega]
  · simp [hi]

/-- The lanes of a register are those it was made of. -/
theorem laneAt_ofLanes {w k : Nat} (h : k < 4096 / w) (l : List Nat) : laneAt w (ofLanes w l) k = l.getD k 0 % 2 ^ w := by
  have hfits : w * k + w ≤ 4096 := by
    have hdiv := Nat.mul_le_mul_left w (Nat.succ_le_of_lt h)
    rw [Nat.mul_succ] at hdiv
    exact hdiv.trans (Nat.mul_div_le 4096 w)
  exact (lane_ofNat hfits _).trans (foldr_lane w l k)

theorem laneAt_mod (w : Nat) (r : BitVec 4096) (k : Nat) : laneAt w r k % 2 ^ w = laneAt w r k := Nat.mod_mod _ _

theorem lanesOf_eq {w : Nat} (hw : 0 < w) (r : BitVec 4096) : lanesOf w r = (List.range (4096 / w)).map (laneAt w r) := by
  unfold lanesOf bits laneAt
  refine List.map_congr_left fun i _ => ?_
  rw [Nat.shiftRight_eq_div_pow, show w * i + w - 1 + 1 - w * i = w by omega]

theorem getD_range_map {n k : Nat} (g : Nat → Nat) (h : k < n) : ((List.range n).map g).getD k 0 = g k := by
  rw [List.getD_eq_getElem _ _ (by simpa using h), List.getElem_map, List.getElem_range]

theorem take_range_map {α : Type} {n m : Nat} (g : Nat → α) (h : n ≤ m) : ((List.range m).map g).take n = (List.range n).map g := by
  rw [← List.map_take, List.take_range, Nat.min_eq_left h]

theorem getD_lanesOf {w k : Nat} (h : k < 4096 / w) (r : BitVec 4096) : (lanesOf w r).getD k 0 = laneAt w r k := by
  have hw : 0 < w := Nat.pos_of_ne_zero fun h0 => by simp [h0] at h
  rw [lanesOf_eq hw, getD_range_map _ h]

theorem length_lanesOf (w : Nat) (r : BitVec 4096) : (lanesOf w r).length = 4096 / w := by simp [lanesOf]

/-- A spliced list: the new part in its place, the others as they stood. -/
theorem getD_spliceLanes {old new : List Nat} {a : Nat} (ha : a ≤ old.length) (k : Nat) :
    (spliceLanes old new a).getD k 0 = if a ≤ k ∧ k < a + new.length then new.getD (k - a) 0 else old.getD k 0 := by
  have hlen : (old.take a).length = a := by rw [List.length_take, Nat.min_eq_left ha]
  rw [spliceLanes, List.append_assoc]
  by_cases hlo : k < a
  · rw [if_neg (by omega), List.getD_append _ _ _ _ (by omega)]
    simp [List.getD_eq_getElem?_getD, hlo]
  · rw [List.getD_append_right _ _ _ _ (by omega), hlen]
    by_cases hhi : k < a + new.length
    · rw [if_pos (by omega), List.getD_append _ _ _ _ (by omega)]
    · rw [if_neg (by omega), List.getD_append_right _ _ _ _ (by omega)]
      simp only [List.getD_eq_getElem?_getD, List.getElem?_drop]
      congr 2
      omega

/-- The lanes of a spliced register. -/
theorem laneAt_splice {w k a : Nat} (h : k < 4096 / w) (ha : a ≤ 4096 / w) (r : BitVec 4096) (new : List Nat) :
    laneAt w (ofLanes w (spliceLanes (lanesOf w r) new a)) k =
      if a ≤ k ∧ k < a + new.length then new.getD (k - a) 0 % 2 ^ w else laneAt w r k := by
  rw [laneAt_ofLanes h, getD_spliceLanes ((length_lanesOf w r).symm ▸ ha), getD_lanesOf h, apply_ite (· % 2 ^ w), laneAt_mod]

/-- Register `i` with the codes `g` in its lanes from `a` on. -/
def CoreSt.spliced (c : CoreSt) (w i a n : Nat) (g : Nat → Nat) : BitVec 4096 :=
  ofLanes w (spliceLanes (lanesOf w (c.reg i)) ((List.range n).map g) a)

theorem laneAt_spliced {w k a n i : Nat} (c : CoreSt) (h : k < 4096 / w) (ha : a ≤ 4096 / w) (g : Nat → Nat) :
    laneAt w (c.spliced w i a n g) k = if a ≤ k ∧ k < a + n then g (k - a) % 2 ^ w else laneAt w (c.reg i) k := by
  rw [CoreSt.spliced, laneAt_splice h ha, List.length_map, List.length_range]
  split
  · rw [getD_range_map _ (by omega)]
  · rfl

/-- The first lanes written are a splice at lane 0. -/
theorem putLanes_eq (c : CoreSt) {w n i : Nat} {new : List Nat} {g : Nat → Nat} (hnew : new.take n = (List.range n).map g) (p : Bool) :
    c.putLanes w i n new p = c.setReg i (c.spliced w i 0 n g) (p || c.vp i) := by
  simp [CoreSt.putLanes, CoreSt.spliced, spliceLanes, hnew]

section
variable (c : CoreSt) (o : VecArgs)

theorem lanes_eq (i : Nat) : c.lanes o.f i = (List.range (laneCount o.f)).map (c.lane o i) := lanesOf_eq (laneBits_pos _) _

theorem lane_lt (i k : Nat) : c.lane o i k < 2 ^ laneBits o.f := Nat.mod_lt _ (Nat.two_pow_pos _)

theorem vn_le (fmt : Nat) : c.vn fmt ≤ laneCount fmt := Nat.min_le_right _ _

end

/-! ### What a vector instruction leaves -/

/-- The core after an instruction that issued in cycle `t` and writes vector register `vd`, ready in cycle `r`. -/
def CoreSt.wroteV (c : CoreSt) (t : Nat) (u : KUnit) (occ vd : Nat) (v : BitVec 4096) (p : Bool) (r : Nat) : CoreSt :=
  ((c.issued t u occ 1).setReg vd v p).readyV vd r

/-- The state after a vector instruction: it is counted, the core is as given, and the writes are reported (R177, R200). -/
def State.vecDone (s : State) (f : Nat) (c : CoreSt) (ws : List Wr) (divz : Bool) : State :=
  ((s.tally (pgBrash f) F.BRASH_VINSN_LO 1).setCore f c).brashReport f ws divz

section
variable (c : CoreSt) (t : Nat) (u : KUnit) (occ vd : Nat) (v : BitVec 4096) (p : Bool) (r : Nat)

theorem issued_reg (k : Nat) : (c.issued t u occ 1).reg k = c.reg k := congrArg (fun x => Tab.at x k 0) (issued_v c t occ 1 u)

theorem issued_vp (k : Nat) : (c.issued t u occ 1).vp k = c.vp k := congrArg (fun x => Tab.at x k false) (issued_vPoison c t occ 1 u)

theorem wroteV_reg (k : Nat) : (c.wroteV t u occ vd v p r).reg k = if k = vd then v else c.reg k :=
  (reg_setReg _ vd k v p).trans (by rw [issued_reg])

theorem wroteV_vp (k : Nat) : (c.wroteV t u occ vd v p r).vp k = if k = vd then p else c.vp k :=
  (vp_setReg _ vd k v p).trans (by rw [issued_vp])

/-- Writing the first lanes of the destination. -/
theorem putLanes_issued {w n : Nat} {new : List Nat} {g : Nat → Nat} (hnew : new.take n = (List.range n).map g) :
    ((c.issued t u occ 1).putLanes w vd n new p).readyV vd r = c.wroteV t u occ vd (c.spliced w vd 0 n g) (p || c.vp vd) r := by
  rw [putLanes_eq _ hnew, CoreSt.spliced, issued_reg, issued_vp]
  rfl

theorem wroteV_kept : (c.wroteV t u occ vd v p r).pc = c.pc + 1 ∧ (c.wroteV t u occ vd v p r).sm = c.sm ∧
    (c.wroteV t u occ vd v p r).x = c.x ∧ (c.wroteV t u occ vd v p r).vl = c.vl :=
  ⟨issued_pc .., issued_sm .., issued_x .., issued_vl ..⟩

end

/-- What reports leave as it was: memory, tags, the floes, and the registers of every other page. -/
structure Reports (g : Nat) (s t : State) : Prop where
  mem : t.mem = s.mem
  tags : t.tags = s.tags
  floes : t.floes = s.floes
  word : ∀ h off, h ≠ g → off < 4096 → t.word h off = s.word h off

section
variable {g : Nat} {r s t : State}

theorem Reports.refl (s : State) : Reports g s s := ⟨rfl, rfl, rfl, fun _ _ _ _ => rfl⟩

theorem Reports.trans (h : Reports g r s) (k : Reports g s t) : Reports g r t :=
  ⟨k.mem.trans h.mem, k.tags.trans h.tags, k.floes.trans h.floes, fun p off hp ho => (k.word p off hp ho).trans (h.word p off hp ho)⟩

theorem Reports.wf {d : Fld} (h : Reports g r s) (hd : d.off < 4096) (v : Nat) : Reports g r (s.wf g d v) :=
  h.trans ⟨rfl, rfl, rfl, fun _ _ hp ho => word_setWord_other _ _ _ (regIdx_ne_page hp ho hd)⟩

theorem Reports.bump {d : Fld} (h : Reports g r s) (hd : d.off < 4096) : Reports g r (s.bump g d) := h.wf hd _

theorem Reports.irq (h : Reports g r s) (b : Nat) : Reports g r (s.irq g b) :=
  h.trans ⟨rfl, rfl, rfl, fun _ _ hp ho => word_setWord_other _ _ _ (regIdx_ne_page hp ho (by decide))⟩

theorem Reports.raise {d : Fld} (h : Reports g r s) (hd : d.off < 4096) : Reports g r (s.raise g d) := by
  unfold State.raise
  dsimp only
  split
  · split
    · exact h.wf hd 1
    · exact (h.wf hd 1).irq _
  · exact h.wf hd 1

theorem Reports.both {c : Prop} [Decidable c] (h : Reports g r s) (k : Reports g r t) : Reports g r (if c then s else t) :=
  iteInduction (fun _ => h) fun _ => k

end

/-- The report of an instruction's writes sets flags and counters of the Brash page. -/
theorem brashReport_reports (s : State) (f : Nat) (ws : List Wr) (divz : Bool) : Reports (pgBrash f) s (s.brashReport f ws divz) := by
  have hinvalid := Reports.both (c := ws.any (·.invalid) = true)
    (((Reports.refl s).raise (g := pgBrash f) (d := F.BRASH_NUM_STAT_INVALID) (by decide)).bump (d := F.BRASH_INVALID_CNT) (by decide))
    (.refl s)
  have hsat := Reports.both (c := ws.any (·.outSat) = true) (hinvalid.raise (d := F.BRASH_NUM_STAT_OUT_SAT) (by decide)) hinvalid
  have hovf := Reports.both (c := ws.any (·.outOvf) = true) (hsat.raise (d := F.BRASH_NUM_STAT_OUT_OVF) (by decide)) hsat
  have hcount := Reports.both (c := (ws.any (·.outSat) || ws.any (·.outOvf)) = true) (hovf.bump (d := F.BRASH_OVF_CNT) (by decide)) hovf
  exact .both ((hcount.raise (d := F.BRASH_NUM_STAT_DIVZERO) (by decide)).bump (d := F.BRASH_DIVZERO_CNT) (by decide)) hcount

section
variable {s : State} {f : Nat} {c : CoreSt} {ws : List Wr} {divz : Bool}

theorem vecDone_reports : Reports (pgBrash f) (s.setCore f c) (s.vecDone f c ws divz) :=
  .trans (s := (s.tally (pgBrash f) F.BRASH_VINSN_LO 1).setCore f c) ⟨rfl, rfl, rfl, fun _ _ _ _ => rfl⟩ (brashReport_reports _ f ws divz)

theorem vecDone_core : (s.vecDone f c ws divz).core f = c := (core_of_floes vecDone_reports.floes f).trans (core_setCore _ _ _)

theorem vecDone_floe {k : Nat} (h : k ≠ f) : (s.vecDone f c ws divz).floe k = s.floe k :=
  (floe_of_floes vecDone_reports.floes k).trans (floe_setCore_other _ h)

/-- An instruction that writes one vector register leaves the rest of the kernel, the data and the other pages. -/
theorem vecDone_frame {t occ vd r : Nat} {u : KUnit} {v : BitVec 4096} {p : Bool} :
    VecFrame f vd s (s.vecDone f ((s.core f).wroteV t u occ vd v p r) ws divz) := by
  obtain ⟨hpc, hsm, hx, hvl⟩ := wroteV_kept (s.core f) t u occ vd v p r
  rw [VecFrame, vecDone_core]
  exact ⟨hpc, fun i hi => ⟨(wroteV_reg ..).trans (if_neg hi), (wroteV_vp ..).trans (if_neg hi)⟩, hsm, hx, hvl,
    vecDone_reports.mem, vecDone_reports.tags, fun k hk => vecDone_floe hk, vecDone_reports.word⟩

/-- The lanes of the register that an instruction writes: the new codes in their place, the others as they stood. -/
theorem vecDone_lane {t occ vd r w a n k : Nat} {u : KUnit} {g : Nat → Nat} {p : Bool} (hk : k < 4096 / w) (ha : a ≤ 4096 / w) :
    laneAt w (((s.vecDone f (c.wroteV t u occ vd (c.spliced w vd a n g) p r) ws divz).core f).reg vd) k =
      if a ≤ k ∧ k < a + n then g (k - a) % 2 ^ w else laneAt w (c.reg vd) k := by
  rw [vecDone_core, (wroteV_reg ..).trans (if_pos rfl), laneAt_spliced c hk ha]

theorem vecDone_lane_first {t occ vd r w n k : Nat} {u : KUnit} {g : Nat → Nat} {p : Bool} (hk : k < 4096 / w) :
    laneAt w (((s.vecDone f (c.wroteV t u occ vd (c.spliced w vd 0 n g) p r) ws divz).core f).reg vd) k =
      if k < n then g k % 2 ^ w else laneAt w (c.reg vd) k := by
  rw [vecDone_lane hk (Nat.zero_le _)]
  simp only [Nat.zero_le, true_and, Nat.zero_add, Nat.sub_zero]

theorem vecDone_vp {t occ vd r : Nat} {u : KUnit} {v : BitVec 4096} {p : Bool} :
    ((s.vecDone f (c.wroteV t u occ vd v p r) ws divz).core f).vp vd = p := by
  rw [vecDone_core, (wroteV_vp ..).trans (if_pos rfl)]

/-- A vector instruction with a format that the table lists has, in a running kernel, the effect of its body (R173). -/
theorem vecInsn_body {legal : Bool} {vs sms xs : List Nat} {u : KUnit} (body : State → CoreSt → Nat → State) (hlegal : legal = true)
    (hissues : Issues s f vs sms xs u) :
    s.vecInsn f legal vs sms xs u body =
      body (s.tally (pgBrash f) F.BRASH_VINSN_LO 1) (s.core f) ((s.core f).issueAt vs sms xs u) :=
  (if_pos hlegal).trans (issueK_body _ hissues.1 hissues.2)

end

end Sys2Proof.Machine
end

section
/-! PROOFS. Lane by lane: moves, logic, selects, slides, compares and arithmetic of Brash. -/

namespace Sys2Proof.Machine

/-! ### Operations that write the first lanes (R170, R171) -/

section
variable {i : Fin 64 → VecArgs → Instr} {legal : VecArgs → Prop} {srcs xs : VecArgs → List Nat} {u : KUnit}
  {code : CoreSt → VecArgs → Nat → Nat → Nat} {ok : VecArgs → Bool} {lat occ : Nat}

/-- What the destination of a vector instruction holds when its first lanes have taken their codes. -/
theorem laneResult_of_write
    (hwrite : ∀ (f : Fin 64) o s, legal o → o.f < 10 → Issues s f (o.vd.toNat :: srcs o) [] (xs o) u → ∃ t r ws divz,
      exec (i f o) s = .next (s.vecDone f ((s.core f).wroteV t u occ o.vd.toNat
        ((s.core f).spliced (laneBits o.f) o.vd.toNat 0 ((s.core f).vn o.f) (code (s.core f) o ((s.core f).vn o.f)))
        ((srcs o).any (s.core f).vp || (s.core f).vp o.vd.toNat) r) ws divz)) : LaneResult i legal srcs xs u code := by
  intro f o s hlegal hfmt hissues
  obtain ⟨t, r, ws, divz, hstep⟩ := hwrite f o s hlegal hfmt hissues
  exact ⟨_, hstep, vecDone_frame, fun k hk => vecDone_lane_first hk, vecDone_vp⟩

theorem laneOp_result {codes : VecArgs → CoreSt → Nat → List Nat}
    (hexec : ∀ f o s, exec (i f o) s = .next (s.laneOp f o (ok o) (srcs o) (xs o) u lat occ (codes o)))
    (hok : ∀ o, legal o → ok o = true)
    (hcodes : ∀ o c n, n ≤ laneCount o.f → (codes o c n).take n = (List.range n).map (code c o n)) :
    LaneResult i legal srcs xs u code := by
  refine laneResult_of_write (occ := occ) fun f o s hlegal hfmt hissues => ?_
  have hstep : s.laneOp f o (ok o) (srcs o) (xs o) u lat occ (codes o) = _ := vecInsn_body _ (by simp [hok o hlegal, hfmt]) hissues
  dsimp only at hstep
  rw [putLanes_issued _ _ _ _ _ _ _ (hcodes o _ _ (vn_le _ _))] at hstep
  exact ⟨_, _, [], false, exec_next hstep (hexec f o s)⟩

/-- An operation whose written values are given lane by lane. -/
theorem valOp_result {vals : VecArgs → CoreSt → Nat → List (Wr × Bool)} {val : VecArgs → CoreSt → Nat → Wr × Bool}
    (hexec : ∀ f o s, exec (i f o) s = .next (s.valOp f o (ok o) (srcs o) u lat occ (vals o)))
    (hok : ∀ o, legal o → ok o = true) (hvals : ∀ o c n, vals o c n = (List.range (laneCount o.f)).map (val o c))
    (hcode : ∀ c o n k, (val o c k).1.bits = code c o n k) : LaneResult i legal srcs (fun _ => []) u code := by
  refine laneResult_of_write (occ := occ) fun f o s hlegal hfmt hissues => ?_
  have hcodes : (((vals o (s.core f) ((s.core f).vn o.f)).take ((s.core f).vn o.f)).map fun w => w.1.bits).take ((s.core f).vn o.f) =
      (List.range ((s.core f).vn o.f)).map (code (s.core f) o ((s.core f).vn o.f)) := by
    rw [hvals, take_range_map _ (vn_le _ _), List.take_of_length_le (by simp), List.map_map]
    exact List.map_congr_left fun k _ => hcode _ _ _ k
  have hstep : s.valOp f o (ok o) (srcs o) u lat occ (vals o) = _ := vecInsn_body _ (by simp [hok o hlegal, hfmt]) hissues
  dsimp only at hstep
  rw [putLanes_issued _ _ _ _ _ _ _ hcodes] at hstep
  exact ⟨_, _, _, _, exec_next hstep (hexec f o s)⟩

end

/-! ### Codes lane by lane -/

section
variable (c : CoreSt) (o : VecArgs)

theorem zipCodes_eq (op : Nat → Nat → Nat) :
    zipCodes c o op = (List.range (laneCount o.f)).map fun k => op (c.lane o o.a k) (c.lane o o.b k) := by
  rw [zipCodes, lanes_eq, lanes_eq, List.zip_map', List.map_map]
  rfl

theorem zipVals_eq (op : Val → Val → Val) : zipVals c o op = (List.range (laneCount o.f)).map fun k =>
    (laneWr o.f o.sat (op (laneVal o.f (c.lane o o.a k)) (laneVal o.f (c.lane o o.b k))), false) := by
  rw [zipVals, lanes_eq, lanes_eq, List.zip_map', List.map_map]
  rfl

theorem mapVals_eq (op : Val → Val) : mapVals c o op = (List.range (laneCount o.f)).map fun k =>
    (laneWr o.f o.sat (op (laneVal o.f (c.lane o o.a k))), false) := by
  rw [mapVals, lanes_eq, List.map_map]
  rfl

/-- VSEL marks the lanes where the mask is 0 with a code that no lane has, and puts the destination's there. -/
theorem vselCodes_eq : (((zipCodes c o fun x y => if x = 0 then 2 ^ 32 else y).zip (c.lanes o.f o.vd.toNat)).map fun x =>
    if x.1 = 2 ^ 32 then x.2 else x.1) =
      (List.range (laneCount o.f)).map fun k => if c.lane o o.a k = 0 then c.lane o o.vd.toNat k else c.lane o o.b k := by
  rw [zipCodes_eq, lanes_eq, List.zip_map', List.map_map]
  refine List.map_congr_left fun k _ => ?_
  have hcode : c.lane o o.b k ≠ 2 ^ 32 := by
    have hlt := lane_lt c o o.b k
    have hle : 2 ^ laneBits o.f ≤ 2 ^ 32 := Nat.pow_le_pow_right (by decide) (by rcases laneBits_cases o.f with h | h | h <;> omega)
    omega
  by_cases hmask : c.lane o o.a k = 0
  · simp [hmask]
  · simp only [Function.comp_apply, if_neg hmask, if_neg hcode]

/-- A slide down: lane `k + d` where it is one of the first `n`, else 0. -/
theorem slideDown_eq {n : Nat} (hn : n ≤ laneCount o.f) (d : Nat) :
    ((((c.lanes o.f o.a).take n).drop d) ++ List.replicate (n - (((c.lanes o.f o.a).take n).drop d).length) 0).take n =
      (List.range n).map fun k => if k + d < n then c.lane o o.a (k + d) else 0 := by
  rw [lanes_eq, take_range_map _ hn]
  refine List.ext_getElem (by simp) fun k h1 h2 => ?_
  have hk : k < n := by simpa using h2
  by_cases hd : k + d < n
  · rw [List.getElem_take, List.getElem_append_left (by simp; omega), List.getElem_drop]
    simp [hd, Nat.add_comm d]
  · simp [List.getElem_append, hd, show ¬ k < n - d by omega]

/-- A slide up: 0 in the first `d` lanes, then lane `k - d`. -/
theorem slideUp_eq {n : Nat} (hn : n ≤ laneCount o.f) (d : Nat) :
    (List.replicate (min n d) 0 ++ (c.lanes o.f o.a).take (n - min n d)).take n =
      (List.range n).map fun k => if k < d then 0 else c.lane o o.a (k - d) := by
  rw [lanes_eq, take_range_map _ (by omega)]
  refine List.ext_getElem (by simp) fun k h1 h2 => ?_
  have hk : k < n := by simpa using h2
  by_cases hd : k < d
  · simp [hd, hk]
  · simp [List.getElem_append, hd, show min n d = d by omega]

end

/-- An operation on the codes of two sources. -/
theorem zipOp_result {i : Fin 64 → VecArgs → Instr} {legal : VecArgs → Prop} {ok : VecArgs → Bool} {op : VecArgs → Nat → Nat → Nat}
    {lat : Nat} (hexec : ∀ (f : Fin 64) o s, exec (i f o) s =
      .next (State.laneOp s f o (ok o) [o.a, o.b] [] .alu lat 1 fun c _ => zipCodes c o (op o)))
    (hok : ∀ o, legal o → ok o = true) : LaneRR i legal fun o a b _ => op o a b :=
  laneOp_result hexec hok fun o c n hn => by rw [zipCodes_eq, take_range_map _ hn]

/-! ### VBCS (R170, R176) -/

theorem broadcastSm_eq {s : State} {f : Nat} {o : VecArgs} (harith : o.arith = true) (hfmt : o.f < 10)
    (hissues : Issues s f [o.vd.toNat] [o.aux.toNat % 8] [] .alu) : ∃ t ws,
    s.broadcastSm f o = s.vecDone f ((s.core f).wroteV t .alu 1 o.vd.toNat
      ((s.core f).spliced (laneBits o.f) o.vd.toNat 0 ((s.core f).vn o.f) fun _ =>
        (laneWr o.f o.sat ((s.core f).rsm (o.aux.toNat % 8)).value).bits)
      (((s.core f).rsm (o.aux.toNat % 8)).poison || (s.core f).vp o.vd.toNat) (t + 1)) ws false := by
  have hcodes : ∀ x : Nat, (List.replicate ((s.core f).vn o.f) x).take ((s.core f).vn o.f) =
      (List.range ((s.core f).vn o.f)).map fun _ => x := fun x => by simp [List.map_const']
  have hlegal : (o.arith && decide (o.f < 10)) = true := by simp [harith, hfmt]
  unfold State.broadcastSm
  dsimp only
  rw [vecInsn_body _ hlegal hissues, putLanes_issued _ _ _ _ _ _ _ (hcodes _)]
  exact ⟨_, _, rfl⟩

/-- Settles O5: each operation is a list of lane codes, and VBCS one code in every lane. -/
theorem vectorMoves : Obligations.VectorMoves := by
  refine ⟨laneOp_result (fun _ _ _ => rfl) (fun _ _ => rfl) fun o c n hn => ?vmov, zipOp_result (fun _ _ _ => rfl) fun _ _ => rfl,
    zipOp_result (fun _ _ _ => rfl) fun _ _ => rfl, zipOp_result (fun _ _ _ => rfl) fun _ _ => rfl,
    laneOp_result (fun _ _ _ => rfl) (fun _ _ => rfl) fun o c n hn => ?vsel,
    laneOp_result (fun _ _ _ => rfl) (fun _ _ => rfl) fun o c n hn => ?vbcx,
    laneOp_result (fun _ _ _ => rfl) (fun _ _ => rfl) fun o c n hn => slideDown_eq c o hn _,
    laneOp_result (fun _ _ _ => rfl) (fun _ _ => rfl) fun o c n hn => slideUp_eq c o hn _,
    zipOp_result (fun _ _ _ => rfl) fun _ h => decide_eq_true h, fun f o s harith hfmt hissues => ?vbcs⟩
  case vmov => rw [lanes_eq, take_range_map _ hn]
  case vsel => rw [vselCodes_eq, take_range_map _ hn]
  case vbcx => simp [List.map_const']
  case vbcs =>
    obtain ⟨t, ws, hstep⟩ := broadcastSm_eq harith hfmt hissues
    exact ⟨_, exec_next hstep rfl, vecDone_frame, fun k hk => vecDone_lane_first hk, vecDone_vp⟩

end Sys2Proof.Machine
end

section
/-! PROOFS. Arithmetic of Brash: values lane by lane, and whole complex values. -/

namespace Sys2Proof.Machine

/-! ### Values of one, two and three sources (R176 to R178) -/

section
variable {i : Fin 64 → VecArgs → Instr}

theorem zipVal_result {op : Val → Val → Val} {lat : Nat} (hexec : ∀ (f : Fin 64) o s, exec (i f o) s =
    .next (State.valOp s f o o.arith [o.a, o.b] .alu lat 1 fun c _ => zipVals c o op)) : ValueRR i op :=
  valOp_result hexec (fun _ h => h) (fun o c _ => zipVals_eq c o op) fun _ _ _ _ => rfl

theorem mapVal_result {op : Val → Val} {lat : Nat} (hexec : ∀ (f : Fin 64) o s, exec (i f o) s =
    .next (State.valOp s f o o.arith [o.a] .alu lat 1 fun c _ => mapVals c o op)) :
    ValueR i (fun o => o.arith = true) .alu fun o a => laneWr o.f o.sat (op (laneVal o.f a)) :=
  valOp_result hexec (fun _ h => h) (fun o c _ => mapVals_eq c o op) fun _ _ _ _ => rfl

theorem transOp_result {op : VecArgs → Fmt → Nat → Val → Wr} {lat : Nat} {dz : Bool} (hexec : ∀ (f : Fin 64) o s, exec (i f o) s =
    .next (State.transOp s f o lat dz (op o))) :
    ValueR i (fun o => o.flt = true) .trans fun o a => op o ((Fmt.ofCode o.f).getD .fp32) a (laneVal o.f a) :=
  valOp_result hexec (fun _ h => h) (fun o c _ => by rw [lanes_eq, List.map_map]) fun _ _ _ _ => rfl

end

theorem fmaVals_eq (c : CoreSt) (o : VecArgs) : (((c.lanes o.f o.a).zip (c.lanes o.f o.b)).zip (c.lanes o.f o.vd.toNat)).map (fun x =>
    (laneWr o.f o.sat (((laneVal o.f x.1.1).mul (laneVal o.f x.1.2)).add (laneVal o.f x.2)), false)) =
      (List.range (laneCount o.f)).map fun k => (laneWr o.f o.sat
        (((laneVal o.f (c.lane o o.a k)).mul (laneVal o.f (c.lane o o.b k))).add (laneVal o.f (c.lane o o.vd.toNat k))), false) := by
  rw [lanes_eq, lanes_eq, lanes_eq, List.zip_map', List.zip_map', List.map_map]
  rfl

/-! ### Complex products (R168, R171, R179) -/

/-- Pairs of a list given by its numbers. -/
theorem pairs_range_map {α : Type} (g : Nat → α) (m : Nat) :
    pairs ((List.range (2 * m)).map g) = (List.range m).map fun k => (g (2 * k), g (2 * k + 1)) := by
  induction m generalizing g with
  | zero => rfl
  | succ m ih =>
    rw [Nat.mul_succ, List.range_succ_eq_map, List.range_succ_eq_map, List.range_succ_eq_map]
    simp only [List.map_cons, List.map_map, pairs]
    exact congrArg _ (ih _)

/-- Two entries for each number are one entry for each number below twice the count. -/
theorem flatMap_pair_range {α : Type} (a b : Nat → α) (m : Nat) :
    (List.range m).flatMap (fun k => [a k, b k]) = (List.range (2 * m)).map fun j => if j % 2 = 0 then a (j / 2) else b (j / 2) := by
  induction m with
  | zero => rfl
  | succ m ih =>
    rw [Nat.mul_succ, List.range_succ, List.range_succ, List.range_succ, List.flatMap_append, ih]
    simp [Nat.add_div]

/-- The written values of a complex product, real part then imaginary part. -/
def complexWr (c : CoreSt) (o : VecArgs) (conj : Bool) (j : Nat) : Wr :=
  let re (i : Nat) := laneVal o.f (c.lane o i (2 * (j / 2)))
  let im (i : Nat) := laneVal o.f (c.lane o i (2 * (j / 2) + 1))
  let bi := if conj then (im o.b).neg else im o.b
  if j % 2 = 0 then laneWr o.f o.sat (((re o.a).mul (re o.b)).add ((im o.a).mul bi).neg)
  else laneWr o.f o.sat (((re o.a).mul bi).add ((im o.a).mul (re o.b)))

section
variable (c : CoreSt) (o : VecArgs) (conj : Bool) (k : Nat)

theorem complexWr_re : complexWr c o conj (2 * k) = laneWr o.f o.sat
    (((laneVal o.f (c.lane o o.a (2 * k))).mul (laneVal o.f (c.lane o o.b (2 * k)))).add
      ((laneVal o.f (c.lane o o.a (2 * k + 1))).mul
        (if conj then (laneVal o.f (c.lane o o.b (2 * k + 1))).neg else laneVal o.f (c.lane o o.b (2 * k + 1)))).neg) := by
  simp [complexWr]

theorem complexWr_im : complexWr c o conj (2 * k + 1) = laneWr o.f o.sat
    (((laneVal o.f (c.lane o o.a (2 * k))).mul
        (if conj then (laneVal o.f (c.lane o o.b (2 * k + 1))).neg else laneVal o.f (c.lane o o.b (2 * k + 1)))).add
      ((laneVal o.f (c.lane o o.a (2 * k + 1))).mul (laneVal o.f (c.lane o o.b (2 * k))))) := by
  simp [complexWr, show (2 * k + 1) / 2 = k by omega]

end

theorem laneCount_even (fmt : Nat) : laneCount fmt = 2 * (laneCount fmt / 2) := by
  unfold laneCount
  rcases laneBits_cases fmt with h | h | h <;> rw [h]

theorem complexPairs_eq (c : CoreSt) (o : VecArgs) (i : Nat) : pairs ((c.lanes o.f i).map (laneVal o.f)) =
    (List.range (laneCount o.f / 2)).map fun k => (laneVal o.f (c.lane o i (2 * k)), laneVal o.f (c.lane o i (2 * k + 1))) := by
  rw [lanes_eq, List.map_map, laneCount_even, pairs_range_map]
  simp

theorem complexWrs_eq (c : CoreSt) (o : VecArgs) (conj : Bool) :
    ((pairs ((c.lanes o.f o.a).map (laneVal o.f))).zip (pairs ((c.lanes o.f o.b).map (laneVal o.f)))).flatMap (fun x =>
      [laneWr o.f o.sat ((x.1.1.mul x.2.1).add (x.1.2.mul (if conj then x.2.2.neg else x.2.2)).neg),
        laneWr o.f o.sat ((x.1.1.mul (if conj then x.2.2.neg else x.2.2)).add (x.1.2.mul x.2.1))]) =
      (List.range (laneCount o.f)).map (complexWr c o conj) := by
  rw [complexPairs_eq, complexPairs_eq, List.zip_map', List.flatMap_map, flatMap_pair_range, ← laneCount_even]
  rfl

/-- A complex product writes the whole complex values of the first lanes. -/
theorem complexMul_eq {s : State} {f : Nat} {o : VecArgs} {conj : Bool} (hfmt : o.f ∈ [0, 1, 2, 9])
    (hissues : Issues s f [o.vd.toNat, o.a, o.b] [] [] .alu) : ∃ t ws,
    s.complexMul f o conj = s.vecDone f ((s.core f).wroteV t .alu 1 o.vd.toNat
      ((s.core f).spliced (laneBits o.f) o.vd.toNat 0 ((s.core f).vn o.f / 2 * 2) fun j => (complexWr (s.core f) o conj j).bits)
      (((s.core f).vp o.a || (s.core f).vp o.b) || (s.core f).vp o.vd.toNat) (t + 4)) ws false := by
  have hlegal : decide (o.f ∈ [0, 1, 2, 9]) = true := decide_eq_true hfmt
  have hn : (s.core f).vn o.f / 2 * 2 ≤ laneCount o.f := (Nat.div_mul_le_self _ 2).trans (vn_le _ _)
  unfold State.complexMul
  dsimp only
  rw [vecInsn_body _ hlegal hissues, complexWrs_eq, take_range_map _ hn, List.map_map,
    putLanes_issued (g := Wr.bits ∘ complexWr (s.core f) o conj) _ _ _ _ _ _ _ (List.take_of_length_le (by simp))]
  exact ⟨_, _, rfl⟩

theorem complexMul_result {i : Fin 64 → VecArgs → Instr} {conj : Bool}
    (hexec : ∀ (f : Fin 64) o s, exec (i f o) s = .next (State.complexMul s f o conj)) : ComplexResult i conj := by
  intro f o s hfmt hissues
  obtain ⟨t, ws, hstep⟩ := complexMul_eq (conj := conj) hfmt hissues
  refine ⟨_, exec_next hstep (hexec f o s), vecDone_frame, vecDone_vp,
    fun k hk hn => (vecDone_lane_first hk).trans (if_neg (Nat.not_lt.2 hn)), fun k hk => ?_⟩
  have hlane : 2 * k + 1 < laneCount o.f := by omega
  exact ⟨(vecDone_lane_first (Nat.lt_of_succ_lt hlane)).trans ((if_pos (Nat.lt_of_succ_lt hk)).trans (by rw [complexWr_re])),
    (vecDone_lane_first hlane).trans ((if_pos hk).trans (by rw [complexWr_im]))⟩

/-- Settles O6: the written values of each operation, lane by lane, and those of a complex product, pair by pair. -/
theorem vectorArithmetic : Obligations.VectorArithmetic :=
  ⟨zipVal_result fun _ _ _ => rfl, zipVal_result fun _ _ _ => rfl, zipVal_result fun _ _ _ => rfl, zipVal_result fun _ _ _ => rfl,
    zipVal_result fun _ _ _ => rfl, mapVal_result fun _ _ _ => rfl, mapVal_result fun _ _ _ => rfl,
    valOp_result (fun _ _ _ => rfl) (fun _ h => h) (fun o c _ => fmaVals_eq c o) fun _ _ _ _ => rfl,
    transOp_result (op := fun o fm x v => vexpWr fm o.sat x v) fun _ _ _ => rfl,
    transOp_result (op := fun o fm _ v => vrcpWr fm o.sat v) fun _ _ _ => rfl,
    transOp_result (op := fun o fm x v => vrsqWr fm o.sat x v) fun _ _ _ => rfl,
    complexMul_result fun _ _ _ => rfl, complexMul_result fun _ _ _ => rfl⟩

end Sys2Proof.Machine
end

section
/-! PROOFS. Conversions and codebooks of Brash. -/

namespace Sys2Proof.Machine

/-! ### A part of the lanes of a source -/

theorem laneCount_pos (fmt : Nat) : 0 < laneCount fmt := by
  unfold laneCount
  rcases laneBits_cases fmt with h | h | h <;> rw [h] <;> decide

theorem drop_range_map {α : Type} (g : Nat → α) (m d : Nat) : ((List.range m).map g).drop d = (List.range (m - d)).map fun k => g (d + k) :=
  List.ext_getElem (by simp) fun k _ _ => by simp

/-- The part `p` of `m` lanes, of which `n` count. -/
theorem part_range_map {α : Type} (g : Nat → α) {m p d n : Nat} (hp : p < m / d) (hn : n ≤ d) :
    (((List.range m).map g).drop (p * d)).take n = (List.range n).map fun k => g (p * d + k) := by
  have hfits : p * d + d ≤ m := by
    have := (Nat.le_div_iff_mul_le (Nat.pos_of_ne_zero fun h => by simp [h] at hp)).1 (Nat.succ_le_of_lt hp)
    rwa [Nat.succ_mul] at this
  rw [drop_range_map, take_range_map _ (by omega)]

section
variable {s : State} {f : Nat} {o : VecArgs}

/-! ### VCVT (R181) -/

/-- The code of a source lane in the destination's format. -/
def convCode (c : CoreSt) (o : VecArgs) (k : Nat) : Nat := (laneWr o.vbHi o.sat (laneVal o.f (c.lane o o.a k))).bits

/-- A conversion to a format of no more lanes converts a part of the source, to the first lanes. -/
theorem convertVec_narrow (harith : o.arith = true) (hsrc : o.f < 10) (hdst : o.vbHi < 10) (hcb : o.vbHi ≠ 7 ∧ o.vbHi ≠ 8)
    (hle : laneCount o.vbHi ≤ laneCount o.f) (hpart : o.aux.toNat % 4 < laneCount o.f / laneCount o.vbHi)
    (hissues : Issues s f [o.vd.toNat, o.a] [] [] .alu) : ∃ t ws,
    s.convertVec f o = s.vecDone f ((s.core f).wroteV t .alu 1 o.vd.toNat
      ((s.core f).spliced (laneBits o.vbHi) o.vd.toNat 0 (min (s.core f).vl (laneCount o.vbHi))
        fun k => convCode (s.core f) o (o.aux.toNat % 4 * laneCount o.vbHi + k))
      ((s.core f).vp o.a || (s.core f).vp o.vd.toNat) (t + 3)) ws false := by
  have hmin : min ((s.core f).vn o.f) (laneCount o.vbHi) = min (s.core f).vl (laneCount o.vbHi) := by unfold CoreSt.vn; omega
  have hlegal : (o.arith && decide (o.f < 10) && decide (o.vbHi < 10) && decide (o.vbHi ≠ 7 ∧ o.vbHi ≠ 8) &&
      decide (o.aux.toNat % 4 < laneCount o.f / laneCount o.vbHi)) = true := by simp [harith, hsrc, hdst, hcb, hpart]
  unfold State.convertVec
  simp only [if_pos hle]
  rw [vecInsn_body _ hlegal hissues, lanes_eq, part_range_map _ hpart (Nat.min_le_right _ _), hmin, List.map_map, List.map_map]
  exact ⟨_, _, rfl⟩

/-- A conversion to a format of more lanes converts the first lanes of the source, to a part of the destination. -/
theorem convertVec_widen (harith : o.arith = true) (hsrc : o.f < 10) (hdst : o.vbHi < 10) (hcb : o.vbHi ≠ 7 ∧ o.vbHi ≠ 8)
    (hlt : laneCount o.f < laneCount o.vbHi) (hpart : o.aux.toNat % 4 < laneCount o.vbHi / laneCount o.f)
    (hissues : Issues s f [o.vd.toNat, o.a] [] [] .alu) : ∃ t ws,
    s.convertVec f o = s.vecDone f ((s.core f).wroteV t .alu 1 o.vd.toNat
      ((s.core f).spliced (laneBits o.vbHi) o.vd.toNat (o.aux.toNat % 4 * laneCount o.f) ((s.core f).vn o.f)
        (convCode (s.core f) o))
      ((s.core f).vp o.a || (s.core f).vp o.vd.toNat) (t + 3)) ws false := by
  have hmin : min ((s.core f).vn o.f) (laneCount o.f) = (s.core f).vn o.f := Nat.min_eq_left (vn_le _ _)
  have hlegal : (o.arith && decide (o.f < 10) && decide (o.vbHi < 10) && decide (o.vbHi ≠ 7 ∧ o.vbHi ≠ 8) &&
      decide (o.aux.toNat % 4 < laneCount o.vbHi / laneCount o.f)) = true := by simp [harith, hsrc, hdst, hcb, hpart]
  unfold State.convertVec
  simp only [if_neg (Nat.not_le.2 hlt)]
  rw [vecInsn_body _ hlegal hissues, lanes_eq, hmin, take_range_map _ (vn_le _ _), List.map_map, List.map_map]
  exact ⟨_, _, rfl⟩

/-! ### VCBX (R182) -/

/-- The codebook entry that an index lane names. -/
def entryCode (c : CoreSt) (o : VecArgs) (k : Nat) : Nat :=
  laneAt 16 (c.reg o.b) (c.lane o o.a k % (if o.f = 8 then 16 else 256))

theorem getD_codebook (c : CoreSt) (hbits : laneBits o.f = 8) (k : Nat) :
    (lanesOf 16 (c.reg o.b)).getD (if o.f = 8 then c.lane o o.a k % 16 else c.lane o o.a k) 0 = entryCode c o k := by
  have hlt := lane_lt c o o.a k
  rw [hbits] at hlt
  unfold entryCode
  split
  · rw [getD_lanesOf (by omega)]
  · rw [getD_lanesOf (by omega), Nat.mod_eq_of_lt (show _ < 256 from hlt)]

/-- The entries that the index lanes of a half name go to the first lanes. -/
theorem codebookExpand_eq (hfmt : o.f = 7 ∨ o.f = 8) (hissues : Issues s f [o.vd.toNat, o.a, o.b] [] [] .alu) : ∃ t,
    s.codebookExpand f o = s.vecDone f ((s.core f).wroteV t .alu 1 o.vd.toNat
      ((s.core f).spliced 16 o.vd.toNat 0 (min (s.core f).vl 256) fun k => entryCode (s.core f) o (o.aux.toNat % 2 * 256 + k))
      (((s.core f).vp o.a || (s.core f).vp o.b) || (s.core f).vp o.vd.toNat) (t + 3)) [] false := by
  have hbits : laneBits o.f = 8 := by rcases hfmt with h | h <;> rw [h] <;> rfl
  have hcount : laneCount o.f = 512 := by rw [laneCount, hbits]
  have hmin : min ((s.core f).vn o.f) 256 = min (s.core f).vl 256 := by unfold CoreSt.vn; omega
  have hpart : o.aux.toNat % 2 < 512 / 256 := Nat.mod_lt _ (by decide)
  unfold State.codebookExpand
  rw [vecInsn_body _ (decide_eq_true hfmt) hissues, hmin]
  dsimp only
  rw [lanes_eq, hcount, part_range_map _ hpart (Nat.min_le_right _ _), List.map_map]
  simp only [Function.comp_def, getD_codebook _ hbits]
  rw [putLanes_issued _ _ _ _ _ _ _ (List.take_of_length_le (by simp))]
  exact ⟨_, rfl⟩

/-! ### VCBQ (R183, R98) -/

/-- The index of the entry nearest to a source lane, in the codebook of the first entries of a register. -/
def quantCode (c : CoreSt) (o : VecArgs) (k : Nat) : Nat :=
  (codeCb (cbVals ((List.range (if o.aux.toNat / 4 % 2 = 1 then 16 else 256)).map (laneAt 16 (c.reg o.b))))
    (laneVal o.f (c.lane o o.a k)).quot).1

theorem codebookQuant_eq (hflt : o.flt = true) (hpart : o.aux.toNat % 4 < 512 / laneCount o.f)
    (hissues : Issues s f [o.vd.toNat, o.a, o.b] [] [] .alu) : ∃ t ws,
    s.codebookQuant f o = s.vecDone f ((s.core f).wroteV t .alu 1 o.vd.toNat
      ((s.core f).spliced 8 o.vd.toNat (o.aux.toNat % 4 * laneCount o.f) ((s.core f).vn o.f) (quantCode (s.core f) o))
      ((s.core f).vp o.a || (s.core f).vp o.b || (s.core f).vp o.vd.toNat) (t + 6)) ws false := by
  have hlegal : (o.flt && decide (o.aux.toNat % 4 < 512 / laneCount o.f)) = true := by simp [hflt, hpart]
  have hbook : (lanesOf 16 ((s.core f).reg o.b)).take (if o.aux.toNat / 4 % 2 = 1 then 16 else 256) =
      (List.range (if o.aux.toNat / 4 % 2 = 1 then 16 else 256)).map (laneAt 16 ((s.core f).reg o.b)) := by
    rw [lanesOf_eq (by decide), take_range_map _ (by split <;> decide)]
  unfold State.codebookQuant
  dsimp only
  rw [vecInsn_body _ hlegal hissues, lanes_eq, take_range_map _ (vn_le _ _), hbook, List.map_map, List.map_map]
  exact ⟨_, _, rfl⟩

end

/-- Settles O7: the converted codes are a splice of the destination's lanes. -/
theorem vectorConversions : Obligations.VectorConversions := by
  refine fun f o s => ⟨fun harith hsrc hdst h7 h8 hle hpart hissues => ?narrow, fun harith hsrc hdst h7 h8 hlt hpart hissues => ?widen,
    fun hfmt hissues => ?vcbx, fun hflt hpart hissues => ?vcbq⟩
  case narrow =>
    obtain ⟨t, ws, hstep⟩ := convertVec_narrow harith hsrc hdst ⟨h7, h8⟩ hle hpart hissues
    exact ⟨_, exec_next hstep rfl, vecDone_frame, fun k hk => vecDone_lane_first hk⟩
  case widen =>
    obtain ⟨t, ws, hstep⟩ := convertVec_widen harith hsrc hdst ⟨h7, h8⟩ hlt hpart hissues
    have hfits : o.aux.toNat % 4 * laneCount o.f ≤ laneCount o.vbHi := (Nat.le_div_iff_mul_le (laneCount_pos _)).1 hpart.le
    exact ⟨_, exec_next hstep rfl, vecDone_frame, fun k hk => vecDone_lane hk hfits⟩
  case vcbx =>
    obtain ⟨t, hstep⟩ := codebookExpand_eq hfmt hissues
    refine ⟨_, exec_next hstep rfl, vecDone_frame, fun k hk => (vecDone_lane_first hk).trans ?_⟩
    simp only [Nat.lt_min, hk, and_true, entryCode, laneAt_mod]
  case vcbq =>
    obtain ⟨t, ws, hstep⟩ := codebookQuant_eq hflt hpart hissues
    have hfits : o.aux.toNat % 4 * laneCount o.f ≤ 512 := (Nat.le_div_iff_mul_le (laneCount_pos _)).1 hpart.le
    exact ⟨_, exec_next hstep rfl, vecDone_frame, fun k hk => vecDone_lane hk hfits⟩

end Sys2Proof.Machine
end

section
/-! PROOFS. Reductions of Brash. -/

namespace Sys2Proof.Machine

/-- The core after a reduction that issued in cycle `t` and writes summary register `d`. -/
def CoreSt.wroteSm (c : CoreSt) (t d : Nat) (m : Summary) : CoreSt := ((c.issued t .alu 1 1).wsm d m).readySm d (t + 8)

/-- The codes of the first lanes of the source. -/
def firstLanes (c : CoreSt) (o : VecArgs) : List Nat := (List.range (min c.vl (laneCount o.f))).map (c.lane o o.a)

theorem take_lanes (c : CoreSt) (o : VecArgs) : (c.lanes o.f o.a).take (c.vn o.f) = firstLanes c o := by
  rw [lanes_eq, take_range_map _ (vn_le _ _)]
  rfl

section
variable {i : Fin 64 → VecArgs → Instr} {legal : VecArgs → Prop} {ok : VecArgs → Bool} {red : VecArgs → List Nat → Word × SmKind × List Wr}
  {v : VecArgs → List Nat → Word × SmKind}

/-- A reduction writes its value, its kind and the poison of its source to a summary register. -/
theorem reduceOp_result (hexec : ∀ (f : Fin 64) o s, exec (i f o) s = .next (State.reduceOp s f o (ok o) (red o)))
    (hok : ∀ o, legal o → ok o = true) (hval : ∀ o l, legal o → v o l = ((red o l).1, (red o l).2.1)) : ReduceResult i legal v := by
  intro f o s hlegal hfmt hissues
  have hstep : ∃ t ws, s.reduceOp f o (ok o) (red o) = s.vecDone f ((s.core f).wroteSm t (o.aux.toNat % 8)
      { val := (red o (firstLanes (s.core f) o)).1, poison := (s.core f).vp o.a, kind := (red o (firstLanes (s.core f) o)).2.1 }) ws
        false := by
    have hlisted : (ok o && decide (o.f < 10)) = true := by simp [hok o hlegal, hfmt]
    unfold State.reduceOp
    dsimp only
    rw [vecInsn_body _ hlisted hissues, take_lanes]
    exact ⟨_, _, rfl⟩
  obtain ⟨t, ws, hstep⟩ := hstep
  refine ⟨_, exec_next hstep (hexec f o s), ?_⟩
  rw [vecDone_core]
  refine ⟨fun k => ?_, rfl, rfl, rfl, rfl, rfl, vecDone_reports.mem, vecDone_reports.tags, fun k hk =>
    vecDone_floe fun h => hk (Fin.ext h)⟩
  rw [show (List.range (min (s.core f).vl (laneCount o.f))).map ((s.core f).lane o o.a) = firstLanes (s.core f) o from rfl, hval o _ hlegal]
  exact rsm_wsm _ _ k _

end

/-! ### Values (R172, R184) -/

section
variable {o : VecArgs}

theorem sumLanes_eq (l : List Nat) :
    (if 5 ≤ o.f then (BitVec.ofInt 32 ((l.map (laneInt o.f)).sum), if o.f = 9 then SmKind.q else .i) else ((sumLanes o l).1, .f)) =
      ((sumLanes o l).1, (sumLanes o l).2.1) := by
  by_cases h : o.f ≤ 4
  · rw [if_neg (show ¬ 5 ≤ o.f from Nat.not_le.2 (Nat.lt_succ_of_le h)), sumLanes, if_pos h]
  · rw [if_pos (show 5 ≤ o.f from Nat.not_le.1 h), sumLanes, if_neg h, smKindOf, if_neg h, ← List.sum_eq_foldl]

theorem extremeLanes_kind (big : Bool) (l : List Nat) : (extremeLanes o big l).2.1 = smKindOf o.f := by
  unfold extremeLanes
  split
  · next h => exact (if_pos h).symm
  · rfl

theorem argMaxLane_kind (l : List Nat) : (argMaxLane o l).2.1 = .i := by
  unfold argMaxLane
  split
  · rfl
  · split <;> rfl

end

/-- Settles O8: every reduction is `reduceOp` with its value and its kind. -/
theorem vectorReductions : Obligations.VectorReductions := by
  refine ⟨reduceOp_result (fun _ _ _ => rfl) (fun _ _ => rfl) fun o l _ => rfl,
    reduceOp_result (fun _ _ _ => rfl) (fun _ _ => rfl) fun o l _ => rfl,
    reduceOp_result (fun _ _ _ => rfl) (fun _ _ => rfl) fun o l _ => rfl,
    reduceOp_result (fun _ _ _ => rfl) (fun _ h => h) fun o l _ => sumLanes_eq l,
    reduceOp_result (fun _ _ _ => rfl) (fun _ h => h) fun o l _ => ?max, reduceOp_result (fun _ _ _ => rfl) (fun _ h => h) fun o l _ => ?min,
    reduceOp_result (fun _ _ _ => rfl) (fun _ h => h) fun o l _ => ?argmax⟩
  case max => rw [extremeLanes_kind]
  case min => rw [extremeLanes_kind]
  case argmax => rw [argMaxLane_kind]

end Sys2Proof.Machine
end

section
/-! SUPPORT. Bytes, codes and lines of vector loads and stores (R185 to R188). -/

namespace Sys2Proof.Machine

/-! ### Runs of bytes -/

section
variable {s t : State}

theorem rdBytes_eq (a n : Nat) : s.rdBytes a n = (List.range n).map fun i => s.rdByte (a + i) := by
  refine List.ext_getElem (by simp [rdBytes_length]) fun i h1 h2 => ?_
  have hi : i < n := by simpa using h2
  rw [← List.getD_eq_getElem _ 0 h1, rdBytes_getD _ _ _ _ hi]
  simp

/-- A part of a run of bytes is a run of bytes. -/
theorem rdBytes_part {a n i m : Nat} (h : i + m ≤ n) : ((s.rdBytes a n).drop i).take m = s.rdBytes (a + i) m := by
  rw [rdBytes_eq, rdBytes_eq, drop_range_map, take_range_map _ (by omega)]
  simp only [Nat.add_assoc]

theorem leNat_lt (bs : Bytes) : leNat bs < 256 ^ bs.length := by
  induction bs with
  | nil => simp [leNat]
  | cons b bs ih =>
    have hb : b.toNat < 256 := b.isLt
    rw [leNat, List.length_cons, Nat.pow_succ]
    omega

theorem rdLe_lt (a n : Nat) : s.rdLe a n < 256 ^ n := by
  have h := leNat_lt (s.rdBytes a n)
  rwa [rdBytes_length] at h

/-- The bytes of a state into whose memory a run was written. -/
theorem rdBytes_of_written {a : Nat} {bs : Bytes} (h : ∀ x, t.rdByte x = (s.wrBytes a bs).rdByte x) : t.rdBytes a bs.length = bs :=
  (rdBytes_congr fun x _ _ => h x).trans (rdBytes_wrBytes s bs a)

theorem rdByte_of_written {a x : Nat} {bs : Bytes} (h : ∀ x, t.rdByte x = (s.wrBytes a bs).rdByte x) (hx : x < a ∨ a + bs.length ≤ x) :
    t.rdByte x = s.rdByte x := by
  rw [h, rdByte_wrBytes, if_neg (by omega)]

end

/-! ### Codes of whole bytes -/

/-- A lane of a format has whole bytes. -/
theorem laneBytes_cases (fmt : Nat) : ∃ m, laneBits fmt = 8 * m ∧ laneBits fmt / 8 = m ∧ (m = 1 ∨ m = 2 ∨ m = 4) := by
  rcases laneBits_cases fmt with h | h | h
  · exact ⟨4, h, by rw [h], .inr (.inr rfl)⟩
  · exact ⟨2, h, by rw [h], .inr (.inl rfl)⟩
  · exact ⟨1, h, by rw [h], .inl rfl⟩

theorem two_pow_laneBits (fmt : Nat) : 2 ^ laneBits fmt = 256 ^ (laneBits fmt / 8) := by
  obtain ⟨m, hbits, hbytes, -⟩ := laneBytes_cases fmt
  rw [hbytes, hbits, Nat.pow_mul]

theorem ceilDiv_laneBits (n fmt : Nat) : ceilDiv (n * laneBits fmt) 8 = n * (laneBits fmt / 8) := by
  obtain ⟨m, hbits, hbytes, -⟩ := laneBytes_cases fmt
  rw [hbytes, hbits, ceilDiv, Nat.mul_left_comm]
  omega

theorem laneBits_ne_four (fmt : Nat) : laneBits fmt ≠ 4 := by
  rcases laneBits_cases fmt with h | h | h <;> omega

theorem codesOf_rdBytes (s : State) (a n fmt : Nat) : codesOf (laneBits fmt) (s.rdBytes a (n * (laneBits fmt / 8))) n =
    (List.range n).map fun k => s.rdLe (a + k * (laneBits fmt / 8)) (laneBits fmt / 8) := by
  refine List.map_congr_left fun k hk => ?_
  have hfits : k * (laneBits fmt / 8) + laneBits fmt / 8 ≤ n * (laneBits fmt / 8) := by
    rw [← Nat.succ_mul]
    exact Nat.mul_le_mul_right _ (List.mem_range.1 hk)
  rw [if_neg (laneBits_ne_four fmt), rdBytes_part hfits]
  rfl

theorem packCodes_wide {w : Nat} (hw : w ≠ 4) (a : Nat) (l : List Nat) :
    packCodes w (a :: l) = leBytes (w / 8) a ++ packCodes w l := by
  delta packCodes
  exact if_neg hw

theorem packCodes_eq {w : Nat} (hw : w ≠ 4) (l : List Nat) : packCodes w l = l.flatMap (leBytes (w / 8)) := by
  induction l with
  | nil => rfl
  | cons a l ih => rw [packCodes_wide hw, ih, List.flatMap_cons]

/-- A list of blocks of `m` bytes: its length, and block `k`. -/
theorem length_flatMap_leBytes (m : Nat) (l : List Nat) : (l.flatMap (leBytes m)).length = l.length * m := by
  induction l with
  | nil => simp
  | cons a l ih => rw [List.flatMap_cons, List.length_append, leBytes_length, ih, List.length_cons, Nat.succ_mul, Nat.add_comm]

theorem block_flatMap_leBytes {m k : Nat} {l : List Nat} (hk : k < l.length) :
    ((l.flatMap (leBytes m)).drop (k * m)).take m = leBytes m (l.getD k 0) := by
  induction l generalizing k with
  | nil => simp at hk
  | cons a l ih =>
    rw [List.flatMap_cons]
    cases k with
    | zero => simp [leBytes_length]
    | succ k =>
      rw [Nat.succ_mul, Nat.add_comm, List.drop_append, leBytes_length, List.drop_of_length_le (by rw [leBytes_length]; omega),
        List.nil_append, Nat.add_sub_cancel_left, ih (by simpa using hk), List.getD_cons_succ]

/-! ### Codes of half a byte (R186) -/

theorem bits_nibble (v k : Nat) : bits v (4 * (k % 2) + 3) (4 * (k % 2)) = v / 16 ^ (k % 2) % 16 := by
  unfold bits
  rw [Nat.shiftRight_eq_div_pow, Nat.pow_mul, show 4 * (k % 2) + 3 + 1 - 4 * (k % 2) = 4 by omega]
  rfl

theorem ceilDiv_nibbles (n : Nat) : ceilDiv (n * 4) 8 = (n + 1) / 2 := by
  unfold ceilDiv
  omega

theorem codesOf_nibbles (s : State) (a n : Nat) :
    codesOf 4 (s.rdBytes a ((n + 1) / 2)) n = (List.range n).map (s.nibble a) := by
  refine List.map_congr_left fun k hk => ?_
  rw [if_pos rfl, bits_nibble, rdBytes_getD _ _ _ _ (by have := List.mem_range.1 hk; omega)]
  rfl

theorem packNibbles_one (a : Nat) : packCodes 4 [a] = [BitVec.ofNat 8 (a % 16)] := rfl

theorem packNibbles_two (a b : Nat) (l : List Nat) :
    packCodes 4 (a :: b :: l) = BitVec.ofNat 8 (a % 16 + 16 * (b % 16)) :: packCodes 4 l := rfl

theorem length_packNibbles : ∀ l : List Nat, (packCodes 4 l).length = (l.length + 1) / 2
  | [] => rfl
  | [a] => by simp [packNibbles_one]
  | _ :: _ :: l => by
    rw [packNibbles_two, List.length_cons, length_packNibbles l, List.length_cons, List.length_cons]
    omega

theorem nibble_packNibbles : ∀ (l : List Nat) (k : Nat), k < l.length →
    ((packCodes 4 l).getD (k / 2) 0).toNat / 16 ^ (k % 2) % 16 = l.getD k 0 % 16
  | [], _, h => absurd h (Nat.not_lt_zero _)
  | [a], k, h => by
    obtain rfl : k = 0 := by simpa using h
    simp [packNibbles_one]
  | a :: b :: l, 0, _ => by
    simp [packNibbles_two]
  | a :: b :: l, 1, _ => by
    simp [packNibbles_two]
    omega
  | a :: b :: l, k + 2, h => by
    have hrest := nibble_packNibbles l k (by simpa using h)
    rw [packNibbles_two, Nat.add_mod_right, show (k + 2) / 2 = k / 2 + 1 by omega, List.getD_cons_succ]
    exact hrest

/-! ### Lines of a run of bytes -/

/-- Each line of a run holds one of its bytes. -/
theorem byte_of_mem_linesOf {a n l : Nat} (h : l ∈ linesOf a n) : ∃ i, i < n ∧ l = (a + i) / 64 * 64 := by
  unfold linesOf at h
  by_cases hn : n = 0
  · simp [hn] at h
  · rw [if_neg hn] at h
    obtain ⟨j, hj, rfl⟩ := List.mem_map.1 h
    have hj := List.mem_range.1 hj
    exact ⟨(a / 64 + j) * 64 - a, by omega, by omega⟩

theorem first_mem_linesOf {a n : Nat} (h : 0 < n) : a / 64 * 64 ∈ linesOf a n := by
  rw [linesOf, if_neg (Nat.ne_of_gt h)]
  exact List.mem_map.2 ⟨0, List.mem_range.2 (by omega), by simp⟩

section
variable {s : State} {f a n : Nat} {c : CoreSt}

/-- A read in lines of the allocation gives the bytes of memory. -/
theorem kernelRead_inside (h : InAllocLines s f a n) :
    (s.kernelRead f c a n).1 = s.rdBytes (floeBase f + a) n ∧ (s.kernelRead f c a n).2.1 = false := by
  constructor
  · rw [rdBytes_eq]
    exact List.map_congr_left fun i hi => if_pos (h i (List.mem_range.1 hi))
  · refine List.any_eq_false.2 fun l hl => ?_
    obtain ⟨i, hi, rfl⟩ := byte_of_mem_linesOf hl
    simp [h i hi]

/-- A read whose first line is outside the allocation is partly outside. -/
theorem kernelRead_outside (hn : 0 < n) (h : s.inFloeAlloc f (a / 64 * 64) 64 = false) : (s.kernelRead f c a n).2.1 = true :=
  List.any_eq_true.2 ⟨_, first_mem_linesOf hn, by simp [h]⟩

end

/-! ### Stores to an output range (R188) -/

/-- The store of the bytes of a run that lie in line `l`. -/
def storeLine (f : Nat) (c : CoreSt) (a fmt : Nat) (bs : Bytes) (poison : Bool) (st : State × Bool) (l : Nat) : State × Bool :=
  let lo := max l a
  let hi := min (l + 64) (a + bs.length)
  if c.inOut lo (hi - lo) && decide (hi ≤ 0x40_0000) then
    let s := st.1.wrBytes (floeBase f + lo) ((bs.drop (lo - a)).take (hi - lo))
    (s.kernelTag f c (floeBase f + l) fmt poison, st.2)
  else (st.1, true)

/-- `t` is `s` with a run of bytes written: its bytes, and the units of the floes as they stood. -/
structure Stored (a : Nat) (bs : Bytes) (s t : State) : Prop where
  byte : ∀ x, t.rdByte x = (s.wrBytes a bs).rdByte x
  floes : t.floes = s.floes

theorem Stored.append {a : Nat} {bs cs : Bytes} {r s t : State} (h : Stored a bs r s) (k : Stored (a + bs.length) cs s t) :
    Stored a (bs ++ cs) r t where
  byte x := by
    rw [k.byte, rdByte_wrBytes, h.byte, rdByte_wrBytes, rdByte_wrBytes, List.length_append]
    by_cases hlo : x < a + bs.length
    · rw [if_neg (by omega)]
      by_cases ha : a ≤ x
      · rw [if_pos (by omega), if_pos (by omega), List.getD_append _ _ _ _ (by omega)]
      · rw [if_neg (by omega), if_neg (by omega)]
    · by_cases hhi : x < a + bs.length + cs.length
      · rw [if_pos (by omega), if_pos (by omega), List.getD_append_right _ _ _ _ (by omega), Nat.sub_sub]
      · rw [if_neg (by omega), if_neg (by omega), if_neg (by omega)]
  floes := k.floes.trans h.floes

section
variable {f a fmt : Nat} {c : CoreSt} {bs : Bytes} {poison : Bool}

theorem inOut_part {n lo k : Nat} (h : c.inOut a n = true) (hlo : a ≤ lo) (hhi : lo + k ≤ a + n) : c.inOut lo k = true := by
  simp only [CoreSt.inOut, Bool.or_eq_true, Bool.and_eq_true, decide_eq_true_eq] at *
  omega

theorem storeLine_stored (hin : c.inOut a bs.length = true) (hlim : a + bs.length ≤ 0x40_0000) {l : Nat} (hl : l < a + bs.length)
    (ha : a < l + 64) (st : State × Bool) : (storeLine f c a fmt bs poison st l).2 = st.2 ∧
      Stored (floeBase f + max l a) ((bs.drop (max l a - a)).take (min (l + 64) (a + bs.length) - max l a)) st.1
        (storeLine f c a fmt bs poison st l).1 := by
  have hlisted : (c.inOut (max l a) (min (l + 64) (a + bs.length) - max l a) &&
      decide (min (l + 64) (a + bs.length) ≤ 0x40_0000)) = true := by
    rw [inOut_part hin (by omega) (by omega), Bool.true_and, decide_eq_true_eq]
    omega
  unfold storeLine
  simp only [hlisted, if_true, true_and]
  exact ⟨fun x => rdByte_of_mem kernelTag_mem x, kernelTag_floes.trans (wrBytes_floes _ _ _)⟩

/-- The bytes of the first `j` lines of a run, stored line by line. -/
theorem storeLines_stored (hin : c.inOut a bs.length = true) (hlim : a + bs.length ≤ 0x40_0000) (s : State) {j : Nat}
    (hj : j ≤ (a + bs.length - 1) / 64 - a / 64 + 1) (hpos : 0 < bs.length) :
    let st := ((List.range j).map fun i => (a / 64 + i) * 64).foldl (storeLine f c a fmt bs poison) (s, false)
    st.2 = false ∧ Stored (floeBase f + a) (bs.take ((a / 64 + j) * 64 - a)) s st.1 := by
  induction j with
  | zero =>
    rw [show (a / 64 + 0) * 64 - a = 0 by omega]
    exact ⟨rfl, fun _ => rfl, rfl⟩
  | succ j ih =>
    obtain ⟨hkept, hstored⟩ := ih (by omega)
    rw [List.range_succ, List.map_append, List.foldl_append]
    generalize ((List.range j).map fun i => (a / 64 + i) * 64).foldl (storeLine f c a fmt bs poison) (s, false) = st at hkept hstored ⊢
    generalize hl : (a / 64 + j) * 64 = l at hstored
    obtain ⟨hkept', hline⟩ := storeLine_stored (f := f) (fmt := fmt) (poison := poison) hin hlim (l := l) (by omega) (by omega) st
    have hstart : floeBase f + max l a = floeBase f + a + (bs.take (l - a)).length := by
      rw [List.length_take]
      omega
    have hpiece : (bs.drop (max l a - a)).take (min (l + 64) (a + bs.length) - max l a) =
        (bs.drop (l - a)).take ((a / 64 + (j + 1)) * 64 - a - (l - a)) := by
      rw [show max l a - a = l - a by omega, List.take_eq_take_iff, List.length_drop]
      omega
    have hall : bs.take ((a / 64 + (j + 1)) * 64 - a) =
        bs.take (l - a) ++ (bs.drop (l - a)).take ((a / 64 + (j + 1)) * 64 - a - (l - a)) := by
      rw [← List.take_add]
      congr 1
      omega
    rw [hstart, hpiece] at hline
    simp only [List.map_cons, List.map_nil, List.foldl_cons, List.foldl_nil, hl, hall]
    exact ⟨hkept'.trans hkept, hstored.append hline⟩

/-- A store to an output range stores every byte, line by line, and drops none. -/
theorem kernelWrite_stored (hin : c.inOut a bs.length = true) (hlim : a + bs.length ≤ 0x40_0000) (s : State) :
    (s.kernelWrite f c a fmt bs poison).2 = false ∧ Stored (floeBase f + a) bs s (s.kernelWrite f c a fmt bs poison).1 := by
  have hwrite : s.kernelWrite f c a fmt bs poison = (linesOf a bs.length).foldl (storeLine f c a fmt bs poison) (s, false) := rfl
  rw [hwrite, linesOf]
  by_cases hpos : 0 < bs.length
  · rw [if_neg (Nat.ne_of_gt hpos)]
    obtain ⟨hkept, hstored⟩ := storeLines_stored (f := f) (fmt := fmt) (poison := poison) hin hlim s le_rfl hpos
    rw [List.take_of_length_le (by omega)] at hstored
    exact ⟨hkept, hstored⟩
  · obtain rfl : bs = [] := List.eq_nil_of_length_eq_zero (by omega)
    exact ⟨rfl, fun _ => rfl, rfl⟩

end

end Sys2Proof.Machine
end

section
/-! PROOFS. Vector loads and stores of Brash. -/

namespace Sys2Proof.Machine

/-! ### What a load leaves -/

section
variable {s t : State} {f : Nat} {o : VMemArgs}

theorem VecFrame.loadFrame (h : VecFrame f o.vd.toNat s t) : LoadFrame f o s t := by
  obtain ⟨hpc, hreg, hsm, hx, -, hmem, htags, hfloe, -⟩ := h
  exact ⟨hpc, hreg, hsm, hx, hmem, htags, hfloe⟩

/-- A load that is counted as an access outside leaves the same. -/
theorem LoadFrame.nativeOob (h : LoadFrame f o s t) : LoadFrame f o s (t.nativeOob f) := by
  obtain ⟨hpc, hreg, hsm, hx, hmem, htags, hfloe⟩ := h
  rw [LoadFrame, nativeOob_core]
  exact ⟨hpc, hreg, hsm, hx, nativeOob_mem.trans hmem, nativeOob_tags.trans htags, fun k hk => (nativeOob_floe hk).trans (hfloe k hk)⟩

/-! ### VLD and VLDN (R186) -/

theorem elems_le (c : CoreSt) (o : VMemArgs) : c.elems o ≤ laneCount o.f := Nat.min_le_right _ _

/-- The bytes that a load of `w` bits an element reads. -/
def loadRead (s : State) (f : Nat) (o : VMemArgs) (w : Nat) : Bytes × Bool × Bool :=
  s.kernelRead f (s.core f) (vmemAddr (s.core f) o) (ceilDiv ((s.core f).elems o * w) 8)

/-- The lanes that a load puts before those it keeps. -/
def loadLanes (s : State) (f : Nat) (o : VMemArgs) (w : Nat) (wide : Nat → Nat) : List Nat :=
  (codesOf w (loadRead s f o w).1 ((s.core f).elems o)).map wide

theorem vecLoad_eq {legal : Bool} {w : Nat} {wide : Nat → Nat} (hlegal : (legal && decide (o.f < 10)) = true)
    (hissues : Issues s f [o.vd.toNat] [] [o.xb.toNat] .mem) {u : Nat → Nat → State}
    (hu : ∀ t occ, u t occ = s.vecDone f ((s.core f).wroteV t .mem occ o.vd.toNat
      (ofLanes (laneBits o.f) (loadLanes s f o w wide ++ (lanesOf (laneBits o.f) ((s.core f).reg o.vd.toNat)).drop ((s.core f).elems o)))
      ((loadRead s f o w).2.1 || (loadRead s f o w).2.2) (t + occ + 6)) [] false) : ∃ t occ,
    s.vecLoad f o legal w wide = if (loadRead s f o w).2.1 then (u t occ).nativeOob f else u t occ := by
  simp only [hu]
  exact ⟨_, _, vecInsn_body _ hlegal hissues⟩

/-- A load from lines of the allocation puts its elements into the first lanes. -/
theorem vecLoad_inside {legal : Bool} {w : Nat} {wide g : Nat → Nat} (hlegal : (legal && decide (o.f < 10)) = true)
    (hissues : Issues s f [o.vd.toNat] [] [o.xb.toNat] .mem)
    (hin : InAllocLines s f (vmemAddr (s.core f) o) (ceilDiv ((s.core f).elems o * w) 8))
    (hcodes : (codesOf w (s.rdBytes (floeBase f + vmemAddr (s.core f) o) (ceilDiv ((s.core f).elems o * w) 8)) ((s.core f).elems o)).map
      wide = (List.range ((s.core f).elems o)).map g) : ∃ t occ r p,
    s.vecLoad f o legal w wide = s.vecDone f ((s.core f).wroteV t .mem occ o.vd.toNat
      ((s.core f).spliced (laneBits o.f) o.vd.toNat 0 ((s.core f).elems o) g) p r) [] false := by
  have hread : (loadRead s f o w).1 = _ ∧ (loadRead s f o w).2.1 = false := kernelRead_inside hin
  obtain ⟨hbytes, hoob⟩ := hread
  obtain ⟨t, occ, hstep⟩ := vecLoad_eq (w := w) (wide := wide) hlegal hissues fun _ _ => rfl
  have hlanes : loadLanes s f o w wide = (List.range ((s.core f).elems o)).map g := by
    rw [loadLanes, hbytes, hcodes]
  have hsplice : loadLanes s f o w wide ++ (lanesOf (laneBits o.f) ((s.core f).reg o.vd.toNat)).drop ((s.core f).elems o) =
      spliceLanes (lanesOf (laneBits o.f) ((s.core f).reg o.vd.toNat)) ((List.range ((s.core f).elems o)).map g) 0 := by
    simp [hlanes, spliceLanes]
  rw [if_neg (ne_true_of_eq_false hoob), hsplice] at hstep
  exact ⟨t, occ, _, _, hstep⟩

/-- A load whose first line is outside the allocation is counted, and its register is poisoned. -/
theorem vecLoad_outside {legal : Bool} {w : Nat} {wide : Nat → Nat} (hlegal : (legal && decide (o.f < 10)) = true)
    (hissues : Issues s f [o.vd.toNat] [] [o.xb.toNat] .mem) (hpos : 0 < ceilDiv ((s.core f).elems o * w) 8)
    (hout : s.inFloeAlloc f (vmemAddr (s.core f) o / 64 * 64) 64 = false) : ∃ t occ r v,
    s.vecLoad f o legal w wide = (s.vecDone f ((s.core f).wroteV t .mem occ o.vd.toNat v true r) [] false).nativeOob f := by
  have hoob : (loadRead s f o w).2.1 = true := kernelRead_outside hpos hout
  obtain ⟨t, occ, hstep⟩ := vecLoad_eq (w := w) (wide := wide) hlegal hissues fun _ _ => rfl
  rw [if_pos hoob, hoob, Bool.true_or] at hstep
  exact ⟨t, occ, _, _, hstep⟩

/-! ### VGATH (R187) -/

/-- Byte address of the element that lane `k` of the index register names. -/
def idxAddr (c : CoreSt) (o : VMemArgs) (k : Nat) : Nat :=
  (vmemBase c o + laneAt 32 (c.reg (vmemIdx o)) k * (laneBits o.f / 8)) % 2 ^ 32

theorem idxAddrs_eq (c : CoreSt) (o : VMemArgs) {n : Nat} (hn : n ≤ 128) : idxAddrs c o n = (List.range n).map (idxAddr c o) := by
  rw [idxAddrs, lanesOf_eq (by decide), take_range_map _ hn, List.map_map]
  rfl

theorem getD_idxAddrs (c : CoreSt) (o : VMemArgs) {k : Nat} (hk : k < 128) : (idxAddrs c o 128).getD k 0 = idxAddr c o k := by
  rw [idxAddrs_eq c o le_rfl, getD_range_map _ hk]

theorem vmemIdxOk_of (hfmt : o.f < 10) (h6 : o.f ≠ 6) (h8 : o.f ≠ 8) (hoff : o.off.toNat % 256 = 0) : vmemIdxOk o = true := by
  simp [vmemIdxOk, hfmt, h6, h8, hoff]

/-- The reads of a gather. -/
def gatherReads (s : State) (f : Nat) (o : VMemArgs) : List (Bytes × Bool × Bool) :=
  (idxAddrs (s.core f) o (min ((s.core f).elems o) 128)).map fun a => s.kernelRead f (s.core f) a (laneBits o.f / 8)

theorem vecGather_eq (hok : vmemIdxOk o = true) (hissues : Issues s f [o.vd.toNat, vmemIdx o] [] [o.xb.toNat] .mem)
    {u : Nat → Nat → State} (hu : ∀ t occ, u t occ = s.vecDone f ((s.core f).wroteV t .mem occ o.vd.toNat
      (ofLanes (laneBits o.f) ((gatherReads s f o).map (fun r => leNat r.1) ++
        (lanesOf (laneBits o.f) ((s.core f).reg o.vd.toNat)).drop (min ((s.core f).elems o) 128)))
      ((gatherReads s f o).any (·.2.1) || (gatherReads s f o).any (·.2.2) || (s.core f).vp (vmemIdx o)) (t + occ + 7)) [] false) :
    ∃ t occ, s.vecGather f o = if (gatherReads s f o).any (·.2.1) then (u t occ).nativeOob f else u t occ := by
  simp only [hu]
  exact ⟨_, _, vecInsn_body _ hok hissues⟩

/-- A gather whose elements lie in lines of the allocation puts them into the first lanes. -/
theorem vecGather_inside (hok : vmemIdxOk o = true) (hissues : Issues s f [o.vd.toNat, vmemIdx o] [] [o.xb.toNat] .mem)
    (hin : ∀ k, k < min ((s.core f).elems o) 128 → InAllocLines s f (idxAddr (s.core f) o k) (laneBits o.f / 8)) : ∃ t occ r p,
    s.vecGather f o = s.vecDone f ((s.core f).wroteV t .mem occ o.vd.toNat
      ((s.core f).spliced (laneBits o.f) o.vd.toNat 0 (min ((s.core f).elems o) 128) fun k =>
        s.rdLe (floeBase f + idxAddr (s.core f) o k) (laneBits o.f / 8)) p r) [] false := by
  have hread : ∀ k ∈ List.range (min ((s.core f).elems o) 128), _ := fun k hk =>
    kernelRead_inside (c := s.core f) (hin k (List.mem_range.1 hk))
  have hcodes : (gatherReads s f o).map (fun r => leNat r.1) = (List.range (min ((s.core f).elems o) 128)).map fun k =>
      s.rdLe (floeBase f + idxAddr (s.core f) o k) (laneBits o.f / 8) := by
    rw [gatherReads, idxAddrs_eq _ _ (Nat.min_le_right _ _), List.map_map, List.map_map]
    exact List.map_congr_left fun k hk => congrArg leNat (hread k hk).1
  have hoob : (gatherReads s f o).any (·.2.1) = false := by
    rw [gatherReads, idxAddrs_eq _ _ (Nat.min_le_right _ _), List.any_map, List.any_map]
    exact List.any_eq_false.2 fun k hk => ne_true_of_eq_false (hread k hk).2
  have hsplice : (gatherReads s f o).map (fun r => leNat r.1) ++
      (lanesOf (laneBits o.f) ((s.core f).reg o.vd.toNat)).drop (min ((s.core f).elems o) 128) =
        spliceLanes (lanesOf (laneBits o.f) ((s.core f).reg o.vd.toNat)) ((List.range (min ((s.core f).elems o) 128)).map fun k =>
          s.rdLe (floeBase f + idxAddr (s.core f) o k) (laneBits o.f / 8)) 0 := by
    simp [hcodes, spliceLanes]
  obtain ⟨t, occ, hstep⟩ := vecGather_eq hok hissues fun _ _ => rfl
  rw [if_neg (ne_true_of_eq_false hoob), hsplice] at hstep
  exact ⟨t, occ, _, _, hstep⟩

/-! ### What a store leaves -/

/-- The core after a vector store that issued in cycle `n`. -/
def CoreSt.stored (c : CoreSt) (n occ : Nat) : CoreSt := { c.issued n .mem occ 1 with last := max c.last (n + occ) }

theorem storeFrame_of_floes {n occ : Nat} (h : t.floes = (s.setCore f ((s.core f).stored n occ)).floes) : StoreFrame f s t := by
  rw [StoreFrame, core_of_floes h, core_setCore]
  exact ⟨rfl, rfl, rfl, rfl, rfl, fun k hk => (floe_of_floes h k).trans (floe_setCore_other _ hk)⟩

/-! ### VST and VSTN (R186) -/

/-- The bytes that a store of `w` bits an element writes. -/
def storeBytes (s : State) (f : Nat) (o : VMemArgs) (w : Nat) (narrow : Nat → Wr) : Bytes :=
  packCodes w ((List.range ((s.core f).elems o)).map fun k => (narrow ((s.core f).mlane o o.vd.toNat k)).bits)

/-- The state after a vector store issued in cycle `n`, before it writes. -/
def storeStart (s : State) (f n occ : Nat) : State :=
  (s.tally (pgBrash f) F.BRASH_VINSN_LO 1).setCore f ((s.core f).stored n occ)

/-- The write of a vector store that issued in cycle `n`, and whether a part of it was dropped. -/
def storeWrite (s : State) (f : Nat) (o : VMemArgs) (bs : Bytes) (n occ : Nat) : State × Bool :=
  (storeStart s f n occ).kernelWrite f (s.core f) (vmemAddr (s.core f) o) o.f bs ((s.core f).vp o.vd.toNat)

theorem storeBytes_eq {w : Nat} {narrow : Nat → Wr} :
    packCodes w (((((s.core f).lanes o.f o.vd.toNat).take ((s.core f).elems o)).map narrow).map (·.bits)) = storeBytes s f o w narrow := by
  have hlanes : ((s.core f).lanes o.f o.vd.toNat).take ((s.core f).elems o) =
      (List.range ((s.core f).elems o)).map ((s.core f).mlane o o.vd.toNat) := by
    rw [CoreSt.lanes, lanesOf_eq (laneBits_pos _)]
    exact take_range_map _ (elems_le _ o)
  rw [hlanes, List.map_map, List.map_map]
  rfl

theorem vecStore_eq {legal : Bool} {w : Nat} {narrow : Nat → Wr} (hlegal : (legal && decide (o.f < 10)) = true)
    (hissues : Issues s f [o.vd.toNat] [] [o.xb.toNat] .mem) : ∃ n occ ws,
    s.vecStore f o legal w narrow = if (storeWrite s f o (storeBytes s f o w narrow) n occ).2
      then ((storeWrite s f o (storeBytes s f o w narrow) n occ).1.brashReport f ws false).nativeOob f
      else (storeWrite s f o (storeBytes s f o w narrow) n occ).1.brashReport f ws false := by
  rw [← storeBytes_eq]
  exact ⟨_, _, _, vecInsn_body _ hlegal hissues⟩

/-- A store into an output range writes its bytes, and leaves the kernel's registers and the other floes. -/
theorem vecStore_inside {legal : Bool} {w : Nat} {narrow : Nat → Wr} (hlegal : (legal && decide (o.f < 10)) = true)
    (hissues : Issues s f [o.vd.toNat] [] [o.xb.toNat] .mem)
    (hin : (s.core f).inOut (vmemAddr (s.core f) o) (storeBytes s f o w narrow).length = true)
    (hlim : vmemAddr (s.core f) o + (storeBytes s f o w narrow).length ≤ 0x40_0000) :
    StoreFrame f s (s.vecStore f o legal w narrow) ∧ ∀ x, (s.vecStore f o legal w narrow).rdByte x =
      (s.wrBytes (floeBase f + vmemAddr (s.core f) o) (storeBytes s f o w narrow)).rdByte x := by
  obtain ⟨n, occ, ws, hstep⟩ := vecStore_eq (w := w) (narrow := narrow) hlegal hissues
  have hwrite : (storeWrite s f o (storeBytes s f o w narrow) n occ).2 = false ∧ Stored _ _ (storeStart s f n occ) _ :=
    kernelWrite_stored hin hlim _
  obtain ⟨hkept, hbyte, hfloes⟩ := hwrite
  rw [if_neg (ne_true_of_eq_false hkept)] at hstep
  have hreport := brashReport_reports (storeWrite s f o (storeBytes s f o w narrow) n occ).1 f ws false
  rw [hstep]
  refine ⟨storeFrame_of_floes (n := n) (occ := occ) (hreport.floes.trans hfloes), fun x => ?_⟩
  rw [rdByte_of_mem hreport.mem]
  refine (hbyte x).trans ?_
  rw [rdByte_wrBytes, rdByte_wrBytes]
  rfl

/-! ### VSCAT (R187) -/

/-- The store of one element of a scatter: an address and a code of `m` bytes. -/
def storeElement (f : Nat) (c : CoreSt) (fmt m : Nat) (poison : Bool) (st : State × Bool) (x : Nat × Nat) : State × Bool :=
  let q := st.1.kernelWrite f c x.1 fmt (leBytes m x.2) poison
  (q.1, st.2 || q.2)

/-- Elements that do not overlap, stored to output ranges one after another: each holds its code, and no other byte changes. -/
theorem storeElements_stored {c : CoreSt} {fmt m : Nat} {poison : Bool} {l : List (Nat × Nat)}
    (hin : ∀ x ∈ l, c.inOut x.1 m = true ∧ x.1 + m ≤ 0x40_0000)
    (hapart : l.Pairwise fun x y => x.1 + m ≤ y.1 ∨ y.1 + m ≤ x.1) (st : State × Bool) :
    (l.foldl (storeElement f c fmt m poison) st).2 = st.2 ∧ (l.foldl (storeElement f c fmt m poison) st).1.floes = st.1.floes ∧
      (∀ x ∈ l, (l.foldl (storeElement f c fmt m poison) st).1.rdLe (floeBase f + x.1) m = x.2 % 256 ^ m) ∧
      ∀ y, (∀ x ∈ l, y < floeBase f + x.1 ∨ floeBase f + x.1 + m ≤ y) →
        (l.foldl (storeElement f c fmt m poison) st).1.rdByte y = st.1.rdByte y := by
  induction l generalizing st with
  | nil => exact ⟨rfl, rfl, fun x hx => absurd hx List.not_mem_nil, fun _ _ => rfl⟩
  | cons x l ih =>
    obtain ⟨hx, hl⟩ := List.forall_mem_cons.1 hin
    obtain ⟨hapartx, hapartl⟩ := List.pairwise_cons.1 hapart
    have hlen := leBytes_length m x.2
    obtain ⟨hkept, hbyte, hfloes⟩ := kernelWrite_stored (f := f) (fmt := fmt) (poison := poison) (bs := leBytes m x.2) (c := c) (a := x.1)
      (by rw [hlen]; exact hx.1) (by rw [hlen]; exact hx.2) st.1
    obtain ⟨hall, hfloes', hread, hother⟩ := ih hl hapartl (storeElement f c fmt m poison st x)
    have hfirst : (storeElement f c fmt m poison st x).1.rdBytes (floeBase f + x.1) m = leBytes m x.2 := by
      have h := rdBytes_of_written hbyte
      rwa [hlen] at h
    rw [List.foldl_cons]
    refine ⟨hall.trans ?_, hfloes'.trans hfloes, List.forall_mem_cons.2 ⟨?_, hread⟩, fun y hy => ?_⟩
    · change (st.2 || _) = st.2
      rw [hkept, Bool.or_false]
    · rw [State.rdLe, rdBytes_congr fun y hlo hhi => hother y fun z hz => by have := hapartx z hz; omega, hfirst, leNat_leBytes]
    · obtain ⟨hyx, hyl⟩ := List.forall_mem_cons.1 hy
      exact (hother y hyl).trans (rdByte_of_written hbyte (by rw [hlen]; exact hyx))

/-- The addresses of elements are whole multiples of an element's bytes. -/
theorem dvd_of_mem_idxAddrs {c : CoreSt} {n a : Nat} (h : a ∈ idxAddrs c o n) : laneBits o.f / 8 ∣ a := by
  obtain ⟨i, -, rfl⟩ := List.mem_map.1 h
  obtain ⟨m, -, hm, hcases⟩ := laneBytes_cases o.f
  have hdvd : m ∣ 64 ∧ m ∣ 2 ^ 32 := by rcases hcases with rfl | rfl | rfl <;> decide
  rw [hm, Nat.dvd_mod_iff hdvd.2]
  exact Nat.dvd_add (hdvd.1.trans (Nat.dvd_mul_left _ _)) (Nat.dvd_mul_left _ _)

/-- Elements at distinct addresses do not overlap. -/
theorem idxAddrs_apart {c : CoreSt} {n : Nat} (h : (idxAddrs c o n).Nodup) :
    (idxAddrs c o n).Pairwise fun a b => a + laneBits o.f / 8 ≤ b ∨ b + laneBits o.f / 8 ≤ a := by
  refine h.imp_of_mem fun {a b} ha hb hne => ?_
  have hda := dvd_of_mem_idxAddrs ha
  have hdb := dvd_of_mem_idxAddrs hb
  obtain ⟨m, -, hm, hcases⟩ := laneBytes_cases o.f
  rw [hm] at hda hdb ⊢
  rcases hcases with rfl | rfl | rfl <;> omega

/-- The elements of a scatter: the address and the code of each lane. -/
def scatterElems (c : CoreSt) (o : VMemArgs) : List (Nat × Nat) :=
  (List.range (min (c.elems o) 128)).map fun k => (idxAddr c o k, c.mlane o o.vd.toNat k)

theorem scatterElems_eq (c : CoreSt) : (idxAddrs c o (min (c.elems o) 128)).zip (c.lanes o.f o.vd.toNat) = scatterElems c o := by
  have hle : min (c.elems o) 128 ≤ 4096 / laneBits o.f := (Nat.min_le_left _ _).trans (elems_le c o)
  rw [idxAddrs_eq _ _ (Nat.min_le_right _ _), CoreSt.lanes, lanesOf_eq (laneBits_pos _)]
  refine List.ext_getElem (by simp [scatterElems]; omega) fun k _ _ => ?_
  simp [scatterElems, CoreSt.mlane]

theorem map_fst_scatterElems (c : CoreSt) : (scatterElems c o).map Prod.fst = idxAddrs c o (min (c.elems o) 128) := by
  rw [scatterElems, List.map_map, idxAddrs_eq _ _ (Nat.min_le_right _ _)]
  rfl

/-- The stores of a scatter that issued in cycle `n`, and whether one was dropped. -/
def scatterWrites (s : State) (f : Nat) (o : VMemArgs) (n occ : Nat) : State × Bool :=
  (scatterElems (s.core f) o).foldl (storeElement f (s.core f) o.f (laneBits o.f / 8) ((s.core f).vp o.vd.toNat)) (storeStart s f n occ, false)

theorem vecScatter_eq (hok : vmemIdxOk o = true) (hissues : Issues s f [o.vd.toNat, vmemIdx o] [] [o.xb.toNat] .mem)
    (hdistinct : (idxAddrs (s.core f) o (min ((s.core f).elems o) 128)).Nodup) : ∃ n occ,
    s.vecScatter f o = if (scatterWrites s f o n occ).2 then (scatterWrites s f o n occ).1.nativeOob f else (scatterWrites s f o n occ).1 := by
  have hstep : ∃ n occ t, s.vecScatter f o = (if (scatterWrites s f o n occ).2 then t.nativeOob f else t) ∧
      t = if (idxAddrs (s.core f) o (min ((s.core f).elems o) 128)).dedup.length =
        (idxAddrs (s.core f) o (min ((s.core f).elems o) 128)).length
        then (scatterWrites s f o n occ).1 else (scatterWrites s f o n occ).1.raise (pgBrash f) F.BRASH_NUM_STAT_SCAT_DUP := by
    unfold scatterWrites
    simp only [← scatterElems_eq]
    exact ⟨_, _, _, vecInsn_body _ hok hissues, rfl⟩
  obtain ⟨n, occ, t, hstep, rfl⟩ := hstep
  rw [if_pos (congrArg List.length hdistinct.dedup)] at hstep
  exact ⟨n, occ, hstep⟩

/-- A scatter of elements at distinct addresses of output ranges stores each lane's code, and no other byte. -/
theorem vecScatter_inside (hok : vmemIdxOk o = true) (hissues : Issues s f [o.vd.toNat, vmemIdx o] [] [o.xb.toNat] .mem)
    (hdistinct : (idxAddrs (s.core f) o (min ((s.core f).elems o) 128)).Nodup)
    (hin : ∀ a ∈ idxAddrs (s.core f) o (min ((s.core f).elems o) 128),
      (s.core f).inOut a (laneBits o.f / 8) = true ∧ a + laneBits o.f / 8 ≤ 0x40_0000) :
    StoreFrame f s (s.vecScatter f o) ∧
      (∀ x ∈ scatterElems (s.core f) o, (s.vecScatter f o).rdLe (floeBase f + x.1) (laneBits o.f / 8) = x.2 % 256 ^ (laneBits o.f / 8)) ∧
      ∀ y, (∀ x ∈ scatterElems (s.core f) o, y < floeBase f + x.1 ∨ floeBase f + x.1 + laneBits o.f / 8 ≤ y) →
        (s.vecScatter f o).rdByte y = s.rdByte y := by
  obtain ⟨n, occ, hstep⟩ := vecScatter_eq hok hissues hdistinct
  have hapart := idxAddrs_apart hdistinct
  rw [← map_fst_scatterElems] at hin hapart
  have hwrites : (scatterWrites s f o n occ).2 = false ∧ _ := storeElements_stored (List.forall_mem_map.1 hin) (List.pairwise_map.1 hapart) _
  obtain ⟨hkept, hfloes, hread, hother⟩ := hwrites
  rw [hstep, if_neg (ne_true_of_eq_false hkept)]
  exact ⟨storeFrame_of_floes hfloes, hread, hother⟩

/-! ### Each instruction in its lanes -/

theorem wide_legal (hfmt : o.f < 10) (h6 : o.f ≠ 6) (h8 : o.f ≠ 8) : (decide (o.f ≠ 6 ∧ o.f ≠ 8) && decide (o.f < 10)) = true := by
  simp [h6, h8, hfmt]

theorem nibble_legal (hfmt : o.f < 10) (h : o.f = 6 ∨ o.f = 8) : (decide (o.f = 6 ∨ o.f = 8) && decide (o.f < 10)) = true := by
  simp [h, hfmt]

theorem laneBits_nibble (h : o.f = 6 ∨ o.f = 8) : laneBits o.f = 8 := by
  rcases h with h | h <;> rw [h] <;> rfl

/-- An element that a load widens fits a lane. -/
theorem laneCode_nibble_lt (h : o.f = 6 ∨ o.f = 8) (a k : Nat) : laneCode o.f (s.nibble a k) < 2 ^ laneBits o.f := by
  rw [laneBits_nibble h]
  unfold laneCode lowBits State.nibble
  split <;> omega

theorem vld_inside (hlegal : (decide (o.f ≠ 6 ∧ o.f ≠ 8) && decide (o.f < 10)) = true)
    (hissues : Issues s f [o.vd.toNat] [] [o.xb.toNat] .mem)
    (hin : InAllocLines s f (vmemAddr (s.core f) o) ((s.core f).elems o * (laneBits o.f / 8))) : ∃ t,
    s.vecLoad f o (decide (o.f ≠ 6 ∧ o.f ≠ 8)) (laneBits o.f) id = t ∧ LoadFrame f o s t ∧
      ∀ k, k < laneCount o.f → (t.core f).mlane o o.vd.toNat k =
        if k < (s.core f).elems o then s.rdLe (floeBase f + vmemAddr (s.core f) o + k * (laneBits o.f / 8)) (laneBits o.f / 8)
        else (s.core f).mlane o o.vd.toNat k := by
  have hcodes := codesOf_rdBytes s (floeBase f + vmemAddr (s.core f) o) ((s.core f).elems o) o.f
  rw [← ceilDiv_laneBits] at hin hcodes
  obtain ⟨n, occ, r, p, hstep⟩ := vecLoad_inside hlegal hissues hin ((List.map_id _).trans hcodes)
  refine ⟨_, hstep, vecDone_frame.loadFrame, fun k hk => (vecDone_lane_first hk).trans ?_⟩
  rw [Nat.mod_eq_of_lt (two_pow_laneBits o.f ▸ rdLe_lt _ _)]
  rfl

theorem vld_outside (hlegal : (decide (o.f ≠ 6 ∧ o.f ≠ 8) && decide (o.f < 10)) = true)
    (hissues : Issues s f [o.vd.toNat] [] [o.xb.toNat] .mem) (hpos : 0 < (s.core f).elems o)
    (hout : s.inFloeAlloc f (vmemAddr (s.core f) o / 64 * 64) 64 = false) : ∃ t,
    s.vecLoad f o (decide (o.f ≠ 6 ∧ o.f ≠ 8)) (laneBits o.f) id = t ∧ LoadFrame f o s t ∧
      t.bit (pgCore f) F.FLOE_ERR_STAT_NATIVE_OOB = true ∧ (t.core f).vp o.vd.toNat = true := by
  have hbytes : 0 < ceilDiv ((s.core f).elems o * laneBits o.f) 8 := by
    obtain ⟨m, -, hm, hcases⟩ := laneBytes_cases o.f
    rw [ceilDiv_laneBits, hm]
    exact Nat.mul_pos hpos (by omega)
  obtain ⟨n, occ, r, v, hstep⟩ := vecLoad_outside (wide := id) hlegal hissues hbytes hout
  refine ⟨_, hstep, vecDone_frame.loadFrame.nativeOob, nativeOob_flag, ?_⟩
  rw [nativeOob_core]
  exact vecDone_vp

theorem vldn_inside (hfmt : o.f = 6 ∨ o.f = 8) (hlegal : (decide (o.f = 6 ∨ o.f = 8) && decide (o.f < 10)) = true)
    (hissues : Issues s f [o.vd.toNat] [] [o.xb.toNat] .mem)
    (hin : InAllocLines s f (vmemAddr (s.core f) o) (((s.core f).elems o + 1) / 2)) : ∃ t,
    s.vecLoad f o (decide (o.f = 6 ∨ o.f = 8)) 4 (laneCode o.f) = t ∧ LoadFrame f o s t ∧
      ∀ k, k < laneCount o.f → (t.core f).mlane o o.vd.toNat k =
        if k < (s.core f).elems o then laneCode o.f (s.nibble (floeBase f + vmemAddr (s.core f) o) k)
        else (s.core f).mlane o o.vd.toNat k := by
  have hcodes := congrArg (List.map (laneCode o.f)) (codesOf_nibbles s (floeBase f + vmemAddr (s.core f) o) ((s.core f).elems o))
  rw [List.map_map, ← ceilDiv_nibbles] at hcodes
  rw [← ceilDiv_nibbles] at hin
  obtain ⟨n, occ, r, p, hstep⟩ := vecLoad_inside hlegal hissues hin hcodes
  refine ⟨_, hstep, vecDone_frame.loadFrame, fun k hk => (vecDone_lane_first hk).trans ?_⟩
  rw [Function.comp_apply, Nat.mod_eq_of_lt (laneCode_nibble_lt hfmt _ _)]
  rfl

theorem vst_inside (hlegal : (decide (o.f ≠ 6 ∧ o.f ≠ 8) && decide (o.f < 10)) = true)
    (hissues : Issues s f [o.vd.toNat] [] [o.xb.toNat] .mem)
    (hin : (s.core f).inOut (vmemAddr (s.core f) o) ((s.core f).elems o * (laneBits o.f / 8)) = true)
    (hlim : vmemAddr (s.core f) o + (s.core f).elems o * (laneBits o.f / 8) ≤ 0x40_0000) : ∃ t,
    s.vecStore f o (decide (o.f ≠ 6 ∧ o.f ≠ 8)) (laneBits o.f) (fun x => { bits := x }) = t ∧ StoreFrame f s t ∧
      (∀ k, k < (s.core f).elems o →
        t.rdLe (floeBase f + vmemAddr (s.core f) o + k * (laneBits o.f / 8)) (laneBits o.f / 8) = (s.core f).mlane o o.vd.toNat k) ∧
      ∀ x, (x < floeBase f + vmemAddr (s.core f) o ∨
        floeBase f + vmemAddr (s.core f) o + (s.core f).elems o * (laneBits o.f / 8) ≤ x) → t.rdByte x = s.rdByte x := by
  have hbytes : storeBytes s f o (laneBits o.f) (fun x => { bits := x }) =
      ((List.range ((s.core f).elems o)).map ((s.core f).mlane o o.vd.toNat)).flatMap (leBytes (laneBits o.f / 8)) :=
    packCodes_eq (laneBits_ne_four _) _
  have hlen : (storeBytes s f o (laneBits o.f) fun x => { bits := x }).length = (s.core f).elems o * (laneBits o.f / 8) := by
    rw [hbytes, length_flatMap_leBytes, List.length_map, List.length_range]
  obtain ⟨hframe, hbyte⟩ := vecStore_inside (w := laneBits o.f) (narrow := fun x => { bits := x }) hlegal hissues (hlen ▸ hin) (hlen ▸ hlim)
  refine ⟨_, rfl, hframe, fun k hk => ?_, fun x hx => rdByte_of_written hbyte (hlen ▸ hx)⟩
  have hfits : k * (laneBits o.f / 8) + laneBits o.f / 8 ≤ (s.core f).elems o * (laneBits o.f / 8) := by
    rw [← Nat.succ_mul]
    exact Nat.mul_le_mul_right _ hk
  have hread := rdBytes_of_written hbyte
  rw [hlen] at hread
  rw [State.rdLe, ← rdBytes_part hfits, hread, hbytes, block_flatMap_leBytes (by simpa using hk), getD_range_map _ hk, leNat_leBytes,
    ← two_pow_laneBits]
  exact laneAt_mod _ _ _

theorem vstn_inside (hlegal : (decide (o.f = 6 ∨ o.f = 8) && decide (o.f < 10)) = true)
    (hissues : Issues s f [o.vd.toNat] [] [o.xb.toNat] .mem)
    (hin : (s.core f).inOut (vmemAddr (s.core f) o) (((s.core f).elems o + 1) / 2) = true)
    (hlim : vmemAddr (s.core f) o + ((s.core f).elems o + 1) / 2 ≤ 0x40_0000) : ∃ t,
    s.vecStore f o (decide (o.f = 6 ∨ o.f = 8)) 4 (narrowLane o) = t ∧ StoreFrame f s t ∧
      (∀ k, k < (s.core f).elems o →
        t.nibble (floeBase f + vmemAddr (s.core f) o) k = (narrowLane o ((s.core f).mlane o o.vd.toNat k)).bits % 16) ∧
      ∀ x, (x < floeBase f + vmemAddr (s.core f) o ∨ floeBase f + vmemAddr (s.core f) o + ((s.core f).elems o + 1) / 2 ≤ x) →
        t.rdByte x = s.rdByte x := by
  have hlen : (storeBytes s f o 4 (narrowLane o)).length = ((s.core f).elems o + 1) / 2 := by
    rw [storeBytes, length_packNibbles, List.length_map, List.length_range]
  obtain ⟨hframe, hbyte⟩ := vecStore_inside (w := 4) (narrow := narrowLane o) hlegal hissues (hlen ▸ hin) (hlen ▸ hlim)
  refine ⟨_, rfl, hframe, fun k hk => ?_, fun x hx => rdByte_of_written hbyte (hlen ▸ hx)⟩
  have hread : (s.vecStore f o (decide (o.f = 6 ∨ o.f = 8)) 4 (narrowLane o)).rdByte (floeBase f + vmemAddr (s.core f) o + k / 2) =
      (storeBytes s f o 4 (narrowLane o)).getD (k / 2) 0 := by
    rw [hbyte, rdByte_wrBytes, if_pos (by omega), Nat.add_sub_cancel_left]
  rw [State.nibble, hread, storeBytes, nibble_packNibbles _ _ (by simpa using hk), getD_range_map _ hk]

theorem vgath_inside (hok : vmemIdxOk o = true) (hissues : Issues s f [o.vd.toNat, vmemIdx o] [] [o.xb.toNat] .mem)
    (hin : ∀ k, k < min ((s.core f).elems o) 128 → InAllocLines s f ((idxAddrs (s.core f) o 128).getD k 0) (laneBits o.f / 8)) : ∃ t,
    s.vecGather f o = t ∧ LoadFrame f o s t ∧
      ∀ k, k < laneCount o.f → (t.core f).mlane o o.vd.toNat k =
        if k < min ((s.core f).elems o) 128 then s.rdLe (floeBase f + (idxAddrs (s.core f) o 128).getD k 0) (laneBits o.f / 8)
        else (s.core f).mlane o o.vd.toNat k := by
  obtain ⟨n, occ, r, p, hstep⟩ := vecGather_inside hok hissues fun k hk => by
    rw [← getD_idxAddrs _ _ (lt_of_lt_of_le hk (Nat.min_le_right _ _))]
    exact hin k hk
  refine ⟨_, hstep, vecDone_frame.loadFrame, fun k hk => (vecDone_lane_first hk).trans ?_⟩
  by_cases hlow : k < min ((s.core f).elems o) 128
  · rw [if_pos hlow, if_pos hlow, getD_idxAddrs _ _ (lt_of_lt_of_le hlow (Nat.min_le_right _ _)),
      Nat.mod_eq_of_lt (two_pow_laneBits o.f ▸ rdLe_lt _ _)]
  · rw [if_neg hlow, if_neg hlow]
    rfl

theorem vscat_inside (hok : vmemIdxOk o = true) (hissues : Issues s f [o.vd.toNat, vmemIdx o] [] [o.xb.toNat] .mem)
    (hdistinct : (idxAddrs (s.core f) o (min ((s.core f).elems o) 128)).Nodup)
    (hin : ∀ a ∈ idxAddrs (s.core f) o (min ((s.core f).elems o) 128),
      (s.core f).inOut a (laneBits o.f / 8) = true ∧ a + laneBits o.f / 8 ≤ 0x40_0000) : ∃ t,
    s.vecScatter f o = t ∧ StoreFrame f s t ∧
      (∀ k, k < min ((s.core f).elems o) 128 →
        t.rdLe (floeBase f + (idxAddrs (s.core f) o 128).getD k 0) (laneBits o.f / 8) = (s.core f).mlane o o.vd.toNat k) ∧
      ∀ x, (∀ a ∈ idxAddrs (s.core f) o (min ((s.core f).elems o) 128), x < floeBase f + a ∨ floeBase f + a + laneBits o.f / 8 ≤ x) →
        t.rdByte x = s.rdByte x := by
  obtain ⟨hframe, hread, hother⟩ := vecScatter_inside hok hissues hdistinct hin
  refine ⟨_, rfl, hframe, fun k hk => ?_, fun x hx => hother x ?_⟩
  · rw [getD_idxAddrs _ _ (lt_of_lt_of_le hk (Nat.min_le_right _ _)),
      hread _ (List.mem_map_of_mem (List.mem_range.2 hk)), ← two_pow_laneBits]
    exact laneAt_mod _ _ _
  · rw [← map_fst_scatterElems] at hx
    exact List.forall_mem_map.1 hx

end

/-- What is shown of an instruction's effect holds of the state that `exec` answers. -/
theorem exists_exec_next {i : Instr} {s u : State} {P : State → Prop} (h : ∃ t, u = t ∧ P t) (e : exec i s = .next u) :
    ∃ t, exec i s = .next t ∧ P t := by
  obtain ⟨t, rfl, ht⟩ := h
  exact ⟨u, e, ht⟩

/-- Settles O9: loads are splices of the bytes read, and stores write a run of bytes, line by line, or one element after another. -/
theorem vectorMemory : Obligations.VectorMemory := by
  refine fun f o s hfmt => ⟨fun h6 h8 hissues hin => ?vld, fun h6 h8 hissues hpos hout => ?vldOutside, fun hnib hissues hin => ?vldn,
    fun h6 h8 hissues hin hlim => ?vst, fun hnib hissues hin hlim => ?vstn, fun h6 h8 hoff hissues hin => ?vgath,
    fun h6 h8 hoff hissues hdistinct hin => ?vscat⟩
  case vld => exact exists_exec_next (vld_inside (wide_legal hfmt h6 h8) hissues hin) rfl
  case vldOutside => exact exists_exec_next (vld_outside (wide_legal hfmt h6 h8) hissues hpos hout) rfl
  case vldn => exact exists_exec_next (vldn_inside hnib (nibble_legal hfmt hnib) hissues hin) rfl
  case vst => exact exists_exec_next (vst_inside (wide_legal hfmt h6 h8) hissues hin hlim) rfl
  case vstn => exact exists_exec_next (vstn_inside (nibble_legal hfmt hnib) hissues hin hlim) rfl
  case vgath => exact exists_exec_next (vgath_inside (vmemIdxOk_of hfmt h6 h8 hoff) hissues hin) rfl
  case vscat => exact exists_exec_next (vscat_inside (vmemIdxOk_of hfmt h6 h8 hoff) hissues hdistinct hin) rfl

end Sys2Proof.Machine
end

section
/-! SUPPORT. Tests: states that meet the hypotheses of the statements on native kernels and on Brash. -/

namespace Sys2Proof.Tests

open Sys2Proof.Machine

/-- A kernel runs at instruction 2 of 8, with VL 4, an output range of one line, and some registers set. -/
def kernelCore : CoreSt :=
  { phase := .running, decl := 100, codeLen := 8, pc := 2, vl := 4, x := [(1, 0x1000), (2, 7), (3, 0x20000)],
    v := [(1, 0x04030201), (2, 0x0100), (3, 0x3F8000003F800000), (4, 0x00000003000000020000000100000000)],
    sm := [(1, { val := 9 })], out0 := (0x1000, 64) }

/-- Floe 0 with 64 KiB allocated, and its issue core. -/
def coreOn (c : CoreSt) : State := (State.reset.wf (pgGaff 0) F.GAFF_ALLOC_HI 0x10000).setCore 0 c

def kernelOn : State := coreOn kernelCore

/-- The pages of floe 0 are ready and enabled, and a lawful header of 4 instructions stands at offset 0. -/
def headerReady : State :=
  (((((State.reset.wf (pgGaff 0) F.GAFF_ALLOC_HI 0x10000).wf (pgCore 0) F.PAGE_STAT_READY 1).wf (pgCore 0) F.PAGE_CTRL_EN 1).wf (pgBrash 0)
    F.PAGE_CTRL_EN 1)).wrBytes (floeBase 0) (leBytes 4 64 ++ leBytes 2 4 ++ leBytes 2 1 ++ leBytes 4 100)

/-- Operands of a scalar instruction, of a vector instruction, and of a vector load or store whose base is X1. -/
def scalarArgs (xd xa xb : BitVec 4) (imm : BitVec 20) : ScalarArgs := { xd := xd, xa := xa, xb := xb, imm20 := imm }
def vecArgs (fmt : BitVec 4) (va vb : BitVec 5) (aux : BitVec 4) : VecArgs := { fmt := fmt, sat := true, vd := 5, va := va, vb := vb, aux := aux }
def vmemArgs (fmt : BitVec 4) (vd : BitVec 5) (off : BitVec 13) : VMemArgs := { fmt := fmt, sat := true, vd := vd, xb := 1, off := off }

/-! ### The issue core -/

theorem test_scalarAdd : ∃ t, exec (.scalarAdd 0 (scalarArgs 4 1 2 0)) kernelOn = .next t ∧ (t.core 0).rx 4 = 0x1007 := by
  obtain ⟨t, ht, -, hx, -⟩ := scalarOperations.1 0 (scalarArgs 4 1 2 0) kernelOn ⟨rfl, by decide +kernel⟩
  exact ⟨t, ht, (hx 4).trans (by decide +kernel)⟩

theorem test_x0_stays : ∃ t, exec (.scalarAdd 0 (scalarArgs 0 1 2 0)) kernelOn = .next t ∧ (t.core 0).rx 0 = 0 := by
  obtain ⟨t, ht, -, hx, -⟩ := scalarOperations.1 0 (scalarArgs 0 1 2 0) kernelOn ⟨rfl, by decide +kernel⟩
  exact ⟨t, ht, (hx 0).trans (by decide +kernel)⟩

theorem test_beq_taken : ∃ t, exec (.beq 0 { xa := 2, xb := 2, off := 5 }) kernelOn = .next t ∧ ((t.core 0).pc : Int) = 7 := by
  obtain ⟨t, ht, htaken, -⟩ := branches.1.1 0 { xa := 2, xb := 2, off := 5 } kernelOn ⟨rfl, by decide +kernel⟩ trivial (by decide +kernel)
    (by decide +kernel)
  exact ⟨t, ht, htaken rfl⟩

/-- The first target outside the code. -/
theorem test_jump_outside : ∃ t, exec (.j 0 { xa := 0, xb := 0, off := 6 }) kernelOn = .next t ∧ (t.core 0).phase = .idle := by
  obtain ⟨t, ht, hidle, -⟩ := branches.2 0 { xa := 0, xb := 0, off := 6 } kernelOn ⟨rfl, by decide +kernel⟩ (.inr (by decide +kernel))
  exact ⟨t, ht, hidle⟩

theorem test_lw_inside : ∃ t, exec (.lw 0 (scalarArgs 4 1 0 0)) kernelOn = .next t ∧ (t.core 0).rx 4 = 0 := by
  obtain ⟨t, ht, -, hx⟩ := (coreLoadsStores 0 (scalarArgs 4 1 0 0) kernelOn).1 ⟨rfl, by decide +kernel⟩ (by decide +kernel)
  exact ⟨t, ht, (hx 4).trans (by decide +kernel)⟩

theorem test_lw_outside : ∃ t, exec (.lw 0 (scalarArgs 4 3 0 0)) kernelOn = .next t ∧ (t.core 0).latch = true := by
  obtain ⟨t, ht, -, hlatch, -⟩ := (coreLoadsStores 0 (scalarArgs 4 3 0 0) kernelOn).2.1 ⟨rfl, by decide +kernel⟩ (by decide +kernel)
  exact ⟨t, ht, hlatch⟩

/-- The last word of the output range. -/
theorem test_sw_inside : ∃ t, exec (.sw 0 (scalarArgs 0 1 2 60)) kernelOn = .next t ∧ t.rdLe (floeBase 0 + 0x103C) 4 = 7 := by
  obtain ⟨t, ht, hword, -⟩ := (coreLoadsStores 0 (scalarArgs 0 1 2 60) kernelOn).2.2.1 ⟨rfl, by decide +kernel⟩ (by decide +kernel)
    (by decide +kernel)
  exact ⟨t, ht, hword⟩

/-- The first word past the output range. -/
theorem test_sw_outside : ∃ t, exec (.sw 0 (scalarArgs 0 1 2 64)) kernelOn = .next t ∧ t.mem = kernelOn.mem := by
  obtain ⟨t, ht, -, hmem, -⟩ := (coreLoadsStores 0 (scalarArgs 0 1 2 64) kernelOn).2.2.2.1 ⟨rfl, by decide +kernel⟩ (.inl (by decide +kernel))
  exact ⟨t, ht, hmem⟩

theorem test_setvl_limited : ∃ t, exec (.setvl 0 (scalarArgs 4 1 0 0)) kernelOn = .next t ∧ (t.core 0).vl = 512 := by
  obtain ⟨t, ht, -, hvl, -⟩ := (coreLoadsStores 0 (scalarArgs 4 1 0 0) kernelOn).2.2.2.2.1 ⟨rfl, by decide +kernel⟩
  exact ⟨t, ht, hvl.trans (by decide +kernel)⟩

theorem test_mvs : ∃ t, exec (.mvs 0 (scalarArgs 4 0 1 0)) kernelOn = .next t ∧ (t.core 0).rx 4 = 9 := by
  obtain ⟨t, ht, -, -, hx, -⟩ := (coreLoadsStores 0 (scalarArgs 4 0 1 0) kernelOn).2.2.2.2.2 ⟨rfl, by decide +kernel⟩
  exact ⟨t, ht, (hx 4).trans (by decide +kernel)⟩

/-! ### The life of a kernel -/

theorem test_kernel_starts : ∃ t, exec (.floeKstart .mgmt 0 0x80000000) headerReady = .next t ∧ (t.core 0).phase = .preload := by
  obtain ⟨t, ht, hphase, -⟩ := (nativeKernelLife 0 headerReady).1 .mgmt 0x80000000 0 (by decide +kernel) (by decide +kernel)
    (by decide +kernel) (by decide +kernel) (by decide +kernel) (by decide +kernel) (by decide +kernel) (by decide +kernel)
  exact ⟨t, ht, hphase.trans (by decide +kernel)⟩

theorem test_preload_starts : ∃ t, exec (.kernelPreloadStart 0) (coreOn { phase := .waitBrash }) = .next t ∧ (t.core 0).phase = .preload := by
  obtain ⟨t, ht, -, hphase⟩ := (nativeKernelLife 0 (coreOn { phase := .waitBrash })).2.1 (by decide +kernel) (by decide +kernel)
  exact ⟨t, ht, hphase⟩

theorem test_preload_ends : ∃ t, exec (.kernelPreloadDone 0) (coreOn { phase := .preload, entry := 3 }) = .next t ∧ (t.core 0).pc = 3 := by
  obtain ⟨t, ht, -, -, hpc, -⟩ := (nativeKernelLife 0 (coreOn { phase := .preload, entry := 3 })).2.2.1 (by decide +kernel)
  exact ⟨t, ht, hpc.trans (by decide +kernel)⟩

theorem test_kend : ∃ t, exec (.kend 0) kernelOn = .next t ∧ t.rf (pgCore 0) F.FLOE_KDONE_CNT = 1 := by
  obtain ⟨t, ht, -, -, hcount, -⟩ := (nativeKernelLife 0 kernelOn).2.2.2.1 (by decide +kernel) (by decide +kernel)
  exact ⟨t, ht, hcount.trans (by decide +kernel)⟩

theorem test_overrun : ∃ t, exec (.nativeOverrun 0) kernelOn = .next t ∧ t.rf (pgCore 0) F.FLOE_KCYC = 100 := by
  obtain ⟨t, ht, -, -, -, hcyc, -⟩ := (nativeKernelLife 0 kernelOn).2.2.2.2.1 (by decide +kernel)
  exact ⟨t, ht, hcyc.trans (by decide +kernel)⟩

theorem test_illegal : ∃ t, exec (.illegalInstruction 0 0) kernelOn = .next t ∧ t.rf (pgCore 0) F.FLOE_KFAULT_CNT = 1 := by
  obtain ⟨t, ht, -, -, hcount, -⟩ := (nativeKernelLife 0 kernelOn).2.2.2.2.2 0 (by decide +kernel) (by decide +kernel)
  exact ⟨t, ht, hcount.trans (by decide +kernel)⟩

/-! ### Brash on its registers -/

/-- The last lane that VL counts. -/
theorem test_vmov : ∃ t, exec (.vmov 0 (vecArgs 5 1 0 0)) kernelOn = .next t ∧ (t.core 0).lane (vecArgs 5 1 0 0) 5 3 = 4 := by
  obtain ⟨t, ht, -, hlane, -⟩ := vectorMoves.1 0 (vecArgs 5 1 0 0) kernelOn trivial (by decide +kernel) ⟨rfl, by decide +kernel⟩
  exact ⟨t, ht, (hlane 3 (by decide +kernel)).trans (by decide +kernel)⟩

theorem test_vadd : ∃ t, exec (.vadd 0 (vecArgs 5 1 1 0)) kernelOn = .next t ∧ (t.core 0).lane (vecArgs 5 1 1 0) 5 3 = 8 := by
  obtain ⟨t, ht, -, hlane, -⟩ := vectorArithmetic.1 0 (vecArgs 5 1 1 0) kernelOn (by decide +kernel) (by decide +kernel) ⟨rfl, by decide +kernel⟩
  exact ⟨t, ht, (hlane 3 (by decide +kernel)).trans (by decide +kernel)⟩

theorem test_vcmul : ∃ t, exec (.vcmul 0 (vecArgs 0 3 3 0)) kernelOn = .next t ∧ (t.core 0).pc = 3 := by
  obtain ⟨t, ht, ⟨hpc, -⟩, -⟩ := vectorArithmetic.2.2.2.2.2.2.2.2.2.2.2.1 0 (vecArgs 0 3 3 0) kernelOn (by decide +kernel) ⟨rfl, by decide +kernel⟩
  exact ⟨t, ht, hpc.trans (by decide +kernel)⟩

/-- A conversion to wider lanes takes the second quarter of the source; one to narrower lanes writes the second quarter of the destination. -/
theorem test_vcvt_narrow : ∃ t, exec (.vcvt 0 (vecArgs 5 1 0 1)) kernelOn = .next t ∧ (t.core 0).pc = 3 := by
  obtain ⟨t, ht, ⟨hpc, -⟩, -⟩ := (vectorConversions 0 (vecArgs 5 1 0 1) kernelOn).1 (by decide +kernel) (by decide +kernel)
    (by decide +kernel) (by decide +kernel) (by decide +kernel) (by decide +kernel) (by decide +kernel) ⟨rfl, by decide +kernel⟩
  exact ⟨t, ht, hpc.trans (by decide +kernel)⟩

theorem test_vcvt_widen : ∃ t, exec (.vcvt 0 (vecArgs 0 3 10 1)) kernelOn = .next t ∧ (t.core 0).pc = 3 := by
  obtain ⟨t, ht, ⟨hpc, -⟩, -⟩ := (vectorConversions 0 (vecArgs 0 3 10 1) kernelOn).2.1 (by decide +kernel) (by decide +kernel)
    (by decide +kernel) (by decide +kernel) (by decide +kernel) (by decide +kernel) (by decide +kernel) ⟨rfl, by decide +kernel⟩
  exact ⟨t, ht, hpc.trans (by decide +kernel)⟩

theorem test_vcbx : ∃ t, exec (.vcbx 0 (vecArgs 8 1 1 0)) kernelOn = .next t ∧ laneAt 16 ((t.core 0).reg 5) 0 = 0x0403 := by
  obtain ⟨t, ht, -, hlane⟩ := (vectorConversions 0 (vecArgs 8 1 1 0) kernelOn).2.2.1 (by decide +kernel) ⟨rfl, by decide +kernel⟩
  exact ⟨t, ht, (hlane 0 (by decide)).trans (by decide +kernel)⟩

theorem test_vcbq : ∃ t, exec (.vcbq 0 (vecArgs 0 3 1 4)) kernelOn = .next t ∧ (t.core 0).pc = 3 := by
  obtain ⟨t, ht, ⟨hpc, -⟩, -⟩ := (vectorConversions 0 (vecArgs 0 3 1 4) kernelOn).2.2.2 (by decide +kernel) (by decide +kernel)
    ⟨rfl, by decide +kernel⟩
  exact ⟨t, ht, hpc.trans (by decide +kernel)⟩

/-- Lanes past VL do not count. -/
theorem test_vrcnt : ∃ t, exec (.vrcnt 0 (vecArgs 5 1 0 2)) kernelOn = .next t ∧ ((t.core 0).rsm 2).val = 4 := by
  obtain ⟨t, ht, hsm, -⟩ := vectorReductions.1 0 (vecArgs 5 1 0 2) kernelOn trivial (by decide +kernel) ⟨rfl, by decide +kernel⟩
  exact ⟨t, ht, (congrArg Summary.val (hsm 2)).trans (by decide +kernel)⟩

/-! ### Brash on memory -/

/-- A kernel whose base register X1 points outside the allocation. -/
def baseOutside : State := coreOn { kernelCore with x := [(1, 0x20000)] }

/-- Four bytes in the line of the base register. -/
def bytesAtBase : State := kernelOn.wrBytes (floeBase 0 + 0x1000) [5, 6, 7, 8]

theorem test_vld : ∃ t, exec (.vld 0 (vmemArgs 5 5 0)) bytesAtBase = .next t ∧ (t.core 0).mlane (vmemArgs 5 5 0) 5 3 = 8 := by
  obtain ⟨t, ht, -, hlane⟩ := (vectorMemory 0 (vmemArgs 5 5 0) bytesAtBase (by decide +kernel)).1 (by decide +kernel) (by decide +kernel)
    ⟨rfl, by decide +kernel⟩ (by unfold InAllocLines; decide +kernel)
  exact ⟨t, ht, (hlane 3 (by decide +kernel)).trans (by decide +kernel)⟩

theorem test_vld_outside : ∃ t, exec (.vld 0 (vmemArgs 5 5 0)) baseOutside = .next t ∧ (t.core 0).vp 5 = true := by
  obtain ⟨t, ht, -, -, hvp⟩ := (vectorMemory 0 (vmemArgs 5 5 0) baseOutside (by decide +kernel)).2.1 (by decide +kernel) (by decide +kernel)
    ⟨rfl, by decide +kernel⟩ (by decide +kernel) (by decide +kernel)
  exact ⟨t, ht, hvp⟩

theorem test_vldn : ∃ t, exec (.vldn 0 (vmemArgs 8 5 0)) bytesAtBase = .next t ∧ (t.core 0).mlane (vmemArgs 8 5 0) 5 2 = 6 := by
  obtain ⟨t, ht, -, hlane⟩ := (vectorMemory 0 (vmemArgs 8 5 0) bytesAtBase (by decide +kernel)).2.2.1 (.inr (by decide +kernel))
    ⟨rfl, by decide +kernel⟩ (by unfold InAllocLines; decide +kernel)
  exact ⟨t, ht, (hlane 2 (by decide +kernel)).trans (by decide +kernel)⟩

theorem test_vst : ∃ t, exec (.vst 0 (vmemArgs 5 1 0)) kernelOn = .next t ∧
    t.rdLe (floeBase 0 + 0x1000 + 3) 1 = 4 := by
  have haddr : vmemAddr (kernelOn.core (0 : Fin 64)) (vmemArgs 5 1 0) = 0x1000 := by decide +kernel
  obtain ⟨t, ht, -, hread, -⟩ := (vectorMemory 0 (vmemArgs 5 1 0) kernelOn (by decide +kernel)).2.2.2.1 (by decide +kernel)
    (by decide +kernel) ⟨rfl, by decide +kernel⟩ (by decide +kernel) (by decide +kernel)
  have hlane := hread 3 (by decide +kernel)
  rw [haddr] at hlane
  exact ⟨t, ht, hlane.trans (by decide +kernel)⟩

theorem test_vstn : ∃ t, exec (.vstn 0 (vmemArgs 8 1 0)) kernelOn = .next t ∧
    t.nibble (floeBase 0 + 0x1000) 3 = 4 := by
  have haddr : vmemAddr (kernelOn.core (0 : Fin 64)) (vmemArgs 8 1 0) = 0x1000 := by decide +kernel
  obtain ⟨t, ht, -, hread, -⟩ := (vectorMemory 0 (vmemArgs 8 1 0) kernelOn (by decide +kernel)).2.2.2.2.1 (.inr (by decide +kernel))
    ⟨rfl, by decide +kernel⟩ (by decide +kernel) (by decide +kernel)
  have hlane := hread 3 (by decide +kernel)
  rw [haddr] at hlane
  exact ⟨t, ht, hlane.trans (by decide +kernel)⟩

/-- Register 4 indexes elements 0 to 3. -/
theorem test_vgath : ∃ t, exec (.vgath 0 (vmemArgs 5 5 0x400)) bytesAtBase = .next t ∧
    (t.core 0).mlane (vmemArgs 5 5 0x400) 5 3 = 8 := by
  obtain ⟨t, ht, -, hlane⟩ := (vectorMemory 0 (vmemArgs 5 5 0x400) bytesAtBase (by decide +kernel)).2.2.2.2.2.1 (by decide +kernel)
    (by decide +kernel) (by decide +kernel) ⟨rfl, by decide +kernel⟩ (by unfold InAllocLines; decide +kernel)
  exact ⟨t, ht, (hlane 3 (by decide +kernel)).trans (by decide +kernel)⟩

theorem test_vscat : ∃ t, exec (.vscat 0 (vmemArgs 5 1 0x400)) kernelOn = .next t ∧ t.rdLe (floeBase 0 + 0x1003) 1 = 4 := by
  have haddr : (idxAddrs (kernelOn.core (0 : Fin 64)) (vmemArgs 5 1 0x400) 128).getD 3 0 = 0x1003 := by decide +kernel
  obtain ⟨t, ht, -, hread, -⟩ := (vectorMemory 0 (vmemArgs 5 1 0x400) kernelOn (by decide +kernel)).2.2.2.2.2.2 (by decide +kernel)
    (by decide +kernel) (by decide +kernel) ⟨rfl, by decide +kernel⟩ (by decide +kernel) (by decide +kernel)
  have hlane := hread 3 (by decide +kernel)
  rw [haddr] at hlane
  exact ⟨t, ht, hlane.trans (by decide +kernel)⟩

end Sys2Proof.Tests
end

section
/-! SUPPORT. The numbers that Spar writes: the low bits of an exact result, the limits of SAT, and the rounded shift of ASH. -/

namespace Sys2Proof.Machine

/-! ### Low bits and their signed value -/

theorem lowBits_mod (w : Nat) (v : Int) : lowBits w v % 2 ^ w = lowBits w v := by
  have hpos : (0 : Int) < 2 ^ w := by positivity
  have hlt : lowBits w v < 2 ^ w := by
    rw [lowBits, Int.toNat_lt (Int.emod_nonneg _ hpos.ne')]
    exact_mod_cast Int.emod_lt_of_pos v hpos
  exact Nat.mod_eq_of_lt hlt

@[simp] theorem lowBits_natCast (w n : Nat) : lowBits w (n : Int) = n % 2 ^ w := by
  unfold lowBits
  exact_mod_cast Int.toNat_natCast (n % 2 ^ w)

/-- Low bits are those of the two's-complement word. -/
theorem lowBits_eq_ofInt (w : Nat) (v : Int) : lowBits w v = (BitVec.ofInt w v).toNat := by
  rw [BitVec.toNat_ofInt, lowBits]
  norm_cast

theorem lowBits_toInt {w : Nat} (b : BitVec w) : lowBits w b.toInt = b.toNat := by rw [lowBits_eq_ofInt, BitVec.ofInt_toInt]

/-- The signed value of a word's bits. -/
theorem sInt_toNat {w : Nat} (b : BitVec w) : sInt w b.toNat = b.toInt := by
  unfold sInt
  rw [BitVec.toInt_eq_msb_cond, BitVec.msb_eq_decide]
  simp only [Nat.mod_eq_of_lt b.isLt, decide_eq_true_eq]
  by_cases h : b.toNat < 2 ^ (w - 1)
  · rw [if_pos h, if_neg (by omega)]
  · rw [if_neg h, if_pos (by omega)]
    rfl

theorem sInt_lowBits (w : Nat) (v : Int) : sInt w (lowBits w v) = (BitVec.ofInt w v).toInt := by rw [lowBits_eq_ofInt, sInt_toNat]

theorem ofInt_sInt_lowBits (w : Nat) (v : Int) : BitVec.ofInt w (sInt w (lowBits w v)) = BitVec.ofInt w v := by
  rw [sInt_lowBits, BitVec.ofInt_toInt]

/-- A value in the signed range of its width is the value of its low bits. -/
theorem sInt_lowBits_of_mem {w : Nat} {v : Int} (hw : 0 < w) (hlo : -(2 ^ (w - 1)) ≤ v) (hhi : v < 2 ^ (w - 1)) :
    sInt w (lowBits w v) = v := by
  rw [sInt_lowBits]
  exact BitVec.toInt_ofInt_eq_self hw hlo hhi

theorem sInt_mem (w n : Nat) : -(2 ^ (w - 1)) ≤ sInt w n ∧ sInt w n < 2 ^ (w - 1) := by
  have h : sInt w n = (BitVec.ofNat w n).toInt := by rw [← sInt_toNat, BitVec.toNat_ofNat, sInt_mod]
  rw [h]
  exact ⟨BitVec.le_toInt _, BitVec.toInt_lt⟩

/-! ### Writing an exact result under SAT (R61, R212, R213) -/

section
variable {w : Nat} {v : Int} (sat : Bool)

theorem inSigned_of_mem (hlo : -(2 ^ (w - 1)) ≤ v) (hhi : v < 2 ^ (w - 1)) : inSigned w sat v = (v, false) := by
  rw [inSigned, if_neg (by omega), if_neg (by omega)]

theorem inSigned_of_not_mem (h : v < -(2 ^ (w - 1)) ∨ 2 ^ (w - 1) ≤ v) :
    inSigned w sat v = (if sat then (if v < 0 then -(2 ^ (w - 1)) else 2 ^ (w - 1) - 1) else sInt w (lowBits w v), true) := by
  have hpos : (0 : Int) < 2 ^ (w - 1) := by positivity
  unfold inSigned
  rcases h with hlow | hhigh
  · rw [if_neg (by omega), if_pos hlow, if_pos (by omega : v < 0)]
  · rw [if_pos (by omega), if_neg (by omega : ¬v < 0)]

/-- What is written lies in the range. -/
theorem inSigned_mem : -(2 ^ (w - 1)) ≤ (inSigned w sat v).1 ∧ (inSigned w sat v).1 < 2 ^ (w - 1) := by
  have hpos : (0 : Int) < 2 ^ (w - 1) := by positivity
  by_cases h : -(2 ^ (w - 1)) ≤ v ∧ v < 2 ^ (w - 1)
  · rw [inSigned_of_mem sat h.1 h.2]
    exact h
  · rw [inSigned_of_not_mem sat (by omega)]
    cases sat
    · exact sInt_mem w _
    · rw [if_pos rfl]
      split <;> omega

/-- Written and read back. -/
theorem sInt_lowBits_inSigned (hw : 0 < w) : sInt w (lowBits w (inSigned w sat v).1) = (inSigned w sat v).1 :=
  sInt_lowBits_of_mem hw (inSigned_mem sat).1 (inSigned_mem sat).2

theorem acc40_eq (v : Int) : acc40 sat v = inSigned 40 sat v := rfl

theorem lowBits_sInt (w n : Nat) : lowBits w (sInt w n) = n % 2 ^ w := by
  have h : sInt w n = (BitVec.ofNat w n).toInt := by rw [← sInt_toNat, BitVec.toNat_ofNat, sInt_mod]
  rw [h, lowBits_toInt, BitVec.toNat_ofNat]

/-- The integer formats of R61 write as `inSigned` does, and say which of the two flags a result out of range sets. -/
theorem writeInt_eq (w : Nat) (v : Int) :
    writeInt w sat v =
      { bits := lowBits w (inSigned w sat v).1, outSat := (inSigned w sat v).2 && sat, outOvf := (inSigned w sat v).2 && !sat } := by
  unfold writeInt inSigned
  by_cases hhi : 2 ^ (w - 1) - 1 < v
  · cases sat <;> simp [hhi, lowBits_sInt, lowBits_mod]
  · by_cases hlo : v < -(2 ^ (w - 1))
    · cases sat <;> simp [hhi, hlo, lowBits_sInt, lowBits_mod]
    · simp [hhi, hlo]

end

/-! ### The shift of ASH (R49, R50, R216) -/

/-- The convergent shift is the division by a power of two, to the nearest, ties to even. -/
theorem rneShr_eq_halfEven (u : Nat) {k : Nat} (hpos : 0 < k) (hlt : k < 128) : rneShr u k = halfEven u (2 ^ k) := by
  have hr : u - (u >>> k) <<< k = u % 2 ^ k := by
    rw [Nat.shiftRight_eq_div_pow, Nat.shiftLeft_eq, Nat.mul_comm]
    exact Nat.sub_eq_of_eq_add (Nat.mod_add_div u _).symm
  have hhalf : 1 <<< (k - 1) * 2 = 2 ^ k := by
    rw [Nat.one_shiftLeft, ← Nat.pow_succ]
    congr 1
    omega
  unfold rneShr halfEven
  simp only [hr]
  rw [Nat.shiftRight_eq_div_pow]
  rw [if_neg (by omega), if_neg (by omega)]
  congr 1
  apply propext
  constructor <;> omega

theorem shiftDown_eq_ashDown (rnd : Bool) (a : Int) {k : Nat} (hpos : 0 < k) (hlt : k < 128) : shiftDown rnd a k = ashDown rnd a k := by
  unfold shiftDown ashDown
  rw [rneShr_eq_halfEven _ hpos hlt]

theorem ashValue_eq_ashExact (o : SparA) (a : Int) : ashValue o.rnd a o.imm = ashExact o a := by
  have hrange := sInt_mem 6 o.imm.toNat
  unfold ashValue ashExact
  by_cases hk : 0 ≤ sInt 6 o.imm.toNat
  · simp only [ge_iff_le, hk, if_true]
  · simp only [ge_iff_le, hk, if_false]
    exact shiftDown_eq_ashDown _ _ (by omega) (by omega)

end Sys2Proof.Machine
end

section
/-! SUPPORT. Spar: what late writes, the advance to the next instruction and the writes of a result leave of its registers, and the state
that an issued instruction leaves. -/

namespace Sys2Proof.Machine

/-! ### Registers (R204) -/

section
variable (q : SparSt) (i k v : Nat)

theorem rt_wt : (q.wt i v).rt k = if k = i then v % 2 ^ 16 else q.rt k := Tab.get_put _ _ _ _ _

theorem ti_wt_same : (q.wt i v).ti i = sInt 16 v := by rw [SparSt.ti, rt_wt, if_pos rfl, sInt_mod]

theorem ptr_setPtr : (q.setPtr i v).ptr k = if k = i then v % 2 ^ 15 else q.ptr k := Tab.get_put _ _ _ _ _

theorem wt_congr {v v' : Nat} (h : v % 2 ^ 16 = v' % 2 ^ 16) : q.wt i v = q.wt i v' := by unfold SparSt.wt; rw [h]

theorem acc_setAcc (a x : Bool) (v : Int) : (q.setAcc a v).acc x = if x = a then sInt 40 (lowBits 40 v) else q.acc x := by
  rw [sInt_lowBits]
  cases a <;> cases x <;> rfl

theorem setAcc_eq (a : Bool) (v : Int) : q.setAcc a v = { q with a0 := (q.setAcc a v).a0, a1 := (q.setAcc a v).a1 } := by cases a <;> rfl

theorem setAcc_congr (a : Bool) {v v' : Int} (h : BitVec.ofInt 40 v = BitVec.ofInt 40 v') : q.setAcc a v = q.setAcc a v' := by
  unfold SparSt.setAcc
  rw [h]

end

/-- A late write changes the registers it may name. -/
theorem apply_eq (q : SparSt) (w : SparLate) :
    q.apply w = { q with t := (q.apply w).t, p := (q.apply w).p, m := (q.apply w).m, b := (q.apply w).b, l := (q.apply w).l } := by
  cases w <;> rfl

theorem foldl_apply_eq (ws : List SparLate) (q : SparSt) :
    ws.foldl SparSt.apply q = { q with
      t := (ws.foldl SparSt.apply q).t, p := (ws.foldl SparSt.apply q).p, m := (ws.foldl SparSt.apply q).m,
      b := (ws.foldl SparSt.apply q).b, l := (ws.foldl SparSt.apply q).l } := by
  induction ws generalizing q with
  | nil => rfl
  | cons w ws ih => rw [List.foldl_cons, ih, apply_eq]

/-- The late writes of the instruction before change data, pointer and modifier registers alone (R219). -/
theorem settle_eq (p : SparSt) :
    p.settle = { p with t := p.settle.t, p := p.settle.p, m := p.settle.m, b := p.settle.b, l := p.settle.l, late := [] } := by
  unfold SparSt.settle
  rw [foldl_apply_eq]

section
variable (p : SparSt)

theorem settle_acc (x : Bool) : p.settle.acc x = p.acc x := by rw [settle_eq]; rfl
theorem settle_turn : p.settle.turn = p.turn := by rw [settle_eq]
theorem settle_pc : p.settle.pc = p.pc := by rw [settle_eq]
theorem settle_flags : p.settle.z = p.z ∧ p.settle.n = p.n ∧ p.settle.v = p.v := by rw [settle_eq]; exact ⟨rfl, rfl, rfl⟩

end

/-! ### The advance to the next instruction (R219, R221) -/

/-- `r` has the registers of `q` but for SR. -/
structure SparSt.SameRegs (q r : SparSt) : Prop where
  t : r.t = q.t
  a0 : r.a0 = q.a0
  a1 : r.a1 = q.a1
  p : r.p = q.p
  m : r.m = q.m
  b : r.b = q.b
  l : r.l = q.l

section
variable {q r x : SparSt}

theorem SparSt.SameRegs.trans (h : q.SameRegs r) (k : r.SameRegs x) : q.SameRegs x :=
  ⟨k.t.trans h.t, k.a0.trans h.a0, k.a1.trans h.a1, k.p.trans h.p, k.m.trans h.m, k.b.trans h.b, k.l.trans h.l⟩

theorem SparSt.SameRegs.rt (h : q.SameRegs r) (k : Nat) : r.rt k = q.rt k := by unfold SparSt.rt; rw [h.t]

theorem SparSt.SameRegs.ti (h : q.SameRegs r) (k : Nat) : r.ti k = q.ti k := by unfold SparSt.ti; rw [h.rt]

theorem SparSt.SameRegs.ptr (h : q.SameRegs r) (k : Nat) : r.ptr k = q.ptr k := by unfold SparSt.ptr; rw [h.p]

theorem SparSt.SameRegs.acc (h : q.SameRegs r) (x : Bool) : r.acc x = q.acc x := by unfold SparSt.acc; rw [h.a0, h.a1]

end

/-- The instruction is counted, and the program counter and the repeat block move on. -/
def SparSt.counted (q : SparSt) (pc : Nat) (rep : Option (Nat × Nat × Nat)) : SparSt :=
  { q with lastPc := q.pc, cyc := q.cyc + 1, pc := pc, rep := rep }

section
variable (q : SparSt) (pc : Nat) (rep : Option (Nat × Nat × Nat)) (ws : List SparLate)

theorem counted_sameRegs : q.SameRegs (q.counted pc rep) := ⟨rfl, rfl, rfl, rfl, rfl, rfl, rfl⟩

theorem watch_sameRegs : q.SameRegs q.watch := ⟨rfl, rfl, rfl, rfl, rfl, rfl, rfl⟩

/-- What takes place after two delay slots is no write of a register but SR. -/
theorem turned_sameRegs : q.SameRegs q.turned := by
  unfold SparSt.turned
  split <;> exact ⟨rfl, rfl, rfl, rfl, rfl, rfl, rfl⟩

theorem turned_late : q.turned.late = q.late := by
  unfold SparSt.turned
  split <;> rfl

theorem turned_of_none {q : SparSt} (h : q.turn = none) : q.turned = q := by
  unfold SparSt.turned
  rw [h]

/-- The advance follows the repeat block, and then takes the turn that is due. -/
theorem advance_cases : ∃ pc rep, q.advance = (q.counted pc rep).turned := by
  unfold SparSt.advance
  split
  · split
    · split
      · exact ⟨_, _, rfl⟩
      · exact ⟨_, _, rfl⟩
    · exact ⟨_, q.rep, rfl⟩
  · exact ⟨_, q.rep, rfl⟩

theorem advance_sameRegs : q.SameRegs q.advance := by
  obtain ⟨pc, rep, h⟩ := advance_cases q
  rw [h]
  exact (counted_sameRegs q pc rep).trans (turned_sameRegs _)

theorem advance_late : q.advance.late = q.late := by
  obtain ⟨pc, rep, h⟩ := advance_cases q
  rw [h]
  exact turned_late _

/-- Flags stand where no RETI returns. -/
theorem advance_flags {q : SparSt} (hturn : q.turn = none) : q.advance.z = q.z ∧ q.advance.n = q.n ∧ q.advance.v = q.v := by
  obtain ⟨pc, rep, h⟩ := advance_cases q
  have hnone : (q.counted pc rep).turn = none := hturn
  rw [h, turned_of_none hnone]
  exact ⟨rfl, rfl, rfl⟩

/-- Outside delay slots and repeat blocks the next instruction in order follows. -/
theorem advance_of_unsheltered {q : SparSt} (h : q.sheltered = false) : q.advance = q.counted (q.pc + 1) none := by
  obtain ⟨hturn, hrep⟩ : q.turn = none ∧ q.rep = none := by simpa [SparSt.sheltered] using h
  have hnone : (q.counted (q.pc + 1) none).turn = none := hturn
  rw [← turned_of_none hnone, SparSt.counted, ← hrep]
  unfold SparSt.advance
  rw [hrep]

/-- Spar after an instruction whose writes gave `q` and whose late writes are `ws`. -/
def SparSt.after (q : SparSt) (ws : List SparLate) : SparSt := ({ q with late := ws }.advance).watch

theorem after_sameRegs : q.SameRegs (q.after ws) :=
  have hlate : q.SameRegs { q with late := ws } := ⟨rfl, rfl, rfl, rfl, rfl, rfl, rfl⟩
  (hlate.trans (advance_sameRegs _)).trans (watch_sameRegs _)

theorem after_late : (q.after ws).late = ws := advance_late { q with late := ws }

theorem after_flags {q : SparSt} (hturn : q.turn = none) (ws : List SparLate) :
    (q.after ws).z = q.z ∧ (q.after ws).n = q.n ∧ (q.after ws).v = q.v :=
  advance_flags (q := { q with late := ws }) hturn

theorem settle_sheltered : q.settle.sheltered = q.sheltered := by rw [settle_eq]; rfl

end

/-! ### The state (R218) -/

section
variable {s u : State} {f : Nat}

@[simp] theorem spar_setSpar (s : State) (f : Nat) (x : SparSt) : (s.setSpar f x).spar f = x := by
  simp [State.spar, State.setSpar]

/-- Spar of a floe changes, in a state whose memory, tags and floes are those before. -/
theorem sparFrame_setSpar (x : SparSt) (hmem : u.mem = s.mem) (htags : u.tags = s.tags) (hfloes : u.floes = s.floes) :
    SparFrame f s (u.setSpar f x) := by
  refine ⟨hmem, htags, ?_, fun k hk => (floe_setFloe_other u _ hk).trans (floe_of_floes hfloes k)⟩
  rw [spar_setSpar, State.setSpar, floe_setFloe, floe_of_floes hfloes]

/-- An instruction that issues before WC_DECL has the effect of its body, and Spar advances. -/
theorem sparIssue_body {k : State → SparSt → SparSt → State × SparSt × List SparLate} (h : SparIssues s f) :
    s.sparIssue f false k =
      (k s (s.spar f) (s.spar f).settle).1.setSpar f
        ((k s (s.spar f) (s.spar f).settle).2.1.after (k s (s.spar f) (s.spar f).settle).2.2) := by
  obtain ⟨hrun, hturn, hdecl⟩ := h
  unfold State.sparIssue
  dsimp only
  rw [if_neg (not_or.2 ⟨not_not.2 hrun, hturn⟩), if_neg (Nat.not_lt.2 hdecl), if_neg (by simp)]
  rfl

/-- A lawful control instruction outside delay slots and repeat blocks advances and takes its turn. -/
theorem sparCtl_body {k : SparSt → Option (SparSt → SparSt)} {g : SparSt → SparSt} (h : SparIssues s f) (hs : (s.spar f).sheltered = false)
    (hk : k (s.spar f) = some g) : s.sparCtl f k = s.setSpar f (g (s.spar f).settle.advance).watch := by
  obtain ⟨hrun, hturn, hdecl⟩ := h
  unfold State.sparCtl
  dsimp only
  rw [if_pos ⟨hrun, hturn, hdecl, by rw [hs]; rfl⟩, hk]

end

end Sys2Proof.Machine
end

section
/-! PROOFS. Data and accumulator instructions of Spar. -/

namespace Sys2Proof.Machine

/-! ### The writes of an A-class instruction (R211, R217) -/

/-- The data register, the accumulator and the flags that an instruction writes, where a value is given for each. -/
def SparSt.wrote (q : SparSt) (o : SparA) (d a : Option Int) (fl : Option (Int × Option Bool)) : SparSt :=
  { q with
    t := d.elim q.t fun v => (q.wt o.rd.toNat (lowBits 16 v)).t
    a0 := a.elim q.a0 fun v => (q.setAcc o.acc v).a0
    a1 := a.elim q.a1 fun v => (q.setAcc o.acc v).a1
    z := fl.elim q.z fun x => decide (x.1 = 0)
    n := fl.elim q.n fun x => decide (x.1 < 0)
    v := fl.elim q.v fun x => x.2.getD q.v }

section
variable (q : SparSt) (o : SparA) (d a : Option Int) (fl : Option (Int × Option Bool))

theorem wrote_rt (k : Nat) :
    (q.wrote o d a fl).rt k = d.elim (q.rt k) fun v => if k = o.rd.toNat then lowBits 16 v else q.rt k := by
  cases d with
  | none => rfl
  | some v => exact (rt_wt q _ k _).trans (by rw [lowBits_mod, Option.elim_some])

theorem wrote_acc (x : Bool) :
    (q.wrote o d a fl).acc x = a.elim (q.acc x) fun v => if x = o.acc then sInt 40 (lowBits 40 v) else q.acc x := by
  cases a with
  | none => rfl
  | some v => exact acc_setAcc q o.acc x v

end

section
variable (q : SparSt) (o : SparA)

theorem wt_eq_wrote {x : Nat} {v : Int} (h : x % 2 ^ 16 = lowBits 16 v) : q.wt o.rd.toNat x = q.wrote o (some v) none none := by
  rw [wt_congr q (v' := lowBits 16 v) _ (h.trans (lowBits_mod 16 v).symm)]
  rfl

theorem flags_wt_eq_wrote {x : Nat} {v : Int} (h : x % 2 ^ 16 = lowBits 16 v) (y : Int) (ov : Option Bool) :
    (q.wt o.rd.toNat x).flags y ov = q.wrote o (some v) none (some (y, ov)) := by
  rw [wt_eq_wrote q o h]
  rfl

theorem flags_setAcc_eq_wrote (v y : Int) (ov : Option Bool) :
    (q.setAcc o.acc v).flags y ov = q.wrote o none (some v) (some (y, ov)) := by
  rw [setAcc_eq]
  rfl

end

/-! ### Results written under SAT (R212, R213) -/

section
variable (s : State) (f : Nat) (q : SparSt) (sat : Bool) (v : Int)

/-- A result out of range sets the flag that SAT selects and is counted (R213). -/
def State.outOfRange (s : State) (f : Nat) (sat : Bool) : State :=
  (s.raise (pgSpar f) (if sat then F.SPAR_NUM_STAT_OUT_SAT else F.SPAR_NUM_STAT_OUT_OVF)).bump (pgSpar f) F.SPAR_OUT_OVF_CNT

/-- An accumulator out of range sets its flag and is counted (R212). -/
def State.accOutOfRange (s : State) (f : Nat) : State :=
  (s.bump (pgSpar f) F.SPAR_ACC_OVF_CNT).raise (pgSpar f) F.SPAR_NUM_STAT_ACC_OVF

theorem putT_eq (rd : Nat) : s.putT f q rd sat v =
    (if (inSigned 16 sat v).2 then s.outOfRange f sat else s,
      (q.wt rd (lowBits 16 (inSigned 16 sat v).1)).flags (inSigned 16 sat v).1 (some (inSigned 16 sat v).2)) := by
  unfold State.putT State.outOfRange
  simp only [writeInt_eq, sInt_lowBits_inSigned sat (w := 16) (by omega)]
  cases (inSigned 16 sat v).2 <;> cases sat <;> rfl

theorem putAcc40_eq (a : Bool) : s.putAcc40 f q a sat v =
    (if (inSigned 40 sat v).2 then s.accOutOfRange f else s,
      (q.setAcc a (inSigned 40 sat v).1).flags (inSigned 40 sat v).1 (some (inSigned 40 sat v).2)) := by
  unfold State.putAcc40
  rw [acc40_eq]
  rfl

end

section
variable {s : State} {f : Nat}

theorem outOfRange_reports (sat : Bool) : Reports (pgSpar f) s (s.outOfRange f sat) := by
  cases sat
  · exact ((Reports.refl s).raise (by decide)).bump (by decide)
  · exact ((Reports.refl s).raise (by decide)).bump (by decide)

theorem accOutOfRange_reports : Reports (pgSpar f) s (s.accOutOfRange f) := ((Reports.refl s).bump (by decide)).raise (by decide)

theorem putT_reports (q : SparSt) (rd : Nat) (sat : Bool) (v : Int) : Reports (pgSpar f) s (s.putT f q rd sat v).1 := by
  rw [putT_eq]
  dsimp only
  split
  · exact outOfRange_reports sat
  · exact Reports.refl s

theorem putAcc40_reports (q : SparSt) (a sat : Bool) (v : Int) : Reports (pgSpar f) s (s.putAcc40 f q a sat v).1 := by
  rw [putAcc40_eq]
  dsimp only
  split
  · exact accOutOfRange_reports
  · exact Reports.refl s

/-! ### The A class (R211, R219) -/

/-- An A-class instruction runs its body on the registers that it sees, and on those with the late writes applied. -/
theorem sparA_body {k : State → SparSt → SparSt → State × SparSt} (h : SparIssues s f) :
    s.sparA f k = (k s (s.spar f) (s.spar f).settle).1.setSpar f ((k s (s.spar f) (s.spar f).settle).2.after []) := sparIssue_body h

end

/-- An instruction whose body writes the values given, and reports no more than numbers. -/
theorem sparResult_of_body {i : Fin 64 → SparA → Instr} {d a : SparSt → SparA → Option Int}
    {fl : SparSt → SparA → Option (Int × Option Bool)}
    (k : Nat → SparA → State → SparSt → SparSt → State × SparSt) (hexec : ∀ f o s, exec (i f o) s = .next (s.sparA f (k f o)))
    (hbody : ∀ f o s p q, Reports (pgSpar f) s (k f o s p q).1 ∧ (k f o s p q).2 = q.wrote o (d p o) (a p o) (fl p o)) :
    SparResult i d a fl := by
  intro f o s h
  obtain ⟨hreports, hwrote⟩ := hbody f o s (s.spar f) (s.spar f).settle
  refine ⟨_, exec_next (sparA_body h) (hexec f o s), sparFrame_setSpar _ hreports.mem hreports.tags hreports.floes, ?_⟩
  rw [spar_setSpar, hwrote]
  generalize s.spar f = p
  have hregs := after_sameRegs (p.settle.wrote o (d p o) (a p o) (fl p o)) []
  refine ⟨fun x => ?data, fun x => ?acc, hregs.p, hregs.m, hregs.b, hregs.l, after_late _ _, fun hturn => ?flags⟩
  case data =>
    rw [hregs.rt, wrote_rt]
    cases d p o <;> rfl
  case acc =>
    rw [hregs.acc, wrote_acc, settle_acc]
    cases a p o <;> rfl
  case flags =>
    obtain ⟨hz, hn, hv⟩ := after_flags (q := p.settle.wrote o (d p o) (a p o) (fl p o)) ((settle_turn p).trans hturn) []
    rw [hz, hn, hv]
    cases fl p o with
    | none => exact settle_flags p
    | some x => exact ⟨rfl, rfl, congrArg x.2.getD (settle_flags p).2.2⟩

theorem sparT_of_body {i : Fin 64 → SparA → Instr} {v : SparSt → SparA → Int}
    (hexec : ∀ f o s, exec (i f o) s = .next (s.sparA f fun s p q => s.putT f q o.rd.toNat o.sat (v p o))) : SparT i v := by
  refine sparResult_of_body (fun f o s p q => s.putT f q o.rd.toNat o.sat (v p o)) hexec fun f o s p q => ⟨putT_reports .., ?_⟩
  rw [putT_eq]
  exact flags_wt_eq_wrote q o (lowBits_mod ..) _ _

theorem sparAcc_of_body {i : Fin 64 → SparA → Instr} {v : SparSt → SparA → Int}
    (hexec : ∀ f o s, exec (i f o) s = .next (s.sparA f fun s p q => s.putAcc40 f q o.acc o.sat (v p o))) : SparAcc i v := by
  refine sparResult_of_body (fun f o s p q => s.putAcc40 f q o.acc o.sat (v p o)) hexec fun f o s p q => ⟨putAcc40_reports .., ?_⟩
  rw [putAcc40_eq]
  exact flags_setAcc_eq_wrote ..

theorem sparBits_of_body {i : Fin 64 → SparA → Instr} {op : Nat → Nat → Nat} (hexec : ∀ f o s, exec (i f o) s = .next (s.sparBit f o op))
    (hop : ∀ x y, op x y % 2 ^ 16 = op (x % 2 ^ 16) (y % 2 ^ 16)) : SparBits i op := by
  refine sparResult_of_body (fun _ o s p q => (s, (q.wt o.rd.toNat (op (p.rt o.ra.toNat) (p.rt o.rb.toNat))).flags
    (sInt 16 (op (p.rt o.ra.toNat) (p.rt o.rb.toNat))) (some false))) hexec fun f o s p q => ⟨Reports.refl s, ?_⟩
  rw [← hop, sInt_mod]
  exact flags_wt_eq_wrote q o (by rw [lowBits_natCast, Nat.mod_mod]) _ _

theorem sparPick_of_body {i : Fin 64 → SparA → Instr} {op : Int → Int → Int} (hexec : ∀ f o s, exec (i f o) s = .next (s.sparPick f o op)) :
    SparResult i (fun p o => some (op (p.ti o.ra.toNat) (p.ti o.rb.toNat))) (fun _ _ => none)
      fun p o => some (op (p.ti o.ra.toNat) (p.ti o.rb.toNat), none) :=
  sparResult_of_body (fun _ o s p q => (s, (q.wt o.rd.toNat (lowBits 16 (op (p.ti o.ra.toNat) (p.ti o.rb.toNat)))).flags
    (op (p.ti o.ra.toNat) (p.ti o.rb.toNat)) none)) hexec fun _ o s _ q => ⟨Reports.refl s, flags_wt_eq_wrote q o (lowBits_mod ..) _ _⟩

theorem sparMove_of_body {i : Fin 64 → SparA → Instr} {v : SparSt → SparA → Int} (x : SparSt → SparA → Nat)
    (hexec : ∀ f o s, exec (i f o) s = .next (s.sparA f fun s p q => (s, q.wt o.rd.toNat (x p o))))
    (hx : ∀ p o, x p o % 2 ^ 16 = lowBits 16 (v p o)) : SparMove i v :=
  sparResult_of_body (fun _ o s p q => (s, q.wt o.rd.toNat (x p o))) hexec fun _ o s p q => ⟨Reports.refl s, wt_eq_wrote q o (hx p o)⟩

theorem ldi_result : SparMove .ldi fun _ o => o.imm.toInt :=
  sparMove_of_body (fun _ o => o.imm.toNat) (fun _ _ _ => rfl) fun _ o => (Nat.mod_eq_of_lt o.imm.isLt).trans (lowBits_toInt o.imm).symm

theorem movt_result : SparMove .movt fun p o => (p.ptr o.ra.toNat : Nat) :=
  sparMove_of_body (fun p o => p.ptr o.ra.toNat) (fun _ _ _ => rfl) fun _ _ => (lowBits_natCast ..).symm

theorem movl_result : SparMove .movl fun p o => p.acc o.acc :=
  sparMove_of_body (fun p o => lowBits 16 (p.acc o.acc)) (fun _ _ _ => rfl) fun _ _ => lowBits_mod ..

theorem sparExp_result : SparMove .sparExp fun p o => sparExpOf (p.acc o.acc) :=
  sparMove_of_body (fun p o => lowBits 16 (sparExpOf (p.acc o.acc))) (fun _ _ _ => rfl) fun _ _ => lowBits_mod ..

/-- MOVS reads SR, the cause of the interrupt or the mailbox, by the immediate. -/
theorem movs_result : SparMove .movs fun p o =>
    if o.imm = 0 then (p.sr : Nat) else if o.imm = 1 then (p.cause : Nat) else if o.imm = 2 then (p.mbox.toNat : Nat) else 0 := by
  refine sparMove_of_body _ (fun _ _ _ => rfl) fun p o => ?_
  simp only [← BitVec.toNat_inj, BitVec.ofNat_eq_ofNat, BitVec.toNat_ofNat]
  split
  case h_1 h => simp [h]
  case h_2 h => simp [h]
  case h_3 h => simp [h]
  case h_4 h0 h1 h2 =>
    rw [if_neg h0, if_neg h1, if_neg h2]
    rfl

theorem mova_result : SparResult .mova (fun _ _ => none) (fun p o => some (p.ti o.ra.toNat * 2 ^ 16))
    fun p o => some (p.ti o.ra.toNat * 2 ^ 16, none) :=
  sparResult_of_body (fun _ o s p q => (s, (q.setAcc o.acc (p.ti o.ra.toNat * 2 ^ 16)).flags (p.ti o.ra.toNat * 2 ^ 16) none)) (fun _ _ _ => rfl)
    fun _ o s _ q => ⟨Reports.refl s, flags_setAcc_eq_wrote q o _ _ _⟩

theorem clr_result : SparResult .clr (fun _ _ => none) (fun _ _ => some 0) fun _ _ => some (0, none) :=
  sparResult_of_body (fun _ o s _ q => (s, (q.setAcc o.acc 0).flags 0 none)) (fun _ _ _ => rfl)
    fun _ o s _ q => ⟨Reports.refl s, flags_setAcc_eq_wrote q o _ _ _⟩

theorem ash_result : SparAcc .ash fun p o => if 0 ≤ sInt 6 o.imm.toNat then p.acc o.acc * 2 ^ (sInt 6 o.imm.toNat).toNat
    else shiftDown o.rnd (p.acc o.acc) (-(sInt 6 o.imm.toNat)).toNat := sparAcc_of_body fun _ _ _ => rfl

/-- The exact accumulator that NORM writes (R215). -/
def normExact (a : Int) : Int := if 0 ≤ sparExpOf a then a * 2 ^ (sparExpOf a).toNat else shiftDown true a (-(sparExpOf a)).toNat

/-- The value that NORM's flags speak of. -/
def normValue (a : Int) : Int :=
  if 0 ≤ sparExpOf a then sInt 40 (lowBits 40 (a * 2 ^ (sparExpOf a).toNat)) else shiftDown true a (-(sparExpOf a)).toNat

theorem ofInt_normValue (a : Int) : BitVec.ofInt 40 (normValue a) = BitVec.ofInt 40 (normExact a) := by
  unfold normValue normExact
  split
  · exact ofInt_sInt_lowBits ..
  · rfl

theorem norm_result : SparResult .norm (fun p o => some (sparExpOf (p.acc o.acc))) (fun p o => some (normExact (p.acc o.acc)))
    fun p o => some (normValue (p.acc o.acc), none) := by
  refine sparResult_of_body (fun _ o s p q => (s, ((q.setAcc o.acc (normValue (p.acc o.acc))).wt o.rd.toNat
    (lowBits 16 (sparExpOf (p.acc o.acc)))).flags (normValue (p.acc o.acc)) none)) (fun _ _ _ => rfl) fun _ o s p q => ⟨Reports.refl s, ?_⟩
  dsimp only
  rw [setAcc_congr q o.acc (ofInt_normValue _), setAcc_eq]
  rfl

/-- Settles O10: each instruction's body writes the values given, and the advance to the next instruction keeps them. -/
theorem sparData : Obligations.SparData :=
  ⟨sparT_of_body fun _ _ _ => rfl, sparT_of_body fun _ _ _ => rfl, sparT_of_body fun _ _ _ => rfl, sparT_of_body fun _ _ _ => rfl,
    sparT_of_body fun _ _ _ => rfl, sparT_of_body fun _ _ _ => rfl,
    sparBits_of_body (fun _ _ _ => rfl) fun _ _ => Nat.and_mod_two_pow, sparBits_of_body (fun _ _ _ => rfl) fun _ _ => Nat.or_mod_two_pow,
    sparBits_of_body (fun _ _ _ => rfl) fun _ _ => Nat.xor_mod_two_pow,
    sparPick_of_body fun _ _ _ => rfl, sparPick_of_body fun _ _ _ => rfl,
    ldi_result, movt_result, movl_result, sparExp_result, movs_result, mova_result, clr_result,
    sparAcc_of_body fun _ _ _ => rfl, sparAcc_of_body fun _ _ _ => rfl, ash_result, norm_result⟩

end Sys2Proof.Machine
end

section
/-! PROOFS. Late writes and control instructions of Spar. -/

namespace Sys2Proof.Machine

/-! ### Late writes (R219) -/

/-- An instruction that writes no register at once leaves them as the late writes before it gave them. -/
theorem settle_after (p : SparSt) (ws : List SparLate) :
    (p.settle.after ws).late = ws ∧ (∀ k, (p.settle.after ws).rt k = p.settle.rt k) ∧ (∀ x, (p.settle.after ws).acc x = p.acc x) ∧
      (p.settle.after ws).p = p.settle.p ∧ (p.settle.after ws).m = p.settle.m ∧ (p.settle.after ws).b = p.settle.b ∧
      (p.settle.after ws).l = p.settle.l := by
  have hregs := after_sameRegs p.settle ws
  exact ⟨after_late _ _, hregs.rt, fun x => (hregs.acc x).trans (settle_acc p x), hregs.p, hregs.m, hregs.b, hregs.l⟩

theorem sparLateResult_of_body {i : Fin 64 → SparA → Instr} {w : SparSt → SparA → SparLate}
    (hexec : ∀ f o s, exec (i f o) s = .next (s.sparLateA f fun p => w p o)) : SparLateResult i w := by
  intro f o s h
  refine ⟨_, exec_next (sparIssue_body h) (hexec f o s), sparFrame_setSpar _ rfl rfl rfl, ?_⟩
  rw [spar_setSpar]
  exact settle_after _ _

/-- NOP issues like an instruction without a write. -/
theorem exec_nop {f : Fin 64} {s : State} (h : SparIssues s f) :
    ∃ t, exec (.nop f) s = .next t ∧ SparFrame f s t ∧ (t.spar f).late = [] ∧ (∀ k, (t.spar f).rt k = (s.spar f).settle.rt k) ∧
      (∀ x, (t.spar f).acc x = (s.spar f).acc x) ∧ (t.spar f).p = (s.spar f).settle.p := by
  refine ⟨_, exec_next (sparIssue_body h) rfl, sparFrame_setSpar _ rfl rfl rfl, ?_⟩
  rw [spar_setSpar]
  obtain ⟨hlate, hrt, hacc, hp, -⟩ := settle_after (s.spar f) []
  exact ⟨hlate, hrt, hacc, hp⟩

/-! ### Control instructions (R220) -/

/-- Spar as a control instruction finds it, when it has advanced outside delay slots and repeat blocks. -/
def SparSt.passed (p : SparSt) : SparSt := p.settle.counted (p.pc + 1) none

section
variable {s : State} {f : Fin 64}

/-- A lawful control instruction advances, and then takes its turn: Spar alone changes. -/
theorem exec_sparCtl {c : Instr} {k : SparSt → Option (SparSt → SparSt)} {g : SparSt → SparSt} {P : SparSt → Prop}
    (h : SparIssues s f) (hs : (s.spar f).sheltered = false) (hexec : exec c s = .next (s.sparCtl f k)) (hk : k (s.spar f) = some g)
    (hP : P (g (s.spar f).passed).watch) : ∃ t, exec c s = .next t ∧ SparFrame f s t ∧ P (t.spar f) := by
  have hadvance : (s.spar f).settle.advance = (s.spar f).passed := by
    rw [advance_of_unsheltered ((settle_sheltered _).trans hs), settle_pc]
    rfl
  refine ⟨_, exec_next (sparCtl_body h hs hk) hexec, sparFrame_setSpar _ rfl rfl rfl, ?_⟩
  rw [spar_setSpar, hadvance]
  exact hP

end

theorem sparBranchResult_of_body {i : Fin 64 → BitVec 14 → Instr} {cond : SparSt → Bool}
    (hexec : ∀ f target s, exec (i f target) s = .next (s.sparBranch f target cond)) : SparBranchResult i cond := by
  intro f target s h hs hin
  refine exec_sparCtl (g := fun q => { q with turn := some (2, .jump (if cond (s.spar f) then target.toNat else (s.spar f).pc + 3)) })
    (P := fun q => q.pc = (s.spar f).pc + 1 ∧ q.turn = some (2, .jump (if cond (s.spar f) then target.toNat else (s.spar f).pc + 3)) ∧
      (∀ k, q.rt k = (s.spar f).settle.rt k) ∧ (∀ x, q.acc x = (s.spar f).acc x) ∧ q.p = (s.spar f).settle.p)
    h hs (hexec f target s) ?_ ⟨rfl, rfl, fun _ => rfl, settle_acc _, rfl⟩
  rw [if_pos hin]
  split
  · rfl
  · rfl

/-- The counts that the two forms of a repeat block take (R221). -/
theorem sparRepeat_lawful {f : Fin 64} {s : State} {c : Instr} {len lo : Nat} {count : SparSt → Nat} (h : SparIssues s f)
    (hs : (s.spar f).sheltered = false) (hexec : exec c s = .next (s.sparRepeat f len lo count))
    (hlo : lo ≤ count (s.spar f)) (hhi : count (s.spar f) ≤ 4096) (hin : (s.spar f).inCode ((s.spar f).pc + 1) len = true) :
    ∃ t, exec c s = .next t ∧ SparFrame f s t ∧
      if count (s.spar f) = 0 then (t.spar f).rep = none ∧ (t.spar f).pc = (s.spar f).pc + 1 + len
      else (t.spar f).rep = some ((s.spar f).pc + 1, (s.spar f).pc + len, count (s.spar f)) ∧ (t.spar f).pc = (s.spar f).pc + 1 := by
  have hlawful : ¬(count (s.spar f) > 4096 ∨ count (s.spar f) < lo ∨ !(s.spar f).inCode ((s.spar f).pc + 1) len) := by
    simp [hin, Nat.not_lt.2 hlo, Nat.not_lt.2 hhi]
  by_cases hzero : count (s.spar f) = 0
  · simp only [if_pos hzero]
    exact exec_sparCtl (P := fun q => q.rep = none ∧ q.pc = (s.spar f).pc + 1 + len) h hs hexec
      (by dsimp only; rw [if_neg hlawful, if_pos hzero]) ⟨rfl, rfl⟩
  · simp only [if_neg hzero]
    exact exec_sparCtl (P := fun q => q.rep = some ((s.spar f).pc + 1, (s.spar f).pc + len, count (s.spar f)) ∧ q.pc = (s.spar f).pc + 1)
      h hs hexec (by dsimp only; rw [if_neg hlawful, if_neg hzero]) ⟨rfl, rfl⟩

/-- Settles O11: late writes and control instructions write nothing but what they leave for later, and the next instruction in order follows. -/
theorem sparControl : Obligations.SparControl := by
  refine ⟨sparLateResult_of_body fun _ _ _ => rfl, sparLateResult_of_body fun _ _ _ => rfl, sparLateResult_of_body fun _ _ _ => rfl,
    sparLateResult_of_body fun _ _ _ => rfl, sparLateResult_of_body fun _ _ _ => rfl,
    sparBranchResult_of_body fun _ _ _ => rfl, sparBranchResult_of_body fun _ _ _ => rfl, sparBranchResult_of_body fun _ _ _ => rfl,
    sparBranchResult_of_body fun _ _ _ => rfl, sparBranchResult_of_body fun _ _ _ => rfl, sparBranchResult_of_body fun _ _ _ => rfl,
    fun f s h => ⟨fun lenM1 count hs hlo hhi hin => ?rep, fun lenM1 r hs hhi hin => ?rept, fun ie mask hs => ?setie, fun hs => ?reti,
      fun hs => ?stop, exec_nop h⟩⟩
  case rep =>
    obtain ⟨t, ht, hframe, hrep⟩ := sparRepeat_lawful (c := .rep f lenM1 count) (count := fun _ => count.toNat) h hs rfl hlo hhi hin
    rw [if_neg (by omega)] at hrep
    exact ⟨t, ht, hframe, hrep.2, hrep.1⟩
  case rept => exact sparRepeat_lawful (c := .rept f lenM1 r) (count := fun p => p.rt r.toNat) h hs rfl (Nat.zero_le _) hhi hin
  case setie =>
    exact exec_sparCtl (P := fun q => q.ie = ie ∧ q.en = mask ∧ q.pc = (s.spar f).pc + 1) h hs rfl rfl ⟨rfl, rfl, rfl⟩
  case reti =>
    exact exec_sparCtl (P := fun q => q.turn = some (2, .reti) ∧ q.pc = (s.spar f).pc + 1) h hs rfl rfl ⟨rfl, rfl⟩
  case stop =>
    exact exec_sparCtl (P := fun q => q.turn = some (2, .stop) ∧ q.pc = (s.spar f).pc + 1) h hs rfl rfl ⟨rfl, rfl⟩

end Sys2Proof.Machine
end

section
/-! PROOFS. Exact results of Spar: what is written in range and out of it, with its flags and its count. -/

namespace Sys2Proof.Machine

section
variable (s : State) (f : Nat) (sat : Bool)

/-! ### Reports of a result out of range (R212, R213) -/

theorem outOfRange_flag :
    (s.outOfRange f sat).bit (pgSpar f) (if sat then F.SPAR_NUM_STAT_OUT_SAT else F.SPAR_NUM_STAT_OUT_OVF) = true := by
  unfold State.outOfRange
  cases sat
  · exact (bit_bump_apart _ _ _ (.inl ⟨by decide, rfl⟩)).trans (bit_raise _ _ rfl (by decide) (by decide))
  · exact (bit_bump_apart _ _ _ (.inl ⟨by decide, rfl⟩)).trans (bit_raise _ _ rfl (by decide) (by decide))

theorem outOfRange_counts : Counts s (s.outOfRange f sat) (pgSpar f) F.SPAR_OUT_OVF_CNT := by
  unfold State.outOfRange Counts
  rw [rf_bump _ _ ⟨rfl, rfl⟩]
  cases sat
  · rw [rf_raise_apart _ _ _ (.inl ⟨by decide, rfl⟩) (.inl ⟨by decide, rfl⟩)]
  · rw [rf_raise_apart _ _ _ (.inl ⟨by decide, rfl⟩) (.inl ⟨by decide, rfl⟩)]

theorem accOutOfRange_flag : (s.accOutOfRange f).bit (pgSpar f) F.SPAR_NUM_STAT_ACC_OVF = true := bit_raise _ _ rfl (by decide) (by decide)

theorem accOutOfRange_counts : Counts s (s.accOutOfRange f) (pgSpar f) F.SPAR_ACC_OVF_CNT :=
  (rf_raise_apart _ _ _ (.inl ⟨by decide, rfl⟩) (.inl ⟨by decide, rfl⟩)).trans (rf_bump _ _ ⟨rfl, rfl⟩)

end

/-- Registers of a page in the state that an issued instruction leaves are those that its body left. -/
theorem counts_setSpar {s u : State} {f : Nat} {x : SparSt} {c : Fld} (h : Counts s u (pgSpar f) c) :
    Counts s (u.setSpar f x) (pgSpar f) c := (rf_of_regs (setSpar_regs ..) _ _).trans h

section
variable {s : State} {f : Nat} (q : SparSt) (rd : Nat) (a sat : Bool) (v : Int)

/-! ### The register written (R212, R213) -/

theorem putT_ti : ((s.putT f q rd sat v).2.after []).ti rd = (inSigned 16 sat v).1 := by
  rw [(after_sameRegs _ _).ti, putT_eq]
  exact (ti_wt_same ..).trans (sInt_lowBits_inSigned sat (by decide))

theorem putAcc40_acc : ((s.putAcc40 f q a sat v).2.after []).acc a = (inSigned 40 sat v).1 := by
  rw [(after_sameRegs _ _).acc, putAcc40_eq]
  exact (acc_setAcc q a a _).trans ((if_pos rfl).trans (sInt_lowBits_inSigned sat (by decide)))

theorem putT_v (hturn : q.turn = none) : ((s.putT f q rd sat v).2.after []).v = (inSigned 16 sat v).2 := by
  rw [putT_eq]
  exact (after_flags (q := (q.wt rd (lowBits 16 (inSigned 16 sat v).1)).flags (inSigned 16 sat v).1 (some (inSigned 16 sat v).2)) hturn []).2.2

theorem putAcc40_v (hturn : q.turn = none) : ((s.putAcc40 f q a sat v).2.after []).v = (inSigned 40 sat v).2 := by
  rw [putAcc40_eq]
  have hkept : ((q.setAcc a (inSigned 40 sat v).1).flags (inSigned 40 sat v).1 (some (inSigned 40 sat v).2)).turn = none := by
    rw [setAcc_eq]
    exact hturn
  exact (after_flags hkept []).2.2

end

/-- An instruction that writes T(RD) from an exact value in the range of Q15. -/
theorem q15Write_of_body {i : Fin 64 → SparA → Instr} {v : SparSt → SparA → Int}
    (hexec : ∀ f o s, exec (i f o) s = .next (s.sparA f fun s p q => s.putT f q o.rd.toNat o.sat (v p o))) : Q15Write i v := by
  intro f o s h
  refine ⟨_, exec_next (sparA_body h) (hexec f o s), ?_⟩
  beta_reduce
  rw [spar_setSpar, putT_ti, bit_of_regs (setSpar_regs ..), bit_of_regs (setSpar_regs ..), bit_of_regs (setSpar_regs ..)]
  refine ⟨fun hlo hhi => ?_, fun hout => ?_⟩
  · have hin := inSigned_of_mem (w := 16) (v := v (s.spar f) o) o.sat hlo (by omega)
    rw [putT_eq, hin]
    exact ⟨rfl, rfl, rfl⟩
  · have hwritten := inSigned_of_not_mem (w := 16) (v := v (s.spar f) o) o.sat (by omega)
    have hreport : (s.putT f (s.spar f).settle o.rd.toNat o.sat (v (s.spar f) o)).1 = s.outOfRange f o.sat := by rw [putT_eq, hwritten]; rfl
    refine ⟨congrArg Prod.fst hwritten, ?_, counts_setSpar ?_, fun hturn => ?_⟩
    · rw [hreport]
      exact outOfRange_flag s f o.sat
    · rw [hreport]
      exact outOfRange_counts s f o.sat
    · exact (putT_v _ _ _ _ ((settle_turn _).trans hturn)).trans (congrArg Prod.snd hwritten)

/-- ASH writes an accumulator from its exact value in the range of 40 bits. -/
theorem ash_exact (f : Fin 64) (o : SparA) (s : State) (h : SparIssues s f) :
    Gives (.ash f o) s fun t =>
      (-(2 ^ 39) ≤ ashExact o ((s.spar f).acc o.acc) → ashExact o ((s.spar f).acc o.acc) < 2 ^ 39 →
        (t.spar f).acc o.acc = ashExact o ((s.spar f).acc o.acc) ∧
          t.bit (pgSpar f) F.SPAR_NUM_STAT_ACC_OVF = s.bit (pgSpar f) F.SPAR_NUM_STAT_ACC_OVF) ∧
      (ashExact o ((s.spar f).acc o.acc) < -(2 ^ 39) ∨ 2 ^ 39 ≤ ashExact o ((s.spar f).acc o.acc) →
        (t.spar f).acc o.acc = (if o.sat then (if ashExact o ((s.spar f).acc o.acc) < 0 then -(2 ^ 39) else 2 ^ 39 - 1)
          else sInt 40 (lowBits 40 (ashExact o ((s.spar f).acc o.acc)))) ∧
          t.bit (pgSpar f) F.SPAR_NUM_STAT_ACC_OVF = true ∧ Counts s t (pgSpar f) F.SPAR_ACC_OVF_CNT ∧
          ((s.spar f).turn = none → (t.spar f).v = true)) := by
  refine ⟨_, exec_next (sparA_body h) rfl, ?_⟩
  beta_reduce
  rw [spar_setSpar, putAcc40_acc, bit_of_regs (setSpar_regs ..), ashValue_eq_ashExact]
  generalize ashExact o ((s.spar f).acc o.acc) = v
  refine ⟨fun hlo hhi => ?_, fun hout => ?_⟩
  · have hin := inSigned_of_mem (w := 40) o.sat hlo hhi
    rw [putAcc40_eq, hin]
    exact ⟨rfl, rfl⟩
  · have hwritten := inSigned_of_not_mem (w := 40) (v := v) o.sat hout
    have hreport : (s.putAcc40 f (s.spar f).settle o.acc o.sat v).1 = s.accOutOfRange f := by rw [putAcc40_eq, hwritten]; rfl
    refine ⟨congrArg Prod.fst hwritten, ?_, counts_setSpar ?_, fun hturn => ?_⟩
    · rw [hreport]
      exact accOutOfRange_flag s f
    · rw [hreport]
      exact accOutOfRange_counts s f
    · exact (putAcc40_v _ _ _ _ ((settle_turn _).trans hturn)).trans (congrArg Prod.snd hwritten)

/-- The magnitude that ABS takes. -/
theorem natAbs_eq_ite (x : Int) : (x.natAbs : Int) = if x < 0 then -x else x := by
  split <;> omega

/-- Settles O56: each instruction writes its exact value by `putT` or `putAcc40`. -/
theorem sparExactResults : Obligations.SparExactResults := by
  refine ⟨q15Write_of_body fun _ _ _ => rfl, q15Write_of_body fun _ _ _ => rfl, q15Write_of_body fun _ _ _ => ?abs,
    q15Write_of_body fun _ _ _ => rfl, q15Write_of_body fun _ _ _ => rfl, ash_exact⟩
  case abs =>
    simp only [← natAbs_eq_ite]
    rfl

end Sys2Proof.Machine
end

section
/-! PROOFS. The M class of Spar: data slots, products and sums, and stores. -/

namespace Sys2Proof.Machine

/-! ### Data slots (R207, R208, R219) -/

/-- The registers `q` with the pointers of the slots in use post-modified; `p` is what the instruction sees. -/
def SparSt.pointed (p q : SparSt) (x y : SparSlot) : SparSt :=
  let q := if x.en then q.setPtr x.p.toNat (p.postMod x.p.toNat x.ms) else q
  if y.en then q.setPtr (4 + y.p.toNat) (p.postMod (4 + y.p.toNat) y.ms) else q

section
variable (s : State) (f : Nat) (p q : SparSt) (x y : SparSlot)

theorem pointed_eq : p.pointed q x y = { q with p := (p.pointed q x y).p } := by
  unfold SparSt.pointed
  cases x.en <;> cases y.en <;> rfl

theorem postMod_mod (i : Nat) (sel : Bool) : p.postMod i sel % 2 ^ 15 = p.postMod i sel := lowBits_mod 15 _

theorem pointed_ptr (k : Nat) : (p.pointed q x y).ptr k =
    if x.en ∧ k = x.p.toNat then p.postMod k x.ms else if y.en ∧ k = 4 + y.p.toNat then p.postMod k y.ms else q.ptr k := by
  have hx : x.p.toNat < 4 := x.p.isLt
  have hpointed (r : SparSt) (i : Nat) (sel : Bool) :
      (r.setPtr i (p.postMod i sel)).ptr k = if k = i then p.postMod k sel else r.ptr k := by
    rw [ptr_setPtr, postMod_mod]
    exact ite_congr rfl (fun h => by rw [h]) fun _ => rfl
  unfold SparSt.pointed
  cases x.en <;> cases y.en <;> simp only [Bool.false_eq_true, if_false, if_true, false_and, true_and, hpointed]
  by_cases hk : k = x.p.toNat
  · rw [if_neg (by omega), if_pos hk, if_pos hk]
  · rw [if_neg hk, if_neg hk]

/-- The slots change pointers alone of the registers. -/
theorem sparSlots_sameRegs : (p.pointed q x y).SameRegs (s.sparSlots f p q x y).2.1 := ⟨rfl, rfl, rfl, rfl, rfl, rfl, rfl⟩

variable {x y}

/-- Slots that load change nothing but registers. -/
theorem sparSlots_state_of_loads (hx : x.en = true → x.st = false) (hy : y.en = true → y.st = false) : (s.sparSlots f p q x y).1 = s := by
  have hxs : (x.en && x.st) = false := by simpa using hx
  have hys : (y.en && y.st) = false := by simpa using hy
  unfold State.sparSlots
  simp only [hxs, hys, Bool.false_eq_true, if_false]

/-- Each slot that loads leaves its word as a late write. -/
theorem sparSlots_late_of_loads (hx : x.en = true → x.st = false) (hy : y.en = true → y.st = false) : (s.sparSlots f p q x y).2.2 =
    (if x.en then [.t x.t.toNat (s.rdLe (sparWord f (p.ptr x.p.toNat)) 2)] else []) ++
      (if y.en then [.t y.t.toNat (s.rdLe (sparWord f (p.ptr (4 + y.p.toNat))) 2)] else []) := by
  have hxl : (x.en && !x.st) = x.en := by simpa using hx
  have hyl : (y.en && !y.st) = y.en := by simpa using hy
  unfold State.sparSlots
  simp only [hxl, hyl]

end

/-! ### Products and sums (R211, R212) -/

/-- What an M-class instruction gives beside its late writes. -/
def State.multiplied (s : State) (f : Nat) (p q : SparSt) (o : SparM) (op : Option (Int → Int → Int)) : State × SparSt :=
  op.elim ((s.sparSlots f p q o.x o.y).1, (s.sparSlots f p q o.x o.y).2.1) fun g =>
    (s.sparSlots f p q o.x o.y).1.putAcc40 f (s.sparSlots f p q o.x o.y).2.1 o.acc o.sat (g (p.acc o.acc) (p.product o))

theorem sparM_body {s : State} {f : Nat} {o : SparM} {op : Option (Int → Int → Int)} (h : SparIssues s f) :
    s.sparM f o op = (s.multiplied f (s.spar f) (s.spar f).settle o op).1.setSpar f
      ((s.multiplied f (s.spar f) (s.spar f).settle o op).2.after (s.sparSlots f (s.spar f) (s.spar f).settle o.x o.y).2.2) := by
  unfold State.sparM
  rw [sparIssue_body h]
  cases op <;> rfl

theorem product_eq (p : SparSt) (o : SparM) : p.product o = p.ti o.ta.toNat * p.ti o.tb.toNat * (if o.frac then 2 else 1) := by
  unfold SparSt.product
  cases o.frac
  · exact (mul_one _).symm
  · exact mul_comm _ _

section
variable (s : State) (f : Nat) (p q : SparSt) (o : SparM) (op : Option (Int → Int → Int))

theorem multiplied_reports (hx : o.x.en = true → o.x.st = false) (hy : o.y.en = true → o.y.st = false) :
    Reports (pgSpar f) s (s.multiplied f p q o op).1 := by
  unfold State.multiplied
  rw [sparSlots_state_of_loads s f p q hx hy]
  cases op with
  | none => exact Reports.refl s
  | some g => exact putAcc40_reports ..

/-- The accumulator and the flags are all that the product changes. -/
theorem multiplied_t_p : (s.multiplied f p q o op).2.t = q.t ∧ (s.multiplied f p q o op).2.p = (p.pointed q o.x o.y).p := by
  have hslots := sparSlots_sameRegs s f p q o.x o.y
  have ht : (p.pointed q o.x o.y).t = q.t := by rw [pointed_eq]
  unfold State.multiplied
  cases op with
  | none => exact ⟨hslots.t.trans ht, hslots.p⟩
  | some g =>
    rw [Option.elim_some, putAcc40_eq, setAcc_eq]
    exact ⟨hslots.t.trans ht, hslots.p⟩

theorem multiplied_acc (x : Bool) : (s.multiplied f p q o op).2.acc x =
    op.elim (q.acc x) fun g => if x = o.acc then (inSigned 40 o.sat (g (p.acc o.acc) (p.product o))).1 else q.acc x := by
  have hslots : (s.sparSlots f p q o.x o.y).2.1.acc x = q.acc x := by
    rw [(sparSlots_sameRegs s f p q o.x o.y).acc, pointed_eq]
    rfl
  unfold State.multiplied
  cases op with
  | none => exact hslots
  | some g =>
    rw [Option.elim_some, putAcc40_eq, Option.elim_some]
    refine (acc_setAcc _ o.acc x _).trans ?_
    rw [sInt_lowBits_inSigned o.sat (by decide), hslots]

end

theorem sparMac_of_body {i : Fin 64 → SparM → Instr} {op : Option (Int → Int → Int)}
    (hexec : ∀ f o s, exec (i f o) s = .next (s.sparM f o op)) : SparMac i op := by
  intro f o s h hx hy
  have hreports := multiplied_reports s f (s.spar f) (s.spar f).settle o op hx hy
  obtain ⟨ht, hp⟩ := multiplied_t_p s f (s.spar f) (s.spar f).settle o op
  refine ⟨_, exec_next (sparM_body h) (hexec f o s), sparFrame_setSpar _ hreports.mem hreports.tags hreports.floes, ?_⟩
  rw [spar_setSpar]
  have hregs := after_sameRegs (s.multiplied f (s.spar f) (s.spar f).settle o op).2
    (s.sparSlots f (s.spar f) (s.spar f).settle o.x o.y).2.2
  refine ⟨fun x => ?acc, fun k => ?data, (after_late ..).trans (sparSlots_late_of_loads s f _ _ hx hy), fun k _ => ?pointer⟩
  case acc =>
    rw [hregs.acc, multiplied_acc, product_eq, settle_acc]
    cases op <;> rfl
  case data => exact (hregs.rt k).trans (congrArg (fun x => Tab.at x k 0) ht)
  case pointer =>
    exact (hregs.ptr k).trans ((congrArg (fun x => Tab.at x k 0) hp).trans (pointed_ptr (s.spar f) (s.spar f).settle o.x o.y k))

/-- Settles O12: each instruction is `sparM` with its operation on the accumulator and the product. -/
theorem sparMultiply : Obligations.SparMultiply :=
  ⟨sparMac_of_body fun _ _ _ => rfl, sparMac_of_body fun _ _ _ => rfl, sparMac_of_body fun _ _ _ => rfl, sparMac_of_body fun _ _ _ => rfl⟩

/-! ### Stores (R208, R229) -/

section
variable {s : State} {f : Nat} {p : SparSt} {w : Nat}

theorem sparStore_inside (h : p.inOut w = true) (v : Nat) :
    (s.sparStore f p w v).mem = (s.wrLe (sparWord f w) 2 v).mem ∧ (s.sparStore f p w v).regs = s.regs := by
  unfold State.sparStore
  rw [if_pos h]
  simp

/-- A store outside the output ranges sets its flag, and changes neither memory nor tags. -/
theorem sparStore_outside (h : p.inOut w = false) (v : Nat) :
    (s.sparStore f p w v).mem = s.mem ∧ (s.sparStore f p w v).tags = s.tags ∧
      (s.sparStore f p w v).bit (pgSpar f) F.SPAR_ERR_STAT_SPAR_OOB = true := by
  have hraised : ((s.bump (pgSpar f) F.SPAR_OOB_CNT).raise (pgSpar f) F.SPAR_ERR_STAT_SPAR_OOB).bit (pgSpar f) F.SPAR_ERR_STAT_SPAR_OOB =
    true := bit_raise _ _ rfl (by decide) (by decide)
  unfold State.sparStore
  rw [if_neg (by simp [h])]
  dsimp only
  split
  · exact ⟨by simp, by simp, hraised⟩
  · refine ⟨by simp, by simp, ?_⟩
    rw [bit_post _ _ _ _ _ _ _ (.inl ⟨by decide, rfl⟩), bit_of_regs (setSpar_regs ..)]
    exact hraised

end

/-- PMOV whose X slot stores leaves what the store leaves, and post-modifies the pointer. -/
theorem exec_pmov_store {f : Fin 64} {o : SparM} {s : State} (h : SparIssues s f) (hen : o.x.en = true) (hst : o.x.st = true)
    (hy : o.y.en = false) :
    ∃ q, exec (.pmov f o) s =
        .next ((s.sparStore f (s.spar f) ((s.spar f).ptr o.x.p.toNat) ((s.spar f).rt o.x.t.toNat)).setSpar f q) ∧
      q.ptr o.x.p.toNat = (s.spar f).postMod o.x.p.toNat o.x.ms := by
  obtain ⟨-, hp⟩ := multiplied_t_p s f (s.spar f) (s.spar f).settle o none
  have hstate : (s.multiplied f (s.spar f) (s.spar f).settle o none).1 =
      s.sparStore f (s.spar f) ((s.spar f).ptr o.x.p.toNat) ((s.spar f).rt o.x.t.toNat) := by
    unfold State.multiplied State.sparSlots
    simp [hen, hst, hy]
  refine ⟨_, exec_next ((sparM_body h).trans (by rw [hstate])) rfl, ?_⟩
  rw [(after_sameRegs _ _).ptr]
  refine (congrArg (fun x => Tab.at x o.x.p.toNat 0) hp).trans ((pointed_ptr (s.spar f) (s.spar f).settle o.x o.y _).trans ?_)
  rw [if_pos ⟨hen, rfl⟩]

/-- Settles O13: the store of the X slot is the only change of memory and registers. -/
theorem sparStores : Obligations.SparStores := by
  intro f o s h hen hst hy
  obtain ⟨q, hexec, hptr⟩ := exec_pmov_store h hen hst hy
  refine ⟨fun hin => ⟨_, hexec, ?inside⟩, fun hout => ⟨_, hexec, ?outside⟩⟩
  case inside =>
    obtain ⟨hmem, hregs⟩ := sparStore_inside (s := s) (f := f) hin ((s.spar f).rt o.x.t.toNat)
    rw [spar_setSpar]
    refine ⟨?_, fun x hx => (rdByte_of_mem hmem x).trans (rdByte_wrLe s _ 2 _ x hx), hptr, hregs⟩
    exact (congrArg leNat (rdBytes_of_mem hmem _ 2)).trans (rdLe_wrLe s _ 2 _)
  case outside =>
    obtain ⟨hmem, htags, hflag⟩ := sparStore_outside (s := s) (f := f) hout ((s.spar f).rt o.x.t.toNat)
    rw [spar_setSpar, bit_of_regs (setSpar_regs ..)]
    exact ⟨hmem, htags, hflag, hptr⟩

end Sys2Proof.Machine
end

section
/-! SUPPORT. Tests: states that meet the hypotheses of the statements on Spar, at the boundaries that they name. -/

namespace Sys2Proof.Tests

open Sys2Proof.Machine

/-- A Spar kernel runs at instruction 2 of 8; a late write to T3 is under way, and one output range holds the words 0x40 to 0x5F. -/
def sparKernel : SparSt :=
  { phase := .running, decl := 100, codeLen := 8, pc := 2, t := [(1, 0x7FFF), (2, 1)], a0 := 0x4000000000, a1 := 5,
    p := [(0, 0x5F), (1, 0x60)], late := [.t 3 9], out0 := (0x40, 32) }

/-- Spar of floe 0. -/
def sparIn (p : SparSt) : State := State.reset.setSpar 0 p

def sparOn : State := sparIn sparKernel

/-- Operands: RD is T5, and the accumulator A0. -/
def sparArgs (sat : Bool) (ra rb : BitVec 3) (imm : BitVec 16) : SparA := { sat := sat, rd := 5, ra := ra, rb := rb, imm := imm }

theorem sparIssues_on : SparIssues sparOn (0 : Fin 64) := by
  unfold SparIssues
  decide +kernel

/-! ### Data and accumulator instructions -/

/-- The late write of the instruction before has taken effect. -/
theorem test_spar_late_seen : ∃ t, exec (.sparAdd 0 (sparArgs true 1 2 0)) sparOn = .next t ∧ (t.spar (0 : Fin 64)).rt 3 = 9 := by
  obtain ⟨t, ht, -, hrt, -⟩ := sparData.1 0 (sparArgs true 1 2 0) sparOn sparIssues_on
  exact ⟨t, ht, (hrt 3).trans (by decide +kernel)⟩

/-- 32,767 and 1 under SAT. -/
theorem test_spar_add_saturates : ∃ t, exec (.sparAdd 0 (sparArgs true 1 2 0)) sparOn = .next t ∧ (t.spar (0 : Fin 64)).rt 5 = 0x7FFF := by
  obtain ⟨t, ht, -, hrt, -⟩ := sparData.1 0 (sparArgs true 1 2 0) sparOn sparIssues_on
  exact ⟨t, ht, (hrt 5).trans (by decide +kernel)⟩

/-- 32,767 and 1 without SAT. -/
theorem test_spar_add_overflows : ∃ t, exec (.sparAdd 0 (sparArgs false 1 2 0)) sparOn = .next t ∧ (t.spar (0 : Fin 64)).v = true ∧
    t.bit (pgSpar (0 : Fin 64)) F.SPAR_NUM_STAT_OUT_OVF = true := by
  obtain ⟨t, ht, -, hout⟩ := sparExactResults.1 0 (sparArgs false 1 2 0) sparOn sparIssues_on
  obtain ⟨-, hflag, -, hv⟩ := hout (.inr (by decide +kernel))
  exact ⟨t, ht, hv rfl, hflag⟩

/-- The largest result in range. -/
theorem test_spar_add_in_range : ∃ t, exec (.sparAdd 0 (sparArgs true 1 0 0)) sparOn = .next t ∧ (t.spar (0 : Fin 64)).ti 5 = 32767 := by
  obtain ⟨t, ht, hin, -⟩ := sparExactResults.1 0 (sparArgs true 1 0 0) sparOn sparIssues_on
  exact ⟨t, ht, (hin (by decide +kernel) (by decide +kernel)).1.trans (by decide +kernel)⟩

/-- An accumulator of 2^38 doubled is the first value out of range. -/
theorem test_spar_ash_boundary : ∃ t, exec (.ash 0 (sparArgs true 0 0 1)) sparOn = .next t ∧ (t.spar (0 : Fin 64)).acc false = 2 ^ 39 - 1 := by
  obtain ⟨t, ht, -, hout⟩ := sparExactResults.2.2.2.2.2 0 (sparArgs true 0 0 1) sparOn sparIssues_on
  exact ⟨t, ht, (hout (.inr (by decide +kernel))).1.trans (by decide +kernel)⟩

/-- The accumulator halved. -/
theorem test_spar_ash_down : ∃ t, exec (.ash 0 (sparArgs true 0 0 0x3F)) sparOn = .next t ∧ (t.spar (0 : Fin 64)).acc false = 2 ^ 37 := by
  obtain ⟨t, ht, hin, -⟩ := sparExactResults.2.2.2.2.2 0 (sparArgs true 0 0 0x3F) sparOn sparIssues_on
  exact ⟨t, ht, (hin (by decide +kernel) (by decide +kernel)).1.trans (by decide +kernel)⟩

/-! ### Late writes and control -/

theorem test_spar_ldp : ∃ t, exec (.ldp 0 (sparArgs false 0 0 0x80)) sparOn = .next t ∧ (t.spar (0 : Fin 64)).late = [.p 5 0x80] := by
  obtain ⟨t, ht, -, hlate, -⟩ := sparControl.1 0 (sparArgs false 0 0 0x80) sparOn sparIssues_on
  exact ⟨t, ht, hlate⟩

/-- The last address of the code. -/
theorem test_spar_branch : ∃ t, exec (.sparB 0 7) sparOn = .next t ∧ (t.spar (0 : Fin 64)).turn = some (2, .jump 7) := by
  obtain ⟨t, ht, -, -, hturn, -⟩ := sparControl.2.2.2.2.2.1 0 7 sparOn sparIssues_on rfl (by decide +kernel)
  exact ⟨t, ht, hturn⟩

/-- The longest block that fits behind the instruction. -/
theorem test_spar_rep : ∃ t, exec (.rep 0 4 3) sparOn = .next t ∧ (t.spar (0 : Fin 64)).rep = some (3, 7, 3) := by
  obtain ⟨hrep, -⟩ := sparControl.2.2.2.2.2.2.2.2.2.2.2 0 sparOn sparIssues_on
  obtain ⟨t, ht, -, -, hblock⟩ := hrep 4 3 rfl (by decide) (by decide) (by decide +kernel)
  exact ⟨t, ht, hblock⟩

/-- T0 is 0: the body is skipped. -/
theorem test_spar_rept_zero : ∃ t, exec (.rept 0 1 0) sparOn = .next t ∧ (t.spar (0 : Fin 64)).pc = 5 := by
  obtain ⟨-, hrept, -⟩ := sparControl.2.2.2.2.2.2.2.2.2.2.2 0 sparOn sparIssues_on
  obtain ⟨t, ht, -, hblock⟩ := hrept 1 0 rfl (by decide +kernel) (by decide +kernel)
  rw [if_pos (by decide +kernel)] at hblock
  exact ⟨t, ht, hblock.2⟩

/-! ### The M class -/

/-- T1 times T2 onto A1, with a load by P0 into T6. -/
def macLoad : SparM := { acc := true, ta := 1, tb := 2, x := { en := true, t := 6 } }

theorem test_spar_mac : ∃ t, exec (.mac 0 macLoad) sparOn = .next t ∧ (t.spar (0 : Fin 64)).acc true = 32772 ∧
    (t.spar (0 : Fin 64)).ptr 0 = 0x60 := by
  obtain ⟨t, ht, -, hacc, -, -, hptr⟩ := sparMultiply.2.2.1 0 macLoad sparOn sparIssues_on (fun _ => rfl) (fun _ => rfl)
  exact ⟨t, ht, (hacc true).trans (by decide +kernel), (hptr 0 (by decide)).trans (by decide +kernel)⟩

/-- T1 to the word that P0 or P1 points to. -/
def storeBy (p : BitVec 2) : SparM := { x := { en := true, st := true, p := p, t := 1 } }

/-- The last word of the output range. -/
theorem test_spar_store_inside : ∃ t, exec (.pmov 0 (storeBy 0)) sparOn = .next t ∧ t.rdLe (sparWord (0 : Fin 64) 0x5F) 2 = 0x7FFF := by
  have hptr : (sparOn.spar (0 : Fin 64)).ptr (storeBy 0).x.p.toNat = 0x5F := by decide +kernel
  obtain ⟨hin, -⟩ := sparStores 0 (storeBy 0) sparOn sparIssues_on rfl rfl rfl
  obtain ⟨t, ht, hword, -⟩ := hin (by decide +kernel)
  rw [hptr] at hword
  exact ⟨t, ht, hword.trans (by decide +kernel)⟩

/-- The first word past the output range. -/
theorem test_spar_store_outside : ∃ t, exec (.pmov 0 (storeBy 1)) sparOn = .next t ∧ t.mem = sparOn.mem ∧
    t.bit (pgSpar (0 : Fin 64)) F.SPAR_ERR_STAT_SPAR_OOB = true := by
  obtain ⟨-, hout⟩ := sparStores 0 (storeBy 1) sparOn sparIssues_on rfl rfl rfl
  obtain ⟨t, ht, hmem, -, hflag, -⟩ := hout (by decide +kernel)
  exact ⟨t, ht, hmem, hflag⟩

end Sys2Proof.Tests
end

section
/-! SUPPORT. Errors beyond correction in a line of the scratchpad, and the accesses at its ports. -/

namespace Sys2Proof.Machine

/-! ### An uncorrectable word of the scratchpad (R242, R559) -/

/-- Nothing clears POISON, and an uncorrectable word sets it (R35). -/
theorem poison_addPoison (t : Tag) : Tag.poison (Tag.addPoison t true) = true := by simp [Tag.poison, Tag.addPoison]

theorem poisonAt_of_tags {s t : State} (h : t.tags = s.tags) (a : Nat) : t.poisonAt a = s.poisonAt a := by
  unfold State.poisonAt State.tagAt
  rw [h]

/-- What an uncorrectable word of the scratchpad leaves before it is counted towards a fence. -/
def State.spUe (s : State) (f off : Nat) : State :=
  let s := s.setTag (floeBase f + off) (Tag.addPoison (s.tagAt (floeBase f + off)) true)
  let s := (s.bump (pgFmem f) F.FMEM_UE_CNT).wf (pgFmem f) F.FMEM_ERR_ADDR off
  s.fault (pgFmem f) F.FMEM_ERR_STAT_SP_UE 1 (s.tagAt (floeBase f + off)) 0 (some off)

section
variable {s : State} {f off : Nat}

/-- A cluster whose AUTO_FENCE is 0 notes an error's time alone (R559). -/
theorem countUe_off (h : s.bit (pgCc (f / 8)) F.CC_CTRL_AUTO_FENCE = false) :
    s.countUe f = s.setFloe f { s.floe f with ueTimes := recentTimes (s.tbNs 0) (s.floe f).ueTimes } := by
  unfold State.countUe
  dsimp only
  rw [autoFence_off _ _ ((bit_of_regs (setFloe_regs ..) _ _).trans h), ite_self]

theorem spUe_units : KeepsUnits [0x040] s (s.spUe f off) :=
  State.fault_units (State.wf_units (State.bump_units (State.setTag_units (.refl s))))

/-- Where the cluster does not fence by itself, the time of the error is all that follows. -/
theorem floeUe_scratchpad (hoff : off < 0x40_0000) (h : s.bit (pgCc (f / 8)) F.CC_CTRL_AUTO_FENCE = false) :
    ∃ x, s.floeUe f off = (s.spUe f off).setFloe f x := by
  have hmark : s.floeUe f off = (s.spUe f off).countUe f := by
    unfold State.floeUe State.spUe ueFlag
    rw [if_neg (by omega), if_neg (by omega), if_pos hoff]
  have hauto : (s.spUe f off).bit (pgCc (f / 8)) F.CC_CTRL_AUTO_FENCE = false := (spUe_units.bit _ _ (by decide)).trans h
  exact ⟨_, hmark.trans (countUe_off hauto)⟩

theorem spUe_mem : (s.spUe f off).mem = s.mem := by simp [State.spUe]

theorem spUe_poison {a : Nat} (h : a / 64 = (floeBase f + off) / 64) : (s.spUe f off).poisonAt a = true := by
  have htags : (s.spUe f off).tags = (s.setTag (floeBase f + off) (Tag.addPoison (s.tagAt (floeBase f + off)) true)).tags := by
    simp [State.spUe]
  have hline : (s.spUe f off).tagAt a = Tag.addPoison (s.tagAt (floeBase f + off)) true :=
    (congrArg (fun x => Tab.at x (a / 64) 0) htags).trans ((tagAt_setTag _ _ _ _).trans (if_pos h))
  rw [State.poisonAt, hline, poison_addPoison]

theorem spUe_flag : (s.spUe f off).bit (pgFmem f) F.FMEM_ERR_STAT_SP_UE = true := bit_fault _ _ _ _ _ _ rfl (by decide) (by decide)

theorem spUe_counts : Counts s (s.spUe f off) (pgFmem f) F.FMEM_UE_CNT := by
  unfold Counts State.spUe
  rw [rf_fault_apart _ _ _ _ _ _ _ (Or.inl ⟨by decide, rfl⟩) (Or.inl ⟨by decide, rfl⟩),
    rf_wf_apart _ _ _ _ (Or.inl ⟨by decide, rfl⟩), rf_bump _ _ ⟨rfl, rfl⟩, rf_of_regs (setTag_regs ..)]

theorem spUe_addr (hoff : off < 0x40_0000) : (s.spUe f off).rf (pgFmem f) F.FMEM_ERR_ADDR = off := by
  unfold State.spUe
  rw [rf_fault_apart _ _ _ _ _ _ _ (Or.inl ⟨by decide, rfl⟩) (Or.inl ⟨by decide, rfl⟩), rf_wf_same _ _ _ _ (by decide)]
  exact Nat.mod_eq_of_lt (by simp only [F.FMEM_ERR_ADDR]; omega)

/-- Codes that find one uncorrectable word of a scratchpad line (R242). -/
theorem floeCodes_ue {line : Nat} (w : Fin 8) : s.floeCodes f (64 * line) { ue := some w } = s.floeUe f (64 * line + 8 * w) := by
  have hline : 64 * line / 64 * 64 = 64 * line := by omega
  simp only [State.floeCodes, State.floeCe, hline, ite_self, if_true, Bool.false_eq_true, false_and, if_false]

end

/-! ### A port's accesses (R236 to R238) -/

/-- The lines of a floe window are lines of memory. -/
theorem floeBase_add_line_mod (f line : Nat) : (floeBase f + 64 * line) % 64 = 0 := by
  unfold floeBase
  omega

/-- A word of a line lies in it. -/
theorem floeBase_word_line (f line : Nat) (w : Fin 8) : (floeBase f + 64 * line) / 64 = (floeBase f + (64 * line + 8 * w)) / 64 := by
  unfold floeBase
  omega

section
variable {s : State} {f line : Nat} {ecc : Ecc}

/-- A read of a floe that is open gives the line as it stood, and POISON of its tag or of an error in it. -/
theorem spAccess_read (hc : s.floeClosed f = false) :
    s.spAccess f line .read ecc = (s.floeCodes f (64 * line) { ecc with wlc := 0 }).answer (s.rdBytes (floeBase f + 64 * line) 64)
      (Tag.poison (Tag.addPoison (s.tagAt (floeBase f + 64 * line)) (taggedOff (64 * line) && (ecc.ue.isSome || ecc.tagUe)))) := by
  simp only [State.spAccess, hc, Bool.false_eq_true, if_false]
  rfl

/-- A read in which the codes find nothing. -/
theorem spAccess_read_clean (hc : s.floeClosed f = false) :
    s.spAccess f line .read {} = s.answer (s.rdBytes (floeBase f + 64 * line) 64) (s.poisonAt (floeBase f + 64 * line)) := by
  rw [spAccess_read hc, floeCodes_clean]
  simp only [Option.isSome_none, Bool.or_self, Bool.and_false, Tag.addPoison, Bool.false_eq_true, if_false, State.poisonAt]

/-- A read of a line with an uncorrectable word answers it as poison, and reports the error. -/
theorem spAccess_read_ue (hc : s.floeClosed f = false) (h : s.bit (pgCc (f / 8)) F.CC_CTRL_AUTO_FENCE = false) (hline : line < 65536)
    (w : Fin 8) : ∃ u, s.spAccess f line .read { ue := some w } = u.answer (s.rdBytes (floeBase f + 64 * line) 64) true ∧
      u.poisonAt (floeBase f + 64 * line) = true ∧ u.bit (pgFmem f) F.FMEM_ERR_STAT_SP_UE = true ∧
      Counts s u (pgFmem f) F.FMEM_UE_CNT ∧ u.rf (pgFmem f) F.FMEM_ERR_ADDR = 64 * line + 8 * w ∧ u.mem = s.mem := by
  obtain ⟨x, hx⟩ := floeUe_scratchpad (off := 64 * line + 8 * w) (by omega) h
  have htagged : taggedOff (64 * line) = true := decide_eq_true (Or.inl (by omega))
  refine ⟨(s.spUe f (64 * line + 8 * w)).setFloe f x, (spAccess_read hc).trans ?_,
    (poisonAt_of_tags (setFloe_tags ..) _).trans (spUe_poison (floeBase_word_line f line w)),
    (bit_of_regs (setFloe_regs ..) _ _).trans spUe_flag, (rf_of_regs (setFloe_regs ..) _ _).trans spUe_counts,
    (rf_of_regs (setFloe_regs ..) _ _).trans (spUe_addr (by omega)), (setFloe_mem ..).trans spUe_mem⟩
  rw [floeCodes_ue, hx, htagged, Option.isSome_some, Bool.true_or, Bool.true_and, poison_addPoison]

/-- Bytes of a write that fits in its line. -/
theorem inLine_of_fits {a : Nat} {d : Bytes} (h : a % 64 + d.length ≤ 64) : inLine a d = d := List.take_of_length_le (by omega)

/-- A write of whole words reads nothing first, and leaves the tag without one of its own. -/
theorem spAccess_words {o : BitVec 6} {d : Bytes} (hc : s.floeClosed f = false) (ho : o.toNat % 8 = 0) (hd : d.length % 8 = 0)
    (hfit : o.toNat + d.length ≤ 64) :
    s.spAccess f line (.write o d none) ecc = s.wrBytes (floeBase f + 64 * line + o.toNat) d := by
  have hline := floeBase_add_line_mod f line
  have hin : inLine (floeBase f + 64 * line + o.toNat) d = d := inLine_of_fits (by have := o.isLt; omega)
  simp only [State.spAccess, hc, Bool.false_eq_true, if_false, hin, ho, hd, and_self, if_true]

/-- A whole line with a tag replaces both (R242). -/
theorem spAccess_line {d : Bytes} {g : Tag} (hc : s.floeClosed f = false) (hd : d.length = 64) :
    s.spAccess f line (.write 0 d (some g)) ecc = s.wrLine (floeBase f + 64 * line) d g := by
  have hin : inLine (floeBase f + 64 * line) d = d := inLine_of_fits (by rw [floeBase_add_line_mod, hd])
  simp only [State.spAccess, hc, Bool.false_eq_true, if_false, BitVec.ofNat_eq_ofNat, BitVec.toNat_ofNat, Nat.zero_mod, Nat.add_zero,
    hin, hd, Nat.reduceMod, and_self, decide_true, if_true]
  rw [State.wrLine, List.take_of_length_le hd.le]

/-- A turn of the patrol that finds nothing moves to the next line (R243). -/
theorem patrolTurn_clean (s : State) (f : Nat) :
    (s.patrolTurn f {}).floe f = { s.floe f with patrol := ((s.floe f).patrol + 1) % 67584 } ∧ DataKept s (s.patrolTurn f {}) := by
  simp only [State.patrolTurn, floeCodes_clean, DataKept]
  split
  · exact ⟨(floe_of_floes (bump_floes ..) f).trans (floe_setFloe ..), rfl, rfl⟩
  · exact ⟨floe_setFloe .., rfl, rfl⟩

end

end Sys2Proof.Machine
end

section
/-! PROOFS. The ports of the scratchpad and the patrol. -/

namespace Sys2Proof.Machine

/-- The access of a ready floe, whichever the port. -/
theorem exec_scratchpadAccess_ready {f : Fin 64} {p : SpPort} {line : BitVec 16} {op : SpOp} {ecc : Ecc} {s t : State}
    (hr : s.ready (pgFmem f) = true) (h : s.spAccess f line.toNat op ecc = t) : exec (.scratchpadAccess f p line op ecc) s = .next t :=
  congrArg Host.Outcome.next ((if_pos hr).trans h)

/-- Settles O19: an access of an open floe is what `spAccess` does with it, and one before READY is unmapped. -/
theorem floeMemoryPorts : Obligations.FloeMemoryPorts := by
  intro f p line s
  refine ⟨fun hr hc => ⟨?read, fun w hauto => ?uncorrectable, fun d g hd => ?line, fun o d ho hd hfit => ?words⟩,
    fun hr => ⟨?readBefore, fun o d g => ?writeBefore⟩, fun hr hw hp hc => ?patrol⟩
  case read =>
    exact ⟨_, exec_scratchpadAccess_ready hr (spAccess_read_clean hc), ⟨rfl, rfl⟩, ⟨rfl, rfl⟩, rfl⟩
  case uncorrectable =>
    obtain ⟨x, hx⟩ := spAccess_read_ue hc hauto line.isLt w
    obtain ⟨u, hu, hpoison, hflag, hcounts, haddr, hmem⟩ := spAccess_read_ue hc hauto line.isLt w
    exact ⟨_, exec_scratchpadAccess_ready hr hu, ⟨rfl, rfl⟩, hpoison, hflag, hcounts, haddr, hmem⟩
  case line =>
    obtain ⟨hread, hkept, htag, hregs⟩ := wrLine_whole (s := s) (x := floeBase f + 64 * line.toNat) (tag := g) hd
    exact ⟨_, exec_scratchpadAccess_ready hr (spAccess_line hc hd), hread, htag, hregs, hkept⟩
  case words =>
    obtain ⟨hread, hkept⟩ := bytes_of_wrBytes (s := s) (x := floeBase f + 64 * line.toNat + o.toNat) (d := d) rfl
    exact ⟨_, exec_scratchpadAccess_ready hr (spAccess_words hc ho hd hfit), hread, wrBytes_tags .., wrBytes_regs .., hkept⟩
  case readBefore =>
    exact .of (if_neg (ne_true_of_eq_false hr)) rfl
      ⟨⟨rfl, rfl⟩, by simp [DataKept], (bit_of_regs (answer_regs _ _ _) _ _).trans (bit_unmapped s _ _ _)⟩
  case writeBefore =>
    exact .of (if_neg (ne_true_of_eq_false hr)) rfl ⟨by simp [DataKept], bit_unmapped s _ _ _⟩
  case patrol =>
    obtain ⟨hfloe, hdata⟩ := patrolTurn_clean s f
    exact .of (if_pos ⟨hr, hw, hp, by rw [hc]; rfl⟩) rfl ⟨congrArg FloeSt.patrol hfloe, hdata⟩

end Sys2Proof.Machine
end

section
/-! SUPPORT. What clearing a floe's memories leaves in its window, and the bits of FMEM_STAT along a scrub. -/

namespace Sys2Proof.Machine

/-! ### A cleared window (R247, R248) -/

/-- Memory, tags and the side bits of the accumulators are the same. -/
def SameStores (s t : State) : Prop := t.mem = s.mem ∧ t.tags = s.tags ∧ t.accSide = s.accSide

section
variable {s t u : State} {f : Nat}

theorem SameStores.trans (h : SameStores s t) (k : SameStores t u) : SameStores s u :=
  ⟨k.1.trans h.1, k.2.1.trans h.2.1, k.2.2.trans h.2.2⟩

/-- What the window holds is a matter of memory, tags and side bits. -/
theorem WindowZero.of_stores (hz : WindowZero s f) (h : SameStores s t) : WindowZero t f := by
  obtain ⟨hmem, htags, hside⟩ := h
  unfold WindowZero State.rdByte State.tagAt State.accPoison
  rw [hmem, htags, hside]
  exact hz

theorem BytesKept.to_mem {lo hi : Nat} (hk : BytesKept s t lo hi) (h : u.mem = t.mem) : BytesKept s u lo hi := fun x hx => by
  have hbyte : u.rdByte x = t.rdByte x := by unfold State.rdByte; rw [h]
  rw [hbyte, hk x hx]

/-- Clearing leaves zeros, all-zero tags and no poison of an accumulator. -/
theorem zeroFloe_window (s : State) (f : Nat) : WindowZero (s.zeroFloe f) f := by
  have hbase : floeBase f % 64 = 0 := by unfold floeBase; omega
  refine ⟨fun x hlo hhi => ⟨?_, ?_⟩, fun i hi => ?_⟩
  · exact (Tab.get_clear _ _ _ _ _).trans (if_pos ⟨hlo, hhi⟩)
  · exact (Tab.get_clear _ _ _ _ _).trans (if_pos (by omega))
  · exact (Tab.get_clear _ _ _ _ _).trans (if_pos (by omega))

theorem zeroFloe_bytesKept (s : State) (f : Nat) : BytesKept s (s.zeroFloe f) (floeBase f) (floeBase f + 0x100_0000) := fun x hx =>
  (Tab.get_clear _ _ _ _ _).trans (if_neg (by omega))

end

/-! ### The end of the initialisation (R247) -/

/-- A floe that is not fenced and not initialised is cleared, and reports INIT_DONE and READY. -/
theorem memInit_open {s : State} {f : Nat} (hd : s.bit (pgFmem f) F.FMEM_STAT_INIT_DONE = false) (hm : s.mainHeld = false)
    (hf : s.floeFenced f = false) :
    s.memInit f = ((s.zeroFloe f).wf (pgFmem f) F.FMEM_STAT_INIT_DONE 1).wf (pgFmem f) F.PAGE_STAT_READY 1 := by
  simp [State.memInit, hd, hm, hf]

/-! ### SCRUB_PENDING and SCRUBBING (R248) -/

/-- A bit of the same register that is not written. -/
theorem bit_wf_bits {s : State} {g : Nat} (f f' : Fld) (v : Nat) (hf : f.ok) (ho : f'.off = f.off) (hd : f'.hi < f.lo ∨ f.hi < f'.lo) :
    (s.wf g f v).bit g f' = s.bit g f' := by
  unfold State.bit
  rw [rf_wf_bits s g f f' v hf ho hd]

/-- What no register is part of, the start of a scrub leaves. -/
theorem scrubBegin_field {α : Type} (p : State → α) (hwf : ∀ u g f v, p (State.wf u g f v) = p u) (s : State) (f : Nat) :
    p (s.scrubBegin f) = p s := by
  unfold State.scrubBegin
  split
  · exact hwf _ _ _ _
  · rfl

theorem scrubAsk_field {α : Type} (p : State → α) (hwf : ∀ u g f v, p (State.wf u g f v) = p u) (s : State) (f : Nat) :
    p (s.scrubAsk f) = p s := (scrubBegin_field p hwf _ f).trans (hwf _ _ _ _)

section
variable {s : State} {f : Nat}

/-- A write of one bit of FMEM_STAT leaves the other. -/
theorem bit_scrubbing_wf_pending (v : Nat) : (s.wf (pgFmem f) F.FMEM_STAT_SCRUB_PENDING v).bit (pgFmem f) F.FMEM_STAT_SCRUBBING =
    s.bit (pgFmem f) F.FMEM_STAT_SCRUBBING := bit_wf_bits _ _ _ (by decide) rfl (by decide)

theorem bit_pending_wf_scrubbing (v : Nat) : (s.wf (pgFmem f) F.FMEM_STAT_SCRUBBING v).bit (pgFmem f) F.FMEM_STAT_SCRUB_PENDING =
    s.bit (pgFmem f) F.FMEM_STAT_SCRUB_PENDING := bit_wf_bits _ _ _ (by decide) rfl (by decide)

/-- A scrub that is pending starts where the floe executes nothing; it stays pending. -/
theorem scrubBegin_bits (h : s.bit (pgFmem f) F.FMEM_STAT_SCRUB_PENDING = true) :
    (s.scrubBegin f).bit (pgFmem f) F.FMEM_STAT_SCRUB_PENDING = true ∧
      (s.scrubBegin f).bit (pgFmem f) F.FMEM_STAT_SCRUBBING = (s.bit (pgFmem f) F.FMEM_STAT_SCRUBBING || !s.floeBusy f) := by
  unfold State.scrubBegin
  rw [h, Bool.true_and]
  cases hs : s.bit (pgFmem f) F.FMEM_STAT_SCRUBBING with
  | true => exact ⟨h, hs⟩
  | false =>
    cases s.floeBusy f with
    | true => exact ⟨h, hs⟩
    | false => exact ⟨(bit_pending_wf_scrubbing 1).trans h, bit_wf_same _ _ _ _ (by decide) rfl⟩

/-- A request leaves the scrub pending, and starts it on an idle floe. -/
theorem scrubAsk_bits : (s.scrubAsk f).bit (pgFmem f) F.FMEM_STAT_SCRUB_PENDING = true ∧
    (s.scrubAsk f).bit (pgFmem f) F.FMEM_STAT_SCRUBBING = (s.bit (pgFmem f) F.FMEM_STAT_SCRUBBING || !s.floeBusy f) := by
  obtain ⟨hpending, hscrubbing⟩ := scrubBegin_bits (bit_wf_same s (pgFmem f) F.FMEM_STAT_SCRUB_PENDING 1 (by decide) rfl)
  rw [bit_scrubbing_wf_pending] at hscrubbing
  exact ⟨hpending, hscrubbing⟩

end

/-! ### The end of a scrub (R90, R248, R363) -/

/-- What a floe is left with: its memories and its units cleared, and no scrub. -/
def State.scrubbed (s : State) (f : Nat) : State :=
  (((s.zeroFloe f).scrubUnits f).wf (pgFmem f) F.FMEM_STAT_SCRUBBING 0).wf (pgFmem f) F.FMEM_STAT_SCRUB_PENDING 0

/-- What neither the queue of scrubs nor a register is part of, the step to a partition's next floe leaves. -/
theorem nextScrub_field {α : Type} (p : State → α) (hwf : ∀ u g f v, p (State.wf u g f v) = p u)
    (hmst : ∀ u m, p (State.setMst u m) = p u) (s : State) (k : Nat) : p (s.nextScrub k) = p s := by
  unfold State.nextScrub
  split
  · exact (scrubAsk_field p hwf _ _).trans (hmst _ _)
  · rfl

/-- What the slots' valid bits are no part of, their clearing leaves. -/
theorem scrubUnits_field {α : Type} (p : State → α) {f : Nat}
    (hslot : ∀ u, ∀ j < 8, p (State.setWord u (pgRime f) (F.RIME_CB_SLOT_VALID j).off 0) = p u) (s : State) :
    p (s.scrubUnits f) = p (s.setFloe f { s.floe f with cbs := [], core := {}, spar := {} }) :=
  List.foldlRecOn (motive := fun t => p t = p (s.setFloe f { s.floe f with cbs := [], core := {}, spar := {} })) _ _ rfl
    fun t ht j hj => (hslot t j (List.mem_range.1 hj)).trans ht

section
variable {s : State} {f : Nat}

/-- What no register is part of stands as the clearing of memories and units leaves it. -/
theorem scrubbed_field {α : Type} (p : State → α) (hword : ∀ u g o w, p (State.setWord u g o w) = p u) :
    p (s.scrubbed f) = p ((s.zeroFloe f).setFloe f { (s.zeroFloe f).floe f with cbs := [], core := {}, spar := {} }) := by
  have hwf : ∀ u g f v, p (State.wf u g f v) = p u := fun _ _ _ _ => hword _ _ _ _
  unfold State.scrubbed
  rw [hwf, hwf]
  exact scrubUnits_field p (fun _ _ _ => hword _ _ _ _) _

theorem scrubbed_stores : SameStores (s.zeroFloe f) (s.scrubbed f) :=
  ⟨scrubbed_field State.mem fun _ _ _ _ => rfl, scrubbed_field State.tags fun _ _ _ _ => rfl,
    scrubbed_field State.accSide fun _ _ _ _ => rfl⟩

theorem scrubbed_floe : (s.scrubbed f).floe f = { (s.zeroFloe f).floe f with cbs := [], core := {}, spar := {} } :=
  (scrubbed_field (fun u => u.floe f) fun _ _ _ _ => rfl).trans (floe_setFloe ..)

theorem scrubbed_bits : (s.scrubbed f).bit (pgFmem f) F.FMEM_STAT_SCRUBBING = false ∧
    (s.scrubbed f).bit (pgFmem f) F.FMEM_STAT_SCRUB_PENDING = false := by
  unfold State.scrubbed
  rw [bit_scrubbing_wf_pending, bit_wf_same _ _ _ _ (by decide) rfl, bit_wf_same _ _ _ _ (by decide) rfl]
  exact ⟨rfl, rfl⟩

/-- The partition of a floe follows from the words of its page. -/
theorem floePart_of_words {t : State} (h : ∀ off, t.word (pgMst 1) off = s.word (pgMst 1) off) (n : Nat) :
    t.floePart n = s.floePart n := by
  have hstate : t.partState = s.partState := by
    funext p
    simp only [State.partState, State.rf, h]
  have hhas : t.partHasFloe = s.partHasFloe := by
    funext p n
    simp only [State.partHasFloe, h]
  simp only [State.floePart, hstate, hhas]

/-- A scrub writes the floe's own pages alone, so that the floe stays in its partition. -/
theorem scrubbed_floePart (hf : f < 64) : (s.scrubbed f).floePart f = s.floePart f := by
  refine floePart_of_words (fun off => ?_) f
  have hpage : pgFmem f < pgMst 1 := by unfold pgFmem pgFloe pgMst; omega
  unfold State.scrubbed
  rw [word_wf_below _ hpage (by decide), word_wf_below _ hpage (by decide)]
  refine scrubUnits_field (fun u => u.word (pgMst 1) off) (fun u j hj => word_setWord_other _ _ _ ?_) _
  simp only [regIdx, pgRime, pgFloe, pgMst, F.RIME_CB_SLOT_VALID]
  omega

/-- The end of a scrub: the floe is cleared, and where it has a partition, its next floe follows. -/
theorem scrubDone_cases (h : s.bit (pgFmem f) F.FMEM_STAT_SCRUBBING = true) :
    (s.scrubbed f).floePart f = none ∧ s.scrubDone f = s.scrubbed f ∨
      ∃ p, (s.scrubbed f).floePart f = some p ∧ s.scrubDone f = (s.scrubbed f).nextScrub p := by
  have hdone : s.scrubDone f = ((s.scrubbed f).floePart f).elim (s.scrubbed f) (s.scrubbed f).nextScrub := by
    unfold State.scrubDone State.scrubbed
    rw [if_pos h]
    dsimp only
    split <;> next hp => rw [hp]; rfl
  rw [hdone]
  cases (s.scrubbed f).floePart f with
  | none => exact .inl ⟨rfl, rfl⟩
  | some p => exact .inr ⟨p, rfl, rfl⟩

/-- What neither the queue of scrubs nor a register is part of stands as the clearing left it. -/
theorem scrubDone_field {α : Type} (p : State → α) (hwf : ∀ u g f v, p (State.wf u g f v) = p u)
    (hmst : ∀ u m, p (State.setMst u m) = p u) (h : s.bit (pgFmem f) F.FMEM_STAT_SCRUBBING = true) :
    p (s.scrubDone f) = p (s.scrubbed f) := by
  obtain ⟨-, e⟩ | ⟨k, -, e⟩ := scrubDone_cases h
  · rw [e]
  · rw [e, nextScrub_field p hwf hmst]

theorem scrubDone_stores (h : s.bit (pgFmem f) F.FMEM_STAT_SCRUBBING = true) : SameStores (s.zeroFloe f) (s.scrubDone f) :=
  scrubbed_stores.trans ⟨scrubDone_field State.mem (fun _ _ _ _ => rfl) (fun _ _ => rfl) h,
    scrubDone_field State.tags (fun _ _ _ _ => rfl) (fun _ _ => rfl) h,
    scrubDone_field State.accSide (fun _ _ _ _ => rfl) (fun _ _ => rfl) h⟩

theorem scrubDone_floe (h : s.bit (pgFmem f) F.FMEM_STAT_SCRUBBING = true) :
    (s.scrubDone f).floe f = { (s.zeroFloe f).floe f with cbs := [], core := {}, spar := {} } :=
  (scrubDone_field (fun u => u.floe f) (fun _ _ _ _ => rfl) (fun _ _ => rfl) h).trans scrubbed_floe

/-- A floe of no partition is left as the clearing leaves it. -/
theorem scrubDone_alone (h : s.bit (pgFmem f) F.FMEM_STAT_SCRUBBING = true) (hf : f < 64) (hp : s.floePart f = none) :
    s.scrubDone f = s.scrubbed f := by
  obtain ⟨-, e⟩ | ⟨k, hk, -⟩ := scrubDone_cases h
  · exact e
  · rw [scrubbed_floePart hf, hp] at hk
    cases hk

end

end Sys2Proof.Machine
end

section
/-! PROOFS. Initialisation and scrub of a floe's memories. -/

namespace Sys2Proof.Machine

/-- Settles O20: the initialisation and the end of a scrub leave the cleared window, and a request or a start the two bits of FMEM_STAT. -/
theorem floeInitAndScrub : Obligations.FloeInitAndScrub := by
  intro f s
  refine ⟨fun hd hm hf => ?init, fun a hr => ?request, fun hp hidle => ?start, fun hs => ?done⟩
  case init =>
    refine .of (memInit_open hd hm hf) rfl ⟨(zeroFloe_window s f).of_stores ⟨rfl, rfl, rfl⟩, ?_, bit_wf_same _ _ _ _ (by decide) rfl,
      (zeroFloe_bytesKept s f).to_mem rfl⟩
    rw [bit_wf_apart _ _ _ _ (Or.inl ⟨by decide, rfl⟩), bit_wf_same _ _ _ _ (by decide) rfl]
    rfl
  case request =>
    obtain ⟨hpending, hscrubbing⟩ := scrubAsk_bits (s := s) (f := f)
    exact .of (if_pos hr) rfl ⟨hpending, hscrubbing, scrubAsk_field State.mem (fun _ _ _ _ => rfl) s f,
      scrubAsk_field State.tags (fun _ _ _ _ => rfl) s f⟩
  case start =>
    obtain ⟨-, hscrubbing⟩ := scrubBegin_bits hp
    rw [hidle, Bool.not_false, Bool.or_true] at hscrubbing
    exact ⟨_, rfl, hscrubbing, scrubBegin_field State.mem (fun _ _ _ _ => rfl) s f, scrubBegin_field State.tags (fun _ _ _ _ => rfl) s f⟩
  case done =>
    have hstores := scrubDone_stores hs
    have hfloe := scrubDone_floe hs
    refine ⟨_, rfl, (zeroFloe_window s f).of_stores hstores, congrArg FloeSt.core hfloe, congrArg FloeSt.spar hfloe,
      congrArg FloeSt.cbs hfloe, (zeroFloe_bytesKept s f).to_mem hstores.1, fun hp => ?_⟩
    rw [scrubDone_alone hs f.isLt hp]
    exact scrubbed_bits

end Sys2Proof.Machine
end

section
/-! SUPPORT. Reads and writes of a channel and of its Firn slice when the codes find nothing, and the walks of a slice. -/

namespace Sys2Proof.Machine

/-! ### A channel's read and write (R453, R456) -/

/-- A flag changes the register file alone (R478). -/
theorem raise_eq (s : State) (g : Nat) (f : Fld) : s.raise g f = { s with regs := (s.raise g f).regs } := by
  unfold State.raise
  dsimp only
  split
  · split <;> rfl
  · rfl

@[simp] theorem raise_firn (s : State) (g : Nat) (f : Fld) : (s.raise g f).firn = s.firn := by rw [raise_eq]

@[simp] theorem raise_firnOp (s : State) (g : Nat) (f : Fld) : (s.raise g f).firnOp = s.firnOp := by rw [raise_eq]

/-- Codes that find nothing change nothing. -/
@[simp] theorem drcCodes_clean (s : State) (a : Nat) (rs : Bool) : s.drcCodes a rs {} = s := by simp [State.drcCodes]

/-- What the live counters, the count of poisoned reads and its flag are no part of, a read without errors leaves. -/
theorem drcRead_clean_field {α : Type} (p : State → α) {a : Nat} (htally : ∀ u g c n, p (State.tally u g c n) = p u)
    (hbump : ∀ u, p (State.bump u (pgDrc (chanOf a)) F.DRC_POISON_RD_CNT) = p u)
    (hraise : ∀ u, p (State.raise u (pgDrc (chanOf a)) F.DRC_ERR_STAT_POISON_RD) = p u) (s : State) (wline int : Bool) :
    p (s.drcRead a wline int {}) = p s := by
  unfold State.drcRead
  extract_lets g s1 s2
  have hcounted : p s2 = p s :=
    iteInduction (motive := fun u => p u = p s) (fun _ => (htally _ _ _ _).trans (htally _ _ _ _)) fun _ => htally _ _ _ _
  split
  · rw [hraise, hbump, hcounted]
  · rw [drcCodes_clean, hcounted]

section
variable (s : State) (a : Nat) (wline int : Bool)

theorem drcRead_clean_tags : (s.drcRead a wline int {}).tags = s.tags :=
  drcRead_clean_field State.tags (fun _ _ _ _ => rfl) (fun _ => rfl) (fun _ => raise_tags ..) s wline int

theorem drcRead_clean_firn : (s.drcRead a wline int {}).firn = s.firn :=
  drcRead_clean_field State.firn (fun _ _ _ _ => rfl) (fun _ => rfl) (fun _ => raise_firn ..) s wline int

theorem drcRead_clean_dramPoisonAt (x : Nat) : (s.drcRead a wline int {}).dramPoisonAt x = s.dramPoisonAt x :=
  drcRead_clean_field (fun u => u.dramPoisonAt x) (fun _ _ _ _ => rfl) (fun _ => rfl)
    (fun _ => congrArg (fun m => Tab.at m (x / 64) false) (raise_dramPoison ..)) s wline int

/-- The registers of the Firn are no part of a channel's read. -/
theorem drcRead_clean_rf_firn {sl : Nat} {f : Fld} (hsl : sl < 16) (hf : f.off < 4096) :
    (s.drcRead a wline int {}).rf (pgFirn sl) f = s.rf (pgFirn sl) f := by
  have hpage : pgFirn sl ≠ pgDrc (chanOf a) := by unfold pgFirn pgDrc; omega
  exact drcRead_clean_field (fun u => u.rf (pgFirn sl) f) (fun _ _ _ _ => rfl)
    (fun _ => rf_bump_apart _ _ _ (Or.inr ⟨hpage, hf, by decide⟩))
    (fun _ => rf_raise_apart _ _ _ (Or.inr ⟨hpage, hf, by decide⟩) (Or.inr ⟨hpage, hf, by decide⟩)) s wline int

/-- A channel's write stores its bytes and leaves every other; a whole line clears the poison mark. -/
theorem drcWrite_stores (d : Bytes) :
    (s.drcWrite a d int).rdBytes a d.length = d ∧ BytesKept s (s.drcWrite a d int) a (a + d.length) ∧
      (a % 64 = 0 → d.length = 64 → (s.drcWrite a d int).dramPoisonAt a = false) := by
  unfold State.drcWrite
  extract_lets g s1 s2 s3
  have hcounted : s2.mem = s.mem := (apply_ite State.mem _ _ _).trans (ite_self _)
  obtain ⟨hread, hkept⟩ := bytes_of_wrBytes (s := s2) (x := a) (d := d)
    (t := if a % 64 = 0 ∧ d.length = 64 then s3.setDramPoison a false else s3) ((apply_ite State.mem _ _ _).trans (ite_self _))
  refine ⟨hread, hkept.of_mem hcounted, fun ha hd => ?_⟩
  rw [if_pos ⟨ha, hd⟩]
  exact Tab.at_set_same s3.dramPoison _ false false

end

/-! ### A read through a slice (R251, R252, R254) -/

theorem firnSlice_lt (a : Nat) : firnSlice a < 16 :=
  Nat.xor_lt_two_pow (n := 4) (Nat.xor_lt_two_pow (bits_lt _ _ _) (bits_lt _ _ _)) (bits_lt _ _ _)

@[simp] theorem firnLines_setFirnLines (s : State) (k : Nat) (x : List FirnWay) : (s.setFirnLines k x).firnLines k = x :=
  Tab.at_set_same _ _ _ _

/-- The way that takes a line holds it. -/
theorem wayLine_install (ls : List FirnWay) (e : FirnWay) : wayLine (install ls e) e.way = some e := by
  simp [wayLine, install]

/-- The line of a tenant in a set. -/
def State.firnFind (s : State) (a t : Nat) : Option FirnWay :=
  (s.firnLines (firnKey a)).find? fun e => decide (e.tag = firnTag a ∧ e.tenant = t)

/-- Cache ways of a tenant that are no pin ways (R252). -/
def State.fillWays (s : State) (a t : Nat) : List Nat :=
  (List.range 12).filter fun w => (s.cacheMask (firnSlice a) t).testBit w && !s.isPinWay (firnSlice a) w

section
variable {s : State} {a t : Nat} {pin wline int : Bool}

/-- Without a tenant, a line is served from DRAM. -/
theorem firnRead_none : s.firnRead none a pin wline int {} =
    (s.drcRead a wline int {}, (s.drcRead a wline int {}).dramPoisonAt a) := rfl

/-- With the cache off, a line is served from DRAM. -/
theorem firnRead_off (h : s.bit (pgFirn (firnSlice a)) F.FIRN_CTRL = false) :
    s.firnRead (some t) a pin wline int {} = (s.drcRead a wline int {}, (s.drcRead a wline int {}).dramPoisonAt a) := by
  simp only [State.firnRead, h, Bool.not_false, if_true]

/-- A hit without errors brings the line to the front of its set. -/
theorem firnRead_hit {e : FirnWay} (h : s.bit (pgFirn (firnSlice a)) F.FIRN_CTRL = true) (he : s.firnFind a t = some e) :
    s.firnRead (some t) a pin wline int {} =
      ((s.tally (pgFirn (firnSlice a)) F.FIRN_HIT_LO 1).setFirnLines (firnKey a) (install (s.firnLines (firnKey a)) e), e.poison) := by
  unfold State.firnFind at he
  simp only [State.firnRead, h, he, State.firnHit, Bool.not_true, Bool.false_eq_true, if_false, ite_self, Nat.add_zero, if_true,
    Option.isSome_none, false_and]
  rfl

/-- What a miss finds its line with: the count of misses, and the channel's read. -/
def State.missed (s : State) (a : Nat) (wline int : Bool) : State :=
  (s.tally (pgFirn (firnSlice a)) F.FIRN_MISS_LO 1).drcRead a wline int {}

theorem firnRead_miss (h : s.bit (pgFirn (firnSlice a)) F.FIRN_CTRL = true) (he : s.firnFind a t = none) :
    s.firnRead (some t) a pin wline int {} = ((s.missed a wline int).firnFill t a pin wline, (s.missed a wline int).dramPoisonAt a) := by
  unfold State.firnFind at he
  simp only [State.firnRead, h, he, Bool.not_true, Bool.false_eq_true, if_false]
  rfl

theorem missed_firnLines (k : Nat) : (s.missed a wline int).firnLines k = s.firnLines k :=
  congrArg (fun x => Tab.at x k []) (drcRead_clean_firn _ a wline int)

theorem missed_dramPoisonAt (x : Nat) : (s.missed a wline int).dramPoisonAt x = s.dramPoisonAt x := drcRead_clean_dramPoisonAt _ _ _ _ _

theorem missed_fillWays (ht : t < 8) : (s.missed a wline int).fillWays a t = s.fillWays a t := by
  have hrf : ∀ f : Fld, f.off < 4096 → (s.missed a wline int).rf (pgFirn (firnSlice a)) f = s.rf (pgFirn (firnSlice a)) f :=
    fun f hf => drcRead_clean_rf_firn _ _ _ _ (firnSlice_lt a) hf
  have hpin : ∀ w, (s.missed a wline int).isPinWay (firnSlice a) w = s.isPinWay (firnSlice a) w := by
    intro w
    rw [Bool.eq_iff_iff]
    simp only [State.isPinWay, List.any_eq_true, List.mem_range]
    refine exists_congr fun k => and_congr_right fun hk => ?_
    rw [State.pinMask, hrf _ (by simp only [F.FIRN_WAYS_PIN_MASK]; omega), ← State.pinMask]
  have hcache : (s.missed a wline int).cacheMask (firnSlice a) t = s.cacheMask (firnSlice a) t :=
    hrf _ (by simp only [F.FIRN_WAYS_CACHE_MASK]; omega)
  simp only [State.fillWays, hcache, hpin]

/-- A fill changes no byte and no tag. -/
theorem firnFill_data : DataKept s (s.firnFill t a pin wline) := by
  unfold State.firnFill
  extract_lets sl k ls line
  split
  · split
    · exact ⟨rfl, rfl⟩
    · exact ⟨by simp, by simp⟩
  · split <;> exact ⟨rfl, rfl⟩

/-- A fill that is not pinned takes the way that R252 chooses. -/
theorem firnFill_way {w : Nat} (h : lruWay (s.firnLines (firnKey a)) (s.fillWays a t) = some w) :
    wayLine ((s.firnFill t a false wline).firnLines (firnKey a)) w =
      some { way := w, tag := firnTag a, tenant := t, pinned := false, weight := wline, poison := s.dramPoisonAt a } := by
  unfold State.fillWays at h
  simp only [State.firnFill, Bool.false_eq_true, if_false, h, firnLines_setFirnLines]
  exact wayLine_install _ _

/-- A read without errors changes no byte and no tag. -/
theorem firnRead_clean_data (tn : Option Nat) : DataKept s (s.firnRead tn a pin wline int {}).1 := by
  have hread : ∀ u : State, DataKept u (u.drcRead a wline int {}) := fun u => ⟨drcRead_mem .., drcRead_clean_tags ..⟩
  cases tn with
  | none => exact hread s
  | some t =>
    cases hon : s.bit (pgFirn (firnSlice a)) F.FIRN_CTRL with
    | false => rw [firnRead_off hon]; exact hread s
    | true =>
      cases hfind : s.firnFind a t with
      | some e => rw [firnRead_hit hon hfind]; exact ⟨rfl, rfl⟩
      | none =>
        obtain ⟨hmem, htags⟩ := hread (s.tally (pgFirn (firnSlice a)) F.FIRN_MISS_LO 1)
        obtain ⟨hmem', htags'⟩ := firnFill_data (s := s.missed a wline int) (a := a) (t := t) (pin := pin) (wline := wline)
        rw [firnRead_miss hon hfind]
        exact ⟨hmem'.trans hmem, htags'.trans htags⟩

end

/-! ### Walks (R255) -/

/-- What a walk leaves of a set of the table; a set with no line left is not listed. -/
def walkSet (sl kind tenant : Nat) (e : Nat × List FirnWay) : Option (Nat × List FirnWay) :=
  if e.1 / 8192 = sl then
    if e.2.filter (walkKeeps kind tenant) = [] then none else some (e.1, e.2.filter (walkKeeps kind tenant))
  else some e

section
variable {sl kind tn : Nat} {e x : Nat × List FirnWay}

theorem walkSet_keeps (h : walkSet sl kind tn x = some e) (hsl : e.1 / 8192 = sl) : ∀ y ∈ e.2, walkKeeps kind tn y = true := by
  unfold walkSet at h
  split at h
  · split at h
    · cases h
    · cases h
      exact fun y hy => (List.mem_filter.1 hy).2
  · next hne =>
    cases h
    exact absurd hsl hne

/-- A set of another slice stays as it was, and no set moves to another slice. -/
theorem walkSet_others (e : Nat × List FirnWay) :
    (walkSet sl kind tn e).filter (fun e => decide (e.1 / 8192 ≠ sl)) = Option.guard (fun e => decide (e.1 / 8192 ≠ sl)) e := by
  unfold walkSet
  by_cases h : e.1 / 8192 = sl
  · rw [if_pos h]
    split <;> simp [Option.guard, h]
  · simp [Option.guard, h]

theorem walk_others (l : List (Nat × List FirnWay)) :
    (l.filterMap (walkSet sl kind tn)).filter (fun e => decide (e.1 / 8192 ≠ sl)) = l.filter fun e => decide (e.1 / 8192 ≠ sl) := by
  rw [List.filter_filterMap, ← List.filterMap_eq_filter]
  exact congrArg (List.filterMap · l) (funext walkSet_others)

end

section
variable {s : State} {sl kind tn : Nat}

/-- A walk that starts is noted, and STAT shows it. -/
theorem firnStart_idle (hw : s.works (pgFirn sl) = true) (hs : s.bit (pgFirn sl) F.FIRN_STAT = false) :
    s.firnStart sl kind tn = { s.wf (pgFirn sl) F.FIRN_STAT 1 with firnOp := Tab.set s.firnOp sl none (some (kind, tn)) } := by
  simp only [State.firnStart, hw, hs, Bool.not_true, Bool.false_eq_true, if_false]

theorem firnStart_busy (hw : s.works (pgFirn sl) = true) (hs : s.bit (pgFirn sl) F.FIRN_STAT = true) :
    s.firnStart sl kind tn = s.raise (pgFirn sl) F.FIRN_ERR_STAT_OP_OVERRUN := by
  simp only [State.firnStart, hw, hs, Bool.not_true, Bool.false_eq_true, if_false, if_true]

/-- The end of a walk. -/
theorem firnWalked_some (h : Tab.at s.firnOp sl none = some (kind, tn)) :
    s.firnWalked sl =
      { s.wf (pgFirn sl) F.FIRN_STAT 0 with firn := s.firn.filterMap (walkSet sl kind tn), firnOp := Tab.set s.firnOp sl none none } := by
  unfold State.firnWalked
  rw [h]
  rfl

/-- A command that writes FIRN_OP while no walk runs starts one. -/
theorem gives_walkStart {i : Instr} {a : Agent} {k : State → State} (hi : exec i s = .next (s.onReady a (pgFirn sl) 0x044 k))
    (hk : k s = s.firnStart sl kind tn) (hr : s.ready (pgFirn sl) = true) (hw : s.works (pgFirn sl) = true)
    (hs : s.bit (pgFirn sl) F.FIRN_STAT = false) :
    Gives i s fun t => t.bit (pgFirn sl) F.FIRN_STAT = true ∧ Tab.at t.firnOp sl none = some (kind, tn) ∧ DataKept s t :=
  .of ((if_pos hr).trans (hk.trans (firnStart_idle hw hs))) hi
    ⟨(bit_of_regs (s := s.wf (pgFirn sl) F.FIRN_STAT 1) rfl _ _).trans (bit_wf_same _ _ _ _ (by decide) rfl),
      Tab.at_set_same s.firnOp sl none (some (kind, tn)), rfl, rfl⟩

/-- A command that writes FIRN_OP while a walk runs sets OP_OVERRUN alone. -/
theorem gives_walkOverrun {i : Instr} {a : Agent} {k : State → State} (hi : exec i s = .next (s.onReady a (pgFirn sl) 0x044 k))
    (hk : k s = s.firnStart sl kind tn) (hr : s.ready (pgFirn sl) = true) (hw : s.works (pgFirn sl) = true)
    (hs : s.bit (pgFirn sl) F.FIRN_STAT = true) :
    Gives i s fun t => t.bit (pgFirn sl) F.FIRN_ERR_STAT_OP_OVERRUN = true ∧ t.firnOp = s.firnOp :=
  .of ((if_pos hr).trans (hk.trans (firnStart_busy hw hs))) hi ⟨bit_raise _ _ rfl (by decide) (by decide), raise_firnOp ..⟩

end

end Sys2Proof.Machine
end

section
/-! PROOFS. The Firn cache. -/

namespace Sys2Proof.Machine

section
variable {s : State}

/-- A read at a ready channel answers the line with the poison that the slice gives it. -/
theorem exec_firnRead_ready {tn : Option (Fin 8)} {a : BitVec 35} {pin wl : Bool} {u : State} {p : Bool}
    (h : s.chanReady (a.toNat / 64 * 64) = true)
    (hr : s.firnRead (tn.map (·.val)) (a.toNat / 64 * 64) pin wl false {} = (u, p)) :
    exec (.firnRead tn a pin wl {}) s = .next (u.answer (u.rdBytes (a.toNat / 64 * 64) 64) p) := by
  refine congrArg Host.Outcome.next ((if_pos h).trans ?_)
  dsimp only
  rw [hr]

theorem exec_firnWrite_ready {a : BitVec 35} {d : Bytes} {wl : Bool} (h : s.chanReady a.toNat = true)
    (hfit : a.toNat % 64 + d.length ≤ 64) :
    ∃ ls, exec (.firnWrite a d wl) s = .next ((s.setFirnLines (firnKey a.toNat) ls).drcWrite a.toNat d false) :=
  ⟨_, congrArg Host.Outcome.next ((if_pos h).trans (by rw [inLine_of_fits hfit, State.firnWrite]))⟩

end

/-- Settles O22: reads and writes without errors, the start of a walk of each kind, and its end. -/
theorem firnCache : Obligations.FirnCache := by
  refine ⟨fun tn a pin wl s hready => ⟨?read, ?direct, ?hit, ?miss⟩, fun a d wl s hready hfit => ?write,
    fun ag sl tn s hr hw => ⟨fun hs => ⟨?_, ?_, ?_⟩, fun hs => ⟨?_, ?_, ?_⟩⟩, fun sl kind tn s hop => ?walkEnd⟩
  case read =>
    obtain ⟨hmem, htags⟩ := firnRead_clean_data (s := s) (a := a.toNat / 64 * 64) (pin := pin) (wline := wl) (int := false)
      (tn.map (·.val))
    exact ⟨_, exec_firnRead_ready hready rfl, congrArg some (rdBytes_of_mem hmem _ _), hmem, htags⟩
  case direct =>
    rintro rfl
    exact ⟨_, exec_firnRead_ready hready firnRead_none, drcRead_clean_dramPoisonAt .., drcRead_clean_firn ..⟩
  case hit =>
    rintro k e rfl hon he
    exact ⟨_, exec_firnRead_ready hready (firnRead_hit hon he), rfl⟩
  case miss =>
    rintro k w rfl hon he rfl hway
    have hfill : lruWay ((s.missed (a.toNat / 64 * 64) wl false).firnLines (firnKey (a.toNat / 64 * 64)))
        ((s.missed (a.toNat / 64 * 64) wl false).fillWays (a.toNat / 64 * 64) k) = some w := by
      rw [missed_firnLines, missed_fillWays k.isLt]
      exact hway
    refine ⟨_, exec_firnRead_ready hready (firnRead_miss hon he), missed_dramPoisonAt _, ?_⟩
    rw [← missed_dramPoisonAt (s := s) (a := a.toNat / 64 * 64) (wline := wl) (int := false)]
    exact firnFill_way hfill
  case write =>
    obtain ⟨ls, hexec⟩ := exec_firnWrite_ready (wl := wl) hready hfit
    obtain ⟨hread, hkept, hmark⟩ := drcWrite_stores (s.setFirnLines (firnKey a.toNat) ls) a.toNat false d
    exact ⟨_, hexec, hread, hkept.of_mem rfl, fun hd => hmark (by omega) hd⟩
  · exact gives_walkStart rfl rfl hr hw hs
  · exact gives_walkStart rfl rfl hr hw hs
  · exact gives_walkStart rfl rfl hr hw hs
  · exact gives_walkOverrun rfl rfl hr hw hs
  · exact gives_walkOverrun rfl rfl hr hw hs
  · exact gives_walkOverrun rfl rfl hr hw hs
  case walkEnd =>
    refine .of (firnWalked_some hop) rfl
      ⟨(bit_of_regs (s := s.wf (pgFirn sl) F.FIRN_STAT 0) rfl _ _).trans (bit_wf_same _ _ _ _ (by decide) rfl),
        Tab.at_set_same s.firnOp sl none none, ⟨rfl, rfl⟩, fun e he hsl => ?_, walk_others s.firn⟩
    obtain ⟨x, -, hx⟩ := List.mem_filterMap.1 he
    exact walkSet_keeps hx hsl

end Sys2Proof.Machine
end

section
/-! SUPPORT. Tests: states that meet the hypotheses of the statements on a floe's memories and on the Firn. -/

namespace Sys2Proof.Tests

open Sys2Proof.Machine

/-! ### The scratchpad and the patrol -/

/-- The machine at reset but for the memories of floe 0, which are ready, enabled and patrolled, in a cluster that fences nothing by itself;
the patrol stands at its last line. -/
def memoryOn : State :=
  ((((State.reset.wf (pgFmem 0) F.PAGE_STAT_READY 1).wf (pgFmem 0) F.PAGE_CTRL_EN 1).wf (pgFmem 0) F.FMEM_CTRL_PATROL_EN 1).wf
    (pgCc 0) F.CC_CTRL_AUTO_FENCE 0).setFloe 0 { patrol := 67583 }

/-- The last word of the scratchpad is beyond correction. -/
theorem test_scratchpad_ue : ∃ t, exec (.scratchpadAccess 0 .brash 0xFFFF .read { ue := some 7 }) memoryOn = .next t ∧
    t.rspPoison = true ∧ t.rf (pgFmem 0) F.FMEM_UE_CNT = 1 ∧ t.rf (pgFmem 0) F.FMEM_ERR_ADDR = 0x3F_FFF8 := by
  obtain ⟨hopen, -, -⟩ := floeMemoryPorts 0 .brash 0xFFFF memoryOn
  obtain ⟨-, hue, -, -⟩ := hopen (by decide +kernel) (by decide +kernel)
  obtain ⟨t, ht, ⟨-, hpoison⟩, -, -, hcounts, haddr, -⟩ := hue 7 (by decide +kernel)
  exact ⟨t, ht, hpoison, hcounts.trans (by decide +kernel), haddr⟩

/-- The last word of a line, written without a tag. -/
theorem test_scratchpad_word : ∃ t, exec (.scratchpadAccess 0 .brash 3 (.write 56 (ones 8) none) {}) memoryOn = .next t ∧
    t.rdBytes (floeBase 0 + 248) 8 = ones 8 ∧ t.tags = [] := by
  obtain ⟨hopen, -, -⟩ := floeMemoryPorts 0 .brash 3 memoryOn
  obtain ⟨-, -, -, hwords⟩ := hopen (by decide +kernel) (by decide +kernel)
  obtain ⟨t, ht, hread, htags, -⟩ := hwords 56 (ones 8) (by decide) (by decide) (by decide)
  exact ⟨t, ht, hread, htags⟩

/-- Before READY. -/
theorem test_scratchpad_before_ready : ∃ t, exec (.scratchpadAccess 0 .brash 0 .read {}) State.reset = .next t ∧
    t.rsp = some (ones 64) := by
  obtain ⟨-, hshut, -⟩ := floeMemoryPorts 0 .brash 0 State.reset
  obtain ⟨t, ht, ⟨hdata, -⟩, -⟩ := (hshut (by decide +kernel)).1
  exact ⟨t, ht, hdata⟩

/-- The patrol begins again after its last line. -/
theorem test_patrol_wraps : ∃ t, exec (.patrolScrubTurn 0 {}) memoryOn = .next t ∧ (t.floe 0).patrol = 0 := by
  obtain ⟨-, -, hpatrol⟩ := floeMemoryPorts 0 .brash 0 memoryOn
  obtain ⟨t, ht, hnext, -⟩ := hpatrol (by decide +kernel) (by decide +kernel) (by decide +kernel) (by decide +kernel)
  exact ⟨t, ht, hnext.trans (by decide +kernel)⟩

/-! ### Initialisation and scrub -/

/-- The machine at reset, its main domains released. -/
def mainUp : State := { State.reset with
  pwr := { State.reset.pwr with porst := false, sysrst := false, brownout := false, railsDown := false, stopped := false } }

theorem test_mem_init : ∃ t, exec (.floeMemInitDone 0) mainUp = .next t ∧ t.ready (pgFmem 0) = true := by
  obtain ⟨hinit, -⟩ := floeInitAndScrub 0 mainUp
  obtain ⟨t, ht, -, -, hready, -⟩ := hinit (by decide +kernel) (by decide +kernel) (by decide +kernel)
  exact ⟨t, ht, hready⟩

/-- A floe whose Gaff executes waits with its scrub. -/
theorem test_scrub_waits : ∃ t, exec (.scrubRequest .mgmt 0) (memoryOn.setExec 0 (some (shareAt .work))) = .next t ∧
    t.bit (pgFmem 0) F.FMEM_STAT_SCRUB_PENDING = true ∧ t.bit (pgFmem 0) F.FMEM_STAT_SCRUBBING = false := by
  obtain ⟨-, hrequest, -⟩ := floeInitAndScrub 0 (memoryOn.setExec 0 (some (shareAt .work)))
  obtain ⟨t, ht, hpending, hscrubbing, -⟩ := hrequest .mgmt (by decide +kernel)
  exact ⟨t, ht, hpending, hscrubbing.trans (by decide +kernel)⟩

/-- A pending scrub of an idle floe starts. -/
theorem test_scrub_starts : ∃ t, exec (.scrubStart 0) (memoryOn.wf (pgFmem 0) F.FMEM_STAT_SCRUB_PENDING 1) = .next t ∧
    t.bit (pgFmem 0) F.FMEM_STAT_SCRUBBING = true := by
  obtain ⟨-, -, hstart, -⟩ := floeInitAndScrub 0 (memoryOn.wf (pgFmem 0) F.FMEM_STAT_SCRUB_PENDING 1)
  obtain ⟨t, ht, hscrubbing, -⟩ := hstart (by decide +kernel) (by decide +kernel)
  exact ⟨t, ht, hscrubbing⟩

/-- A byte and a tag of a floe in a scrub, and a byte beside its window. -/
def scrubbing : State :=
  (((memoryOn.wf (pgFmem 0) F.FMEM_STAT_SCRUBBING 1).wrByte (floeBase 0) 5).setTag (floeBase 0) 9).wrByte (floeBase 1) 6

theorem test_scrub_ends : ∃ t, exec (.scrubEnd 0) scrubbing = .next t ∧ t.rdByte (floeBase 0) = 0 ∧ t.tagAt (floeBase 0) = 0 ∧
    t.rdByte (floeBase 1) = 6 ∧ t.bit (pgFmem 0) F.FMEM_STAT_SCRUBBING = false := by
  obtain ⟨-, -, -, hdone⟩ := floeInitAndScrub 0 scrubbing
  obtain ⟨t, ht, ⟨hzero, -⟩, -, -, -, hkept, halone⟩ := hdone (by decide +kernel)
  obtain ⟨hbyte, htag⟩ := hzero (floeBase 0) (by decide) (by decide)
  exact ⟨t, ht, hbyte, htag, (hkept (floeBase 1) (by decide)).trans (by decide +kernel), (halone (by decide +kernel)).1⟩

/-! ### The Firn -/

/-- Channel 0 is ready; slice 0 is ready, enabled and caches, and tenant 2 has ways 0 and 1, of which way 0 holds a line of another tag. -/
def firnOn : State :=
  (((((State.reset.wf (pgDrc 0) F.PAGE_STAT_READY 1).wf (pgFirn 0) F.PAGE_STAT_READY 1).wf (pgFirn 0) F.PAGE_CTRL_EN 1).wf
    (pgFirn 0) F.FIRN_CTRL 1).wf (pgFirn 0) (F.FIRN_WAYS_CACHE_MASK 2) 3).setFirnLines 0
    [{ way := 0, tag := 7, tenant := 2, poison := true }]

/-- A miss takes the way that holds nothing. -/
theorem test_firn_miss : ∃ t, exec (.firnRead (some 2) 0 false false {}) firnOn = .next t ∧
    wayLine (t.firnLines 0) 1 = some { way := 1, tag := 0, tenant := 2 } := by
  obtain ⟨-, -, -, hmiss⟩ := firnCache.1 (some 2) 0 false false firnOn (by decide +kernel)
  obtain ⟨t, ht, -, hway⟩ := hmiss 2 1 rfl (by decide +kernel) (by decide +kernel) rfl (by decide +kernel)
  exact ⟨t, ht, hway⟩

/-- A hit answers with the poison of its copy: the address whose tag is 7, in set 0 of slice 0. -/
theorem test_firn_hit : ∃ t, exec (.firnRead (some 2) 0x380_0000 false false {}) firnOn = .next t ∧ t.rspPoison = true := by
  obtain ⟨-, -, hhit, -⟩ := firnCache.1 (some 2) 0x380_0000 false false firnOn (by decide +kernel)
  obtain ⟨t, ht, hpoison⟩ := hhit 2 { way := 0, tag := 7, tenant := 2, poison := true } rfl (by decide +kernel) (by decide +kernel)
  exact ⟨t, ht, hpoison⟩

/-- A whole line written over a poisoned one. -/
theorem test_firn_write : ∃ t, exec (.firnWrite 64 (ones 64) false) (firnOn.setDramPoison 64 true) = .next t ∧
    t.rdBytes 64 64 = ones 64 ∧ t.dramPoisonAt 64 = false := by
  obtain ⟨t, ht, hread, -, hmark⟩ := firnCache.2.1 64 (ones 64) false (firnOn.setDramPoison 64 true) (by decide +kernel) (by decide)
  exact ⟨t, ht, hread, hmark (by decide)⟩

/-- A walk that drops the cache lines of tenant 2 starts. -/
theorem test_firn_walk_starts : ∃ t, exec (.firnInvalidate .mgmt 0 2) firnOn = .next t ∧ Tab.at t.firnOp 0 none = some (1, 2) := by
  obtain ⟨hstart, -⟩ := firnCache.2.2.1 .mgmt 0 2 firnOn (by decide +kernel) (by decide +kernel)
  obtain ⟨t, ht, -, hop, -⟩ := (hstart (by decide +kernel)).1
  exact ⟨t, ht, hop⟩

/-- A second walk while one runs is refused. -/
theorem test_firn_walk_overruns : ∃ t, exec (.firnUnpin .mgmt 0 2) (firnOn.wf (pgFirn 0) F.FIRN_STAT 1) = .next t ∧
    t.bit (pgFirn 0) F.FIRN_ERR_STAT_OP_OVERRUN = true := by
  obtain ⟨-, hbusy⟩ := firnCache.2.2.1 .mgmt 0 2 (firnOn.wf (pgFirn 0) F.FIRN_STAT 1) (by decide +kernel) (by decide +kernel)
  obtain ⟨t, ht, hflag, -⟩ := (hbusy (by decide +kernel)).2.1
  exact ⟨t, ht, hflag⟩

/-- The walk's end leaves no cache line of the tenant. -/
theorem test_firn_walk_ends : ∃ t, exec (.firnWalkEnd 0) { firnOn with firnOp := [(0, some (1, 2))] } = .next t ∧
    ∀ e ∈ t.firn, e.1 / 8192 = 0 → ∀ y ∈ e.2, walkKeeps 1 2 y = true := by
  obtain ⟨t, ht, -, -, -, hkeeps, -⟩ := firnCache.2.2.2 0 1 2 { firnOn with firnOp := [(0, some (1, 2))] } rfl
  exact ⟨t, ht, hkeeps⟩

end Sys2Proof.Tests
end

section
/-! SUPPORT. Halyards: the registers that an operation leaves, and a halyard's state and registers after it is written. -/

namespace Sys2Proof.Machine

/-! ### Registers that an operation leaves -/

/-- No register that `keep` names is the one at this page and offset. -/
def Clear (keep : Nat → Nat → Prop) (g o : Nat) : Prop := ∀ p k, keep p k → regIdx p k ≠ regIdx g o

/-- Memory, tags and the halyards stand in `s` as in `r`, and so do the registers that `keep` names. -/
structure Stands (keep : Nat → Nat → Prop) (r s : State) : Prop where
  data : DataKept r s
  hals : s.hals = r.hals
  word : ∀ p k, keep p k → s.word p k = r.word p k

/-- Registers of a halyard's page, by their offsets. -/
def HalRegs (h : Nat) (offs : List Nat) (p k : Nat) : Prop := p = pgHal h ∧ k ∈ offs

/-- The registers of every page but the halyard's; an offset beyond its page is one of a later page. -/
def OtherPages (h p k : Nat) : Prop := p ≠ pgHal h ∧ (k < 4096 ∨ pgHal h < p)

theorem clear_halRegs {h o : Nat} {offs : List Nat} (ho : ClearOf offs o := by decide) : Clear (HalRegs h offs) (pgHal h) o := by
  rintro p k ⟨rfl, hk⟩
  exact regIdx_ne_off (ho k hk).1

theorem clear_halRegs_page {h g o : Nat} {offs : List Nat} (hg : g ≠ pgHal h) (ho : ∀ k ∈ offs, k < 4096 ∧ o < 4096) :
    Clear (HalRegs h offs) g o := by
  rintro p k ⟨rfl, hk⟩
  exact regIdx_ne_page hg.symm (ho k hk).1 (ho k hk).2

theorem clear_otherPages {h o : Nat} (ho : o < 4096 := by decide) : Clear (OtherPages h) (pgHal h) o := by
  rintro p k ⟨hp, hk | hlt⟩
  · exact regIdx_ne_page hp hk ho
  · unfold regIdx
    omega

section
variable {keep : Nat → Nat → Prop} {r s t : State} {g : Nat} {f : Fld}

theorem Stands.refl (s : State) : Stands keep s s := ⟨⟨rfl, rfl⟩, rfl, fun _ _ _ => rfl⟩

theorem Stands.trans (h : Stands keep r s) (k : Stands keep s t) : Stands keep r t :=
  ⟨⟨k.data.1.trans h.data.1, k.data.2.trans h.data.2⟩, k.hals.trans h.hals,
    fun p o ho => (k.word p o ho).trans (h.word p o ho)⟩

theorem Stands.hal (h : Stands keep r s) (i : Nat) : s.hal i = r.hal i := by
  unfold State.hal
  rw [h.hals]

theorem Stands.rf (h : Stands keep r s) (hf : keep g f.off) : s.rf g f = r.rf g f := by
  unfold State.rf
  rw [h.word g _ hf]

theorem Stands.bit (h : Stands keep r s) (hf : keep g f.off) : s.bit g f = r.bit g f := by
  unfold State.bit
  rw [h.rf hf]

theorem Stands.both {c : Prop} [Decidable c] (h : Stands keep r s) (k : Stands keep r t) : Stands keep r (if c then s else t) :=
  iteInduction (fun _ => h) fun _ => k

/-- A change of units that hold neither data nor registers, and are no halyard. -/
theorem Stands.upd (h : Stands keep r s) (hr : t.regs = s.regs) (hm : t.mem = s.mem) (ht : t.tags = s.tags) (hh : t.hals = s.hals) :
    Stands keep r t :=
  h.trans ⟨⟨hm, ht⟩, hh, fun _ _ _ => by unfold State.word; rw [hr]⟩

theorem Stands.setWord {o : Nat} {w : Word} (h : Stands keep r s) (hc : Clear keep g o) : Stands keep r (s.setWord g o w) :=
  h.trans ⟨⟨rfl, rfl⟩, rfl, fun p k hk => word_setWord_other s g w (hc p k hk)⟩

theorem Stands.wf {v : Nat} (h : Stands keep r s) (hc : Clear keep g f.off) : Stands keep r (s.wf g f v) := h.setWord hc

theorem Stands.bump (h : Stands keep r s) (hc : Clear keep g f.off) : Stands keep r (s.bump g f) := h.setWord hc

theorem Stands.irq {b : Nat} (h : Stands keep r s) (hi : Clear keep g 0x010) : Stands keep r (s.irq g b) := h.setWord hi

theorem Stands.raise (h : Stands keep r s) (hc : Clear keep g f.off) (hi : Clear keep g 0x010) : Stands keep r (s.raise g f) := by
  unfold State.raise
  extract_lets +onlyGivenNames s1
  have hset : Stands keep r s1 := h.wf hc
  split
  · exact .both hset (hset.irq hi)
  · exact hset

theorem Stands.post {cls : Nat} {tag : Tag} {id : Nat} {detail : Option Nat} (h : Stands keep r s) (hi : Clear keep g 0x010) :
    Stands keep r (s.post g f cls tag id detail) := by
  unfold State.post
  extract_lets _ s1 q recs lost s2
  have hirq : Stands keep r s2 := .irq (.both (h.upd rfl rfl rfl rfl) h) hi
  exact .both (hirq.upd rfl rfl rfl rfl) (hirq.upd rfl rfl rfl rfl)

theorem Stands.fault {cls : Nat} {tag : Tag} {id : Nat} {detail : Option Nat} (h : Stands keep r s) (hc : Clear keep g f.off)
    (hi : Clear keep g 0x010) : Stands keep r (s.fault g f cls tag id detail) := (h.raise hc hi).post hi

theorem Stands.tally {n : Nat} (h : Stands keep r s) : Stands keep r (s.tally g f n) := h.upd rfl rfl rfl rfl

theorem Stands.workDone {c : WorkCtx} (h : Stands keep r s) : Stands keep r (s.workDone c) := h.upd (by simp) (by simp) (by simp) (by simp)

theorem Stands.workRefused {c : WorkCtx} (h : Stands keep r s) (hc : Clear keep (pgMst 0) 0x070) : Stands keep r (s.workRefused c) := by
  unfold State.workRefused State.markFailed
  exact (Stands.both h (h.setWord hc)).upd rfl rfl rfl rfl

end

/-! ### A halyard's state -/

section
variable (s : State) (h : Nat) (x : HalSt)

@[simp] theorem hal_setHal : (s.setHal h x).hal h = x := Tab.at_set_same ..

/-- Writing a halyard's state sets bits of HAL_STAT beside it. -/
theorem putHal_stands {keep : Nat → Nat → Prop} (hc : Clear keep (pgHal h) 0x044) : Stands keep (s.setHal h x) (s.putHal h x) :=
  .wf (.wf (.wf (.refl _) hc) hc) hc

@[simp] theorem hal_putHal : (s.putHal h x).hal h = x := by
  have hstands : Stands (HalRegs h []) (s.setHal h x) (s.putHal h x) := putHal_stands s h x clear_halRegs
  rw [hstands.hal, hal_setHal]

/-- A field of a register other than HAL_STAT. -/
theorem rf_putHal {f : Fld} (hf : ClearOf [f.off] 0x044) : (s.putHal h x).rf (pgHal h) f = s.rf (pgHal h) f :=
  (putHal_stands s h x (clear_halRegs hf)).rf ⟨rfl, List.mem_singleton.2 rfl⟩

theorem bit_putHal {f : Fld} (hf : ClearOf [f.off] 0x044) : (s.putHal h x).bit (pgHal h) f = s.bit (pgHal h) f := by
  unfold State.bit
  rw [rf_putHal s h x hf]

/-- HAL_STAT.ACTIVE is 1 while a transfer is active and not cancelled (R291). -/
theorem bit_putHal_active : (s.putHal h x).bit (pgHal h) F.HAL_STAT_ACTIVE = (x.active.isSome && !x.cancelling) := by
  unfold State.bit State.putHal
  dsimp only
  rw [rf_wf_bits _ _ F.HAL_STAT_CANCELLING F.HAL_STAT_ACTIVE _ (by decide) rfl (by decide),
    rf_wf_bits _ _ F.HAL_STAT_SHADOW_FULL F.HAL_STAT_ACTIVE _ (by decide) rfl (by decide), rf_wf_same _ _ _ _ (by decide)]
  cases x.active.isSome && !x.cancelling <;> rfl

end

end Sys2Proof.Machine
end

section
/-! PROOFS. Arming, cancelling, activating and ending of halyard transfers. -/

namespace Sys2Proof.Machine

/-- The slots' registers of a Rime page are no registers of a halyard. -/
theorem clear_cbSlot {h : Nat} {offs : List Nat} (ho : ∀ k ∈ offs, k < 4096) (w : BitVec 512) :
    Clear (HalRegs h offs) (pgRime (bits (dDst w) 5 0)) (0x100 + 4 * bits (dDst w) 8 6) := by
  have hfloe : bits (dDst w) 5 0 < 2 ^ 6 := bits_lt _ _ _
  have hslot : bits (dDst w) 8 6 < 2 ^ 3 := bits_lt _ _ _
  refine clear_halRegs_page ?_ fun k hk => ⟨ho k hk, by omega⟩
  unfold pgRime pgFloe pgHal
  omega

section
variable {s : State} {h : Nat} {d : HalDesc}

/-! ### Activation and promotion (R277) -/

/-- A descriptor that serves no scheduled work becomes active: it waits for its checks, at its first line. -/
theorem activate_software (hwork : d.ctx.work = none) :
    ∃ x, s.activate h d = (s.wf (pgHal h) F.HAL_XFER_ID (dXferId d.word)).putHal h x ∧ x.active = some d ∧
      x.shadow = (s.hal h).shadow ∧ x.checked = false ∧ x.row = 0 := by
  have hready : s.readyCheck d.ctx (dXferId d.word) = (s, d.ctx) := by simp only [State.readyCheck, hwork]
  refine ⟨{
    active := some d, shadow := (s.hal h).shadow, compose := (s.hal h).compose
    tenant := (s.wf (pgHal h) F.HAL_XFER_ID (dXferId d.word)).rf (pgHal h) F.HAL_TENANT_TENANT }, ?_, rfl, rfl, rfl, rfl⟩
  rw [State.activate, hready]

theorem activate_xferId (hwork : d.ctx.work = none) : (s.activate h d).rf (pgHal h) F.HAL_XFER_ID = dXferId d.word := by
  obtain ⟨x, hx, -⟩ := activate_software (s := s) (h := h) hwork
  rw [hx, rf_putHal _ _ _ (by decide), rf_wf_same _ _ _ _ (by decide)]
  exact Nat.mod_eq_of_lt (bits_lt _ _ _)

/-- What becomes active shows in the halyard's state, and no data changes. -/
theorem activate_hal (hwork : d.ctx.work = none) :
    ((s.activate h d).hal h).active = some d ∧ ((s.activate h d).hal h).shadow = (s.hal h).shadow ∧
      ((s.activate h d).hal h).checked = false ∧ ((s.activate h d).hal h).row = 0 ∧ DataKept s (s.activate h d) := by
  obtain ⟨x, hx, hactive, hshadow, hchecked, hrow⟩ := activate_software (s := s) (h := h) hwork
  rw [hx, hal_putHal]
  exact ⟨hactive, hshadow, hchecked, hrow, by simp [DataKept]⟩

theorem promote_active (ha : (s.hal h).active.isSome = true) : s.promote h = s := by
  obtain ⟨d, hd⟩ := Option.isSome_iff_exists.1 ha
  simp only [State.promote, hd]

theorem promote_noShadow (hs : (s.hal h).shadow = none) : s.promote h = s := by
  unfold State.promote
  cases ha : (s.hal h).active <;> simp only [ha, hs]

/-- The shadow of a halyard that works becomes active once nothing is. -/
theorem promote_shadow (ha : (s.hal h).active = none) (hs : (s.hal h).shadow = some d) (hw : s.works (pgHal h) = true)
    (hshut : s.shutting (pgHal h) = false) :
    s.promote h = (s.putHal h { s.hal h with shadow := none }).activate h d := by
  have hworks : (s.putHal h { s.hal h with shadow := none }).works (pgHal h) = true := by
    rw [← hw, State.works, State.works, State.enabled, State.enabled, State.shutting, State.shutting,
      bit_putHal _ _ _ (by decide), bit_putHal _ _ _ (by decide)]
  simp only [ha] at hworks
  simp only [State.promote, ha, hs, hshut, hworks, Bool.false_eq_true, if_false, if_true]

/-! ### Arming (R276) -/

theorem arm_idle (hw : s.works (pgHal h) = true) (ha : (s.hal h).active = none) (hs : (s.hal h).shadow = none) :
    s.arm h d = s.activate h d := by
  simp [State.arm, hw, promote_noShadow hs, ha, hs]

/-- An arm of a busy halyard fills the shadow, and overruns a full one. -/
theorem arm_busy (hw : s.works (pgHal h) = true) (ha : (s.hal h).active.isSome = true) :
    s.arm h d = if (s.hal h).shadow.isSome then
        ((s.putHal h { s.hal h with shadow := some d }).bump (pgHal h) F.HAL_OVERRUN_CNT).fault (pgHal h) F.HAL_ERR_STAT_OVERRUN 4 0
          (dXferId d.word)
      else s.putHal h { s.hal h with shadow := some d } := by
  simp [State.arm, hw, promote_active ha, Option.isSome_iff_ne_none.1 ha]

theorem arm_busy_hal (hw : s.works (pgHal h) = true) (ha : (s.hal h).active.isSome = true) :
    (s.arm h d).hal h = { s.hal h with shadow := some d } ∧ DataKept s (s.arm h d) := by
  have hstands : Stands (HalRegs h []) (s.putHal h { s.hal h with shadow := some d }) (s.arm h d) := by
    rw [arm_busy hw ha]
    exact .both (.fault (.bump (.refl _) clear_halRegs) clear_halRegs clear_halRegs) (.refl _)
  obtain ⟨hmem, htags⟩ := hstands.data
  exact ⟨(hstands.hal h).trans (hal_putHal ..), hmem.trans (putHal_mem ..), htags.trans (putHal_tags ..)⟩

theorem arm_overrun (hw : s.works (pgHal h) = true) (ha : (s.hal h).active.isSome = true) (hs : (s.hal h).shadow.isSome = true) :
    (s.arm h d).bit (pgHal h) F.HAL_ERR_STAT_OVERRUN = true ∧ Counts s (s.arm h d) (pgHal h) F.HAL_OVERRUN_CNT := by
  rw [arm_busy hw ha, if_pos hs]
  refine ⟨bit_fault _ _ _ _ _ _ rfl (by decide) (by decide), ?_⟩
  rw [Counts, rf_fault_apart _ _ _ _ _ _ _ (.inl ⟨by decide, rfl⟩) (.inl ⟨by decide, rfl⟩), rf_bump _ _ ⟨rfl, rfl⟩,
    rf_putHal _ _ _ (by decide)]

/-! ### Cancels (R279) -/

/-- An accepted cancel marks the transfer; the codebook slot that it may leave is no part of the halyard. -/
theorem cancelXfer_stands (ha : (s.hal h).active = some d) (hc : (s.hal h).cancelling = false)
    (hf : (s.hal h).finished d.word = false) :
    Stands (HalRegs h [0x068]) (s.putHal h { s.hal h with cancelling := true }) (s.cancelXfer h) := by
  simp only [State.cancelXfer, ha, hc, hf, Bool.or_self, Bool.false_eq_true, if_false]
  have hslot := clear_cbSlot (h := h) (offs := [0x068]) (by decide) d.word
  exact .both (.wf (.wf (.refl _) hslot) hslot) (.refl _)

theorem cancelXfer_hal (ha : (s.hal h).active = some d) (hc : (s.hal h).cancelling = false)
    (hf : (s.hal h).finished d.word = false) :
    (s.cancelXfer h).hal h = { s.hal h with cancelling := true } ∧ DataKept s (s.cancelXfer h) ∧
      (s.cancelXfer h).rf (pgHal h) F.HAL_OVERRUN_CNT = s.rf (pgHal h) F.HAL_OVERRUN_CNT := by
  have hstands := cancelXfer_stands ha hc hf
  obtain ⟨hmem, htags⟩ := hstands.data
  exact ⟨(hstands.hal h).trans (hal_putHal ..), ⟨hmem.trans (putHal_mem ..), htags.trans (putHal_tags ..)⟩,
    (hstands.rf ⟨rfl, by decide⟩).trans (rf_putHal _ _ _ (by decide))⟩

/-- A discarded shadow is counted, and the rest of the halyard stands. -/
theorem dropShadow_hal (s : State) (h : Nat) :
    (s.dropShadow h).hal h = { s.hal h with shadow := none } ∧ DataKept s (s.dropShadow h) ∧
      ((s.hal h).shadow.isSome = true → Counts s (s.dropShadow h) (pgHal h) F.HAL_OVERRUN_CNT) := by
  by_cases hs : (s.hal h).shadow.isSome = true
  · have hdrop : s.dropShadow h = (s.putHal h { s.hal h with shadow := none }).bump (pgHal h) F.HAL_OVERRUN_CNT := if_pos hs
    have hstands : Stands (HalRegs h []) (s.putHal h { s.hal h with shadow := none }) (s.dropShadow h) := by
      rw [hdrop]
      exact .bump (.refl _) clear_halRegs
    refine ⟨(hstands.hal h).trans (hal_putHal ..), by simp [hdrop, DataKept], fun _ => ?_⟩
    rw [hdrop, Counts, rf_bump _ _ ⟨rfl, rfl⟩, rf_putHal _ _ _ (by decide)]
  · have hdrop : s.dropShadow h = s := if_neg hs
    refine ⟨?_, by simp [hdrop, DataKept], fun hsome => absurd hsome hs⟩
    rw [hdrop, ← Option.not_isSome_iff_eq_none.1 hs]

theorem cancelAll_hal (ha : (s.hal h).active = some d) (hc : (s.hal h).cancelling = false)
    (hf : (s.hal h).finished d.word = false) :
    (s.cancelAll h).hal h = { s.hal h with cancelling := true, shadow := none } ∧ DataKept s (s.cancelAll h) ∧
      ((s.hal h).shadow.isSome = true → Counts s (s.cancelAll h) (pgHal h) F.HAL_OVERRUN_CNT) := by
  obtain ⟨hhal, ⟨hmem, htags⟩, hcnt⟩ := cancelXfer_hal ha hc hf
  obtain ⟨hdrop, ⟨hmem', htags'⟩, hcounts⟩ := dropShadow_hal (s.cancelXfer h) h
  have hall : s.cancelAll h = (s.cancelXfer h).dropShadow h := if_pos (by rw [hhal])
  rw [hhal] at hdrop hcounts
  rw [hall]
  refine ⟨hdrop, ⟨hmem'.trans hmem, htags'.trans htags⟩, fun hs => ?_⟩
  have hdropped := hcounts hs
  rwa [Counts, hcnt] at hdropped

/-! ### Writes of HAL_ARM (R276, R292) -/

theorem wrHalArm_go (hp : s.bit (pgHal h) F.HAL_TENANT_PART = false) : s.wrHalArm h 1 = s.arm h { word := s.halStage h } := by
  simp [State.wrHalArm, hp, show F.HAL_ARM_GO.of 1#32 = 1 by decide, show F.HAL_ARM_CANCEL.of 1#32 = 0 by decide,
    show F.HAL_ARM_CANCEL_ALL.of 1#32 = 0 by decide]

theorem wrHalArm_cancel (hp : s.bit (pgHal h) F.HAL_TENANT_PART = false) : s.wrHalArm h 2 = s.cancelXfer h := by
  simp [State.wrHalArm, hp, show F.HAL_ARM_GO.of 2#32 = 0 by decide, show F.HAL_ARM_CANCEL.of 2#32 = 1 by decide,
    show F.HAL_ARM_CANCEL_ALL.of 2#32 = 0 by decide]

theorem wrHalArm_cancelAll (hp : s.bit (pgHal h) F.HAL_TENANT_PART = false) : s.wrHalArm h 4 = s.cancelAll h := by
  simp [State.wrHalArm, hp, show F.HAL_ARM_GO.of 4#32 = 0 by decide, show F.HAL_ARM_CANCEL.of 4#32 = 0 by decide,
    show F.HAL_ARM_CANCEL_ALL.of 4#32 = 1 by decide]

/-- A command that writes HAL_ARM on a halyard of a partition sets ARM_DENIED alone. -/
theorem gives_armDenied {i : Instr} {a : Agent} {v : Word}
    (hi : exec i s = .next (s.onReady a (pgHal h) 0x040 fun s => s.wrHalArm h v))
    (hv : (decide (F.HAL_ARM_GO.of v = 1) || decide (F.HAL_ARM_CANCEL.of v = 1) || decide (F.HAL_ARM_CANCEL_ALL.of v = 1)) = true)
    (hr : s.ready (pgHal h) = true) (hp : s.bit (pgHal h) F.HAL_TENANT_PART = true) :
    Gives i s fun t => t.hals = s.hals ∧ t.bit (pgHal h) F.HAL_ERR_STAT_ARM_DENIED = true := by
  have hdenied : s.wrHalArm h v = s.raise (pgHal h) F.HAL_ERR_STAT_ARM_DENIED := by
    simp only [State.wrHalArm, hv, hp, Bool.not_true, Bool.false_eq_true, if_false, if_true]
  exact .of ((if_pos hr).trans hdenied) hi ⟨raise_hals .., bit_raise _ _ rfl (by decide) (by decide)⟩

/-! ### The checks (R278) -/

/-- The cause of a refusal fits in HAL_BAD_CAUSE. -/
theorem descCause_le (h : Nat) (w : BitVec 512) : descCause h w ≤ 10 := by
  unfold descCause
  extract_lets
  repeat' split
  all_goals decide

theorem checkDesc_passes (hcause : descCause h d.word = 0) :
    (s.checkDesc h d).hal h = { s.hal h with checked := true } ∧ DataKept s (s.checkDesc h d) := by
  have hstands : Stands (HalRegs h []) (s.setHal h { s.hal h with checked := true }) (s.checkDesc h d) := by
    have hslot := clear_cbSlot (h := h) (offs := []) (by decide) d.word
    simp only [State.checkDesc, hcause, if_true]
    exact .both (.wf (.wf (.refl _) hslot) hslot) (.refl _)
  exact ⟨(hstands.hal h).trans (hal_setHal ..), hstands.data⟩

/-- A refusal marks cells of the Masthead, apart from the halyard. -/
theorem clear_grpFail {h : Nat} (hh : h < 128) {offs : List Nat} (ho : ∀ k ∈ offs, k < 4096) :
    Clear (HalRegs h offs) (pgMst 0) 0x070 :=
  clear_halRegs_page (by unfold pgMst pgHal; omega) fun k hk => ⟨ho k hk, by decide⟩

/-- A refused descriptor, before its fault record: nothing is active, and the cause is recorded and counted. -/
def State.descRefused (s : State) (h : Nat) (c : Nat) : State :=
  ((s.putHal h { s.hal h with active := none }).wf (pgHal h) F.HAL_BAD_CAUSE c).bump (pgHal h) F.HAL_BAD_CNT

theorem checkDesc_refuses (hh : h < 128) (hcause : descCause h d.word ≠ 0) :
    ((s.checkDesc h d).hal h).active = none ∧ (s.checkDesc h d).rf (pgHal h) F.HAL_BAD_CAUSE = descCause h d.word ∧
      (s.checkDesc h d).bit (pgHal h) F.HAL_ERR_STAT_DESC_BAD = true ∧ Counts s (s.checkDesc h d) (pgHal h) F.HAL_BAD_CNT ∧
      DataKept s (s.checkDesc h d) := by
  have hcheck : s.checkDesc h d = ((s.descRefused h (descCause h d.word)).fault (pgHal h) F.HAL_ERR_STAT_DESC_BAD 5 0
      (dXferId d.word) (some (descCause h d.word))).workRefused d.ctx := if_neg hcause
  have hmarks : Stands (HalRegs h [0x048, 0x04C, 0x06C]) ((s.descRefused h (descCause h d.word)).fault (pgHal h)
      F.HAL_ERR_STAT_DESC_BAD 5 0 (dXferId d.word) (some (descCause h d.word))) (s.checkDesc h d) := by
    rw [hcheck]
    exact .workRefused (.refl _) (clear_grpFail hh (by decide))
  have hfault : Stands (HalRegs h [0x04C, 0x06C]) (s.descRefused h (descCause h d.word)) ((s.descRefused h (descCause h d.word)).fault
      (pgHal h) F.HAL_ERR_STAT_DESC_BAD 5 0 (dXferId d.word) (some (descCause h d.word))) :=
    .fault (.refl _) clear_halRegs clear_halRegs
  have hrefused : Stands (HalRegs h []) (s.putHal h { s.hal h with active := none }) (s.descRefused h (descCause h d.word)) :=
    .bump (.wf (.refl _) clear_halRegs) clear_halRegs
  refine ⟨?active, ?cause, ?flag, ?count, ?data⟩
  case active => rw [hmarks.hal, hfault.hal, hrefused.hal, hal_putHal]
  case cause =>
    rw [hmarks.rf ⟨rfl, by decide⟩, hfault.rf ⟨rfl, by decide⟩, State.descRefused, rf_bump_apart _ _ _ (.inl ⟨by decide, rfl⟩),
      rf_wf_same _ _ _ _ (by decide)]
    exact Nat.mod_eq_of_lt ((descCause_le h d.word).trans_lt (by decide))
  case flag =>
    rw [hmarks.bit ⟨rfl, by decide⟩]
    exact bit_fault _ _ _ _ _ _ rfl (by decide) (by decide)
  case count =>
    rw [Counts, hmarks.rf ⟨rfl, by decide⟩, hfault.rf ⟨rfl, by decide⟩, State.descRefused, rf_bump _ _ ⟨rfl, rfl⟩,
      rf_wf_apart _ _ _ _ (.inl ⟨by decide, rfl⟩), rf_putHal _ _ _ (by decide)]
  case data => simp [hcheck, State.descRefused, State.workRefused, DataKept]

theorem halStart_checks (ha : (s.hal h).active = some d) (hchecked : (s.hal h).checked = false) (hc : (s.hal h).cancelling = false) :
    s.halStart h = s.checkDesc h d := by
  simp [State.halStart, ha, hchecked, hc]

end

/-! ### Completion and the end of a cancel (R266, R279, R281) -/

/-- A place in a floe is one of the 64 windows (R41). -/
theorem placeOf_floe_lt {a f : Nat} (hp : (placeOf a).floe = some f) : f < 64 := by
  have hregion : ∀ {g o : Nat}, (regionOf g o).floe = some f → g = f := by
    intro g o
    unfold regionOf
    repeat' split
    all_goals simp [Place.floe]
  unfold placeOf at hp
  split at hp
  · cases hp
  · split at hp
    · have := hregion hp
      omega
    · split at hp
      · cases hp
      · split at hp <;> cases hp

/-- An interrupt of Spar is no part of a halyard. -/
theorem Stands.sparRaise {h f i : Nat} {offs : List Nat} {r s : State} (hs : Stands (HalRegs h offs) r s) (hf : f < 64)
    (ho : ∀ k ∈ offs, k < 4096) : Stands (HalRegs h offs) r (s.sparRaise f i) := by
  have hclear : ∀ o < 4096, Clear (HalRegs h offs) (pgSpar f) o := fun o hlt =>
    clear_halRegs_page (by unfold pgSpar pgFloe pgHal; omega) fun k hk => ⟨ho k hk, hlt⟩
  exact .both (.raise (.bump hs (hclear _ (by decide))) (hclear _ (by decide)) (hclear _ (by decide))) (hs.upd rfl rfl rfl rfl)

theorem Stands.putDigest {h : Nat} {offs : List Nat} {r s : State} {dg : Bytes} (hs : Stands (HalRegs h offs) r s)
    (ho : ∀ k ∈ offs, k < 0x0C0) : Stands (HalRegs h offs) r (s.putDigest h dg) := by
  refine List.foldlRecOn _ _ hs fun t ht j hj => ht.setWord (clear_halRegs fun k hk => ?_)
  have hoff := ho k hk
  have hword := List.mem_range.1 hj
  simp only [F.HAL_DGST]
  omega

section
variable {s : State} {h : Nat} {d : HalDesc} {cycles : Nat}

/-- A completion counts, and leaves a halyard with its shadow and nothing active. -/
theorem halDone_form (s : State) (h : Nat) (d : HalDesc) (cycles : Nat) (rx : Option Bytes) :
    ∃ u x, s.halDone h d cycles rx = (u.putHal h x).workDone d.ctx ∧ x.active = none ∧ x.shadow = (s.hal h).shadow ∧
      Stands (HalRegs h [0x058, 0x05C, 0x060]) ((s.bump (pgHal h) F.HAL_DONE_CNT).wf (pgHal h) F.HAL_LINES_DONE (s.hal h).done) u := by
  unfold State.halDone
  extract_lets +onlyGivenNames g x w counted tallied signalled raised cmp
  refine ⟨raised, _, rfl, rfl, rfl, ?_⟩
  have hsignalled : Stands (HalRegs h [0x058, 0x05C, 0x060]) counted signalled :=
    .both (.irq (.tally (.refl _)) clear_halRegs) (.tally (.refl _))
  refine .both ?_ hsignalled
  split
  · next f hf => exact hsignalled.sparRaise (placeOf_floe_lt (congrArg Place.floe hf)) (by decide)
  · exact hsignalled

theorem halDone_ends (s : State) (h : Nat) (d : HalDesc) (cycles : Nat) (rx : Option Bytes) :
    ((s.halDone h d cycles rx).hal h).active = none ∧ ((s.halDone h d cycles rx).hal h).shadow = (s.hal h).shadow ∧
      DataKept s (s.halDone h d cycles rx) := by
  obtain ⟨u, x, hform, hactive, hshadow, hstands⟩ := halDone_form s h d cycles rx
  have hdone : Stands (HalRegs h []) (u.putHal h x) (s.halDone h d cycles rx) := hform ▸ .workDone (.refl _)
  obtain ⟨hmem, htags⟩ := hstands.data
  rw [hdone.hal, hal_putHal]
  exact ⟨hactive, hshadow, by simp [hform, hmem], by simp [hform, htags]⟩

theorem halDone_regs (s : State) (h : Nat) (d : HalDesc) (cycles : Nat) (rx : Option Bytes) :
    Counts s (s.halDone h d cycles rx) (pgHal h) F.HAL_DONE_CNT ∧
      (s.halDone h d cycles rx).rf (pgHal h) F.HAL_LINES_DONE = (s.hal h).done % 2 ^ 32 ∧
      (s.halDone h d cycles rx).bit (pgHal h) F.HAL_STAT_ACTIVE = false ∧
      (s.halDone h d cycles rx).rf (pgHal h) F.HAL_ZERO_CNT = s.rf (pgHal h) F.HAL_ZERO_CNT := by
  obtain ⟨u, x, hform, hactive, -, hstands⟩ := halDone_form s h d cycles rx
  have hregs : (s.halDone h d cycles rx).regs = (u.putHal h x).regs := hform ▸ workDone_regs ..
  refine ⟨?count, ?lines, ?active, ?zero⟩
  case count =>
    rw [Counts, rf_of_regs hregs, rf_putHal _ _ _ (by decide), hstands.rf ⟨rfl, by decide⟩,
      rf_wf_apart _ _ _ _ (.inl ⟨by decide, rfl⟩), rf_bump _ _ ⟨rfl, rfl⟩]
  case lines =>
    rw [rf_of_regs hregs, rf_putHal _ _ _ (by decide), hstands.rf ⟨rfl, by decide⟩, rf_wf_same _ _ _ _ (by decide)]
    rfl
  case active => rw [bit_of_regs hregs, bit_putHal_active, hactive]; rfl
  case zero =>
    rw [rf_of_regs hregs, rf_putHal _ _ _ (by decide), hstands.rf ⟨rfl, by decide⟩,
      rf_wf_apart _ _ _ _ (.inl ⟨by decide, rfl⟩), rf_bump_apart _ _ _ (.inl ⟨by decide, rfl⟩)]

/-- A completion that writes no header, no digest line and no codebook slot places the digest, where the lane is on, and is done. -/
theorem halComplete_plain (ha : (s.hal h).active = some d) (hc : (s.hal h).cancelling = false) (hchecked : (s.hal h).checked = true)
    (hcount : dCount d.word ≠ 0) (hrow : dCount d.word ≤ (s.hal h).row) (hrec : dDstRec d.word = false)
    (happend : dDgAppend d.word = false) (hkind : dDstKind d.word ≠ 1) :
    s.halComplete h cycles = (if dDgEn d.word then s.putDigest h (sha3_256 (s.hal h).absorbed) else s).halDone h d cycles
      (some (sha3_256 (s.hal h).absorbed)) := by
  simp only [State.halComplete, ha, hc, hchecked, hcount, hrec, happend, hkind, Nat.not_lt.2 hrow, decide_false, Bool.not_true,
    Bool.or_self, Bool.or_false, Bool.false_eq_true, if_false]

theorem halComplete_ends (ha : (s.hal h).active = some d) (hc : (s.hal h).cancelling = false) (hchecked : (s.hal h).checked = true)
    (hcount : dCount d.word ≠ 0) (hrow : dCount d.word ≤ (s.hal h).row) (hrec : dDstRec d.word = false)
    (happend : dDgAppend d.word = false) (hkind : dDstKind d.word ≠ 1) :
    ((s.halComplete h cycles).hal h).active = none ∧ ((s.halComplete h cycles).hal h).shadow = (s.hal h).shadow ∧
      Counts s (s.halComplete h cycles) (pgHal h) F.HAL_DONE_CNT ∧
      (s.halComplete h cycles).rf (pgHal h) F.HAL_LINES_DONE = (s.hal h).done % 2 ^ 32 ∧
      (s.halComplete h cycles).bit (pgHal h) F.HAL_STAT_ACTIVE = false ∧ DataKept s (s.halComplete h cycles) := by
  rw [halComplete_plain ha hc hchecked hcount hrow hrec happend hkind]
  generalize sha3_256 (s.hal h).absorbed = dg
  have hdigest : Stands (HalRegs h [0x05C]) s (if dDgEn d.word then s.putDigest h dg else s) :=
    .both (.putDigest (.refl _) (by decide)) (.refl _)
  generalize (if dDgEn d.word then s.putDigest h dg else s) = u at hdigest
  obtain ⟨hactive, hshadow, hmem, htags⟩ := halDone_ends u h d cycles (some dg)
  obtain ⟨hcounts, hlines, hstat, -⟩ := halDone_regs u h d cycles (some dg)
  rw [Counts, hdigest.rf ⟨rfl, by decide⟩] at hcounts
  rw [hdigest.hal] at hshadow hlines
  exact ⟨hactive, hshadow, hcounts, hlines, hstat, hmem.trans hdigest.data.1, htags.trans hdigest.data.2⟩

/-- A transfer of no rows that passes its checks completes, and is counted as such (R266). -/
theorem halZero_ends (ha : (s.hal h).active = some d) (hc : (s.hal h).cancelling = false) (hcount : dCount d.word = 0)
    (hcause : descCause h d.word = 0) :
    ((s.halZero h).hal h).active = none ∧ ((s.halZero h).hal h).shadow = (s.hal h).shadow ∧
      Counts s (s.halZero h) (pgHal h) F.HAL_ZERO_CNT ∧ Counts s (s.halZero h) (pgHal h) F.HAL_DONE_CNT ∧ DataKept s (s.halZero h) := by
  have hzero : s.halZero h = (s.bump (pgHal h) F.HAL_ZERO_CNT).halDone h d 4 none := by
    simp [State.halZero, ha, hc, hcount, hcause]
  obtain ⟨hactive, hshadow, hdata⟩ := halDone_ends (s.bump (pgHal h) F.HAL_ZERO_CNT) h d 4 none
  obtain ⟨hdone, -, -, hrows⟩ := halDone_regs (s.bump (pgHal h) F.HAL_ZERO_CNT) h d 4 none
  rw [hzero]
  refine ⟨hactive, hshadow, hrows.trans (rf_bump _ _ ⟨rfl, rfl⟩), Eq.trans hdone ?_, hdata⟩
  rw [rf_bump_apart _ _ _ (.inl ⟨by decide, rfl⟩)]

/-- The end of a cancel: the registers that it writes, over the halyard that it leaves. -/
theorem cancelDone_ends (hc : (s.hal h).cancelling = true) :
    ((s.cancelDone h cycles).hal h).active = none ∧ ((s.cancelDone h cycles).hal h).cancelling = false ∧
      ((s.cancelDone h cycles).hal h).shadow = (s.hal h).shadow ∧
      (s.cancelDone h cycles).bit (pgHal h) F.HAL_ERR_STAT_CANCELLED = true ∧
      Counts s (s.cancelDone h cycles) (pgHal h) F.HAL_CANCEL_CNT ∧
      (s.cancelDone h cycles).rf (pgHal h) F.HAL_LINES_DONE = (s.hal h).done % 2 ^ 32 ∧ DataKept s (s.cancelDone h cycles) := by
  have hdone : s.cancelDone h cycles = (((((s.putHal h { shadow := (s.hal h).shadow, compose := (s.hal h).compose }).wf (pgHal h)
      F.HAL_ERR_STAT_CANCELLED 1).irq (pgHal h) 1).bump (pgHal h) F.HAL_CANCEL_CNT).wf (pgHal h) F.HAL_LINES_DONE
      (s.hal h).done).tally (pgHal h) F.HAL_BUSY_CYC_LO cycles := if_pos hc
  have hstands : Stands (HalRegs h []) (s.putHal h { shadow := (s.hal h).shadow, compose := (s.hal h).compose }) (s.cancelDone h cycles) := by
    rw [hdone]
    exact .tally (.wf (.bump (.irq (.wf (.refl _) clear_halRegs) clear_halRegs)
      clear_halRegs) clear_halRegs)
  rw [hstands.hal, hal_putHal]
  refine ⟨rfl, rfl, rfl, ?flag, ?count, ?lines, by simp [hdone, DataKept]⟩
  case flag =>
    rw [hdone, bit_of_regs (tally_regs ..), bit_wf_apart _ _ _ _ (.inl ⟨by decide, rfl⟩), bit_bump_apart _ _ _ (.inl ⟨by decide, rfl⟩),
      bit_irq _ _ _ (.inl ⟨by decide, rfl⟩), bit_wf_same _ _ _ _ (by decide) rfl]
    rfl
  case count =>
    rw [Counts, hdone, rf_of_regs (tally_regs ..), rf_wf_apart _ _ _ _ (.inl ⟨by decide, rfl⟩), rf_bump _ _ ⟨rfl, rfl⟩,
      rf_irq _ _ _ (.inl ⟨by decide, rfl⟩), rf_wf_apart _ _ _ _ (.inl ⟨by decide, rfl⟩), rf_putHal _ _ _ (by decide)]
  case lines =>
    rw [hdone, rf_of_regs (tally_regs ..), rf_wf_same _ _ _ _ (by decide)]
    rfl

end

/-! ### The statement -/

/-- Settles O25: each command of a halyard in its cases, by what the halyard's operation leaves. -/
theorem halyardArming : Obligations.HalyardArming := by
  refine ⟨fun a h s => ⟨fun hr hp hw => ⟨fun ha hs => ?idle, fun ha => ?busy⟩, fun d hr hp ha hc hf => ⟨?cancel, ?cancelAll⟩,
    fun hr hp => ⟨?_, ?_, ?_⟩, fun d ha hs hw hshut hwork => ?shadow,
    fun d ha hchecked hc => ⟨fun hcause => ?passes, fun hcause => ?refused⟩⟩, fun h s => ⟨fun d c ha hc =>
    ⟨fun hchecked hcount hrow hrec happend hkind => ?complete, fun hcount hcause => ?zero⟩, fun c hc => ?ended⟩⟩
  case idle =>
    obtain ⟨hactive, hshadow, hchecked, hrow, hdata⟩ := activate_hal (s := s) (h := h) (d := { word := s.halStage h }) rfl
    exact .of ((if_pos hr).trans ((wrHalArm_go hp).trans (arm_idle hw ha hs))) rfl
      ⟨hactive, hshadow.trans hs, hchecked, hrow, activate_xferId rfl, hdata⟩
  case busy =>
    obtain ⟨hhal, hdata⟩ := arm_busy_hal (d := { word := s.halStage h }) hw ha
    exact .of ((if_pos hr).trans (wrHalArm_go hp)) rfl
      ⟨by rw [hhal], by rw [hhal], fun hs => arm_overrun hw ha hs, hdata⟩
  case cancel =>
    obtain ⟨hhal, hdata, -⟩ := cancelXfer_hal ha hc hf
    exact .of ((if_pos hr).trans (wrHalArm_cancel hp)) rfl ⟨by rw [hhal], by rw [hhal], hdata⟩
  case cancelAll =>
    obtain ⟨hhal, hdata, hcounts⟩ := cancelAll_hal ha hc hf
    exact .of ((if_pos hr).trans (wrHalArm_cancelAll hp)) rfl
      ⟨by rw [hhal], by rw [hhal], hcounts, hdata⟩
  · exact gives_armDenied rfl (by decide) hr hp
  · exact gives_armDenied rfl (by decide) hr hp
  · exact gives_armDenied rfl (by decide) hr hp
  case shadow =>
    have hstart : s.halStart h = s.promote h := by simp only [State.halStart, ha]
    obtain ⟨hactive, hshadow, hchecked, -, hmem, htags⟩ :=
      activate_hal (s := s.putHal h { s.hal h with shadow := none }) (h := h) hwork
    refine .of (hstart.trans (promote_shadow ha hs hw hshut)) rfl ⟨hactive, hshadow.trans ?_, hchecked,
      hmem.trans (putHal_mem ..), htags.trans (putHal_tags ..)⟩
    rw [hal_putHal]
  case passes =>
    obtain ⟨hhal, hdata⟩ := checkDesc_passes (s := s) hcause
    exact .of (halStart_checks ha hchecked hc) rfl ⟨by rw [hhal]; exact ha, by rw [hhal], hdata⟩
  case refused => exact .of (halStart_checks ha hchecked hc) rfl (checkDesc_refuses h.isLt hcause)
  case complete => exact ⟨_, rfl, halComplete_ends ha hc hchecked hcount hrow hrec happend hkind⟩
  case zero => exact ⟨_, rfl, halZero_ends ha hc hcount hcause⟩
  case ended => exact ⟨_, rfl, cancelDone_ends hc⟩

end Sys2Proof.Machine
end

section
/-! PROOFS. The delivery of a line from scratchpad to scratchpad. -/

namespace Sys2Proof.Machine

/-! ### A scratchpad line (R41, R43) -/

/-- A scratchpad address lies in the first region of a floe's window. -/
theorem placeOf_sp {a f : Nat} (hp : placeOf a = .sp f) :
    f < 64 ∧ floeBase f + (a - floeBase f) = a ∧ a - floeBase f < 0x40_0000 := by
  have hf : f < 64 := placeOf_floe_lt (congrArg Place.floe hp)
  have hregion : ∀ {g o : Nat}, regionOf g o = .sp f → g = f ∧ o < 0x40_0000 := by
    intro g o
    unfold regionOf
    split
    · rintro ⟨⟩
      exact ⟨rfl, ‹_›⟩
    · repeat' split
      all_goals rintro ⟨⟩
  unfold placeOf at hp
  split at hp
  · cases hp
  · split at hp
    · obtain ⟨hfloe, hoff⟩ := hregion hp
      unfold floeBase
      omega
    · split at hp
      · cases hp
      · split at hp <;> cases hp

theorem regionOf_sp {f off : Nat} (h : off < 0x40_0000) : regionOf f off = .sp f := if_pos h

section
variable {s u : State} {h f a tenant : Nat}

/-- A whole line is poisoned where its tag says so. -/
theorem readsPoison_line (ha : a % 64 = 0) : s.readsPoison {} a 64 = s.poisonAt a := by
  have hlines : (a + 63) / 64 - a / 64 + 1 = 1 := by omega
  have hline : a / 64 * 64 = a := by omega
  simp [State.readsPoison, State.poisonIn, hlines, hline]

/-- A line read from an open floe, in which the codes find nothing, is given as it stands. -/
theorem lineAt_open {pin wl : Bool} {peer : Option PeerLine} (ho : OpenLine s f a) :
    s.lineAt {} tenant a pin wl {} peer = (s, { data := s.rdBytes a 64, tag := some (s.tagAt a), poison := s.poisonAt a }) := by
  obtain ⟨hplace, hline, hfence, hclosed, hready⟩ := ho
  obtain ⟨-, hbase, hoff⟩ := placeOf_sp hplace
  simp only [State.lineAt, hplace, State.floeLine, hfence, hclosed, hready, floeRead_clean, hbase, regionOf_sp hoff,
    readsPoison_line hline, Bool.or_self, Bool.not_true, Bool.false_eq_true, if_false]
  rw [← State.poisonAt, Bool.or_self]

/-- A line for a floe of its tenant, or of none, is written with its tag. -/
theorem toFloe_open {bs : Bytes} {t : Tag} (ho : OpenLine s f a) (ht : s.floeTenant f = none ∨ s.floeTenant f = some (Tag.tenant t)) :
    s.toFloe f a bs t = s.wrLine a bs t := by
  obtain ⟨hplace, hline, hfence, hclosed, hready⟩ := ho
  obtain ⟨-, -, hoff⟩ := placeOf_sp hplace
  have howner : ¬((s.floeTenant f).isSome = true ∧ s.floeTenant f ≠ some (Tag.tenant t)) := by
    rcases ht with ht | ht <;> simp [ht]
  simp only [State.toFloe, hfence, hclosed, hready, howner, regionOf_sp hoff, Bool.or_self, Bool.not_true, Bool.false_eq_true, if_false]

/-! ### What a halyard's own registers leave of the floes -/

theorem Stands.floeTenant (hs : Stands (OtherPages h) s u) (hh : h < 128) : u.floeTenant f = s.floeTenant f := by
  have hword : ∀ off, u.word (pgMst 1) off = s.word (pgMst 1) off := fun off =>
    hs.word _ _ ⟨by unfold pgMst pgHal; omega, .inr (by unfold pgMst pgHal; omega)⟩
  have hstate : u.partState = s.partState := by
    funext p
    simp only [State.partState, State.rf, hword]
  have hhas : u.partHasFloe = s.partHasFloe := by
    funext p n
    simp only [State.partHasFloe, hword]
  have htenant : u.partTenant = s.partTenant := by
    funext p
    simp only [State.partTenant, State.rf, hword]
  simp only [State.floeTenant, State.floePart, hstate, hhas, htenant]

theorem Stands.openLine (hs : Stands (OtherPages h) s u) (ho : OpenLine s f a) : OpenLine u f a := by
  obtain ⟨hplace, hline, hfence, hclosed, hready⟩ := ho
  obtain ⟨hf, -, -⟩ := placeOf_sp hplace
  have hmem : ∀ c : Fld, c.off < 4096 → u.bit (pgFmem f) c = s.bit (pgFmem f) c := fun c hc =>
    hs.bit ⟨by unfold pgFmem pgFloe pgHal; omega, .inl hc⟩
  have hcc : ∀ c : Fld, c.off < 4096 → u.rf (pgCc (f / 8)) c = s.rf (pgCc (f / 8)) c := fun c hc =>
    hs.rf ⟨by unfold pgCc pgHal; omega, .inl hc⟩
  refine ⟨hplace, hline, ?_, ?_, (hmem _ (by decide)).trans hready⟩
  · rw [← hfence]
    simp only [State.floeFenced, State.bit, hcc _ (show F.CC_STAT_LOST.off < 4096 by decide),
      hcc _ (show F.CC_STAT_SUBST.off < 4096 by decide), hcc _ (show F.CC_STAT_SUBST_FLOE.off < 4096 by decide)]
  · rw [← hclosed, State.floeClosed, State.floeClosed, hmem _ (by decide), hmem _ (by decide)]

end

/-! ### The delivery (R273, R275) -/

/-- TENANT of a tag made from its fields. -/
theorem tenant_mkTag (poison digest order : Bool) (fmt tenant stream cell slot sample : Nat) :
    Tag.tenant (mkTag poison digest order fmt tenant stream cell slot sample) = tenant % 8 := by
  have hp := poison.toNat_le
  have hd := digest.toNat_le
  have ho := order.toNat_le
  unfold Tag.tenant mkTag bits
  rw [BitVec.toNat_ofNat, Nat.shiftRight_eq_div_pow]
  omega

/-- Tag of a line that halyard `h` delivers from a tagged line (R273). -/
def State.deliveredTag (s : State) (h : Nat) (w : BitVec 512) (src : Tag) (poison : Bool) : Tag :=
  setTenant (outTag (dTagT w) (s.hal h).tenant (some src) poison) (s.hal h).tenant

/-- A delivered line that carries POISON is counted (R273). -/
def State.poisonNoted (s : State) (h : Nat) (t : Tag) : State :=
  if Tag.poison t then (s.bump (pgHal h) F.HAL_POISON_CNT).raise (pgHal h) F.HAL_ERR_STAT_LINE_POISON else s

/-- A line that its destination takes with tag `t`. -/
def State.linePlaced (s : State) (h : Nat) (w : BitVec 512) (lam : Nat) (bs : Bytes) (t : Tag) : State :=
  (s.poisonNoted h t).place h {} w lam bs t

/-- A halyard that has delivered a line without scales: one more line, its tag for the record, and its bytes in the digest lane where
both enable it (R274, R281, R287). -/
def HalSt.delivered (x : HalSt) (w : BitVec 512) (bs : Bytes) (t : Tag) : HalSt :=
  let absorb := dDgEn w && Tag.digestEn t
  { x with
    done := x.done + 1, recPoison := x.recPoison || Tag.poison t, firstTag := some (x.firstTag.getD t)
    absorbed := if absorb then x.absorbed ++ bs else x.absorbed, dgPoison := x.dgPoison || (absorb && Tag.poison t) }

theorem poisonNoted_stands (s : State) (h : Nat) (t : Tag) : Stands (OtherPages h) s (s.poisonNoted h t) :=
  .both (.raise (.bump (.refl _) clear_otherPages) clear_otherPages clear_otherPages) (.refl _)

section
variable {s : State} {h f a : Nat} {w : BitVec 512}

/-- A line with an address on an open scratchpad is placed there, and counted. -/
theorem place_open {lam : Nat} {bs : Bytes} {t : Tag} (hkind : dDstKind w = 0) (ho : OpenLine s f (dDstBase w + 64 * lam))
    (ht : s.floeTenant f = none ∨ s.floeTenant f = some (Tag.tenant t)) :
    s.place h {} w lam bs t = (s.wrLine (dDstBase w + 64 * lam) bs t).tally (pgHal h) F.HAL_LINES_LO 1 := by
  simp only [State.place, hkind, State.putLine, ho.1, toFloe_open ho ht, State.markLine]

/-- A line of the halyard's tenant, without scales: it is noted where it carries POISON, placed with its tag, and counted. -/
theorem deliverLine_own {src : Tag} {bs : Bytes} {poison : Bool} {row : Option Nat} {d j : Nat} {peer : Option PeerLine}
    (hscale : dScaled w = false) (hsrc : Tag.tenant src = (s.hal h).tenant) :
    s.deliverLine h {} w { data := bs, tag := some src, poison := poison } row d j peer =
      (s.linePlaced h w (d * dDstPitch w + j) bs (s.deliveredTag h w src poison)).setHal h
        (((s.linePlaced h w (d * dDstPitch w + j) bs (s.deliveredTag h w src poison)).hal h).delivered w bs
          (s.deliveredTag h w src poison)) := by
  simp only [State.deliverLine, hsrc, hscale, ne_eq, not_true_eq_false, decide_false, Bool.or_self, Bool.or_false, Bool.false_eq_true,
    if_false, Tag.addPoison, List.contains_nil, List.append_nil]
  rfl

/-- A line placed on an open scratchpad of its tenant, or of none: its bytes and its tag, and no other byte and no halyard. -/
theorem linePlaced_open {lam : Nat} {bs : Bytes} {t : Tag} (hh : h < 128) (hkind : dDstKind w = 0) (ho : OpenLine s f a)
    (ha : a = dDstBase w + 64 * lam) (hbs : bs.length = 64) (ht : s.floeTenant f = none ∨ s.floeTenant f = some (Tag.tenant t)) :
    (s.linePlaced h w lam bs t).rdBytes a 64 = bs ∧ (s.linePlaced h w lam bs t).tagAt a = t ∧
      BytesKept s (s.linePlaced h w lam bs t) a (a + 64) ∧ (s.linePlaced h w lam bs t).hal h = s.hal h := by
  have hnoted := poisonNoted_stands s h t
  have hplaced : s.linePlaced h w lam bs t = ((s.poisonNoted h t).wrLine a bs t).tally (pgHal h) F.HAL_LINES_LO 1 := by
    rw [ha] at ho ⊢
    exact place_open hkind (hnoted.openLine ho) (by rwa [hnoted.floeTenant hh])
  obtain ⟨hread, hkept, htag, -⟩ := wrLine_whole (s := s.poisonNoted h t) (x := a) (tag := t) hbs
  rw [hplaced]
  refine ⟨(rdBytes_of_mem (tally_mem ..) _ _).trans hread, htag, hkept.of_mem hnoted.data.1, ?_⟩
  rw [← hnoted.hal]
  unfold State.hal
  rw [tally_hals, wrLine_hals]

/-! ### The next line of a transfer without an index (R266) -/

/-- A line of an open scratchpad is read as it stands. -/
theorem readSource_open {r j : Nat} {ecc : Ecc} {peer : Option PeerLine} (hkind : dSrcKind w = 0) (hrec : dSrcRec w = false)
    (hsrcTag : (s.hal h).srcTag = none) (hecc : ecc = {}) (ho : OpenLine s f a) (ha : a = dSrcBase w + 64 * (r * dSrcPitch w + j)) :
    s.readSource h {} w (some r) j ecc peer =
      some (s, { data := s.rdBytes a 64, tag := some (s.tagAt a), poison := s.poisonAt a }) := by
  subst hecc ha
  simp only [State.readSource, hkind, hrec, Bool.false_and, Bool.false_eq_true, if_false, lineAt_open ho, hsrcTag]

/-- The next line is delivered to its row, and the visit steps on. -/
theorem halLine_own (hactive : (s.hal h).active = some { word := w }) (hchecked : (s.hal h).checked = true)
    (hcancel : (s.hal h).cancelling = false) (hrow : (s.hal h).row < dCount w) (hidx : dIdxEn w = false) {src : Tag} {bs : Bytes}
    {poison : Bool} (hread : s.readSource h {} w (some (s.hal h).row) (s.hal h).line {} none =
      some (s, { data := bs, tag := some src, poison := poison }))
    (hscale : dScaled w = false) (hsrc : Tag.tenant src = (s.hal h).tenant) {u : State}
    (hu : s.linePlaced h w ((s.hal h).row * dDstPitch w + (s.hal h).line) bs (s.deliveredTag h w src poison) = u) :
    s.halLine h {} none =
      (u.setHal h ((u.hal h).delivered w bs (s.deliveredTag h w src poison))).setHal h
        (((u.hal h).delivered w bs (s.deliveredTag h w src poison)).advance w false) := by
  simp only [State.halLine, hactive, hchecked, hcancel, Nat.not_le.2 hrow, State.visit, hidx, hread, State.rowBegins,
    deliverLine_own hscale hsrc, hu, hal_setHal, decide_false, Bool.not_true, Bool.or_self, Bool.false_eq_true, false_and, if_false]

/-- The visit after a line: the next line of the row, or the first of the next row. -/
theorem advance_line (x : HalSt) (w : BitVec 512) : (x.advance w false).done = x.done ∧ ((x.advance w false).row, (x.advance w false).line) =
    if dRowLines w ≤ x.line + 1 then (x.row + 1, 0) else (x.row, x.line + 1) := by
  by_cases hend : dRowLines w ≤ x.line + 1 <;> simp [HalSt.advance, hend]

end

/-! ### The statement -/

/-- Settles O24: the source line is read as it stands, placed with its delivered tag on a floe that takes it, and counted. -/
theorem halyardLine : Obligations.HalyardLine := by
  intro h f g w s hactive hchecked hcancel hrow hsrcKind hdstKind hidx hrec hsrcTag hscale hfrom hto hsrc howner
  have hread := readSource_open (peer := none) hsrcKind hrec hsrcTag rfl hfrom rfl
  have htenant : Tag.tenant (s.deliveredTag h w (s.tagAt (nextSrc (s.hal h) w)) (s.poisonAt (nextSrc (s.hal h) w))) = (s.hal h).tenant := by
    rw [State.deliveredTag, setTenant, tenant_mkTag, ← hsrc]
    exact Nat.mod_eq_of_lt (bits_lt _ _ _)
  obtain ⟨hbytes, htag, hkept, hhal⟩ := linePlaced_open h.isLt hdstKind hto rfl (rdBytes_length s (nextSrc (s.hal h) w) 64)
    (htenant.symm ▸ howner)
  have hline := halLine_own hactive hchecked hcancel hrow hidx hread hscale hsrc rfl
  rw [hhal] at hline
  obtain ⟨hdone, hnext⟩ := advance_line ((s.hal h).delivered w (s.rdBytes (nextSrc (s.hal h) w) 64)
    (s.deliveredTag h w (s.tagAt (nextSrc (s.hal h) w)) (s.poisonAt (nextSrc (s.hal h) w)))) w
  refine .of hline rfl ⟨(rdBytes_of_mem (setHal_mem ..) _ _).trans hbytes, htag, hkept, ?_, ?_⟩
  · rw [hal_setHal, hdone]
    rfl
  · rw [hal_setHal, hnext]
    rfl

end Sys2Proof.Machine
end

section
/-! SUPPORT. Tests: states that meet the hypotheses of the statements on halyards. -/

namespace Sys2Proof.Tests

open Sys2Proof.Machine

/-- The transfer of the chapter's example, cut to two rows of two lines: scratchpad of floe 17 to that of floe 20, XFER_ID 7. -/
def copyWord : BitVec 512 :=
  BitVec.ofNat 512 (floeBase 17 + (floeBase 20 + 2 * 2 ^ 40) * 2 ^ 64 + 2 * 2 ^ 192 + 7 * 2 ^ 40 * 2 ^ 384)

/-- The same without rows. -/
def zeroWord : BitVec 512 := BitVec.ofNat 512 (floeBase 17 + (floeBase 20 + 2 * 2 ^ 40) * 2 ^ 64)

/-- Halyard 83 is ready, in a given state. -/
def halIn (x : HalSt) : State := (State.reset.wf (pgHal 83) F.PAGE_STAT_READY 1).setHal 83 x

/-! ### A line -/

/-- The second line of the first row is next; it carries POISON and belongs to tenant 3. -/
def copying : State :=
  ((((halIn { active := some { word := copyWord }, checked := true, line := 1, done := 1, tenant := 3 }).wf (pgFmem 17)
    F.PAGE_STAT_READY 1).wf (pgFmem 20) F.PAGE_STAT_READY 1).wrByte (floeBase 17 + 64) 5).setTag (floeBase 17 + 64)
    (mkTag true false false 0 3 0 0 0 9)

/-- The line arrives with its poison, and the next row begins. -/
theorem test_halyard_line : ∃ t, exec (.halLineDeliver 83 {} none) copying = .next t ∧
    t.rdBytes (floeBase 20 + 64) 64 = copying.rdBytes (floeBase 17 + 64) 64 ∧ t.poisonAt (floeBase 20 + 64) = true ∧
    ((t.hal 83).row, (t.hal 83).line) = (1, 0) := by
  have hdst : nextDst (copying.hal (83 : Fin 128)) copyWord = floeBase 20 + 64 := by decide +kernel
  have hsrc : nextSrc (copying.hal (83 : Fin 128)) copyWord = floeBase 17 + 64 := by decide +kernel
  have hto : OpenLine copying 20 (floeBase 20 + 64) := by unfold OpenLine; decide +kernel
  have hfrom : OpenLine copying 17 (floeBase 17 + 64) := by unfold OpenLine; decide +kernel
  obtain ⟨t, ht, hread, htag, -, -, hnext⟩ := halyardLine 83 17 20 copyWord copying (by decide +kernel) (by decide +kernel)
    (by decide +kernel) (by decide +kernel) (by decide +kernel) (by decide +kernel) (by decide +kernel) (by decide +kernel)
    (by decide +kernel) (by decide +kernel) (hsrc ▸ hfrom) (hdst ▸ hto) (by decide +kernel) (by decide +kernel)
  rw [hdst, hsrc] at hread
  rw [hdst] at htag
  refine ⟨t, ht, hread, ?_, hnext.trans (by decide +kernel)⟩
  rw [State.poisonAt, htag]
  decide +kernel

/-! ### Arming and cancelling -/

/-- GO on an idle halyard. -/
theorem test_halyard_go : ∃ t, exec (.halArmGo (.fw 0) 83) (halIn {}) = .next t ∧
    (t.hal 83).active = some { word := (halIn {}).halStage 83 } := by
  obtain ⟨harm, -⟩ := halyardArming.1 (.fw 0) 83 (halIn {})
  obtain ⟨hidle, -⟩ := harm (by decide +kernel) (by decide +kernel) (by decide +kernel)
  obtain ⟨t, ht, hactive, -⟩ := hidle (by decide +kernel) (by decide +kernel)
  exact ⟨t, ht, hactive⟩

/-- Active and shadow both hold a transfer. -/
def halFull : State := halIn { active := some { word := copyWord }, shadow := some { word := zeroWord } }

/-- A third transfer replaces the shadow. -/
theorem test_halyard_overrun : ∃ t, exec (.halArmGo (.fw 0) 83) halFull = .next t ∧
    t.bit (pgHal 83) F.HAL_ERR_STAT_OVERRUN = true ∧ t.rf (pgHal 83) F.HAL_OVERRUN_CNT = 1 := by
  obtain ⟨harm, -⟩ := halyardArming.1 (.fw 0) 83 halFull
  obtain ⟨-, hbusy⟩ := harm (by decide +kernel) (by decide +kernel) (by decide +kernel)
  obtain ⟨t, ht, -, -, hoverrun, -⟩ := hbusy (by decide +kernel)
  obtain ⟨hflag, hcounts⟩ := hoverrun (by decide +kernel)
  exact ⟨t, ht, hflag, hcounts.trans (by decide +kernel)⟩

theorem test_halyard_cancelAll : ∃ t, exec (.halCancelAll (.fw 0) 83) halFull = .next t ∧ (t.hal 83).cancelling = true ∧
    (t.hal 83).shadow = none ∧ t.rf (pgHal 83) F.HAL_OVERRUN_CNT = 1 := by
  obtain ⟨-, hcancels, -⟩ := halyardArming.1 (.fw 0) 83 halFull
  obtain ⟨-, t, ht, hcancel, hshadow, hcounts, -⟩ := hcancels { word := copyWord } (by decide +kernel) (by decide +kernel)
    (by decide +kernel) (by decide +kernel) (by decide +kernel)
  exact ⟨t, ht, hcancel, hshadow, (hcounts (by decide +kernel)).trans (by decide +kernel)⟩

/-- Software has no say over a partition's halyard. -/
theorem test_halyard_denied : ∃ t, exec (.halCancel (.fw 0) 83) (halFull.wf (pgHal 83) F.HAL_TENANT_PART 1) = .next t ∧
    t.hals = halFull.hals ∧ t.bit (pgHal 83) F.HAL_ERR_STAT_ARM_DENIED = true := by
  obtain ⟨-, -, hdenied, -⟩ := halyardArming.1 (.fw 0) 83 (halFull.wf (pgHal 83) F.HAL_TENANT_PART 1)
  obtain ⟨-, ⟨t, ht, hhals, hflag⟩, -⟩ := hdenied (by decide +kernel) (by decide +kernel)
  exact ⟨t, ht, hhals, hflag⟩

/-! ### Activation and the checks -/

theorem test_halyard_promotes : ∃ t, exec (.descActivate 83) (halIn { shadow := some { word := copyWord } }) = .next t ∧
    (t.hal 83).active = some { word := copyWord } ∧ (t.hal 83).shadow = none := by
  obtain ⟨-, -, -, hpromotes, -⟩ := halyardArming.1 (.fw 0) 83 (halIn { shadow := some { word := copyWord } })
  obtain ⟨t, ht, hactive, hshadow, -⟩ := hpromotes { word := copyWord } (by decide +kernel) (by decide +kernel) (by decide +kernel)
    (by decide +kernel) rfl
  exact ⟨t, ht, hactive, hshadow⟩

theorem test_halyard_passes : ∃ t, exec (.descActivate 83) halFull = .next t ∧ (t.hal 83).checked = true := by
  obtain ⟨-, -, -, -, hchecks⟩ := halyardArming.1 (.fw 0) 83 halFull
  obtain ⟨hpasses, -⟩ := hchecks { word := copyWord } (by decide +kernel) (by decide +kernel) (by decide +kernel)
  obtain ⟨t, ht, -, hchecked, -⟩ := hpasses (by decide +kernel)
  exact ⟨t, ht, hchecked⟩

/-- A cluster halyard never touches DRAM: the word of zeros fails with cause 1. -/
theorem test_halyard_refuses : ∃ t, exec (.descActivate 83) (halIn { active := some { word := 0 } }) = .next t ∧
    (t.hal 83).active = none ∧ t.rf (pgHal 83) F.HAL_BAD_CAUSE = 1 := by
  obtain ⟨-, -, -, -, hchecks⟩ := halyardArming.1 (.fw 0) 83 (halIn { active := some { word := 0 } })
  obtain ⟨-, hrefuses⟩ := hchecks { word := 0 } (by decide +kernel) (by decide +kernel) (by decide +kernel)
  obtain ⟨t, ht, hactive, hcause, -⟩ := hrefuses (by decide +kernel)
  exact ⟨t, ht, hactive, hcause.trans (by decide +kernel)⟩

/-! ### Ends -/

/-- Both rows are done: the transfer completes with its four lines. -/
theorem test_halyard_completes : ∃ t, exec (.halTransferComplete 83 150)
    (halIn { active := some { word := copyWord }, checked := true, row := 2, done := 4 }) = .next t ∧
    (t.hal 83).active = none ∧ t.rf (pgHal 83) F.HAL_LINES_DONE = 4 := by
  obtain ⟨hends, -⟩ := halyardArming.2 83 (halIn { active := some { word := copyWord }, checked := true, row := 2, done := 4 })
  obtain ⟨hcompletes, -⟩ := hends { word := copyWord } 150 (by decide +kernel) (by decide +kernel)
  obtain ⟨t, ht, hactive, -, -, hlines, -⟩ := hcompletes (by decide +kernel) (by decide +kernel) (by decide +kernel)
    (by decide +kernel) (by decide +kernel) (by decide +kernel)
  exact ⟨t, ht, hactive, hlines.trans (by decide +kernel)⟩

theorem test_halyard_zeroRows : ∃ t, exec (.halZeroRowComplete 83) (halIn { active := some { word := zeroWord } }) = .next t ∧
    t.rf (pgHal 83) F.HAL_ZERO_CNT = 1 := by
  obtain ⟨hends, -⟩ := halyardArming.2 83 (halIn { active := some { word := zeroWord } })
  obtain ⟨-, hzero⟩ := hends { word := zeroWord } 0 (by decide +kernel) (by decide +kernel)
  obtain ⟨t, ht, -, -, hcounts, -⟩ := hzero (by decide +kernel) (by decide +kernel)
  exact ⟨t, ht, hcounts.trans (by decide +kernel)⟩

/-- A cancel ends after one line; the shadow waits for its activation. -/
theorem test_halyard_cancelEnds : ∃ t, exec (.cancelEnd 83 90)
    (halIn { active := some { word := copyWord }, shadow := some { word := zeroWord }, cancelling := true, done := 1 }) = .next t ∧
    (t.hal 83).shadow = some { word := zeroWord } ∧ t.rf (pgHal 83) F.HAL_LINES_DONE = 1 := by
  obtain ⟨-, hcancelled⟩ := halyardArming.2 83
    (halIn { active := some { word := copyWord }, shadow := some { word := zeroWord }, cancelling := true, done := 1 })
  obtain ⟨t, ht, -, -, hshadow, -, -, hlines, -⟩ := hcancelled 90 (by decide +kernel)
  exact ⟨t, ht, hshadow.trans (by decide +kernel), hlines.trans (by decide +kernel)⟩

end Sys2Proof.Tests
end

section
/-! SUPPORT. Serac: what the update of an engine leaves, and the cases of its input, its start, its decoding and its end. -/

namespace Sys2Proof.Machine

/-! ### An engine's state -/

theorem ser_of_sers {s t : State} (h : t.sers = s.sers) (e : Nat) : t.ser e = s.ser e := by
  unfold State.ser
  rw [h]

section
variable (s : State) (e : Nat) (x : SerSt)

@[simp] theorem ser_setSer : (s.setSer e x).ser e = x := Tab.at_set_same s.sers e {} x

@[simp] theorem setSer_mem : (s.setSer e x).mem = s.mem := rfl

@[simp] theorem setSer_tags : (s.setSer e x).tags = s.tags := rfl

/-- Writing an engine's state sets SER_STAT beside it (R342), and no other register. -/
theorem rf_setSer {f : Fld} (hf : f.off / 4 ≠ 0x044 / 4) : (s.setSer e x).rf (pgSer e) f = s.rf (pgSer e) f := by
  unfold State.setSer
  dsimp only
  rw [rf_wf_apart _ _ _ _ (.inl ⟨hf, rfl⟩), rf_wf_apart _ _ _ _ (.inl ⟨hf, rfl⟩), rf_wf_apart _ _ _ _ (.inl ⟨hf, rfl⟩)]
  rfl

end

/-! ### Input (R335) -/

section
variable {s : State} {e : Nat} {l : TaggedLine} {src : Option Nat}

/-- A line is the first of a job, which is complete where its header calls for no more. -/
theorem serInput_first (hw : s.works (pgSer e) = true) (hctrl : s.bit (pgSer e) F.SER_CTRL = true)
    (hshut : s.shutting (pgSer e) = false) (hfill : (s.ser e).fill = none) (hroom : (s.ser e).jobs.length < 2) :
    s.serInput e l src =
      if (serHdr { lines := [l] }).inLines ≤ 1 then
        s.setSer e { s.ser e with fill := none, src := none, jobs := (s.ser e).jobs ++ [{ lines := [l] }] }
      else s.setSer e { s.ser e with fill := some { lines := [l] }, src := src } := by
  simp [State.serInput, hw, hctrl, hshut, hfill, Nat.not_le.2 hroom]

/-- Two jobs wait: the first line of a third is discarded, counted and reported. -/
theorem serInput_overrun (hw : s.works (pgSer e) = true) (hctrl : s.bit (pgSer e) F.SER_CTRL = true)
    (hshut : s.shutting (pgSer e) = false) (hfill : (s.ser e).fill = none) (hfull : 2 ≤ (s.ser e).jobs.length) :
    s.serInput e l src = (s.bump (pgSer e) F.SER_DISCARD_CNT).fault (pgSer e) F.SER_ERR_STAT_IN_OVERRUN 4 l.tag := by
  simp [State.serInput, hw, hctrl, hshut, hfill, hfull]

/-- CTRL 0: a line is discarded and counted. -/
theorem serInput_closed (hw : s.works (pgSer e) = true) (hctrl : s.bit (pgSer e) F.SER_CTRL = false) :
    s.serInput e l src = s.bump (pgSer e) F.SER_DISCARD_CNT := by
  simp [State.serInput, hw, hctrl]

end

/-! ### The start of a job (R335, R339) -/

/-- The job identifier of a header is a word of 32 bits (R324). -/
theorem serHdr_id_lt (j : SerJob) : (serHdr j).id < 2 ^ 32 :=
  (leNat_lt _).trans_le (Nat.pow_le_pow_right (n := 256) (by decide) (List.length_take_le 4 _))

/-- The causes of R339 are 1 to 7, and fit in SER_BAD_CAUSE. -/
theorem serCause_le (x : SerSt) (j : SerJob) : serCause x j ≤ 7 := by
  unfold serCause
  extract_lets _ _ _ _ _ _ checks
  have hcodes : ∀ c ∈ checks, c.1 ≤ 7 := by simp [checks]
  cases hfind : checks.find? (·.2) with
  | none => exact Nat.zero_le 7
  | some c => exact hcodes c (List.mem_of_find?_eq_some hfind)

/-- The engine runs its oldest job `j` with the outcome of its checks, and SER_JOB_ID names it. -/
def State.serStarted (s : State) (e : Nat) (j : SerJob) (js : List SerJob) : State :=
  (s.setSer e { (s.ser e).boundary with
    jobs := js, run := some { job := j, cause := serCause (s.ser e).boundary j } }).wf (pgSer e) F.SER_JOB_ID (serHdr j).id

section
variable {s : State} {e : Nat} {j : SerJob} {js : List SerJob}

theorem serStart_runs (hrun : (s.ser e).run = none) (hjobs : (s.ser e).jobs = j :: js) (hw : s.works (pgSer e) = true) :
    s.serStart e =
      if serCause (s.ser e).boundary j = 0 then s.serStarted e j js
      else ((s.serStarted e j js).wf (pgSer e) F.SER_BAD_CAUSE (serCause (s.ser e).boundary j)).fault (pgSer e) F.SER_ERR_STAT_JOB_BAD 5
        (serHdr j).tag (serHdr j).id (some (serCause (s.ser e).boundary j)) := by
  simp only [State.serStart, hrun, hjobs, hw, Bool.not_true, Bool.false_eq_true, if_false]
  rfl

theorem serStarted_jobId : (s.serStarted e j js).rf (pgSer e) F.SER_JOB_ID = (serHdr j).id :=
  (rf_wf_same _ _ _ _ (by decide)).trans (Nat.mod_eq_of_lt (serHdr_id_lt j))

theorem serStart_jobId (hrun : (s.ser e).run = none) (hjobs : (s.ser e).jobs = j :: js) (hw : s.works (pgSer e) = true) :
    (s.serStart e).rf (pgSer e) F.SER_JOB_ID = (serHdr j).id := by
  rw [serStart_runs hrun hjobs hw]
  split
  · exact serStarted_jobId
  · rw [rf_fault_apart _ _ _ _ _ _ _ (.inl ⟨by decide, rfl⟩) (.inl ⟨by decide, rfl⟩),
      rf_wf_apart _ _ _ _ (.inl ⟨by decide, rfl⟩), serStarted_jobId]

/-- A job that fails a check is reported with its cause (R339). -/
theorem serStart_refuses (hrun : (s.ser e).run = none) (hjobs : (s.ser e).jobs = j :: js) (hw : s.works (pgSer e) = true)
    (hcause : serCause (s.ser e).boundary j ≠ 0) :
    (s.serStart e).bit (pgSer e) F.SER_ERR_STAT_JOB_BAD = true ∧
      (s.serStart e).rf (pgSer e) F.SER_BAD_CAUSE = serCause (s.ser e).boundary j := by
  rw [serStart_runs hrun hjobs hw, if_neg hcause]
  refine ⟨bit_fault _ _ _ _ _ _ rfl (by decide) (by decide), ?_⟩
  rw [rf_fault_apart _ _ _ _ _ _ _ (.inl ⟨by decide, rfl⟩) (.inl ⟨by decide, rfl⟩), rf_wf_same _ _ _ _ (by decide)]
  exact Nat.mod_eq_of_lt ((serCause_le _ j).trans_lt (by decide))

theorem serStart_ser (hrun : (s.ser e).run = none) (hjobs : (s.ser e).jobs = j :: js) (hw : s.works (pgSer e) = true) :
    (s.serStart e).ser e = { (s.ser e).boundary with jobs := js, run := some { job := j, cause := serCause (s.ser e).boundary j } } ∧
      DataKept s (s.serStart e) := by
  have hstarted : (s.serStart e).sers = (s.serStarted e j js).sers ∧ DataKept (s.serStarted e j js) (s.serStart e) := by
    rw [serStart_runs hrun hjobs hw]
    split <;> simp [DataKept]
  obtain ⟨hsers, hmem, htags⟩ := hstarted
  refine ⟨(ser_of_sers hsers e).trans ?_, hmem.trans (by simp [State.serStarted]), htags.trans (by simp [State.serStarted])⟩
  rw [State.serStarted, ser_of_sers (wf_sers ..), ser_setSer]

end

/-! ### The end of a job (R335, R337) -/

/-- The output queue with one more record: a fifth discards the oldest. -/
def SerSt.queued (x : SerSt) (rc : SerRec) : List SerRec := (if 4 ≤ x.out.length then x.out.drop 1 else x.out) ++ [rc]

theorem queued_eq (x : SerSt) (rc : SerRec) : x.queued rc = (if x.out.length < 4 then x.out else x.out.drop 1) ++ [rc] := by
  simp only [SerSt.queued, ← Nat.not_lt, ite_not]

/-- The job `r` has ended with the record `rc`, before its counters. -/
def State.serQueued (s : State) (e : Nat) (r : SerRun) (rc : SerRec) : State :=
  let t := s.setSer e { (s.ser e).boundary with run := none, out := (s.ser e).queued rc }
  if 4 ≤ (s.ser e).out.length then t.fault (pgSer e) F.SER_ERR_STAT_OUT_OVERRUN 4 0 (serHdr r.job).id else t

/-- A record whose transport block failed is counted (R342). -/
def State.tbFailNoted (s : State) (e : Nat) (rc : SerRec) : State :=
  let st := leNat (slice ((rc.lines.headD ⟨[], 0⟩).data) 1 1)
  if st = 1 ∨ st = 2 then s.bump (pgSer e) F.SER_TB_FAIL_CNT else s

section
variable {s : State} {e : Nat} {r : SerRun} {rc : SerRec}

theorem serEnd_queues {cycles : Nat} (hrun : (s.ser e).run = some r)
    (hrec : (if r.cause = 0 then r.rec? else some (badRec (serHdr r.job) r.cause)) = some rc) :
    s.serEnd e cycles =
      (((s.serQueued e r rc).tbFailNoted e rc).bump (pgSer e) F.SER_JOB_CNT).tally (pgSer e) F.SER_BUSY_CYC_LO cycles := by
  simp only [State.serEnd, hrun, hrec, State.serQueued, SerSt.queued, State.tbFailNoted, decide_eq_true_eq, ge_iff_le]

theorem tbFailNoted_stays (s : State) (e : Nat) (rc : SerRec) : (s.tbFailNoted e rc).sers = s.sers ∧ DataKept s (s.tbFailNoted e rc) := by
  unfold State.tbFailNoted
  dsimp only
  split <;> simp [DataKept]

theorem rf_tbFailNoted {f : Fld} (hf : f.off / 4 ≠ 0x060 / 4) : (s.tbFailNoted e rc).rf (pgSer e) f = s.rf (pgSer e) f := by
  unfold State.tbFailNoted
  dsimp only
  split
  · exact rf_bump_apart _ _ _ (.inl ⟨hf, rfl⟩)
  · rfl

theorem serQueued_ser :
    (s.serQueued e r rc).ser e = { (s.ser e).boundary with run := none, out := (s.ser e).queued rc } ∧
      DataKept s (s.serQueued e r rc) := by
  unfold State.serQueued
  dsimp only
  split
  · exact ⟨(ser_of_sers (fault_sers ..) e).trans (ser_setSer ..), by simp [DataKept]⟩
  · exact ⟨ser_setSer .., by simp [DataKept]⟩

theorem serQueued_jobCnt : (s.serQueued e r rc).rf (pgSer e) F.SER_JOB_CNT = s.rf (pgSer e) F.SER_JOB_CNT := by
  unfold State.serQueued
  dsimp only
  split
  · rw [rf_fault_apart _ _ _ _ _ _ _ (.inl ⟨by decide, rfl⟩) (.inl ⟨by decide, rfl⟩), rf_setSer _ _ _ (by decide)]
  · exact rf_setSer _ _ _ (by decide)

theorem serQueued_overrun (hfull : 4 ≤ (s.ser e).out.length) : (s.serQueued e r rc).bit (pgSer e) F.SER_ERR_STAT_OUT_OVERRUN = true := by
  rw [State.serQueued, if_pos hfull]
  exact bit_fault _ _ _ _ _ _ rfl (by decide) (by decide)

section
variable {cycles : Nat} (hrun : (s.ser e).run = some r)
  (hrec : (if r.cause = 0 then r.rec? else some (badRec (serHdr r.job) r.cause)) = some rc)
include hrun hrec

theorem serEnd_ser :
    (s.serEnd e cycles).ser e = { (s.ser e).boundary with run := none, out := (s.ser e).queued rc } ∧ DataKept s (s.serEnd e cycles) := by
  obtain ⟨hser, hmem, htags⟩ := serQueued_ser (s := s) (e := e) (r := r) (rc := rc)
  obtain ⟨hsers, hmem', htags'⟩ := tbFailNoted_stays (s.serQueued e r rc) e rc
  rw [serEnd_queues hrun hrec]
  refine ⟨?_, by simp [DataKept, hmem', hmem, htags', htags]⟩
  rw [ser_of_sers (tally_sers ..), ser_of_sers (bump_sers ..), ser_of_sers hsers, hser]

theorem serEnd_counts : Counts s (s.serEnd e cycles) (pgSer e) F.SER_JOB_CNT := by
  rw [Counts, serEnd_queues hrun hrec, rf_of_regs (tally_regs ..), rf_bump _ _ ⟨rfl, rfl⟩, rf_tbFailNoted (by decide), serQueued_jobCnt]

theorem serEnd_overrun (hfull : 4 ≤ (s.ser e).out.length) : (s.serEnd e cycles).bit (pgSer e) F.SER_ERR_STAT_OUT_OVERRUN = true := by
  rw [serEnd_queues hrun hrec, bit_of_regs (tally_regs ..), bit_bump_apart _ _ _ (.inl ⟨by decide, rfl⟩), State.bit,
    rf_tbFailNoted (by decide)]
  exact serQueued_overrun hfull

end

/-! ### Records out (R335) -/

/-- The next line of the oldest record is answered; its last line frees the record. -/
theorem serRead_next {rest : List SerRec} {l : TaggedLine} (hout : (s.ser e).out = rc :: rest) (hline : rc.lines[rc.next]? = some l) :
    s.serRead e rc.next =
      (s.setSer e { s.ser e with
        out := if rc.lines.length ≤ rc.next + 1 then rest else { rc with next := rc.next + 1 } :: rest },
      some (l, decide (rc.lines.length ≤ rc.next + 1))) := by
  by_cases hlast : rc.lines.length ≤ rc.next + 1 <;> simp [State.serRead, hout, hline, hlast]

/-! ### What a decoding leaves (R331, R342) -/

/-- A decoding without a memory error gives the running job its record, and may report poisoned input. -/
theorem serDecoded_clean (s : State) (e : Nat) (r : SerRun) (rc : SerRec) (poison : Bool) :
    s.serDecoded e r rc poison false =
      if poison then (s.setSer e { s.ser e with run := some { r with rec? := some rc } }).raise (pgSer e) F.SER_ERR_STAT_IN_POISON
      else s.setSer e { s.ser e with run := some { r with rec? := some rc } } := rfl

theorem serDecoded_ser (s : State) (e : Nat) (r : SerRun) (rc : SerRec) (poison : Bool) :
    (s.serDecoded e r rc poison false).ser e = { s.ser e with run := some { r with rec? := some rc } } ∧
      DataKept s (s.serDecoded e r rc poison false) := by
  rw [serDecoded_clean]
  cases poison with
  | false => exact ⟨ser_setSer .., by simp [DataKept]⟩
  | true => exact ⟨(ser_of_sers (raise_sers ..) e).trans (ser_setSer ..), by simp [DataKept]⟩

/-- The record of a decoding touches SER_STAT, SER_ERR_STAT and IRQ_STAT alone. -/
theorem rf_serDecoded {f : Fld} {poison : Bool} (hstat : f.off / 4 ≠ 0x044 / 4) (herr : f.off / 4 ≠ 0x048 / 4)
    (hirq : f.off / 4 ≠ 0x010 / 4) :
    (s.serDecoded e r rc poison false).rf (pgSer e) f = s.rf (pgSer e) f := by
  rw [serDecoded_clean]
  cases poison with
  | false => exact rf_setSer _ _ _ hstat
  | true => exact (rf_raise_apart _ _ _ (.inl ⟨herr, rfl⟩) (.inl ⟨hirq, rfl⟩)).trans (rf_setSer _ _ _ hstat)

theorem serBlocks_stays (s : State) (e : Nat) (cbs : List CbOut) : (s.serBlocks e cbs).sers = s.sers ∧ DataKept s (s.serBlocks e cbs) := by
  simp [State.serBlocks, DataKept]

/-- SER_CB_CNT rises by the blocks decoded, up to its largest value (R77, R342). -/
theorem rf_serBlocks_cbCnt (s : State) (e : Nat) (cbs : List CbOut) :
    (s.serBlocks e cbs).rf (pgSer e) F.SER_CB_CNT = min (s.rf (pgSer e) F.SER_CB_CNT + cbs.length) 0xFFFFFFFF :=
  (rf_wf_apart _ _ _ _ (.inl ⟨by decide, rfl⟩)).trans (rf_bump_same _ _ _ (by decide) _)

end

/-! ### The decoders (R328, R331, R332, R334) -/

section
variable {s : State} {e : Nat} {r : SerRun} {h : SerHdr}

/-- The counters of an LDPC job: its blocks, its iterations and the blocks that converged early (R342). -/
def State.ldpcCounted (s : State) (e : Nat) (cbs : List CbOut) (iters early : Nat) : State :=
  ((s.serBlocks e cbs).tally (pgSer e) F.SER_ITER_LO iters).bumpN (pgSer e) F.SER_EARLY_CNT early

theorem ldpcCounted_stays (s : State) (e : Nat) (cbs : List CbOut) (iters early : Nat) :
    (s.ldpcCounted e cbs iters early).sers = s.sers ∧ DataKept s (s.ldpcCounted e cbs iters early) := by
  simp [State.ldpcCounted, State.serBlocks, DataKept]

theorem rf_ldpcCounted_cbCnt (s : State) (e : Nat) (cbs : List CbOut) (iters early : Nat) :
    (s.ldpcCounted e cbs iters early).rf (pgSer e) F.SER_CB_CNT = min (s.rf (pgSer e) F.SER_CB_CNT + cbs.length) 0xFFFFFFFF := by
  rw [State.ldpcCounted, State.bumpN, rf_wf_apart _ _ _ _ (.inl ⟨by decide, rfl⟩), rf_of_regs (tally_regs ..), rf_serBlocks_cbCnt]

/-- An LDPC job decodes as many code blocks as its header says, counts them, and has its record. -/
theorem serLdpc_form (hready : (s.ser e).ready 1 = some (r, h)) :
    ∃ cbs iters early rc poison, cbs.length = h.b6 ∧
      s.serLdpc e false = (s.ldpcCounted e cbs iters early).serDecoded e r rc poison false := by
  simp only [State.serLdpc, hready]
  exact ⟨_, _, _, _, _, by simp only [List.length_map, List.length_range], rfl⟩

/-- A POLAR job decodes one block. -/
theorem serPolar_form (hready : (s.ser e).ready 2 = some (r, h)) :
    ∃ cb rc poison, s.serPolar e false = (s.serBlocks e [cb]).serDecoded e r rc poison false := by
  simp only [State.serPolar, hready]
  exact ⟨_, _, _, rfl⟩

/-- The status of a TB_CHECK job without poison, of a header with a CRC (R332). -/
def tbCheckStatus (r : SerRun) (h : SerHdr) : Nat :=
  if !(tbParts r.job h.b6).all partOk then 2
  else if tbCombine (tbGen h.tbCrc) ((tbParts r.job h.b6).map fun l => (leNat (slice l.data 12 3), leNat (slice l.data 8 4))) = 0 then 0
  else 1

theorem serTbCheck_clean (hready : (s.ser e).ready 3 = some (r, h)) (htag : Tag.poison h.tag = false)
    (hparts : (tbParts r.job h.b6).all (fun l => !Tag.poison l.tag) = true) (hcrc : h.tbCrc ≠ 0) :
    s.serTbCheck e false = s.serDecoded e r (mkRec h false { status := tbCheckStatus r h, ncb := h.b6 } []) false false := by
  have hclean : ((List.range h.b6).map (partLine r.job)).any (fun l => Tag.poison l.tag) = false := by
    rw [← Bool.not_eq_true', List.not_any_eq_all_not]
    exact hparts
  simp only [State.serTbCheck, hready, hclean, htag, hcrc, Bool.or_self, Bool.false_eq_true, if_false]
  rfl

/-- Set `k` of an engine has been loaded, and the load is counted (R328, R342). -/
def State.wsetLoaded (s : State) (e k : Nat) (w : SerSet) : State :=
  (s.setSer e { s.ser e with sets := Tab.set (s.ser e).sets k {} w }).bump (pgSer e) F.SER_WSET_LOAD_CNT

theorem wsetLoaded_set (s : State) (e k : Nat) (w : SerSet) : ((s.wsetLoaded e k w).ser e).set k = w := by
  rw [State.wsetLoaded, ser_of_sers (bump_sers ..), ser_setSer]
  exact Tab.at_set_same ..

theorem wsetLoaded_data (s : State) (e k : Nat) (w : SerSet) : DataKept s (s.wsetLoaded e k w) := by
  simp [State.wsetLoaded, DataKept]

theorem wsetLoaded_counts (s : State) (e k : Nat) (w : SerSet) : Counts s (s.wsetLoaded e k w) (pgSer e) F.SER_WSET_LOAD_CNT := by
  rw [Counts, State.wsetLoaded, rf_bump _ _ ⟨rfl, rfl⟩, rf_setSer _ _ _ (by decide)]

/-- A load without poison writes the bank that is not active and makes it active, for the tenant of the header (R328). -/
theorem serWset_form (hready : (s.ser e).ready 4 = some (r, h)) (htag : Tag.poison h.tag = false)
    (hlines : (jobLines r.job 1 (h.inLines - 1)).2 = false) :
    ∃ w rc, s.serWset e false = (s.wsetLoaded e h.wset w).serDecoded e r rc false false ∧
      w.active = (!((s.ser e).set h.wset).active) ∧ w.owner = some (Tag.tenant h.tag) ∧ w.loaded = true ∧
      w.graph = bits h.flags 1 0 := by
  simp only [State.serWset, hready, htag, hlines, Bool.or_self, Bool.false_eq_true, if_false]
  exact ⟨_, _, rfl, rfl, rfl, rfl, rfl⟩

end

end Sys2Proof.Machine
end

section
/-! PROOFS. Serac: input, start, end and records of jobs, and what each kind of job decodes. -/

namespace Sys2Proof.Machine

section
variable {s : State} {e : Fin 8}

/-! ### Input -/

/-- A line that reaches the engine from outside the halyards is whole. -/
theorem exec_seracInputLine {d : Bytes} {tag : Tag} (hd : d.length = 64) :
    exec (.seracInputLine e d tag) s = .next (s.serInput e { data := d, tag := tag } none) := by
  rw [show exec (.seracInputLine e d tag) s = .next (s.serInput e { data := sized 64 d, tag := tag } none) from rfl, sized_of_length hd]

/-- A third job: no engine changes, and the line is counted as discarded. -/
theorem serInput_overrun_keeps {l : TaggedLine} {src : Option Nat} (hw : s.works (pgSer e) = true)
    (hctrl : s.bit (pgSer e) F.SER_CTRL = true) (hshut : s.shutting (pgSer e) = false) (hfill : (s.ser e).fill = none)
    (hfull : 2 ≤ (s.ser e).jobs.length) :
    (s.serInput e l src).sers = s.sers ∧ (s.serInput e l src).bit (pgSer e) F.SER_ERR_STAT_IN_OVERRUN = true ∧
      Counts s (s.serInput e l src) (pgSer e) F.SER_DISCARD_CNT ∧ DataKept s (s.serInput e l src) := by
  rw [serInput_overrun hw hctrl hshut hfill hfull]
  refine ⟨by simp, bit_fault _ _ _ _ _ _ rfl (by decide) (by decide), ?_, by simp [DataKept]⟩
  rw [Counts, rf_fault_apart _ _ _ _ _ _ _ (.inl ⟨by decide, rfl⟩) (.inl ⟨by decide, rfl⟩), rf_bump _ _ ⟨rfl, rfl⟩]

/-! ### Decoders -/

variable {r : SerRun} {h : SerHdr}

theorem gives_ldpc (hready : (s.ser e).ready 1 = some (r, h)) :
    Gives (.ldpc e false) s fun t => (∃ rc, (t.ser e).run = some { r with rec? := some rc }) ∧ (t.ser e).sets = (s.ser e).sets ∧
      t.rf (pgSer e) F.SER_CB_CNT = min (s.rf (pgSer e) F.SER_CB_CNT + h.b6) 0xFFFFFFFF ∧ DataKept s t := by
  obtain ⟨cbs, iters, early, rc, poison, hlen, hform⟩ := serLdpc_form hready
  obtain ⟨hser, hmem, htags⟩ := serDecoded_ser (s.ldpcCounted e cbs iters early) e r rc poison
  obtain ⟨hsers, hmem', htags'⟩ := ldpcCounted_stays s e cbs iters early
  refine .of hform rfl ⟨⟨rc, by rw [hser]⟩, by rw [hser, ser_of_sers hsers], ?_, hmem.trans hmem', htags.trans htags'⟩
  rw [rf_serDecoded (by decide) (by decide) (by decide), rf_ldpcCounted_cbCnt, hlen]

theorem gives_polar (hready : (s.ser e).ready 2 = some (r, h)) :
    Gives (.polar e false) s fun t => (∃ rc, (t.ser e).run = some { r with rec? := some rc }) ∧ (t.ser e).sets = (s.ser e).sets ∧
      Counts s t (pgSer e) F.SER_CB_CNT ∧ DataKept s t := by
  obtain ⟨cb, rc, poison, hform⟩ := serPolar_form hready
  obtain ⟨hser, hmem, htags⟩ := serDecoded_ser (s.serBlocks e [cb]) e r rc poison
  obtain ⟨hsers, hmem', htags'⟩ := serBlocks_stays s e [cb]
  refine .of hform rfl ⟨⟨rc, by rw [hser]⟩, by rw [hser, ser_of_sers hsers], ?_, hmem.trans hmem', htags.trans htags'⟩
  exact (rf_serDecoded (by decide) (by decide) (by decide)).trans (rf_serBlocks_cbCnt s e [cb])

theorem gives_wsetLoad (hready : (s.ser e).ready 4 = some (r, h)) (htag : Tag.poison h.tag = false)
    (hlines : (jobLines r.job 1 (h.inLines - 1)).2 = false) :
    Gives (.wsetLoad e false) s fun t => (∃ rc, (t.ser e).run = some { r with rec? := some rc }) ∧
      ((t.ser e).set h.wset).active = !((s.ser e).set h.wset).active ∧ ((t.ser e).set h.wset).owner = some (Tag.tenant h.tag) ∧
      ((t.ser e).set h.wset).loaded = true ∧ ((t.ser e).set h.wset).graph = bits h.flags 1 0 ∧
      Counts s t (pgSer e) F.SER_WSET_LOAD_CNT ∧ DataKept s t := by
  obtain ⟨w, rc, hform, hactive, howner, hloaded, hgraph⟩ := serWset_form hready htag hlines
  obtain ⟨hser, hmem, htags⟩ := serDecoded_ser (s.wsetLoaded e h.wset w) e r rc false
  obtain ⟨hmem', htags'⟩ := wsetLoaded_data s e h.wset w
  have hset : (((s.wsetLoaded e h.wset w).serDecoded e r rc false false).ser e).set h.wset = w := by
    rw [hser]
    exact wsetLoaded_set ..
  refine .of hform rfl ⟨⟨rc, by rw [hser]⟩, ?_, ?_, ?_, ?_, ?_, hmem.trans hmem', htags.trans htags'⟩
  · rw [hset, hactive]
  · rw [hset, howner]
  · rw [hset, hloaded]
  · rw [hset, hgraph]
  · exact (rf_serDecoded (by decide) (by decide) (by decide)).trans (wsetLoaded_counts ..)

end

/-! ### The statement -/

/-- Settles O27: each command of an engine in its cases, by what the engine's operation leaves. -/
theorem seracJobs : Obligations.SeracJobs := by
  refine ⟨fun e s => ⟨fun d tag hd hw => ⟨fun hctrl hshut hfill => ⟨fun hroom hone => ?single, fun hroom hmore => ?first,
    fun hfull => ?overrun⟩, fun hctrl => ?closed⟩, fun j js hrun hjobs hw => ?start, fun r rc c hrun hrec => ?ended,
    fun rc rest l hout hline => ?read, fun a v hready => ?clear⟩, fun e s r h => ⟨gives_ldpc, gives_polar,
    fun hready htag hparts hcrc => ?tbCheck, gives_wsetLoad⟩⟩
  case single =>
    have hinput := (serInput_first (l := { data := d, tag := tag }) (src := none) hw hctrl hshut hfill hroom).trans (if_pos hone)
    exact .of hinput (exec_seracInputLine hd) ⟨by rw [ser_setSer], by rw [ser_setSer], setSer_mem .., setSer_tags ..⟩
  case first =>
    have hinput := (serInput_first (l := { data := d, tag := tag }) (src := none) hw hctrl hshut hfill hroom).trans
      (if_neg (Nat.not_le.2 hmore))
    exact .of hinput (exec_seracInputLine hd) ⟨by rw [ser_setSer], by rw [ser_setSer], setSer_mem .., setSer_tags ..⟩
  case overrun =>
    exact ⟨_, exec_seracInputLine hd, serInput_overrun_keeps hw hctrl hshut hfill hfull⟩
  case closed =>
    exact .of (serInput_closed hw hctrl) (exec_seracInputLine hd) ⟨bump_sers .., rf_bump _ _ ⟨rfl, rfl⟩, bump_mem .., bump_tags ..⟩
  case start =>
    obtain ⟨hser, hdata⟩ := serStart_ser hrun hjobs hw
    exact ⟨_, rfl, by rw [hser], by rw [hser], serStart_jobId hrun hjobs hw, serStart_refuses hrun hjobs hw, hdata⟩
  case ended =>
    obtain ⟨hser, hdata⟩ := serEnd_ser (cycles := c.toNat) hrun hrec
    exact .of rfl rfl ⟨by rw [hser], by rw [hser, queued_eq], serEnd_overrun hrun hrec, serEnd_counts hrun hrec, hdata⟩
  case read =>
    have hnext : ((s.ser e).out.head?.map (·.next)).getD 0 = rc.next := by rw [hout]; rfl
    have hexec : exec (.seracRecordRead e) s = .next ((s.setSer e { s.ser e with
        out := if rc.lines.length ≤ rc.next + 1 then rest else { rc with next := rc.next + 1 } :: rest }).answer l.data
          (Tag.poison l.tag)) := by
      rw [show exec (.seracRecordRead e) s = execSeracRecordRead e s from rfl, execSeracRecordRead, hnext, serRead_next hout hline]
    exact .of rfl hexec ⟨⟨rfl, rfl⟩, by rw [ser_of_sers (answer_sers ..), ser_setSer], by simp [DataKept]⟩
  case clear =>
    have hser : (s.wrWsetClr e v).ser e = { s.ser e with clr := (s.ser e).clr ||| F.SER_WSET_CLR.of v } := ser_setSer ..
    exact .of (if_pos hready) rfl ⟨congrArg SerSt.clr hser, (congrArg SerSt.sets hser :), rfl, rfl⟩
  case tbCheck =>
    obtain ⟨hser, hdata⟩ := serDecoded_ser s e r (mkRec h false { status := tbCheckStatus r h, ncb := h.b6 } []) false
    exact .of (serTbCheck_clean hready htag hparts hcrc) rfl ⟨congrArg SerSt.run hser, hdata⟩

end Sys2Proof.Machine
end

section
/-! SUPPORT. Tests: states that meet the hypotheses of the statement on Serac, at the boundaries that it names. -/

namespace Sys2Proof.Tests

open Sys2Proof.Machine

/-- Engine 3 is ready and takes input, in a given state. -/
def serIn (x : SerSt) : State := ((State.reset.wf (pgSer 3) F.PAGE_STAT_READY 1).wf (pgSer 3) F.SER_CTRL 1).setSer 3 x

/-- The header line of job 9 of tenant 2 (R324): its first eight bytes and IN_LINES. -/
def serHead (kind flags w2 b4 b5 b6 wset inLines : Nat) : TaggedLine :=
  { data := sized 64 ([kind, flags, w2, 0, b4, b5, b6, wset, inLines, 0, 0, 0, 0, 0, 0, 0, 9].map (BitVec.ofNat 8))
    tag := mkTag false false false 0 2 0 0 0 0 }

/-- Headers of a job of three lines, and of one of a kind that does not exist. -/
def tbHead : TaggedLine := serHead 3 0x10 0 0 0 2 0 3
def badHead : TaggedLine := serHead 9 0 0 0 0 0 0 1

/-- A line of zeros, but for its byte 15. -/
def serLine (b15 : Nat) : TaggedLine :=
  { data := sized 64 (List.replicate 15 0 ++ [BitVec.ofNat 8 b15]), tag := mkTag false false false 0 2 0 0 0 0 }

/-- One code block of base graph 1 with Z 2 and four rows, one iteration. -/
def ldpcJob : SerJob := { lines := [serHead 1 0 2 4 1 1 0 2, serLine 0] }

/-- A block of 32 positions with 12 bits, 32 received. -/
def polarJob : SerJob := { lines := [serHead 2 0 12 32 0 5 0 2, serLine 0] }

/-- The first and the last part of a transport block with a CRC of 16 bits. -/
def tbJob : SerJob := { lines := [tbHead, serLine 0x12, serLine 0x14] }

/-- A load of set 15 for base graph 2. -/
def wsetJob : SerJob := { lines := serHead 4 2 0 0 0 0 15 78 :: List.replicate 77 (serLine 0) }

/-- A job whose one line is complete, of no kind. -/
def badJob : SerJob := { lines := [badHead] }

/-! ### Input -/

/-- A second job of one line. -/
theorem test_serac_line : ∃ t, exec (.seracInputLine 3 badHead.data badHead.tag)
    (serIn { jobs := [tbJob] }) = .next t ∧ (t.ser 3).jobs = [tbJob, badJob] := by
  obtain ⟨hline, -⟩ := seracJobs.1 3 (serIn { jobs := [tbJob] })
  obtain ⟨hopen, -⟩ := hline badHead.data badHead.tag (by decide +kernel) (by decide +kernel)
  obtain ⟨hsingle, -⟩ := hopen (by decide +kernel) (by decide +kernel) (by decide +kernel)
  obtain ⟨t, ht, hjobs, -⟩ := hsingle (by decide +kernel) (by decide +kernel)
  exact ⟨t, ht, hjobs⟩

/-- The first line of a job of three. -/
theorem test_serac_first : ∃ t, exec (.seracInputLine 3 tbHead.data tbHead.tag) (serIn {}) = .next t ∧
    (t.ser 3).jobs = [] ∧ (t.ser 3).fill = some { lines := [tbHead] } := by
  obtain ⟨hline, -⟩ := seracJobs.1 3 (serIn {})
  obtain ⟨hopen, -⟩ := hline tbHead.data tbHead.tag (by decide +kernel) (by decide +kernel)
  obtain ⟨-, hfirst, -⟩ := hopen (by decide +kernel) (by decide +kernel) (by decide +kernel)
  obtain ⟨t, ht, hjobs, hfill, -⟩ := hfirst (by decide +kernel) (by decide +kernel)
  exact ⟨t, ht, hjobs, hfill⟩

/-- Two jobs wait. -/
def serWaits : State := serIn { jobs := [tbJob, badJob] }

/-- There is no third. -/
theorem test_serac_overrun : ∃ t, exec (.seracInputLine 3 (serLine 0).data (serLine 0).tag) serWaits = .next t ∧
    t.sers = serWaits.sers ∧ t.bit (pgSer 3) F.SER_ERR_STAT_IN_OVERRUN = true ∧
    t.rf (pgSer 3) F.SER_DISCARD_CNT = 1 := by
  obtain ⟨hline, -⟩ := seracJobs.1 3 serWaits
  obtain ⟨hopen, -⟩ := hline (serLine 0).data (serLine 0).tag (by decide +kernel) (by decide +kernel)
  obtain ⟨-, -, hoverrun⟩ := hopen (by decide +kernel) (by decide +kernel) (by decide +kernel)
  obtain ⟨t, ht, hsers, hflag, hcounts, -⟩ := hoverrun (by decide +kernel)
  exact ⟨t, ht, hsers, hflag, hcounts.trans (by decide +kernel)⟩

/-- CTRL is 0. -/
def serClosed : State := (serIn {}).wf (pgSer 3) F.SER_CTRL 0

theorem test_serac_closed : ∃ t, exec (.seracInputLine 3 (serLine 0).data (serLine 0).tag) serClosed = .next t ∧
    t.rf (pgSer 3) F.SER_DISCARD_CNT = 1 := by
  obtain ⟨hline, -⟩ := seracJobs.1 3 serClosed
  obtain ⟨-, hclosed⟩ := hline (serLine 0).data (serLine 0).tag (by decide +kernel) (by decide +kernel)
  obtain ⟨t, ht, -, hcounts, -⟩ := hclosed (by decide +kernel)
  exact ⟨t, ht, hcounts.trans (by decide +kernel)⟩

/-! ### Start, end and records -/

/-- A load that passes its checks runs; the other job waits on. -/
theorem test_serac_start : ∃ t, exec (.seracJobStart 3) (serIn { jobs := [wsetJob, badJob] }) = .next t ∧
    (t.ser 3).run = some { job := wsetJob, cause := 0 } ∧ (t.ser 3).jobs = [badJob] ∧ t.rf (pgSer 3) F.SER_JOB_ID = 9 := by
  obtain ⟨-, hstart, -⟩ := seracJobs.1 3 (serIn { jobs := [wsetJob, badJob] })
  obtain ⟨t, ht, hrun, hjobs, hid, -⟩ := hstart wsetJob [badJob] (by decide +kernel) (by decide +kernel) (by decide +kernel)
  exact ⟨t, ht, hrun.trans (by decide +kernel), hjobs, hid.trans (by decide +kernel)⟩

/-- A job of no kind starts with cause 1. -/
theorem test_serac_refuses : ∃ t, exec (.seracJobStart 3) (serIn { jobs := [badJob] }) = .next t ∧
    t.bit (pgSer 3) F.SER_ERR_STAT_JOB_BAD = true ∧ t.rf (pgSer 3) F.SER_BAD_CAUSE = 1 := by
  obtain ⟨-, hstart, -⟩ := seracJobs.1 3 (serIn { jobs := [badJob] })
  obtain ⟨t, ht, -, -, -, hrefused, -⟩ := hstart badJob [] (by decide +kernel) (by decide +kernel) (by decide +kernel)
  obtain ⟨hflag, hcause⟩ := hrefused (by decide +kernel)
  exact ⟨t, ht, hflag, hcause.trans (by decide +kernel)⟩

/-- A record of one line, known by that line. -/
def oneLine (b15 : Nat) : SerRec := { lines := [serLine b15] }

/-- A refused job ends with four records unread. -/
def serFull : State :=
  serIn { run := some { job := badJob, cause := 1 }, out := [oneLine 1, oneLine 2, oneLine 3, oneLine 4] }

/-- The fifth record discards the oldest. -/
theorem test_serac_end : ∃ t, exec (.seracJobEnd 3 70) serFull = .next t ∧
    (t.ser 3).out = [oneLine 2, oneLine 3, oneLine 4, badRec (serHdr badJob) 1] ∧ t.bit (pgSer 3) F.SER_ERR_STAT_OUT_OVERRUN = true ∧
    t.rf (pgSer 3) F.SER_JOB_CNT = 1 := by
  obtain ⟨-, -, hend, -⟩ := seracJobs.1 3 serFull
  obtain ⟨t, ht, -, hout, hoverrun, hcounts, -⟩ := hend { job := badJob, cause := 1 } (badRec (serHdr badJob) 1) 70
    (by decide +kernel) rfl
  exact ⟨t, ht, hout.trans (by decide +kernel), hoverrun (by decide +kernel), hcounts.trans (by decide +kernel)⟩

/-- The only line of the oldest record is read, and frees it. -/
theorem test_serac_read : ∃ t, exec (.seracRecordRead 3) serFull = .next t ∧ t.rsp = some (serLine 1).data ∧
    (t.ser 3).out = [oneLine 2, oneLine 3, oneLine 4] := by
  obtain ⟨-, -, -, hread, -⟩ := seracJobs.1 3 serFull
  obtain ⟨t, ht, ⟨hrsp, -⟩, hout, -⟩ := hread (oneLine 1) [oneLine 2, oneLine 3, oneLine 4] (serLine 1) (by decide +kernel) rfl
  exact ⟨t, ht, hrsp, hout⟩

/-- The first and the last set are marked. -/
theorem test_serac_clear : ∃ t, exec (.serWsetClr (.fw 0) 3 0x8000) (serIn { clr := 1 }) = .next t ∧ (t.ser 3).clr = 0x8001 := by
  obtain ⟨-, -, -, -, hclear⟩ := seracJobs.1 3 (serIn { clr := 1 })
  obtain ⟨t, ht, hclr, -⟩ := hclear (.fw 0) 0x8000 (by decide +kernel)
  exact ⟨t, ht, hclr.trans (by decide +kernel)⟩

/-! ### Decoding -/

/-- A job runs that passed its checks. -/
def serRuns (j : SerJob) : State := serIn { run := some { job := j, cause := 0 } }

/-- An LDPC job runs, and the counter of code blocks is at its largest value. -/
def serCounted : State := (serRuns ldpcJob).wf (pgSer 3) F.SER_CB_CNT 0xFFFFFFFF

/-- The counter stays where it is. -/
theorem test_serac_ldpc : ∃ t, exec (.ldpc 3 false) serCounted = .next t ∧
    t.rf (pgSer 3) F.SER_CB_CNT = 0xFFFFFFFF := by
  obtain ⟨hldpc, -⟩ := seracJobs.2 3 serCounted { job := ldpcJob, cause := 0 } (serHdr ldpcJob)
  obtain ⟨t, ht, -, -, hcnt, -⟩ := hldpc (by decide +kernel)
  exact ⟨t, ht, hcnt.trans (by decide +kernel)⟩

theorem test_serac_polar : ∃ t, exec (.polar 3 false) (serRuns polarJob) = .next t ∧ t.rf (pgSer 3) F.SER_CB_CNT = 1 := by
  obtain ⟨-, hpolar, -⟩ := seracJobs.2 3 (serRuns polarJob) { job := polarJob, cause := 0 } (serHdr polarJob)
  obtain ⟨t, ht, -, -, hcounts, -⟩ := hpolar (by decide +kernel)
  exact ⟨t, ht, hcounts.trans (by decide +kernel)⟩

/-- Parts without an error, whose remainders combine to zero. -/
theorem test_serac_tbCheck : ∃ t, exec (.tbCheck 3 false) (serRuns tbJob) = .next t ∧
    (t.ser 3).run = some { job := tbJob, cause := 0, rec? := some (mkRec (serHdr tbJob) false { status := 0, ncb := 2 } []) } := by
  obtain ⟨-, -, hcheck, -⟩ := seracJobs.2 3 (serRuns tbJob) { job := tbJob, cause := 0 } (serHdr tbJob)
  obtain ⟨t, ht, hrun, -⟩ := hcheck (by decide +kernel) (by decide +kernel) (by decide +kernel) (by decide +kernel)
  exact ⟨t, ht, hrun.trans (by decide +kernel)⟩

/-- The last set goes to its other bank, for tenant 2 and base graph 2. -/
theorem test_serac_wset : ∃ t, exec (.wsetLoad 3 false) (serRuns wsetJob) = .next t ∧ ((t.ser 3).set 15).active = true ∧
    ((t.ser 3).set 15).owner = some 2 ∧ ((t.ser 3).set 15).graph = 2 := by
  obtain ⟨-, -, -, hload⟩ := seracJobs.2 3 (serRuns wsetJob) { job := wsetJob, cause := 0 } (serHdr wsetJob)
  obtain ⟨t, ht, -, hactive, howner, -, hgraph, -⟩ := hload (by decide +kernel) (by decide +kernel) (by decide +kernel)
  have hset : (serHdr wsetJob).wset = 15 := by decide +kernel
  rw [hset] at hactive howner hgraph
  exact ⟨t, ht, hactive.trans (by decide +kernel), howner.trans (by decide +kernel), hgraph.trans (by decide +kernel)⟩

end Sys2Proof.Tests
end

section
/-! SUPPORT. Recording across a STEP of time base 0: an empty record ring, what the STEP of the pulse generators leaves of it, and the entry of a
slot that closes. -/

namespace Sys2Proof.Machine

/-! ### The record ring (R317, R318) -/

/-- The registers of the record ring: REC_CTRL, REC_BASE, REC_SIZE and REC_WPTR. -/
def RingRegs (p k : Nat) : Prop := p = pgMor 1 ∧ k ∈ [0x040, 0x044, 0x048, 0x04C]

theorem clear_ringRegs {g o : Nat} (hg : g ≠ pgMor 1 := by decide) (ho : o < 4096 := by decide) : Clear RingRegs g o := by
  rintro p k ⟨rfl, hk⟩
  have hk' : k < 4096 := by
    simp only [List.mem_cons, List.not_mem_nil, or_false] at hk
    omega
  exact regIdx_ne_page hg.symm hk' ho

/-- Recording is on, and the ring of 1 MiB at address 0 is empty. -/
structure EmptyRing (s : State) : Prop where
  on : s.bit (pgMor 1) F.REC_CTRL_REC_EN = true
  base : s.rf (pgMor 1) F.REC_BASE = 0
  size : s.rf (pgMor 1) F.REC_SIZE = 1
  wptr : s.rf (pgMor 1) F.REC_WPTR = 0
  run : s.mor.recStopped = false

theorem EmptyRing.of_stands {r s : State} (h : EmptyRing r) (hs : Stands RingRegs r s) (hm : s.mor.recStopped = r.mor.recStopped) :
    EmptyRing s where
  on := (hs.bit ⟨rfl, by decide⟩).trans h.on
  base := (hs.rf ⟨rfl, by decide⟩).trans h.base
  size := (hs.rf ⟨rfl, by decide⟩).trans h.size
  wptr := (hs.rf ⟨rfl, by decide⟩).trans h.wptr
  run := hm.trans h.run

/-- The first byte that a channel writes stands in memory. -/
theorem firnWrite_firstByte (s : State) (a : Nat) (b : Byte) (bs : Bytes) (wline int : Bool) :
    (s.firnWrite a (b :: bs) wline int).rdByte a = b :=
  (List.cons.inj (drcWrite_stores _ a int (b :: bs)).1).1

/-- An entry that fits goes to the ring, from the write pointer on (R318). -/
theorem record_mem {s : State} {hdr : Nat → Nat → Bytes} {payload : List Bytes} (hon : s.bit (pgMor 1) F.REC_CTRL_REC_EN = true)
    (hrun : s.mor.recStopped = false) (hfits : s.rf (pgMor 1) F.REC_WPTR + 1 + payload.length ≤ recLines s) :
    (s.record hdr payload).mem = (s.ringWrite (recLines s) (s.rf (pgMor 1) F.REC_WPTR)
      (sized 64 (hdr payload.length s.mor.recSeq) :: payload)).mem := by
  have hpos : recLines s ≠ 0 := by omega
  unfold State.record
  extract_lets g n w wrap s1
  rw [if_neg (by simp [g, n, hon, hrun, hpos]), if_neg fun h => absurd h.2 (Nat.not_lt.2 hfits)]
  rfl

/-- An entry without payload begins at the start of the empty ring with the first byte of its header. -/
theorem record_firstByte {s : State} {hdr : Nat → Nat → Bytes} {b : Byte} {bs : Bytes} (h : EmptyRing s)
    (hb : hdr 0 s.mor.recSeq = b :: bs) : (s.record hdr []).rdByte 0 = b := by
  have hlines : recLines s = 16384 := by simp [recLines, h.size]
  have hfits : s.rf (pgMor 1) F.REC_WPTR + 1 + ([] : List Bytes).length ≤ recLines s := by
    rw [h.wptr, hlines]
    decide
  have hline : s.ringWrite (recLines s) 0 [sized 64 (hdr 0 s.mor.recSeq)] =
      s.firnWrite 0 (b :: (bs.take 63 ++ zeros (63 - bs.length))) false true := by
    simp [State.ringWrite, recBase, h.base, hb, sized]
  rw [rdByte_of_mem (record_mem h.on h.run hfits), h.wptr, List.length_nil, hline]
  exact firnWrite_firstByte s 0 b _ false true

/-! ### Closing a slot without streams (R304, R318) -/

theorem setOpen_stands {r s : State} (h : Stands RingRegs r s) (xs : List MorSlot) : Stands RingRegs r (s.setOpen xs) :=
  .wf (h.upd rfl rfl rfl rfl) clear_ringRegs

/-- The slot of a recorded cell without a stream leaves the entry that its TYPE begins. -/
theorem closeSlot_firstByte {s : State} {x : MorSlot} (h : EmptyRing s) (hx : x.streams = []) (hr : (cellOf x.words).recd = true)
    (ha : (cellOf x.words).adapt = false) : (s.closeSlot x).rdByte 0 = 1 := by
  unfold State.closeSlot
  extract_lets +onlyGivenNames g c slot xs prb key al s1 mask d dmrs level held outs recXs m1 m2 s2 holders s3 s4 lines s5 s6 s7 s8
  have hxs : xs = [] := congrArg (List.map _) hx
  have houts : outs = [] := congrArg (List.map _) hxs
  have hlines : lines = [] := by simp [lines, houts, slotLines, infoLines, ceilDiv, toLines]
  have hs1 : Stands RingRegs s s1 := .both (.raise (.refl s) clear_ringRegs clear_ringRegs) (.refl s)
  have hs2 : Stands RingRegs s s2 := setOpen_stands (s := s1.setMor m2) (hs1.upd rfl rfl rfl rfl) _
  have hrun : s2.mor.recStopped = s.mor.recStopped := by
    have hmor : s1.mor = s.mor := (apply_ite State.mor _ _ _).trans (by rw [raise_mor, ite_self])
    show m1.recStopped = _
    simp [m1, hxs, hmor]
  have hs3 : s3 = s2 := if_pos (by simp [holders, houts])
  have hs4 : s4 = s3 := by simp [s4, houts, State.morOvf]
  have hs6 : s6 = s2 :=
    calc s6 = s5 := if_neg fun hkept => hkept.2 hlines
      _ = s4 := if_pos hlines
      _ = s2 := hs4.trans hs3
  have hs7 : s7 = s2.record (slotHdr c slot (x.n * c.period) mask dmrs) [] := by
    have hpayload : slotPayload prb recXs = [] := by simp [recXs, hxs, slotPayload, wholeLines, ceilDiv]
    rw [← hs6, ← hpayload]
    exact if_pos hr
  have hs8 : s8 = s7 := if_neg (by rw [ha]; decide)
  rw [hs8, hs7, hxs]
  exact record_firstByte (h.of_stands hs2 hrun) rfl

/-! ### What a STEP does before it closes slots (R406) -/

theorem setTb_stands {r s : State} (h : Stands RingRegs r s) (i : Nat) (t : TimeBase) : Stands RingRegs r (s.setTb i t) := by
  have hclear : Clear RingRegs (pgTb i) 0x064 := clear_ringRegs (by unfold pgTb pgMor; omega)
  exact .wf (.wf (h.upd rfl rfl rfl rfl) hclear) hclear

theorem pgStep_mor (s : State) (g new : Nat) : (s.pgStep g new).mor = s.mor := by
  unfold State.pgStep State.setArmed State.setPg
  dsimp only
  repeat' split
  all_goals simp

theorem setArmed_stands {r s : State} {g : Nat} (hg : g < 8) (on : Bool) (h : Stands RingRegs r s) : Stands RingRegs r (s.setArmed g on) := by
  have hpg : Clear RingRegs pgPg (F.PG_CMD_ARMED g).off := clear_ringRegs (by decide) (by simp only [F.PG_CMD_ARMED]; omega)
  have hsnap : Clear RingRegs pgSnap 0x044 := clear_ringRegs
  exact .both (.wf (.wf (.wf h hpg) hsnap) hsnap) (.wf h hpg)

theorem pgStep_stands {r s : State} {g : Nat} (hg : g < 8) (new : Nat) (h : Stands RingRegs r s) : Stands RingRegs r (s.pgStep g new) := by
  have hraise : Stands RingRegs r (s.raise pgPg (F.PG_CMD_MISSED g)) :=
    .raise h (clear_ringRegs (by decide) (by simp only [F.PG_CMD_MISSED]; omega)) clear_ringRegs
  unfold State.pgStep
  extract_lets x missed s1
  have hmissed : Stands RingRegs r s1 := .both hraise h
  exact .both (setArmed_stands hg false hmissed) (hmissed.upd rfl rfl rfl rfl)

theorem pgSteps_stand {s : State} {l : List Nat} (hl : ∀ g ∈ l, g < 8) (new : Nat) :
    Stands RingRegs s (l.foldl (fun s g => s.pgStep g new) s) ∧ (l.foldl (fun s g => s.pgStep g new) s).mor = s.mor :=
  List.foldlRecOn (motive := fun u => Stands RingRegs s u ∧ u.mor = s.mor) l _ ⟨.refl s, rfl⟩ fun _ hu g hg =>
    ⟨pgStep_stands (hl g hg) new hu.1, (pgStep_mor _ g new).trans hu.2⟩

/-! ### A STEP of time base 0 (R304, R401) -/

theorem morStep_firstByte {s : State} {x : MorSlot} (h : EmptyRing s) (hslots : s.mor.slots = [x]) (hx : x.streams = [])
    (hr : (cellOf x.words).recd = true) (ha : (cellOf x.words).adapt = false) : s.morStep.rdByte 0 = 1 := by
  have hmem : s.morStep.mem = (s.closeSlot x).mem := by simp [State.morStep, hslots]
  rw [rdByte_of_mem hmem, closeSlot_firstByte h hx hr ha]

/-- A STEP of time base 0 closes the one slot that is open. -/
theorem applyStep_firstByte {s : State} {st : TbStep} {x : MorSlot} (h : EmptyRing s) (hst : (s.timeBase 0).step = some st)
    (hslots : s.mor.slots = [x]) (hx : x.streams = []) (hr : (cellOf x.words).recd = true) (ha : (cellOf x.words).adapt = false) :
    (s.applyStep 0).rdByte 0 = 1 := by
  unfold State.applyStep
  extract_lets +onlyGivenNames t
  split
  case h_1 hnone => exact absurd (hst.symm.trans hnone) (by simp)
  extract_lets +onlyGivenNames g v n s1 s2 s3 s4
  have hs1 : Stands RingRegs s s1 := .wf (setTb_stands (.refl s) 0 n) clear_ringRegs
  have hs2 : Stands RingRegs s s2 := .bump (.raise hs1 clear_ringRegs clear_ringRegs) clear_ringRegs
  have hm2 : s2.mor = s.mor := by simp [s2, s1, State.setTb]
  obtain ⟨hfold, hmfold⟩ : Stands RingRegs s2 s3 ∧ s3.mor = s2.mor :=
    pgSteps_stand (fun k hk => List.mem_range.1 (List.mem_filter.1 hk).1) _
  have hring : EmptyRing (s3.wf pgTs F.TS_MASTER_PORT_VALID 0) :=
    h.of_stands (.wf (hs2.trans hfold) clear_ringRegs) (by rw [wf_mor, hmfold, hm2])
  have hopen : (s3.wf pgTs F.TS_MASTER_PORT_VALID 0).mor.slots = [x] := by rw [wf_mor, hmfold, hm2, hslots]
  have hmem : ∀ c : Prop, ∀ _ : Decidable c, (if c then s4.setMst { s4.mst with stepped := true } else s4).mem = s4.mem :=
    fun c _ => (apply_ite State.mem _ _ _).trans (ite_self _)
  rw [if_pos rfl, rdByte_of_mem (hmem _ _), morStep_firstByte hring hopen hx hr ha]

end Sys2Proof.Machine
end

section
/-! PROOFS. A STEP of time base 0 that closes a recorded slot. -/

namespace Sys2Proof.Machine

/-- An open slot of a cell of mode 1 whose REC_EN is set (R295). It has no stream, so that its record is the header line alone. -/
def recordedSlot : MorSlot := { cell := 0, n := 0, words := [0x4000, 0x10064], streams := [] }

/-- A STEP by an offset of 0, which R400 gives as the way to end holdover at the present time. -/
def stepByZero : TbStep := { offset := true, sec := 0, ns := 0, frac := 0 }

/-- Recording has been set up, in a ring of 1 MiB at address 0 of a channel that is READY (R318). -/
def recordingOn : State :=
  let s := State.reset.wf (pgDrc (chanOf 0)) F.PAGE_STAT_READY 1
  let s := ((s.wf (pgMor 1) F.REC_BASE 0).wf (pgMor 1) F.REC_SIZE 1).wf (pgMor 1) F.REC_WPTR 0
  s.wf (pgMor 1) F.REC_CTRL_REC_EN 1

/-- The recorded slot is open, and the STEP waits on time base 0. -/
def stepWhileRecording : State :=
  let s := recordingOn.setOpen [recordedSlot]
  s.setTb 0 { s.timeBase 0 with step := some stepByZero }

theorem recordingOn_emptyRing : EmptyRing recordingOn where
  on := bit_wf_same _ _ _ _ (by decide) rfl
  base := by
    unfold recordingOn
    rw [rf_wf_apart _ _ _ _ (.inl ⟨by decide, rfl⟩), rf_wf_apart _ _ _ _ (.inl ⟨by decide, rfl⟩),
      rf_wf_apart _ _ _ _ (.inl ⟨by decide, rfl⟩), rf_wf_same _ _ _ _ (by decide)]
    rfl
  size := by
    unfold recordingOn
    rw [rf_wf_apart _ _ _ _ (.inl ⟨by decide, rfl⟩), rf_wf_apart _ _ _ _ (.inl ⟨by decide, rfl⟩), rf_wf_same _ _ _ _ (by decide)]
    rfl
  wptr := by
    unfold recordingOn
    rw [rf_wf_apart _ _ _ _ (.inl ⟨by decide, rfl⟩), rf_wf_same _ _ _ _ (by decide)]
    rfl
  run := rfl

theorem stepWhileRecording_emptyRing : EmptyRing stepWhileRecording :=
  recordingOn_emptyRing.of_stands (setTb_stands (setOpen_stands (.refl _) _) 0 _) rfl

theorem stepWhileRecording_step : (stepWhileRecording.timeBase 0).step = some stepByZero := by
  unfold stepWhileRecording State.setTb State.timeBase
  rw [wf_tb, wf_tb, Tab.at_set_same]

/-- The command applies the STEP that waits, if one does (R401). -/
theorem exec_tbStepApply (i : Fin 4) (s : State) : exec (.tbStepApply i) s = .next (s.applyStep i) := rfl

/-- Refutes O38: memory is not kept where a STEP of time base 0 takes effect. The STEP closes every open slot (R304), and the slot of a cell that
is recorded then leaves its entry in the record ring, which lies in DRAM (R317, R318). -/
theorem not_timeBases : ¬ Obligations.TimeBases := by
  unfold Obligations.TimeBases
  intro h
  obtain ⟨-, -, hstep, -⟩ := h (.fw 0) 0 stepWhileRecording
  obtain ⟨t, ht, -, -, -, -, -, hmem, -⟩ := hstep stepByZero stepWhileRecording_step
  obtain rfl : stepWhileRecording.applyStep 0 = t := Host.Outcome.next.inj ((exec_tbStepApply 0 _).symm.trans ht)
  have hentry : (stepWhileRecording.applyStep 0).rdByte 0 = 1 :=
    applyStep_firstByte stepWhileRecording_emptyRing stepWhileRecording_step rfl rfl (by decide) (by decide)
  have hkept : (stepWhileRecording.applyStep 0).rdByte 0 = 0 := rdByte_of_mem hmem 0
  rw [hentry] at hkept
  exact absurd hkept (by decide)

end Sys2Proof.Machine
end
